-- ==== Sys2Proof/Word.lean ====
section
/-! DEFINITION. The word types of the model: bytes, machine words, the numbers that name the parts of the
package, and the small closed sets of names the commands carry as operands. -/

namespace Sys2Proof

abbrev Byte := BitVec 8
abbrev W32 := BitVec 32
abbrev W64 := BitVec 64
/-- A context number, 0 to 4,095 (R300). -/
abbrev Ctx := BitVec 12
/-- A ring number (R32, R335). -/
abbrev RingNo := BitVec 16
/-- A package-wide grate number g = 24 n + i (R15). -/
abbrev GrateNo := Fin 96
/-- A hearth die H0 to H3 (R15). -/
abbrev DieNo := Fin 4
/-- A chimney-core hart, eight to a cluster (01, R18). -/
abbrev HartNo := Fin 96
/-- A client-host link (R29). -/
abbrev HostLinkNo := Fin 4
/-- A flue link (R19). -/
abbrev FlueLinkNo := Fin 18
/-- A group position (R28). -/
abbrev Position := Fin 64
/-- A stream-table entry (R177). -/
abbrev StreamNo := Fin 16384
/-- A 64-byte slot of a ring (R334) or a 64-byte record (R359), bit 0 least significant. -/
abbrev Slot := BitVec 512
/-- A 128-byte line, bit 0 least significant (R11). -/
abbrev LineData := BitVec 1024

/-- Bytes by canonical physical address: main memory under its direct name (R22, R23), near SRAM and scratchpads under
their windows' addresses (R20). A byte that the list does not name reads as zero. -/
abbrev Mem := List Host.Cell

end Sys2Proof
end

