-- ==== Sys2Proof/Formats.lean ====
section
/-! DEFINITION. The names of element formats, output formats, rounding modes and arithmetic operations, as commands
carry them. -/

namespace Sys2Proof

/-- Element formats (Table 2.1, Table 4.4 operand column); MXINT8 is INT8 with exponent -6 (R44). -/
inductive Fmt where
  | e4m3 | e5m2 | e3m2 | e2m3 | e2m1 | int8 | mxint8 | int4 | bf16 | fp16 | fp32
  deriving DecidableEq, Repr

/-- Output formats of a read-out (R56, Table 4.4 output column). -/
inductive OFmt where
  | fp32 | bf16 | fp16 | e4m3 | e5m2 | int32 | accWord
  deriving DecidableEq, Repr

/-- Rounding modes that round (Table 2.6 without DYN). -/
inductive RMode where
  | rne | rtz | rdn | rup | rmm | sr
  deriving DecidableEq, Repr

/-- Atomic operations (Table 8.9). -/
inductive AOp where
  | add | swap | cas | and | or | xor | min | max | minu | maxu
  deriving DecidableEq, Repr

/-- Functions of the transcendental unit (Table 3.8). -/
inductive TFun where
  | exp2 | exp | log2 | ln | recip | rsqrt | sin | cos | tanh | sigmoid | erf
  deriving DecidableEq, Repr

/-- Comparisons of the vector unit (Table 3.7); `eq` is quiet, the others signal on a NaN. -/
inductive Cmp where
  | eq | lt | le
  deriving DecidableEq, Repr

/-- One vector-unit or transcendental-unit operation (Table 3.7, Table 3.8). The spec names the operations and gives
their command word no layout, so the command carries the operation itself. Register numbers name the 32 vector
registers; the RM field stands beside the operation in the command. `base` is the counter base of an operation that SR may
round (R97). -/
inductive VecOp where
  | add (vd va vb : Fin 32)
  | sub (vd va vb : Fin 32)
  | mul (vd va vb : Fin 32)
  | fma (vd va vb vc : Fin 32)
  | div (vd va vb : Fin 32)
  | sqrt (vd va : Fin 32)
  | minimum (vd va vb : Fin 32)
  | maximum (vd va vb : Fin 32)
  | compare (c : Cmp) (vd va vb : Fin 32)
  | select (vd vm va vb : Fin 32)
  | negate (vd va : Fin 32)
  | absolute (vd va : Fin 32)
  | copySign (vd va vb : Fin 32)
  | convert (fmt : OFmt) (sat : Bool) (base : W64) (vd va : Fin 32)
  | unconvert (fmt : OFmt) (base : W64) (vd va : Fin 32)
  | quantise (fmt : Fmt) (base : W64) (vd vs va : Fin 32)
  | reduceSum (tree : Bool) (vd va : Fin 32) (lane : Fin 512)
  | reduceMax (tree : Bool) (vd va : Fin 32) (lane : Fin 512)
  | accMerge (vd va vb : Fin 32)
  | accRead (fmt : OFmt) (sat : Bool) (t : BitVec 8) (base : W64) (vd va : Fin 32)
  | transc (f : TFun) (vd va : Fin 32)
  deriving DecidableEq, Repr

/-- The operation of a VEC_OP instruction with its RM field (R96, R97). -/
structure VecInsn where
  rm : BitVec 3
  op : VecOp
  deriving DecidableEq, Repr

/-- An instruction of a tile controller as it issues: its grate, its address and its word. The values of its source
registers come with the command, since the base instructions of RV64IMAC are no commands of this table. -/
structure Site where
  g : GrateNo
  pc : W64
  insn : W32
  deriving DecidableEq, Repr

/-- An atomic instruction of the A extension (R245 to R247). -/
inductive AmoOp where
  | amo (op : AOp)
  | lr
  | sc
  deriving DecidableEq, Repr

/-- The ordering bits of an atomic instruction (R250). -/
structure AmoOrder where
  aq : Bool
  rl : Bool
  deriving DecidableEq, Repr

/-- The CSR instructions of Zicsr: the value written swaps, sets bits or clears bits. -/
inductive CsrOp where
  | swap | set | clear
  deriving DecidableEq, Repr

/-- A CSR instruction: its operation, its CSR, whether its source field makes it write, and the register that takes the old value (R113). -/
structure CsrInsn where
  op : CsrOp
  csr : BitVec 12
  writes : Bool
  rd : Fin 32
  deriving DecidableEq, Repr

/-- An engine that translates its addresses (R301, R612). -/
inductive XAgent where
  | tile (g : GrateNo)
  | copyIn (d : DieNo) (i : Fin 8)
  | copyOut (d : DieNo) (i : Fin 8)
  | mover (d : DieNo) (i : Fin 8)
  | fuller (d : DieNo) (k : Fin 8)
  | dispatch (d : DieNo) (fuller : Bool)
  deriving DecidableEq, Repr

/-- Who executes a FENCE. -/
inductive Actor where
  | core (h : HartNo)
  | tile (p : Site)
  deriving DecidableEq, Repr

/-- Whose store buffer. -/
inductive Holder where
  | core (h : HartNo)
  | tile (g : GrateNo)
  deriving DecidableEq, Repr

/-- Who reaches register and doorbell space (R33, R578); `user` marks a core in user mode. -/
inductive DevAgent where
  | core (h : HartNo) (user : Bool)
  | tile (p : Site)
  | stoker
  | thirun
  deriving DecidableEq, Repr

/-- Who rings a doorbell (R341). -/
inductive BellAgent where
  | core (h : HartNo)
  | tile (p : Site)
  | host (h : HostLinkNo)
  deriving DecidableEq, Repr

/-- Agents outside a grate that reach its window (R330). -/
inductive ExtAgent where
  | engine (x : XAgent)
  | core (h : HartNo)
  | flue (f : FlueLinkNo)
  deriving DecidableEq, Repr

/-- An external access to a scratchpad window. -/
inductive SpadAcc where
  | read (len : Nat)
  | write (data : List Byte)
  | atomic (op : AOp) (wide : Bool) (opnd cmp : W64)
  deriving DecidableEq, Repr

/-- A remote window whose BUSY clears (R139, R435). -/
inductive WinRef where
  | spad (w : Fin 512)
  | inbound (i : Fin 63)
  deriving DecidableEq, Repr

/-- An entry of an array of Table 20.1 whose stored word has become uncorrectable: a scratchpad word, a T1 line, a stream-table entry, an entry
of the set-up state, a memory controller's key table (R563, R565). -/
inductive ArrayUpset where
  | spadWord (g : GrateNo) (word : BitVec 18)
  | t1Line (die : DieNo) (off : BitVec 28)
  | stream (i : StreamNo)
  | ring (r : RingNo)
  | context (c : Ctx)
  | window (w : WinRef)
  | hostWindow (h : HostLinkNo) (i : Fin 64)
  | tally (i : BitVec 12)
  | coefTable (i : Fin 64)
  | keyTable (c : Fin 32)
  deriving DecidableEq, Repr

/-- A caching agent by its sharer bit (Table 9.1). -/
abbrev CacheBit := Fin 14

/-- An agent that does not cache, under the retry protocol (R270); `rings` is the unit that fetches descriptors and writes
records (log 139). -/
inductive RetryAgent where
  | engine (x : XAgent)
  | stream
  | host (h : HostLinkNo)
  | flue (f : FlueLinkNo)
  | rings
  deriving DecidableEq, Repr

/-- Who receives Retry and Grant and sends Done (Table 9.3): an agent that does not cache, or the chimney last-level cache
(Table 9.1). -/
inductive Retrier where
  | agent (a : RetryAgent)
  | lastLevel
  deriving DecidableEq, Repr

/-- Grants carried by Data (Table 9.3). -/
inductive Grant where
  | s | e | m
  deriving DecidableEq, Repr

/-- Responses of a snooped agent (Table 9.3). -/
inductive SnpRsp where
  | rspS (dirty : Bool)
  | rspFwd
  | invAck
  deriving DecidableEq, Repr

/-- What the correcting code finds in a line that a controller reads (R561, R562). -/
inductive EccFind where
  | clean | corrected | uncorrectable
  deriving DecidableEq, Repr

/-- What the header of a received flit says of the flits sent: the last one acknowledged, and whether a replay of the others is asked for
(Table 14.1, R415). -/
structure FlitHdr where
  ack : BitVec 12
  replay : Bool
  deriving DecidableEq, Repr

/-- A received flit before its checks: its kind and its header (R415, R536). -/
structure FlitIn where
  kind : BitVec 2
  hdr : FlitHdr
  deriving DecidableEq, Repr

/-- The IDE streams of a host link (R533, R535). -/
inductive IdeStream where
  | link | selective | cxl
  deriving DecidableEq, Repr

/-- One IDE stream of one host link (R533, R535). -/
structure IdeOf where
  h : HostLinkNo
  stream : IdeStream
  deriving DecidableEq, Repr

/-- The runtime image of a cluster start: its bytes, and whether its signature and version pass (R493). -/
structure RunImage where
  bytes : List Byte
  ok : Bool
  deriving DecidableEq, Repr

/-- What a controller reads of a line from LPDDR6: what the correcting code finds, or a word of its code that the wires to memory gave it,
with this ciphertext and this tag (R508, R531, R561). -/
inductive LineFind where
  | clean | corrected | uncorrectable
  | altered (cipher : BitVec 1024) (tag : BitVec 32)
  deriving DecidableEq, Repr

/-- What the code of the grate's arrays finds while a matrix instruction reads its operands: a scratchpad word corrected, or
one beyond correction, or a weight-store word beyond correction (R87, R116). -/
inductive MatFind where
  | clean | corrected | scratchpad | weights
  deriving DecidableEq, Repr

/-- What the home finds in its own arrays while a request reads them: the line's data beyond correction, or both copies of
its tag (Table 20.1, R564). -/
inductive CacheFind where
  | clean | dataLost | tagsLost
  deriving DecidableEq, Repr

/-- The head of a request packet from another module (R419 to R421, R434): arriving link, sender position and DEPOCH, the
offset within this module's window, and the request's number at the sender. -/
structure Pkt where
  f : FlueLinkNo
  spos : Position
  depoch : BitVec 16
  off : BitVec 38
  id : Nat
  deriving DecidableEq, Repr

/-- Why an ERR came back (R137, R422, R437). -/
inductive FlueErrWhy where
  | refused | noRoute | residue
  deriving DecidableEq, Repr

/-- What mutual attestation found (R536). -/
structure AttestIn where
  chainOk : Bool
  idh : W64
  listed : Bool
  invasive : Bool
  deriving DecidableEq, Repr

/-- Body of FORM-OFFER and JOIN-REQ (Table 19.7); `auth` where it came in a mutually authenticated session. -/
structure OfferMsg where
  gid : W32
  pos : Position
  gpv : BitVec 16
  count : W64
  idh : W64
  auth : Bool
  deriving DecidableEq, Repr

/-- An entry of a TABLE message (Table 19.7, Table 14.9). -/
structure MembIn where
  st : BitVec 2
  epoch : W32
  idh : W64
  deriving DecidableEq, Repr

/-- A side of a bundle: die (4 is the chimney) and bundle number (Table 13.1). -/
structure Side where
  die : Fin 5
  b : Fin 64
  deriving DecidableEq, Repr

/-- MetaValue of a CXL read (Table 9.6). -/
inductive CxlMeta where
  | any | shared | invalid
  deriving DecidableEq, Repr

/-- A host's write to MSI-X state (R375, R380): 8 bytes of BAR4, or the function mask of the MSI-X capability. -/
inductive MsixWrite where
  | table (off : BitVec 16) (value : W64)
  | functionMask (on : Bool)
  deriving DecidableEq, Repr

/-- A host AtomicOp (R371). -/
inductive HostOp where
  | fetchAdd | swap | cas
  deriving DecidableEq, Repr

/-- Supplies of Table 16.6. -/
inductive Supply where
  | feed
  | hearth (d : DieNo)
  | chimney
  | lpddr (d : DieNo)
  deriving DecidableEq, Repr

/-- What the Damper measured in a window (R467, R472): the weighted counts of all activity but the cubes', whose steps the block counts, and
leakage, in watts, and each domain's feed
power in watts (links, memory, cores, protected grates, unprotected grates). -/
structure WindowIn where
  others : Nat
  leakage : Nat
  powers : List Nat
  deriving DecidableEq, Repr

/-- A unit with a governed level (R477). -/
inductive GovUnit where
  | grate (g : GrateNo)
  | cluster (c : Fin 12)
  | die (d : DieNo)
  | chimney
  deriving DecidableEq, Repr

/-- A unit that exceeds its stage's limit (Table 17.1). -/
inductive StageUnit where
  | k0
  | k1
  | k2
  | k3 (d : DieNo)
  | k4 (ch : Fin 128)
  | k5 (c : Fin 12)
  deriving DecidableEq, Repr

/-- Firmware images in the order of Table 17.5, and the pairing manifest. -/
inductive Image where
  | stoker | runtime | microcode | training | manifest
  deriving DecidableEq, Repr

/-- A pairing-manifest entry (R499): versions of Stoker, runtime, microcode and training firmware, steppings, GPV. -/
structure ManEnt where
  stk : BitVec 16
  rt : BitVec 16
  ucode : BitVec 16
  train : BitVec 16
  cstep : Byte
  hstep : Byte
  gpv : BitVec 16
  deriving DecidableEq, Repr

/-- What a training program accumulates in (R460): an exact format, or BF16 or FP16. -/
inductive TrainAcc where
  | exact | bf16 | fp16
  deriving DecidableEq, Repr

/-- A training step as its log has it (Table 15.2, R443): its number, its FP32 loss, its time in µs. -/
structure StepIn where
  step : W64
  loss : W32
  us : W32
  widths : List (BitVec 16)
  deriving DecidableEq, Repr

/-- What the runtime brings to a checkpoint (R440 to R449): the step, the pause, the training group, the bound L, bytes and dies of
the slowest position's snapshot, identity and versions of the module that takes it, its item directory, the steps since the last
training command, the counted failures since whose step was run again, and the program's accumulation. -/
structure CkptIn where
  step : W64
  pauseUs : W32
  members : W64
  lbound : BitVec 16
  bytes : Nat
  dies : Nat
  idh : W64
  vers : W64
  dir : BitVec 52
  steps : List StepIn
  reruns : Nat
  accum : TrainAcc
  deriving DecidableEq, Repr

/-- A replay of steps s + 1 and s + 2 (R459, R460): the losses and the partition width of every microbatch of each step. -/
structure ReplayIn where
  loss1 : W32
  loss2 : W32
  widths1 : List (BitVec 16)
  widths2 : List (BitVec 16)
  deriving DecidableEq, Repr

/-- An SPDM path (R523). -/
inductive SpdmPath where
  | doe (h : HostLinkNo)
  | mctp
  | flue (f : FlueLinkNo)
  | peer (p : Position)
  deriving DecidableEq, Repr

/-- A message's transport (R554 to R557). -/
inductive Mctp where
  | i3c | vdm
  deriving DecidableEq, Repr

end Sys2Proof
end

