-- ==== Sys2Proof/Syntax.lean ====
section
/-! DEFINITION. The commands of the block: one constructor per row of spec/opcode_table.json, in the table's order. The
table gives its rows no bits; the operands are what each command brings from outside (who acts, an address, a value, the
outcome of a check that another agent made). -/

namespace Sys2Proof

inductive Instr where
  /-- MATRIX_MAC (R109): Tile controller queues a matrix instruction that begins or continues an accumulation across the four arrays, optionally with a read-out. -/
  | matrixMac (p : Site) (rs1 rs2 : W64)
  /-- MATRIX_DRAIN_COMPLETE (R90): A drain register finishes its residue check, layer merge, rounding and write to the destination slot and becomes free. -/
  | matrixDrainComplete (g : GrateNo) (find : EccFind)
  /-- WEIGHT_LOAD (R111): Tile controller queues a weight load that fills one half of the weight store of the masked arrays from a slot. -/
  | weightLoad (p : Site) (rs1 rs2 : W64)
  /-- WEIGHT_LOAD_COMPLETE (R86): A weight load writes its last row into the weight store, releasing matrix instructions that wait on that half. -/
  | weightLoadComplete (g : GrateNo) (find : EccFind)
  /-- VEC_LOAD (R108): Loads 2 KiB from a scratchpad slot into a vector register. -/
  | vecLoad (p : Site) (rd : Fin 32) (rs1 : W64) (role : BitVec 2) (find : EccFind)
  /-- VEC_STORE (R108): Stores 2 KiB from a vector register into a scratchpad slot. -/
  | vecStore (p : Site) (rs2 : Fin 32) (rs1 : W64) (role : BitVec 2) (find : EccFind)
  /-- VEC_OP (R96): Performs one vector-unit or transcendental-unit operation with its rounding and flags. -/
  | vecOp (p : Site) (insn : VecInsn) (find : EccFind)
  /-- SLOT_SET (R119): Writes a slot-table entry, resetting its STATE, EPOCH and REMAIN. -/
  | slotSet (p : Site) (rs1 rs2 : W64)
  /-- SLOT_GET (R118): Reads a slot-table entry into a register. -/
  | slotGet (p : Site) (rd : Fin 32) (rs1 : W64)
  /-- SLOT_CLEAR (R122): Writes zero to a whole slot one row per cycle, stalling issue until the last row is written. -/
  | slotClear (p : Site) (rs1 : W64)
  /-- SLOT_PUBLISH (R132): Marks a guarded slot FULL, raising EPOCH and loading REMAIN from CONS. -/
  | slotPublish (p : Site) (rs1 : W64)
  /-- SLOT_RETIRE (R132): Records one final consumption of a guarded slot, emptying it when REMAIN reaches zero. -/
  | slotRetire (p : Site) (rs1 : W64)
  /-- UNIT_WAIT (R123): Stalls issue until earlier-issued work of the named units is complete. -/
  | unitWait (p : Site) (rs1 : W64)
  /-- UNIT_WAIT_MET (R123): The awaited units complete and issue resumes after a UNIT.WAIT. -/
  | unitWaitMet (g : GrateNo)
  /-- EVENT_SIGNAL (R125): Issues an event-counter increment to a grate, stalling until earlier work completes and the store buffer drains. -/
  | eventSignal (p : Site) (rs1 rs2 : W64)
  /-- EVENT_SIGNAL_EFFECT (R125): The pending EVENT.SIGNAL adds its increment atomically, or halts the signaller with cause 0x0C for a foreign or idle grate. -/
  | eventSignalEffect (g : GrateNo)
  /-- EVENT_WAIT (R126): Stalls issue until an own event counter reaches the target, acting as an acquire. -/
  | eventWait (p : Site) (rs1 rs2 : W64)
  /-- EVENT_WAIT_MET (R126): The event counter reaches its target; the read buffer is invalidated and issue resumes. -/
  | eventWaitMet (g : GrateNo)
  /-- TALLY_WAIT (R126): Stalls issue until a tally counter's bytes or packets reach the target, acting as an acquire. -/
  | tallyWait (p : Site) (rs1 rs2 : W64)
  /-- TALLY_WAIT_MET (R259): The tally counter reaches its target; every counted write becomes visible to later reads. -/
  | tallyWaitMet (g : GrateNo)
  /-- WAIT_TIMEOUT (R127): A wait outlasts CSR 0x804 timebase ticks and the grate halts with cause 0x06. -/
  | waitTimeout (g : GrateNo)
  /-- EVENT_READ (R108): Reads an own event counter without acquire semantics. -/
  | eventRead (p : Site) (rd : Fin 32) (rs1 : W64)
  /-- SCHED_BOUNDARY (R128): Marks a schedule boundary, waiting for all units before testing the stop request. -/
  | schedBoundary (p : Site)
  /-- BOUNDARY_REACHED (R128): All units complete at a SCHED.BOUNDARY; the grate enters STOPPED if a stop is requested, otherwise continues. -/
  | boundaryReached (g : GrateNo)
  /-- ECALL (R605): Ends the tile program, waiting for all units and the store buffer to drain. -/
  | ecall (p : Site)
  /-- ECALL_STOP (R605): After the drain the grate enters STOPPED, clears STOPREQ and posts completion of its LAUNCH. -/
  | ecallStop (g : GrateNo)
  /-- EBREAK (R142): Halts the grate with cause 0x08, or enters debug halt when debug is unlocked. -/
  | ebreak (p : Site)
  /-- TC_LOAD (R242): Tile-controller scalar load through its micro-translation buffer and read buffer under RVWMO. -/
  | tcLoad (p : Site) (va : W64) (lg : BitVec 2) (signed : Bool) (rd : Fin 32) (fetch : Bool) (find : EccFind)
  /-- TC_STORE (R242): Tile-controller scalar store entering its 8-entry store buffer. -/
  | tcStore (p : Site) (va : W64) (lg : BitVec 2) (value : W64)
  /-- TC_AMO (R245): Tile-controller atomic, LR or SC performed at a single point or ended by its tier rules. -/
  | tcAmo (p : Site) (va : W64) (wide : Bool) (op : AmoOp) (value : W64) (rd : Fin 32) (order : AmoOrder) (find : EccFind)
  /-- CORE_LOAD (R238): Chimney-core load under RVWMO, with store-buffer forwarding. -/
  | coreLoad (h : HartNo) (va : W64) (pa : BitVec 52) (lg : BitVec 2) (signed : Bool)
  /-- CORE_STORE (R240): Chimney-core store entering its 32-entry store buffer, stalling when full. -/
  | coreStore (h : HartNo) (va : W64) (pa : BitVec 52) (lg : BitVec 2) (value : W64)
  /-- CORE_AMO (R246): Chimney-core AMO, LR or SC performed as the atomic operation of the same name or faulting by tier. -/
  | coreAmo (h : HartNo) (va : W64) (pa : BitVec 52) (wide : Bool) (op : AmoOp) (value : W64) (aq rl : Bool)
  /-- CBO_ZERO (R292): Core writes a full 128-byte line of zeros, removing any ash-list entry for it. -/
  | cboZero (h : HartNo) (va : W64) (pa : BitVec 52)
  /-- FENCE (R252): A barrier waits until every store present in the store buffer has left it. -/
  | fence (who : Actor) (pred succ : BitVec 4)
  /-- DEVICE_SPACE_ACCESS (R241): Access to register or doorbell space, performed in program order after earlier stores drain. -/
  | deviceSpaceAccess (who : DevAgent) (va : W64) (pa : BitVec 52) (lg : BitVec 2) (write : Bool) (signed : Bool) (value : W64)
  /-- STORE_PERFORMED (R253): The oldest store-buffer entry is performed or acknowledged and leaves the buffer. -/
  | storePerformed (who : Holder)
  /-- STORE_ERROR_RESPONSE (R263): A store to T4 or T5 receives an error response and leaves the buffer as a lost store. -/
  | storeErrorResponse (who : Holder)
  /-- STORE_RESPONSE_TIMEOUT (R263): A T4 or T5 store's 225,000-tick response timer expires, giving it an error response. -/
  | storeResponseTimeout (who : Holder)
  /-- WALK_READ_RETURN (R303): A page-table walk read returns an entry, continuing, completing or faulting the walk. -/
  | walkReadReturn (x : XAgent)
  /-- EXTERNAL_SCRATCHPAD_ACCESS (R330): An agent outside the grate accesses a scratchpad window, checked against the grate's state and context. -/
  | externalScratchpadAccess (who : ExtAgent) (ctx : Ctx) (g : GrateNo) (off : BitVec 23) (acc : SpadAcc) (find : EccFind)
  /-- REMOTE_WINDOW_BUSY_CLEAR (R139): The last access admitted before a window close completes and BUSY clears. -/
  | remoteWindowBusyClear (w : WinRef)
  /-- STOPREQ (R586): The runtime sets or clears a grate's stop request. -/
  | stopreq (g : GrateNo) (set : Bool)
  /-- GRATE_RESUME (R586): Continues a STOPPED grate at its program counter, keeping all state. -/
  | grateResume (g : GrateNo)
  /-- TOIDLE (R141): Resets a STOPPED or HALTED grate to IDLE, starting the clear of all grate state. -/
  | toidle (g : GrateNo)
  /-- IDLE_CLEAR_DONE (R586): The 3,072-cycle scratchpad clear ends and the grate reads IDLE with slot-guard off. -/
  | idleClearDone (g : GrateNo)
  /-- GUARD_MODE_WRITE (R586): Write of GRT_GUARD_CTL EN, accepted only while the grate is IDLE and not clearing. -/
  | guardModeWrite (g : GrateNo) (en : Bool)
  /-- RDS (R283): Home receives a read-for-shared request from a caching agent. -/
  | rds (bit : CacheBit) (ctx : Ctx) (line : BitVec 45) (find : CacheFind)
  /-- RDX (R283): Home receives a read-for-modify request from a caching agent. -/
  | rdx (bit : CacheBit) (ctx : Ctx) (line : BitVec 45)
  /-- UPG (R284): Home receives an upgrade from S to M. -/
  | upg (bit : CacheBit) (ctx : Ctx) (line : BitVec 45)
  /-- WBM (R284): Home receives a write-back of an M line. -/
  | wbm (bit : CacheBit) (line : BitVec 45) (data : Option LineData)
  /-- EVE (R284): Home receives an agent giving up an E line. -/
  | eve (bit : CacheBit) (line : BitVec 45)
  /-- READONCE (R285): Home receives a snapshot read from a non-caching agent. -/
  | readonce (who : RetryAgent) (ctx : Ctx) (line : BitVec 45) (find : LineFind)
  /-- WRITEFULL (R285): Home receives a 128-byte full-line write from a non-caching agent. -/
  | writefull (who : RetryAgent) (ctx : Ctx) (line : BitVec 45) (data : LineData)
  /-- WRITEPART (R285): Home receives a masked write from a non-caching agent. -/
  | writepart (who : RetryAgent) (ctx : Ctx) (line : BitVec 45) (mask : BitVec 128) (data : LineData)
  /-- COH_ATOMIC (R285): Home receives an atomic request and performs it at a single point. -/
  | cohAtomic (who : RetryAgent) (ctx : Ctx) (line : BitVec 45) (off : BitVec 7) (op : AOp) (wide : Bool) (opnd cmp : W64)
  /-- SNPS (R283): Owner receives a snoop to send Data(S) to the target and keep S. -/
  | snps (bit : CacheBit) (line : BitVec 45)
  /-- SNPX (R283): Owner receives a snoop to send Data(M) and go to I. -/
  | snpx (bit : CacheBit) (line : BitVec 45)
  /-- SNPXI (R283): Owner receives a snoop to go to I and discard its copy. -/
  | snpxi (bit : CacheBit) (line : BitVec 45)
  /-- SNPINV (R283): Sharer receives an invalidation. -/
  | snpinv (bit : CacheBit) (line : BitVec 45)
  /-- COH_DATA (R283): Requester receives Data(S), Data(E) or Data(M) and leaves its transient state, applying any deferred snoop. -/
  | cohData (bit : CacheBit) (line : BitVec 45) (grant : Grant)
  /-- ACKU (R283): Requester receives upgrade granted and goes to M. -/
  | acku (bit : CacheBit) (line : BitVec 45)
  /-- SNOOP_RESPONSE (R276): Home receives RspS, RspFwd or InvAck from a snooped agent. -/
  | snoopResponse (bit : CacheBit) (line : BitVec 45) (rsp : SnpRsp)
  /-- RETRY (R279): Retry agent receives a refusal with a reservation. -/
  | retry (who : Retrier) (line : BitVec 45)
  /-- GRANT (R280): Retry agent receives a ready reservation and resends its request. -/
  | grant (who : Retrier) (line : BitVec 45)
  /-- CMP (R283): Requester receives transaction closed at the home and completes waiting accesses. -/
  | cmp (bit : CacheBit) (line : BitVec 45)
  /-- DONE (R281): Home receives Done from a retry agent, freeing the line. -/
  | done (who : Retrier) (line : BitVec 45)
  /-- EVICTION_WRITEBACK (R298): A dirty line in the eviction buffer is written to memory, freeing a place. -/
  | evictionWriteback (d : DieNo)
  /-- SNOOP_TIMEOUT (R288): A snoop to a cluster stays unanswered 225,000 ticks and the cluster is declared dead. -/
  | snoopTimeout (bit : CacheBit) (line : BitVec 45)
  /-- RECLAIM_WALK_DONE (R289): All four homes finish walking tags of a dead agent and a reclaim-complete event is logged. -/
  | reclaimWalkDone (bit : CacheBit)
  /-- CLEAN (R295): Maintenance engine writes back dirty lines of a range. -/
  | clean (d : DieNo)
  /-- FLUSH (R295): Maintenance engine writes back and invalidates every copy of a range. -/
  | flush (d : DieNo)
  /-- ASHCLR (R295): Maintenance engine removes the ash-list entries of a range. -/
  | ashclr (d : DieNo)
  /-- LOCK (R297): Maintenance engine changes the number of locked ways, flushing and preloading or zeroing added ways. -/
  | lock (d : DieNo) (ways : BitVec 4) (fill : Bool)
  /-- MAINT_COMPLETE (R296): A maintenance operation finishes and BUSY clears. -/
  | maintComplete (d : DieNo)
  /-- ASH_CLR (R584): Write of HTH_ASH_CLR removes the entry of one listed line. -/
  | ashClr (d : DieNo) (value : W64)
  /-- ASH_OVF_CLEAR (R294): W1C write clears a context's ash-list overflow bit on a die. -/
  | ashOvfClear (d : DieNo) (n : Fin 64) (mask : W64)
  /-- POOL_MODE_ENTER (R585): Write of HTH_POOL_CFG MODE 1 switches a die into Cumos pool mode or is refused. -/
  | poolModeEnter (d : DieNo) (pways : BitVec 4) (rv : BitVec 8)
  /-- POOL_MODE_LEAVE (R585): Write of MODE 0 starts write-back of dirty pool lines before native mode. -/
  | poolModeLeave (d : DieNo)
  /-- POOL_LEAVE_DONE (R163): The pool write-back ends, BUSY clears and the die reads native accounting mode. -/
  | poolLeaveDone (d : DieNo)
  /-- POOL_AGE_SWEEP (R158): Every 65,536 ticks the age of every pool line rises by one, saturating at 15. -/
  | poolAgeSweep
  /-- XLAT_REPLY_REPLAY (R317): Runtime reply retranslates the stalled access and the engine resumes. -/
  | xlatReplyReplay (token : BitVec 16)
  /-- XLAT_REPLY_REFUSE (R317): Runtime reply refuses the fault, halting the grate or ending the descriptor. -/
  | xlatReplyRefuse (token : BitVec 16)
  /-- XLAT_INV_RANGE (R319): Starts invalidation of a range of one context's translations. -/
  | xlatInvRange (ctx : Ctx) (npg : W32)
  /-- XLAT_INV_CONTEXT (R319): Starts invalidation of all translations of one context. -/
  | xlatInvContext (ctx : Ctx)
  /-- XLAT_INV_ALL (R319): Starts invalidation of all contexts' translations and the whole pointer cache. -/
  | xlatInvAll
  /-- XLAT_INV_DONE (R321): All buffers drop scoped entries and all accesses using them finish; BUSY clears. -/
  | xlatInvDone
  /-- ROT_CHANGE (R333): Starts a region-owner change, refusing, invalidating and zeroing each region before installing it. -/
  | rotChange (d : DieNo) (owner : Ctx) (v rt : Bool) (nreg : BitVec 23)
  /-- ROT_CHANGE_DONE (R333): The last region is installed and MEM_ROT_CTL BUSY clears. -/
  | rotChangeDone (d : DieNo)
  /-- RING_CFG_WRITE (R335): Write of a ring set-up entry, accepted when OFF or as a POLICY-only write. -/
  | ringCfgWrite (r : RingNo) (word : Fin 4) (value : W64)
  /-- RING_ENABLE (R337): Enables a ring after checking its set-up, setting HEAD and TAIL to 0. -/
  | ringEnable (r : RingNo)
  /-- RING_PAUSE (R336): Pauses a ring so that no new descriptor starts or record is written. -/
  | ringPause (r : RingNo)
  /-- RING_RESUME (R343): Returns a PAUSED ring to ACTIVE and restarts fetching. -/
  | ringResume (r : RingNo)
  /-- RING_DISABLE (R338): Stops fetching, aborts fetched unstarted descriptors and sets the ring OFF. -/
  | ringDisable (r : RingNo)
  /-- DOORBELL (R340): A submission-ring doorbell write updates TAIL, is ignored as stale, or overruns the ring. -/
  | doorbell (who : BellAgent) (r : RingNo) (value : W64)
  /-- RECORD_DOORBELL (R340): A record-ring doorbell returns consumed slots by setting HEAD, freeing room for waiting producers. -/
  | recordDoorbell (who : BellAgent) (r : RingNo) (value : W64)
  /-- DESCRIPTOR_FETCH_RETURN (R343): Fetched slots return and their lap bytes are compared with the expected lap. -/
  | descriptorFetchReturn (r : RingNo) (host : List Slot)
  /-- DESCRIPTOR_REFETCH (R343): A scheduled re-fetch of a head slot with a mismatching lap is issued. -/
  | descriptorRefetch (r : RingNo)
  /-- DESCRIPTOR_WAIT_MET (R347): A descriptor's completion or tally wait is met and it starts. -/
  | descriptorWaitMet (r : RingNo)
  /-- NOP (R346): A NOP descriptor completes once its wait is met. -/
  | nop (r : RingNo)
  /-- COPY (R352): A copy engine moves bytes unchanged in 4 KiB destination pieces, or sends a merge copy. -/
  | copy (r : RingNo)
  /-- INLINE (R350): Writes up to 240 payload bytes from the descriptor in line pieces. -/
  | inlineOp (r : RingNo)
  /-- REDUCE (R354): Merges or sums per-element sources in a fixed order, optionally tapping norm words. -/
  | reduce (r : RingNo)
  /-- TILEMOVE (R169): A tile mover packs a plain tensor into engine-ready tiles or unpacks them. -/
  | tilemove (r : RingNo)
  /-- ATOMIC (R356): Performs one atomic operation on a target and writes the old value to RADDR. -/
  | atomic (r : RingNo)
  /-- LAUNCH (R357): Reads a launch record and starts a tile program on an IDLE or STOPPED grate. -/
  | launch (r : RingNo)
  /-- FULLER (R205): A die's Fuller units accept an update descriptor, copy the table and form layer scalars. -/
  | fuller (r : RingNo)
  /-- ENGINE_COMPLETION (R361): An engine finishes a descriptor, posts its completion record and performs any signal. -/
  | engineCompletion (r : RingNo) (idx : W32)
  /-- HOST_FLUSH_READ_RETURN (R365): The zero-length read on a host link returns, allowing success to be posted. -/
  | hostFlushReadReturn (h : HostLinkNo) (r : RingNo) (idx : W32)
  /-- STREAM_WRITE (R183): Loads a stream-table entry from an image, opening or restoring a stream. -/
  | streamWrite (r : RingNo)
  /-- STREAM_READ (R182): Stores a stream-table entry to an image. -/
  | streamRead (r : RingNo)
  /-- STREAM_APPEND (R188): Checks and appends chain records, updating NBLK and LAST. -/
  | streamAppend (r : RingNo)
  /-- STREAM_COMMIT (R195): Delivers generated tokens, advances LEN and RCTR and posts a token completion. -/
  | streamCommit (r : RingNo)
  /-- STREAM_DEADLINE (R182): Sets the deadline fields selected by MASK. -/
  | streamDeadline (r : RingNo)
  /-- STREAM_PAUSE (R182): Moves a stream to PAUSED. -/
  | streamPause (r : RingNo)
  /-- STREAM_RESUME (R182): Moves a PAUSED stream to ACTIVE or OPEN by TOK. -/
  | streamResume (r : RingNo)
  /-- STREAM_CLOSE (R182): Posts FIRST and NBLK and clears the entry to reset. -/
  | streamClose (r : RingNo)
  /-- STREAM_EXTEND (R186): Adds prompt tokens to LEN with no deadline effect. -/
  | streamExtend (r : RingNo)
  /-- DEADLINE_MISS (R194): A token or request deadline passes; the monitor raises a fault and applies the ring's deadline policy. -/
  | deadlineMiss (n : StreamNo)
  /-- TIDE_SWITCH (R198): The runtime moves a grate between serving and training partitions in the fixed order. -/
  | tideSwitch (g : GrateNo) (ctx : Ctx)
  /-- FLUE_WRITE (R256): Destination receives a WRITE packet, checks the window and counts it on a tally when performed. -/
  | flueWrite (p : Pkt) (enables : BitVec 128) (data : List Byte)
  /-- FLUE_MERGE (R437): Destination receives a MERGE packet and merges accumulator or norm words atomically. -/
  | flueMerge (p : Pkt) (norm : Bool) (data : List Byte)
  /-- FLUE_ATOMIC (R420): Destination receives an ATOMIC packet and returns the old value in DATA. -/
  | flueAtomic (p : Pkt) (op : AOp) (wide : Bool) (opnd cmp : W64)
  /-- FLUE_READ (R436): Destination receives a READ packet and returns data if the window allows. -/
  | flueRead (p : Pkt) (len : BitVec 8)
  /-- FLUE_ACK (R263): Sender receives acknowledgement of a remote write. -/
  | flueAck (id : Nat)
  /-- FLUE_DATA (R420): Sender receives data for a remote read or the old value of an atomic. -/
  | flueData (id : Nat) (data : List Byte)
  /-- FLUE_ERR (R422): Sender receives an error response for a refused or unroutable request. -/
  | flueErr (id : Nat) (why : FlueErrWhy)
  /-- FLUE_FORWARD (R422): A packet for another position is forwarded on the next hop class or discarded. -/
  | flueForward (f : FlueLinkNo) (src dest : Position) (hop : BitVec 2) (addr : BitVec 52) (len : BitVec 8) (id : Nat)
  /-- FLUE_READ_TIMEOUT (R438): A remote read or atomic unanswered for 225,000 ticks completes with an error. -/
  | flueReadTimeout (id : Nat)
  /-- FLUE_FLIT_RECEIVE (R415): A flue flit arrives and is checked by CRC and GCM tag, accepted, replayed or the link taken down. -/
  | flueFlitReceive (f : FlueLinkNo) (flit : FlitIn) (crcOk tagOk second : Bool)
  /-- FLUE_REPLAY_FAIL (R415): A flit fails 8 consecutive replays and the link goes down with cause REPLAY. -/
  | flueReplayFail (f : FlueLinkNo)
  /-- FLUE_ERRRATE (R417): More than one flit needs a second replay within 2^30 flits and the link goes down. -/
  | flueErrrate (f : FlueLinkNo)
  /-- FLUE_LOS (R416): No signal for 10 µs takes the link down with cause LOS. -/
  | flueLos (f : FlueLinkNo)
  /-- FLUE_LOCK_LOST (R416): FEC alignment lost for 1 µs takes the link down with cause LOCK. -/
  | flueLockLost (f : FlueLinkNo)
  /-- FLUE_REMOTE_DOWN (R416): The far end takes the link down. -/
  | flueRemoteDown (f : FlueLinkNo)
  /-- FLUE_RETRAIN_TIMER (R416): 10 ms after going down with EN set, the link returns to TRAINING. -/
  | flueRetrainTimer (f : FlueLinkNo)
  /-- FLUE_TRAINING_DONE (R413): Training completes at a lane width and the link enters ATTEST. -/
  | flueTrainingDone (f : FlueLinkNo) (lanes : BitVec 4)
  /-- FLUE_TRAINING_TIMEOUT (R416): Training not complete in 250 ms takes the link down with cause TRAIN. -/
  | flueTrainingTimeout (f : FlueLinkNo)
  /-- FLUE_ATTEST_DONE (R536): Mutual SPDM attestation ends, setting link keys or taking the link down with cause ATTEST. -/
  | flueAttestDone (f : FlueLinkNo) (a : AttestIn)
  /-- PROBATION_END (R417): After 1 s of probation the link enters CTRLONLY or goes down with cause PROBATION. -/
  | probationEnd (f : FlueLinkNo)
  /-- FLUE_LINK_UP (R432): A CTRLONLY link enters UP once both ends are members with matching identities and HOLDCTL clear. -/
  | flueLinkUp (f : FlueLinkNo) (farMember farMatches farHold : Bool)
  /-- FLUE_KEY_UPDATE (R539): At 2^39 flits the requester starts a key update, or the link goes down at 2^40. -/
  | flueKeyUpdate (f : FlueLinkNo)
  /-- KEY (R539): A KEY packet names the sequence number from which new keys are used. -/
  | key (f : FlueLinkNo) (seq : BitVec 12)
  /-- FLU_LINK_EN (R418): Write of FLU_LINK_CTL EN enables a link or disables it with cause CTRL. -/
  | fluLinkEn (f : FlueLinkNo) (en : Bool)
  /-- FLU_LINK_RETRAIN (R418): Write of RETRAIN takes the link down with cause CTRL. -/
  | fluLinkRetrain (f : FlueLinkNo)
  /-- FLU_LINK_HOLDCTL (R418): Write of HOLDCTL keeps or releases the link from CTRLONLY. -/
  | fluLinkHoldctl (f : FlueLinkNo) (hold : Bool)
  /-- FLU_LINK_LOOP (R418): Write of LOOP starts or ends a loop-back test. -/
  | fluLinkLoop (f : FlueLinkNo) (loop : Bool)
  /-- HELLO_SEND (R386): Every 10 ms a hello is sent on every trained and attested flue link. -/
  | helloSend
  /-- HELLO (R387): A hello is received, restarting the peer watchdog or declaring departure or partition. -/
  | hello (f : FlueLinkNo) (payload : BitVec 256)
  /-- PEER_WATCHDOG_EXPIRY (R387): No hello for 6,750,000 ticks declares the peer dead. -/
  | peerWatchdogExpiry (idh : W64)
  /-- SYNC_SEND (R431): The master sends SYNC every 225,000 ticks on every trained link. -/
  | syncSend
  /-- SYNC (R431): A module receives SYNC and steps or slews its timebase toward the master's. -/
  | sync (f : FlueLinkNo) (count : W64)
  /-- FORM_OFFER (R424): Stoker receives a formation offer from a configured position. -/
  | formOffer (m : OfferMsg)
  /-- OFFER_WINDOW_END (R424): All positions have offered or 5 s pass; the lowest becomes master and sends TABLE. -/
  | offerWindowEnd
  /-- TABLE (R424): A founder adopts the membership table, steps its count to S, enters MEMBER and answers ACK. -/
  | table (epoch : W32) (mpos : Position) (start : W64) (entries : List MembIn) (auth : Bool)
  /-- ACK (R424): The master receives a founder's acknowledgement of the table. -/
  | ack (epoch : W32) (pos : Position) (auth : Bool)
  /-- ACK_WINDOW_END (R424): All ACKs held or 1 s passes; founders without ACK are set EMPTY. -/
  | ackWindowEnd
  /-- JOIN_REQ (R609): The master receives a join request claiming a position and holds it pending. -/
  | joinReq (m : OfferMsg)
  /-- GROUP (R426): A member applies a membership change in epoch order or asks for the full table. -/
  | group (src : Position) (epoch : W32) (pos : Position) (st : BitVec 2) (idh : W64) (auth : Bool)
  /-- DEAD (R427): A member receives a dead report and treats the position as dead at once. -/
  | dead (pos reporter : Position) (auth : Bool)
  /-- MEMB_SET_EMPTY (R429): The master's runtime sets a position EMPTY with a new epoch. -/
  | membSetEmpty (pos : Position)
  /-- MEMB_ADMIT (R609): The master admits the oldest pending joiner of a position. -/
  | membAdmit (pos : Position)
  /-- TIMEBASE_TICK (R431): The 225 MHz timebase count advances, held or slewed as group time requires. -/
  | timebaseTick (upset : Option ArrayUpset)
  /-- BUNDLE_BRING_UP (R396): Full bring-up of a bundle runs the lane test and sets width and lane maps. -/
  | bundleBringUp (x : Side)
  /-- KEPT_MAP_BRING_UP (R411): A bundle with one reset side comes up using the kept side's maps. -/
  | keptMapBringUp (x : Side)
  /-- BRING_UP_DONE (R396): A bring-up ends with the bundle UP at a width or DISABLED. -/
  | bringUpDone (x : Side) (goodRx goodTx : BitVec 68)
  /-- SIDEBAND_TIMEOUT (R396): The sideband handshake fails within 10 ms and the bundle is disabled. -/
  | sidebandTimeout (x : Side)
  /-- BUNDLE_CRC_ERROR (R393): A receiver finds a flit CRC error and requests replay. -/
  | bundleCrcError (x : Side)
  /-- BUNDLE_REPLAY_THRESHOLD (R408): Too many replays start an in-service retrain of the bundle. -/
  | bundleReplayThreshold (x : Side)
  /-- BUNDLE_RETRAIN (R408): Write of RETRAIN starts a full bring-up of one bundle. -/
  | bundleRetrain (x : Side)
  /-- BUNDLE_OFF (R411): Write of OFF re-stripes traffic away and holds the bundle DISABLED. -/
  | bundleOff (x : Side) (off : Bool)
  /-- ROUTE_DRAIN_MARKER (R405): A destination returns route-drain markers and held messages go on the new route. -/
  | routeDrainMarker (src dst : Fin 5)
  /-- DIETEST_EN (R400): Write of DIETEST EN puts the die's bundles in LOOPBACK or returns them to DOWN. -/
  | dietestEn (die : Fin 5) (who : DevAgent) (en : Bool)
  /-- DIETEST_GO (R400): Starts a stand-alone loop-back lane test of the die. -/
  | dietestGo (die : Fin 5) (who : DevAgent)
  /-- DIETEST_DONE (R400): The die test ends, writing good lanes to RXMAP and clearing BUSY. -/
  | dietestDone (die : Fin 5) (good : List (BitVec 68))
  /-- HOST_LINK_UP (R383): A host link reaches DL_Up, setting its readiness bit and posting a partner event. -/
  | hostLinkUp (h : HostLinkNo) (speed : BitVec 3) (width : BitVec 5) (flit cxl : Bool)
  /-- HOST_LINK_DOWN (R367): A host link leaves DL_Up and the host is lost. -/
  | hostLinkDown (h : HostLinkNo)
  /-- GEN_WORD_READ_DONE (R366): The generation word read returns on link return, resuming or turning off the host's rings. -/
  | genWordReadDone (h : HostLinkNo) (value : Option W64)
  /-- HOST_REQUEST_TIMEOUT (R382): A non-posted host request times out after 225,000 ticks; three in a row lose the host. -/
  | hostRequestTimeout (id : Nat)
  /-- HOST_SNOOP_TIMEOUT (R374): A back-invalidation snoop unanswered 225,000 ticks loses the host with cause SNOOP. -/
  | hostSnoopTimeout (line : BitVec 45)
  /-- HOST_LINK_FORCE (R382): Write of HLK_LINK_CTL FORCE makes the host lost with cause FORCED. -/
  | hostLinkForce (h : HostLinkNo)
  /-- IDE_INSECURE (R533): An IDE stream enters its insecure state and the host is lost with cause IDE. -/
  | ideInsecure (stream : IdeOf)
  /-- HOST_INBOUND_WRITE (R378): A host posted write to an inbound window is checked and performed or dropped. -/
  | hostInboundWrite (h : HostLinkNo) (off : BitVec 38) (data : List Byte) (inIde : Bool)
  /-- HOST_INBOUND_READ (R379): A host read to an inbound window is checked and completed after earlier writes. -/
  | hostInboundRead (h : HostLinkNo) (off : BitVec 38) (len : BitVec 13) (inIde : Bool)
  /-- HOST_ATOMICOP (R246): A host FetchAdd, Swap or CAS is performed as ADD, SWAP or CAS. -/
  | hostAtomicop (h : HostLinkNo) (off : BitVec 38) (op : HostOp) (lg : BitVec 3) (opnd cmp : W64) (inIde : Bool)
  /-- HOST_BAR0_READ (R376): A host read of the doorbell BAR completes with UR. -/
  | hostBar0Read (h : HostLinkNo) (off : BitVec 19)
  /-- CXL_MEMRD (R286): A host M2S MemRd to HDM is translated to RdX, RdS or ReadOnce. -/
  | cxlMemrd (off : BitVec 40) (mv : CxlMeta)
  /-- CXL_MEMWR (R286): A host M2S MemWr returns data as WbM or EvE. -/
  | cxlMemwr (off : BitVec 40) (data : Option LineData)
  /-- CXL_BIRSP (R286): A host back-invalidation response is translated to a snoop response. -/
  | cxlBirsp (line : BitVec 45) (keepS : Bool)
  /-- PERST_ASSERT (R598): A PERST# pin holds its host link in Detect, losing the host if it was up. -/
  | perstAssert (h : HostLinkNo)
  /-- DAMPER_WINDOW (R472): Every 2 µs the Damper forms the power estimate and sets each domain's target level. -/
  | damperWindow (w : WindowIn)
  /-- SLEW_GOVERNOR_STEP (R477): The slew governor moves one governed level one step within 14 A/µs. -/
  | slewGovernorStep (u : GovUnit) (demand : BitVec 7) (slack : Bool)
  /-- CORRECTION_UPDATE (R468): Every 1 ms Stoker compares the estimate with measured feed power and sets the correction term. -/
  | correctionUpdate (measured : BitVec 12)
  /-- DROOP_DETECT (R474): A grate's supply falls below threshold and it receives a burst of droop bubbles. -/
  | droopDetect (g : GrateNo) (limited : Bool)
  /-- DIP_DETECT (R483): A supply falls below its warning level; grates and cores are clamped to 16/64. -/
  | dipDetect (x : Supply) (minimum : W32)
  /-- DIP_RECOVER (R483): The supply recovers above its recovery level and a 100 µs hold begins. -/
  | dipRecover (x : Supply)
  /-- DIP_HOLD_END (R483): The hold ends and the dip ceiling is lifted. -/
  | dipHoldEnd
  /-- SUPPLY_RESET_LEVEL (R484): A supply reaches its reset level and the reset of its scope starts. -/
  | supplyResetLevel (x : Supply)
  /-- THERMAL_STEP (R486): Each ms a die's thermal ceiling rises, holds or falls by its hottest sensor. -/
  | thermalStep (die : Fin 5) (hottest : BitVec 16)
  /-- THERMAL_TRIP (R486): A junction reaches 115 °C and package power is removed within 1 ms. -/
  | thermalTrip (die : Fin 5)
  /-- ROOT_PLL_LOCK (R463): The root PLL locks and Stoker leaves reset. -/
  | rootPllLock
  /-- SLAVE_PLL_LOCK_LOST (R464): A hearth slave PLL loses lock, stopping its die's clocks. -/
  | slavePllLockLost (d : DieNo)
  /-- REFCLK_LOST (R465): The reference is lost; holdover starts, links go down and an orderly power-down begins. -/
  | refclkLost
  /-- DMP_CAP_CFG_WRITE (R470): Write of the power cap and domain ranks, refused when out of range. -/
  | dmpCapCfgWrite (value : W64)
  /-- DMP_DROOP_CFG_WRITE (R475): Write of droop threshold and burst length, ignored when out of range. -/
  | dmpDroopCfgWrite (value : W64)
  /-- DMP_CORR_WRITE (R588): Stoker writes the correction term, setting SEEN on the first write. -/
  | dmpCorrWrite (value : W64)
  /-- FEED_APPLIED (R591): The feed rises above 39 V with the sense pair closed and soft-start begins. -/
  | feedApplied (mv : W32)
  /-- SOFT_START_DONE (R485): Input capacitance is charged and kindling enters K0. -/
  | softStartDone
  /-- SENSE_OPEN (R599): The blade sense pair opens with the feed present, causing supply loss. -/
  | senseOpen
  /-- SUPPLY_LOSS (R591): The feed falls to 36 V and buffered state is lost. -/
  | supplyLoss
  /-- KINDLE_K0 (R489): Root lock, timebase start and Thirun self-test and fuse read. -/
  | kindleK0 (selfTestOk : Bool)
  /-- KINDLE_K1 (R500): Thirun selects and verifies a Stoker slot and releases Stoker, which loads its configuration. -/
  | kindleK1 (chainOk : Bool)
  /-- KINDLE_K2 (R500): Thirun verifies the manifest and slots and selects a firmware combination. -/
  | kindleK2
  /-- KINDLE_K3 (R489): Bundles come up, slave PLLs lock and grate microcode loads for a hearth die. -/
  | kindleK3 (d : DieNo)
  /-- KINDLE_K4 (R489): LPDDR6 channels of a die are trained. -/
  | kindleK4 (d : DieNo) (trained : W32)
  /-- KINDLE_K5 (R493): The runtime home die is chosen, runtime regions installed and clusters started. -/
  | kindleK5 (image : RunImage) (passed : BitVec 12)
  /-- KINDLE_K6 (R489): Host and flue links are enabled and a configured group forms. -/
  | kindleK6
  /-- KINDLE_STAGE_TIMEOUT (R489): A unit exceeds its stage limit and is held, reset once, or left not ready. -/
  | kindleStageTimeout (u : StageUnit)
  /-- CONFIRM (R502): Runtime confirms the slots in use, updating PREF and clearing PEND. -/
  | confirm
  /-- RESET_CLUSTER (R506): CHM_RESET_CTL requests reset of core clusters. -/
  | resetCluster (who : HartNo) (mask : BitVec 12) (key : Byte)
  /-- RESET_HEARTH (R506): CHM_RESET_CTL requests reset of hearth dies. -/
  | resetHearth (who : HartNo) (mask : BitVec 4) (key : Byte)
  /-- RESET_PACKAGE (R506): CHM_RESET_CTL requests a package reset. -/
  | resetPackage (who : HartNo) (key : Byte)
  /-- MODULE_RESET (R504): Resets everything including Stoker and resumes at K0 without soft-start. -/
  | moduleReset (cause : BitVec 5)
  /-- PACKAGE_RESET (R504): Resets the package and LPDDR6 contents and resumes at K1 with Stoker running. -/
  | packageReset (cause : BitVec 5)
  /-- HEARTH_DIE_RESET (R505): Resets one hearth die after its taper and resumes it at K3. -/
  | hearthDieReset (d : DieNo) (cause : BitVec 5)
  /-- CLUSTER_RESET (R504): Resets one core cluster and its L2 and resumes it at K5. -/
  | clusterReset (c : Fin 12) (cause : BitVec 5)
  /-- ARB_RAISE (R521): Starts raising an anti-rollback counter by programming a new fuse record. -/
  | arbRaise (idx : BitVec 6) (val : BitVec 16)
  /-- ARB_RAISE_DONE (R522): The programmed record reads back valid or not and BUSY clears. -/
  | arbRaiseDone (readBack : BitVec 24)
  /-- KEY_GENERATE (R532): Starts regeneration of one context's memory keys. -/
  | keyGenerate (ctx : Ctx)
  /-- KEY_GENERATE_DONE (R532): All 32 controllers hold the new keys and BUSY clears. -/
  | keyGenerateDone
  /-- GET_MEASUREMENTS (R526): Thirun answers an SPDM measurement request signed with the identity key and nonce. -/
  | getMeasurements (path : SpdmPath) (nonce : BitVec 256)
  /-- CHALLENGE (R526): Thirun answers an SPDM challenge signed with the identity key. -/
  | challenge (path : SpdmPath) (nonce : BitVec 256)
  /-- KEY_EXCHANGE (R524): Thirun establishes an SPDM secured session. -/
  | keyExchange (path : SpdmPath)
  /-- DEBUG_TOKEN (R542): A relayed debug token is verified by Thirun and raises the debug level. -/
  | debugToken (via : Mctp) (body : BitVec 1024) (certOk sigOk : Bool)
  /-- PATROL_SCRUB (R562): A controller reads a line at least daily, rewriting correctable and logging uncorrectable lines. -/
  | patrolScrub (line : BitVec 45) (find : LineFind)
  /-- SENSOR_SAMPLE (R549): Stoker samples a sensor at its period and reports threshold crossings. -/
  | sensorSample (n : Fin 220) (value : W32)
  /-- LEAK_DETECTED (R550): The leak detector reads wet and an orderly power-down starts. -/
  | leakDetected
  /-- ORDERLY_POWER_DOWN (R550): Stoker drains buffers, writes back lines and removes package power. -/
  | orderlyPowerDown (why : BitVec 3)
  /-- LOG_MIRROR (R552): Stoker mirrors SRAM log records to flash within 100 ms. -/
  | logMirror
  /-- HEARTBEAT_KICK (R558): Runtime writes KICK to restart the heartbeat period. -/
  | heartbeatKick (who : DevAgent)
  /-- HEARTBEAT_PERIOD (R558): Runtime writes a new heartbeat period, ignored outside range. -/
  | heartbeatPeriod (who : DevAgent) (ms : BitVec 16)
  /-- HEARTBEAT_EXPIRED (R558): A period passes without KICK and a package reset with cause 0x09 starts. -/
  | heartbeatExpired
  /-- LOG_READ (R557): Stoker answers a request for up to 64 log records. -/
  | logRead (via : Mctp) (seq : W32) (count : BitVec 16)
  /-- CONFIG_WRITE (R548): Stoker replaces the older configuration copy. -/
  | configWrite (via : Mctp) (body : BitVec 416) (crcOk : Bool)
  /-- MODULE_RESET_MESSAGE (R557): A MODULE-RESET message starts a module reset with cause 0x03. -/
  | moduleResetMessage (via : Mctp)
  /-- POWER_DOWN (R557): A POWER-DOWN message starts an orderly power-down. -/
  | powerDown (via : Mctp)
  /-- GET_SENSOR_READING (R555): Stoker answers a PLDM sensor read. -/
  | getSensorReading (n : Fin 220)
  /-- PLDM_COMPONENT_WRITE (R556): Stoker writes a firmware component into the unused slot. -/
  | pldmComponentWrite (via : Mctp) (im : Image) (ver : W32) (arb : BitVec 6) (entries : List ManEnt) (good : Bool)
  /-- PLDM_VERIFY (R556): Stoker reports verify success once Thirun checks the slot. -/
  | pldmVerify (im : Image)
  /-- PLDM_APPLY (R556): Stoker sets PREF and TRIAL for the applied image. -/
  | pldmApply (im : Image)
  /-- RST_ASSERT (R596): RST# low past the glitch filter mirrors the log and starts a module reset. -/
  | rstAssert
  /-- RST_RELEASE (R596): RST# released lets kindling resume at K0. -/
  | rstRelease
  /-- CHECKPOINT (R447): At a step boundary the runtime takes a local snapshot of each position. -/
  | checkpoint (pos : Position) (c : CkptIn)
  /-- BUDDY_COPY_DONE (R452): The buddy's tally shows every byte of the snapshot and BUDDY is set. -/
  | buddyCopyDone (pos : Position) (us : W32) (steps : List StepIn)
  /-- STAGING_DONE (R453): Every staging copy succeeds and STAGED is set. -/
  | stagingDone (pos : Position) (steps : List StepIn)
  /-- RECOVERY (R457): The master's runtime recovers a failed position with a hot spare. -/
  | recovery (pos : Position) (spare vers : W64)
  /-- RESTORE_REPLAY (R459): Replayed losses are compared bit for bit with the checkpoint to accept a restore. -/
  | restoreReplay (r : ReplayIn) (sameModules : Bool)
  /-- REGISTER_WRITE (R579): A write to a set-up register with no behaviour of its own updates its RW and W1C fields. -/
  | registerWrite (who : DevAgent) (off : BitVec 28) (wide : Bool) (value : W64)
  /-- MATRIX_LAST_STEP_READ (R86): A matrix instruction reads its last step from its weight half, completing it under Table 4.8 and releasing a weight load waiting on that half. -/
  | matrixLastStepRead (g : GrateNo) (find : MatFind)
  /-- TILE_CONTROLLER_CSR_WRITE (R62): A tile-controller CSR instruction writes the arithmetic status word, rounding key, counter base, wait timeout or conflict-counter control. -/
  | tileControllerCsrWrite (p : Site) (insn : CsrInsn) (value : W64)
  /-- DEVICE_CONTEXT_WRITE (R300): Runtime firmware in machine mode writes the hart's device-context CSR 0x7C0, changing the context its later requests and doorbells carry. -/
  | deviceContextWrite (h : HartNo) (ctx : Ctx)
  /-- PERST_RELEASE (R370): A PERST# pin is deasserted, releasing its host link from Detect so that it may train. -/
  | perstRelease (h : HostLinkNo)
  /-- REFCLK_RETURN (R465): The reference returns within tolerance, setting REFOK without stopping a power-down already begun. -/
  | refclkReturn
  /-- HOST_COMPLETION (R382): A completion for a non-posted request returns from a client host, delivering data and ending the run of consecutive timeouts. -/
  | hostCompletion (id : Nat) (ok : Bool) (data : List Byte)
  /-- IDE_KM (R534): The host's IDE_KM exchange has Thirun program link keys, making an IDE stream secure and releasing engine requests and MSI-X messages held under REQIDE. -/
  | ideKm (stream : IdeOf)
  /-- MSI_X_TABLE_WRITE (R380): A host write to the BAR4 MSI-X table or masks changes a vector, sending a message whose pending bit is set when it is unmasked. -/
  | msiXTableWrite (h : HostLinkNo) (w : MsixWrite)
  /-- KEY_TABLE_REINSTALL_DONE (R563): Thirun finishes reinstalling a memory controller's key table after an uncorrectable error, and the requests waiting at that controller proceed. -/
  | keyTableReinstallDone (c : Fin 32)
  deriving DecidableEq, Repr

end Sys2Proof
end

