-- ==== Sys2Proof/WellFormed.lean ====
section
/-! DEFINITION. Commands whose operands are what the spec's command can carry: checks of syntax alone, one line for each row that
needs one. What stands in the state is the meanings' concern. -/

namespace Sys2Proof

/-- A physical address in the register or doorbell range (R30, Table 1.3). -/
def deviceAddr (pa : BitVec 52) : Bool :=
  (decide (0xF00000000000 ≤ pa.toNat) && decide (pa.toNat < 0xF00010000000)) ||
    (decide (0xF10000000000 ≤ pa.toNat) && decide (pa.toNat < 0xF10000080000))

/-- A hearth die has 32 bundles, the chimney die 64 (Table 13.1). -/
def Side.wf (x : Side) : Bool := decide (x.die.val = 4) || decide (x.b.val < 32)

/-- Bytes of a packet: at least one, within one line (R420). -/
def Pkt.fits (p : Pkt) (len : Nat) : Bool := decide (len ≠ 0) && decide (p.off.toNat % 128 + len ≤ 128)

/-- A merge carries whole groups of 32 bytes, a norm merge a whole line (R437). -/
def mergeFits (p : Pkt) (norm : Bool) (n : Nat) : Bool :=
  p.fits n && decide (n % 32 = 0) && decide (p.off.toNat % 32 = 0) && (!norm || decide (n = 128))

/-- A memory request of a host: at most the given bytes, within 4 KiB (R371). -/
def tlpFits (off len most : Nat) : Bool := decide (len ≠ 0) && decide (len ≤ most) && decide (off % 4096 + len ≤ 4096)

/-- The RISC-V A extension has no compare-and-swap (R246). -/
def amoFits (op : AmoOp) : Bool := decide (op ≠ .amo .cas)

/-- The operands of a command are such as the command can carry. -/
def Instr.wf : Instr → Bool
  | .coreLoad _ _ pa _ _ => !deviceAddr pa
  | .coreStore _ _ pa _ _ => !deviceAddr pa
  | .tcAmo _ _ _ op _ _ _ _ => amoFits op
  | .coreAmo _ _ _ _ op _ _ _ => amoFits op
  | .deviceSpaceAccess _ _ pa _ _ _ _ => deviceAddr pa
  | .rdx bit _ _ => decide (bit.val ≠ 12)
  | .upg bit _ _ => decide (bit.val ≠ 12)
  | .cohAtomic _ _ _ off _ wide _ _ => decide (off.toNat % (if wide then 8 else 4) = 0)
  | .flueWrite p _ data => p.fits data.length
  | .flueMerge p norm data => mergeFits p norm data.length
  | .flueAtomic p _ wide _ _ => decide (p.off.toNat % (if wide then 8 else 4) = 0)
  | .flueRead p len => p.fits len.toNat
  | .table _ _ _ entries _ => decide (entries.length ≤ 64)
  | .bundleBringUp x => x.wf
  | .keptMapBringUp x => x.wf
  | .bringUpDone x _ _ => x.wf
  | .sidebandTimeout x => x.wf
  | .bundleCrcError x => x.wf
  | .bundleReplayThreshold x => x.wf
  | .bundleRetrain x => x.wf
  | .bundleOff x _ => x.wf
  | .dietestDone die good => decide (good.length = if die.val = 4 then 64 else 32)
  | .hostLinkUp _ speed _ _ _ => decide (speed.toNat ≤ 5)
  | .hostInboundWrite _ off data _ => tlpFits off.toNat data.length 512
  | .hostInboundRead _ off len _ => tlpFits off.toNat len.toNat 4096
  | .hostAtomicop _ off op lg _ _ _ =>
    decide (2 ≤ lg.toNat) && decide (lg.toNat ≤ 4) && decide (off.toNat % 2 ^ lg.toNat = 0) && !(decide (lg = 4) && decide (op ≠ .cas))
  | .damperWindow w => decide (w.powers.length = 5)
  | .slewGovernorStep _ demand _ => decide (demand.toNat ≤ 64)
  | .moduleReset cause => decide (3 ≤ cause.toNat) && decide (cause.toNat ≤ 5)
  | .packageReset cause => decide (6 ≤ cause.toNat) && decide (cause.toNat ≤ 10)
  | .hearthDieReset _ cause => decide (0x0B ≤ cause.toNat) && decide (cause.toNat ≤ 0x0E)
  | .clusterReset _ cause => decide (cause = 0x0F) || decide (cause = 0x10)
  | .orderlyPowerDown why => decide (1 ≤ why.toNat) && decide (why.toNat ≤ 4)
  | .sensorSample i value => decide (i.val ≠ 219) || decide (value.toNat ≤ 1)
  | .patrolScrub line _ => decide (line.toNat * 128 < 0x18000000000)
  | .pldmComponentWrite _ im ver _ entries _ => decide (im = .manifest) || (decide (ver.toNat < 65536) && decide (entries = []))
  | .checkpoint pos c => c.members.getLsbD pos && decide (1 ≤ c.dies) && decide (c.dies ≤ 4)
  | .msiXTableWrite _ w => (match w with | .table off _ => decide (off.toNat % 8 = 0) | .functionMask _ => true)
  | .matrixMac .. => true
  | .matrixDrainComplete .. => true
  | .weightLoad .. => true
  | .weightLoadComplete .. => true
  | .vecLoad .. => true
  | .vecStore .. => true
  | .vecOp .. => true
  | .slotSet .. => true
  | .slotGet .. => true
  | .slotClear .. => true
  | .slotPublish .. => true
  | .slotRetire .. => true
  | .unitWait .. => true
  | .unitWaitMet .. => true
  | .eventSignal .. => true
  | .eventSignalEffect .. => true
  | .eventWait .. => true
  | .eventWaitMet .. => true
  | .tallyWait .. => true
  | .tallyWaitMet .. => true
  | .waitTimeout .. => true
  | .eventRead .. => true
  | .schedBoundary .. => true
  | .boundaryReached .. => true
  | .ecall .. => true
  | .ecallStop .. => true
  | .ebreak .. => true
  | .tcLoad .. => true
  | .tcStore .. => true
  | .cboZero .. => true
  | .fence .. => true
  | .storePerformed .. => true
  | .storeErrorResponse .. => true
  | .storeResponseTimeout .. => true
  | .walkReadReturn .. => true
  | .externalScratchpadAccess .. => true
  | .remoteWindowBusyClear .. => true
  | .stopreq .. => true
  | .grateResume .. => true
  | .toidle .. => true
  | .idleClearDone .. => true
  | .guardModeWrite .. => true
  | .rds .. => true
  | .wbm .. => true
  | .eve .. => true
  | .readonce .. => true
  | .writefull .. => true
  | .writepart .. => true
  | .snps .. => true
  | .snpx .. => true
  | .snpxi .. => true
  | .snpinv .. => true
  | .cohData .. => true
  | .acku .. => true
  | .snoopResponse .. => true
  | .retry .. => true
  | .grant .. => true
  | .cmp .. => true
  | .done .. => true
  | .evictionWriteback .. => true
  | .snoopTimeout .. => true
  | .reclaimWalkDone .. => true
  | .clean .. => true
  | .flush .. => true
  | .ashclr .. => true
  | .lock .. => true
  | .maintComplete .. => true
  | .ashClr .. => true
  | .ashOvfClear .. => true
  | .poolModeEnter .. => true
  | .poolModeLeave .. => true
  | .poolLeaveDone .. => true
  | .poolAgeSweep .. => true
  | .xlatReplyReplay .. => true
  | .xlatReplyRefuse .. => true
  | .xlatInvRange .. => true
  | .xlatInvContext .. => true
  | .xlatInvAll .. => true
  | .xlatInvDone .. => true
  | .rotChange .. => true
  | .rotChangeDone .. => true
  | .ringCfgWrite .. => true
  | .ringEnable .. => true
  | .ringPause .. => true
  | .ringResume .. => true
  | .ringDisable .. => true
  | .doorbell .. => true
  | .recordDoorbell .. => true
  | .descriptorFetchReturn .. => true
  | .descriptorRefetch .. => true
  | .descriptorWaitMet .. => true
  | .nop .. => true
  | .copy .. => true
  | .inlineOp .. => true
  | .reduce .. => true
  | .tilemove .. => true
  | .atomic .. => true
  | .launch .. => true
  | .fuller .. => true
  | .engineCompletion .. => true
  | .hostFlushReadReturn .. => true
  | .streamWrite .. => true
  | .streamRead .. => true
  | .streamAppend .. => true
  | .streamCommit .. => true
  | .streamDeadline .. => true
  | .streamPause .. => true
  | .streamResume .. => true
  | .streamClose .. => true
  | .streamExtend .. => true
  | .deadlineMiss .. => true
  | .tideSwitch .. => true
  | .flueAck .. => true
  | .flueData .. => true
  | .flueErr .. => true
  | .flueForward .. => true
  | .flueReadTimeout .. => true
  | .flueFlitReceive .. => true
  | .flueReplayFail .. => true
  | .flueErrrate .. => true
  | .flueLos .. => true
  | .flueLockLost .. => true
  | .flueRemoteDown .. => true
  | .flueRetrainTimer .. => true
  | .flueTrainingDone .. => true
  | .flueTrainingTimeout .. => true
  | .flueAttestDone .. => true
  | .probationEnd .. => true
  | .flueLinkUp .. => true
  | .flueKeyUpdate .. => true
  | .key .. => true
  | .fluLinkEn .. => true
  | .fluLinkRetrain .. => true
  | .fluLinkHoldctl .. => true
  | .fluLinkLoop .. => true
  | .helloSend .. => true
  | .hello .. => true
  | .peerWatchdogExpiry .. => true
  | .syncSend .. => true
  | .sync .. => true
  | .formOffer .. => true
  | .offerWindowEnd .. => true
  | .ack .. => true
  | .ackWindowEnd .. => true
  | .joinReq .. => true
  | .group .. => true
  | .dead .. => true
  | .membSetEmpty .. => true
  | .membAdmit .. => true
  | .timebaseTick .. => true
  | .routeDrainMarker .. => true
  | .dietestEn .. => true
  | .dietestGo .. => true
  | .hostLinkDown .. => true
  | .genWordReadDone .. => true
  | .hostRequestTimeout .. => true
  | .hostSnoopTimeout .. => true
  | .hostLinkForce .. => true
  | .ideInsecure .. => true
  | .hostBar0Read .. => true
  | .cxlMemrd .. => true
  | .cxlMemwr .. => true
  | .cxlBirsp .. => true
  | .perstAssert .. => true
  | .correctionUpdate .. => true
  | .droopDetect .. => true
  | .dipDetect .. => true
  | .dipRecover .. => true
  | .dipHoldEnd .. => true
  | .supplyResetLevel .. => true
  | .thermalStep .. => true
  | .thermalTrip .. => true
  | .rootPllLock .. => true
  | .slavePllLockLost .. => true
  | .refclkLost .. => true
  | .dmpCapCfgWrite .. => true
  | .dmpDroopCfgWrite .. => true
  | .dmpCorrWrite .. => true
  | .feedApplied .. => true
  | .softStartDone .. => true
  | .senseOpen .. => true
  | .supplyLoss .. => true
  | .kindleK0 .. => true
  | .kindleK1 .. => true
  | .kindleK2 .. => true
  | .kindleK3 .. => true
  | .kindleK4 .. => true
  | .kindleK5 .. => true
  | .kindleK6 .. => true
  | .kindleStageTimeout .. => true
  | .confirm .. => true
  | .resetCluster .. => true
  | .resetHearth .. => true
  | .resetPackage .. => true
  | .arbRaise .. => true
  | .arbRaiseDone .. => true
  | .keyGenerate .. => true
  | .keyGenerateDone .. => true
  | .getMeasurements .. => true
  | .challenge .. => true
  | .keyExchange .. => true
  | .debugToken .. => true
  | .leakDetected .. => true
  | .logMirror .. => true
  | .heartbeatKick .. => true
  | .heartbeatPeriod .. => true
  | .heartbeatExpired .. => true
  | .logRead .. => true
  | .configWrite .. => true
  | .moduleResetMessage .. => true
  | .powerDown .. => true
  | .getSensorReading .. => true
  | .pldmVerify .. => true
  | .pldmApply .. => true
  | .rstAssert .. => true
  | .rstRelease .. => true
  | .buddyCopyDone .. => true
  | .stagingDone .. => true
  | .recovery .. => true
  | .restoreReplay .. => true
  | .registerWrite .. => true
  | .matrixLastStepRead .. => true
  | .tileControllerCsrWrite .. => true
  | .deviceContextWrite .. => true
  | .perstRelease .. => true
  | .refclkReturn .. => true
  | .hostCompletion .. => true
  | .ideKm .. => true
  | .keyTableReinstallDone .. => true

end Sys2Proof
end

