-- ==== Sys2Proof/Config.lean ====
section
/-! DEFINITION. What an implementation fixes and the free values: constants without a body wherever the spec leaves a
value open, so that no proof can see one. Each is named in a row of the assumption log. -/

namespace Sys2Proof

/-- A free value of w bits: the k-th value that the spec leaves undefined in a run (log 4). -/
opaque Config.freeValue (w : Nat) (k : Nat) : BitVec w

/-- The result of a transcendental function on an ordinary finite input: Table 3.8 gives its accuracy and no bit of it; what breaks the
accuracy is never taken (log 5). -/
opaque Config.transc : TFun → W32 → W32

/-- The smaller of TRMAX and a trust ratio that is a NaN: R219's min is given for numbers (log 29). -/
opaque Config.trustMin : W32 → W32 → W32

/-- The word a vector compare writes to a lane, for false and true: Table 3.7 names the operation and no pattern
(log 6). -/
opaque Config.maskWord : Bool → W32

/-- Which operand a vector select takes under a mask word that no compare writes (log 6). -/
opaque Config.maskChoice : W32 → Bool

/-- An element quantised in a block whose scale is NaN: R99 gives the scale and no element (log 6). -/
opaque Config.quantUnderNan : Fmt → W32 → BitVec 8

/-- SEV of a record of Stoker's log where the spec names none, by KIND and code, and by the model's number of an event
without a code (log 7). -/
opaque Config.logSeverity : Nat → Nat → Nat → BitVec 2

/-- CODE of a record of Stoker's log for an event that no ring record matches, by the model's number of it (log 7). -/
opaque Config.logCode : Nat → BitVec 16

/-- Which tag of a full set the home replaces, by the line that needs one and the time: the spec gives no rule (log 120). -/
opaque Config.victim : Nat → Nat → Nat

/-- The weight fused at test of one cube step, in feed watts of a window (R467, log 152). -/
opaque Config.cubeWeight : Rat

/-- The setpoint of a rail in mV: Table 16.6 gives its levels relative to it, and the spec no number (log 50). -/
opaque Config.railSetpoint : Nat → Nat

/-- The per-part serial number, fixed in fuses (R513, Table 21.12; log 8). -/
opaque Config.serial : BitVec 64

/-- A context's keys, by kind (0 and 1 the XTS keys, 2 the integrity key), context, reset and generation: DRBG values that nothing but
Thirun's engine and the key tables holds (R527; log 9). -/
opaque Config.contextKey : Nat → Nat → Nat → Nat → BitVec 256

/-- AES-256 of a 16-byte block, byte 0 least significant, and its inverse: the spec names the cipher (R529, R530; log 149). -/
opaque Config.aes256 : BitVec 256 → BitVec 128 → BitVec 128
opaque Config.aes256Inv : BitVec 256 → BitVec 128 → BitVec 128

/-- SHA-512 of a byte string: the spec names the function (R511; log 150). -/
opaque Config.sha512 : List Byte → BitVec 512

/-- The SHA-512 of a measured object that the block's state names and does not hold byte by byte, by measurement index (Table 18.6;
log 150). -/
opaque Config.objectDigest : Nat → List Nat → BitVec 512

/-- The identity private key fuses (Table 18.1): the primes p and q, which Thirun's DRBG drew at manufacture (R514; log 150). -/
opaque Config.identityP : BitVec 2048
opaque Config.identityQ : BitVec 2048

/-- The 4,096-bit encoded message of RSASSA-PSS over an SPDM response's fields under a salt (R524, R526; log 150). -/
opaque Config.pssEncode : List Nat → BitVec 512 → BitVec 4096

/-- The identity key's modulus, and its public exponent (R514). -/
def Config.identityN : Nat := Config.identityP.toNat * Config.identityQ.toNat
def Config.identityE : Nat := 65537

/-- The inverse of a modulo m by Euclid's algorithm: x and y are the coefficients of a for r0 and r1. -/
def Config.inverse : Nat → Nat → Nat → Int → Int → Nat → Nat
  | 0, _, _, _, _, _ => 0
  | f + 1, r0, r1, x, y, m =>
    if r1 = 0 then (x % (m : Int)).toNat else Config.inverse f r1 (r0 % r1) y (x - (r0 / r1 : Nat) * y) m

/-- The private exponent, which the primes give (R514). -/
def Config.identityD : Nat :=
  let m := Nat.lcm (Config.identityP.toNat - 1) (Config.identityQ.toNat - 1)
  Config.inverse 8192 m (Config.identityE % m) 0 1 m

/-- A signature with the identity key: the encoded message to the private exponent (R514, R526). -/
def Config.identitySign (message : List Nat) (salt : BitVec 512) : Nat :=
  (Config.pssEncode message salt).toNat ^ Config.identityD % Config.identityN

/-- The identity key's DER SubjectPublicKeyInfo: rsaEncryption with the 512-byte modulus and the exponent (R516; log 150). -/
def Config.identitySpki : List Byte :=
  [0x30, 0x82, 0x02, 0x22, 0x30, 0x0D, 0x06, 0x09, 0x2A, 0x86, 0x48, 0x86, 0xF7, 0x0D, 0x01, 0x01, 0x01, 0x05, 0x00,
   0x03, 0x82, 0x02, 0x0F, 0x00, 0x30, 0x82, 0x02, 0x0A, 0x02, 0x82, 0x02, 0x01, 0x00] ++
    (List.range 512).map (fun i => BitVec.ofNat 8 (Config.identityN / 256 ^ (511 - i))) ++ [0x02, 0x03, 0x01, 0x00, 0x01]

/-- The identity digest: the SHA-512 of that key (R516). -/
def Config.ownDigest : BitVec 512 := Config.sha512 Config.identitySpki

/-- IDH: bits [63:0] of the identity digest (R516). -/
def Config.ownIdh : BitVec 64 := BitVec.ofNat 64 Config.ownDigest.toNat

/-- The challenge that Thirun's DRBG draws for the n-th time (R542; log 9). -/
opaque Config.challengeValue : Nat → BitVec 256

end Sys2Proof
end

