-- ==== Sys2Proof/Machine/Approx.lean ====
section
/-! DEFINITION. Bounds of the functions of the transcendental unit: for an operand, two rational numbers between which the exact value of
the function lies, closer together than any accuracy of Table 3.8 (R100, log 5). -/

namespace Sys2Proof.Machine

/-- A lower and an upper bound of a real number. -/
structure Between where
  lo : Rat
  hi : Rat
  deriving DecidableEq, Repr

namespace Between

def add (x y : Between) : Between := ⟨x.lo + y.lo, x.hi + y.hi⟩

def neg (x : Between) : Between := ⟨-x.hi, -x.lo⟩

/-- Times a number of either sign. -/
def scale (c : Rat) (x : Between) : Between := if 0 ≤ c then ⟨c * x.lo, c * x.hi⟩ else ⟨c * x.hi, c * x.lo⟩

/-- The reciprocal of a positive number. -/
def inv (x : Between) : Between := ⟨1 / x.hi, 1 / x.lo⟩

end Between

/-- 2^k for an integer k. -/
def pow2 (k : Int) : Rat := if 0 ≤ k then (2 ^ k.toNat : Nat) else 1 / ((2 ^ (-k).toNat : Nat) : Rat)

/-- The place of the top bit of a positive rational, within one. -/
def ratLog (x : Rat) : Int := (Nat.log2 x.num.natAbs : Int) - (Nat.log2 x.den : Int)

/-- A positive interval with its bounds moved outward to about 120 significant bits. -/
def trim (x : Between) : Between :=
  let a := pow2 (120 - ratLog x.lo)
  let b := pow2 (120 - ratLog x.hi)
  ⟨(x.lo * a).floor / a, ((x.hi * b).floor + 1) / b⟩

/-- ln 2, pi and 2 / sqrt pi, to 200 bits. -/
def ln2Between : Between :=
  ⟨1113844574712631719546256151097547306333272293549090750737802 / pow2 200,
    1113844574712631719546256151097547306333272293549090750737803 / pow2 200⟩

def piBetween : Between :=
  ⟨5048344754617993871973410141242436836214643421488662971535368 / pow2 200,
    5048344754617993871973410141242436836214643421488662971535369 / pow2 200⟩

def erfFactor : Between :=
  ⟨1813235411955051368075975534027907639852476658415964181376627 / pow2 200,
    1813235411955051368075975534027907639852476658415964181376628 / pow2 200⟩

/-- The sum of a series of n terms from a first term: each is the one before times the ratio that its number gives. -/
def series (ratio : Nat → Rat) : Nat → Nat → Rat → Rat
  | 0, _, _ => 0
  | n + 1, k, t => t + series ratio n (k + 1) (t * ratio k)

/-- e^y for |y| ≤ 512: the Taylor sum of y / 1024, squared ten times. -/
def expBetween (y : Rat) : Between :=
  let r := y / 1024
  let s := series (fun k => r / (k + 1)) 25 0 1
  (List.range 10).foldl (fun x _ => trim ⟨x.lo * x.lo, x.hi * x.hi⟩) ⟨s - pow2 (-100), s + pow2 (-100)⟩

/-- e^y: beyond the range of FP32 only its side is kept. -/
def expAll (y : Rat) : Between :=
  if y < -512 then ⟨0, pow2 (-200)⟩ else if 512 < y then ⟨pow2 200, pow2 200⟩ else expBetween y

/-- 2^x. -/
def exp2Between (x : Rat) : Between :=
  if x < -512 then ⟨0, pow2 (-200)⟩
  else
    let n := x.floor
    let f := x - n
    ⟨pow2 n * (expBetween (f * ln2Between.lo)).lo, pow2 n * (expBetween (f * ln2Between.hi)).hi⟩

/-- ln of m × 2^e for a positive m: 2 artanh of (c - 1) / (c + 1), where c is m with its point after its top bit. -/
def lnBetween (m : Nat) (e : Int) : Between :=
  let k := Nat.log2 m
  let c : Rat := (m : Rat) / ((2 ^ k : Nat) : Rat)
  let z := (c - 1) / (c + 1)
  let s := 2 * z * series (fun k => z * z * ((2 * k + 1 : Nat) : Rat) / ((2 * k + 3 : Nat) : Rat)) 32 0 1
  (Between.scale ((e + k : Int) : Rat) ln2Between).add ⟨s, s + z ^ 65⟩

/-- A positive or negative interval over a positive one. -/
def overPos (x y : Between) : Between :=
  ⟨if 0 ≤ x.lo then x.lo / y.hi else x.lo / y.lo, if 0 ≤ x.hi then x.hi / y.lo else x.hi / y.hi⟩

/-- sin t and cos t for |t| < 1. -/
def sinSmall (t : Rat) : Rat := t * series (fun k => -(t * t) / (((2 * k + 2) * (2 * k + 3) : Nat) : Rat)) 13 0 1
def cosSmall (t : Rat) : Rat := series (fun k => -(t * t) / (((2 * k + 1) * (2 * k + 2) : Nat) : Rat)) 14 0 1

/-- sin of x + a quarter turn times `turn`. -/
def sinBetween (x : Rat) (turn : Int) : Between :=
  let q := (x * 2 / piBetween.lo + 1 / 2).floor
  let t := x - q * piBetween.lo / 2
  let w := (q : Rat).abs * pow2 (-200)
  let n := (q + turn) % 4
  let v := if n % 2 = 0 then sinSmall t else cosSmall t
  let err := t.abs ^ 27 * pow2 (-90) + (if n % 2 = 0 then 0 else pow2 (-100)) + w
  let r : Between := ⟨v - err, v + err⟩
  if 2 ≤ n then r.neg else r

/-- tanh of a number that is not negative. -/
def tanhPos (y : Rat) : Between :=
  if y < 1 / 2 then
    let s := y * series (fun k => y * y / (((2 * k + 2) * (2 * k + 3) : Nat) : Rat)) 13 0 1
    let c := series (fun k => y * y / (((2 * k + 1) * (2 * k + 2) : Nat) : Rat)) 14 0 1
    overPos ⟨s, s + y ^ 27 * pow2 (-90)⟩ ⟨c, c + pow2 (-100)⟩
  else if 64 < y then ⟨1 - pow2 (-90), 1⟩
  else
    let e := expBetween (2 * y)
    ⟨1 - 2 / (e.lo + 1), 1 - 2 / (e.hi + 1)⟩

/-- erf of a number that is not negative. -/
def erfPos (y : Rat) : Between :=
  if 6 < y then ⟨1 - pow2 (-50), 1⟩
  else
    let p := y * series (fun k => -(y * y) * ((2 * k + 1 : Nat) : Rat) / (((k + 1) * (2 * k + 3) : Nat) : Rat)) 180 0 1
    let err := y * pow2 (-100)
    ⟨erfFactor.lo * (p - err), erfFactor.hi * (p + err)⟩

/-- An odd function from its values at numbers that are not negative. -/
def oddBetween (f : Rat → Between) (y : Rat) : Between := if 0 ≤ y then f y else (f (-y)).neg

end Sys2Proof.Machine
end

