-- ==== Sys2Proof/Machine/Bits.lean ====
section
/-! DEFINITION. Bit fields, byte order and small number helpers (R10, R11). -/

namespace Sys2Proof.Machine

/-- Bits [hi:lo] of a number (R10). -/
def field (v lo width : Nat) : Nat := (v >>> lo) % 2 ^ width

/-- A value placed at bit lo of a word, width bits wide. -/
def place (lo width v : Nat) : Nat := (v % 2 ^ width) <<< lo

/-- One bit of a number. -/
def bitAt (v i : Nat) : Bool := v.testBit i

def boolNat (b : Bool) : Nat := if b then 1 else 0

/-- The sum of placed fields: (lowest bit, width, value). -/
def packFields : List (Nat × Nat × Nat) → Nat
  | [] => 0
  | (lo, w, v) :: rest => place lo w v + packFields rest

/-- A 64-byte record from its fields. -/
def mkSlot (fs : List (Nat × Nat × Nat)) : Slot := BitVec.ofNat 512 (packFields fs)

/-- The n low bytes of a number, lowest first (R11). -/
def toBytes : Nat → Nat → List Byte
  | 0, _ => []
  | n + 1, v => BitVec.ofNat 8 v :: toBytes n (v / 256)

/-- The number whose bytes are given, lowest first (R11). -/
def ofBytes : List Byte → Nat
  | [] => 0
  | b :: bs => b.toNat + 256 * ofBytes bs

/-- A number read as a two's-complement number of w bits. -/
def toInt (w v : Nat) : Int :=
  if v % 2 ^ w < 2 ^ (w - 1) then (v % 2 ^ w : Nat) else ((v % 2 ^ w : Nat) : Int) - (2 ^ w : Nat)

/-- The w-bit two's-complement pattern of an integer. -/
def ofInt (w : Nat) (i : Int) : Nat := (i % ((2 ^ w : Nat) : Int)).toNat

/-- Division rounding up. -/
def ceilDiv (a b : Nat) : Nat := (a + b - 1) / b

/-- A number of w bits that holds the value and stays at the top once there. -/
def satNat (w v : Nat) : Nat := if v < 2 ^ w then v else 2 ^ w - 1

/-- A counter of w bits raised by n, staying at its top. -/
def satAdd {w : Nat} (c : BitVec w) (n : Nat) : BitVec w := BitVec.ofNat w (satNat w (c.toNat + n))

/-- The position of the highest set bit plus one; 0 for 0. -/
def bitLen (n : Nat) : Nat := if n = 0 then 0 else n.log2 + 1

/-- The numbers from a, n of them. -/
def rangeFrom (a : Nat) : Nat → List Nat
  | 0 => []
  | n + 1 => a :: rangeFrom (a + 1) n

/-- Element i of a list, or a default. -/
def nth {α : Type} (d : α) : List α → Nat → α
  | [], _ => d
  | x :: _, 0 => x
  | _ :: xs, i + 1 => nth d xs i

/-- A list with element i replaced; unchanged where there is none. -/
def setNth {α : Type} : List α → Nat → α → List α
  | [], _, _ => []
  | _ :: xs, 0, v => v :: xs
  | x :: xs, i + 1, v => x :: setNth xs i v

/-- A list cut into pieces of n (n at least 1), by fuel. -/
def chunks {α : Type} (n : Nat) : Nat → List α → List (List α)
  | 0, _ => []
  | _ + 1, [] => []
  | f + 1, xs => xs.take n :: chunks n f (xs.drop n)

end Sys2Proof.Machine
end

