-- ==== Sys2Proof/Machine/Flags.lean ====
section
/-! DEFINITION. The sticky flags of the arithmetic status word and their computation (R62, Table 2.8). -/

namespace Sys2Proof.Machine

/-- The flag bits an operation raises (Table 2.8). -/
structure FlagSet where
  nx : Bool := false
  uf : Bool := false
  of : Bool := false
  dz : Bool := false
  nv : Bool := false
  sp : Bool := false
  wn : Bool := false
  deriving DecidableEq, Repr

def flagsNone : FlagSet := {}

def flagsOr (a b : FlagSet) : FlagSet :=
  { nx := a.nx || b.nx, uf := a.uf || b.uf, of := a.of || b.of, dz := a.dz || b.dz, nv := a.nv || b.nv,
    sp := a.sp || b.sp, wn := a.wn || b.wn }

/-- The flag bits [6:0] as Table 2.8 places them. -/
def flagsWord (f : FlagSet) : W32 :=
  BitVec.ofNat 32 (packFields [(0, 1, boolNat f.nx), (1, 1, boolNat f.uf), (2, 1, boolNat f.of), (3, 1, boolNat f.dz),
    (4, 1, boolNat f.nv), (5, 1, boolNat f.sp), (6, 1, boolNat f.wn)])

/-- The status word with an operation's flags added: flags are sticky (R62). -/
def raiseFlags (w : W32) (f : FlagSet) : W32 := w ||| flagsWord f

/-- The fields of the status word a write can set: [6:0] and DRM [10:8]; the rest read as zero (Table 2.8, R12). -/
def statusWriteMask : W32 := 0x77F

/-- DRM, the rounding mode used when RM is DYN (Table 2.8). -/
def statusDrm (w : W32) : Nat := field w.toNat 8 3

/-- The rounding mode an RM field names, given the status word; none where Table 2.6 and Table 2.8 make the
instruction illegal. -/
def rmDecode (rm : Nat) (status : W32) : Option RMode :=
  match rm with
  | 0 => some .rne | 1 => some .rtz | 2 => some .rdn | 3 => some .rup | 4 => some .rmm | 5 => some .sr
  | 7 => match statusDrm status with
    | 0 => some .rne | 1 => some .rtz | 2 => some .rdn | 3 => some .rup | 4 => some .rmm | _ => none
  | _ => none

end Sys2Proof.Machine
end

