-- ==== Sys2Proof/Machine/Num.lean ====
section
/-! DEFINITION. Number formats, rounding and FP32 arithmetic (chapter 2, R96 to R101). -/

namespace Sys2Proof.Machine

/-- A decoded value: (-1)^neg × m × 2^e, an infinity or a NaN. -/
inductive Num where
  | nan
  | inf (neg : Bool)
  | fin (neg : Bool) (m : Nat) (e : Int)
  deriving DecidableEq, Repr

/-- How a floating format spells infinities and NaNs (Table 2.1). -/
inductive Special where
  | ieee | e4m3 | none
  deriving DecidableEq, Repr

/-- A floating format's exponent width, mantissa width, bias and special encodings. -/
structure FloatFmt where
  ebits : Nat
  mbits : Nat
  bias : Int
  special : Special
  deriving DecidableEq, Repr

def ffE4m3 : FloatFmt := ⟨4, 3, 7, .e4m3⟩
def ffE5m2 : FloatFmt := ⟨5, 2, 15, .ieee⟩
def ffE3m2 : FloatFmt := ⟨3, 2, 3, .none⟩
def ffE2m3 : FloatFmt := ⟨2, 3, 1, .none⟩
def ffE2m1 : FloatFmt := ⟨2, 1, 1, .none⟩
def ffBf16 : FloatFmt := ⟨8, 7, 127, .ieee⟩
def ffFp16 : FloatFmt := ⟨5, 10, 15, .ieee⟩
def ffFp32 : FloatFmt := ⟨8, 23, 127, .ieee⟩

/-- The decoding of a floating pattern (R37, R44): subnormals take their exact values (R43). -/
def floatDecode (f : FloatFmt) (v : Nat) : Num :=
  let mant := v % 2 ^ f.mbits
  let ex := field v f.mbits f.ebits
  let neg := v.testBit (f.mbits + f.ebits)
  if f.special = .ieee ∧ ex = 2 ^ f.ebits - 1 then (if mant = 0 then .inf neg else .nan)
  else if f.special = .e4m3 ∧ ex = 2 ^ f.ebits - 1 ∧ mant = 2 ^ f.mbits - 1 then .nan
  else if ex = 0 then .fin neg mant (1 - f.bias - f.mbits)
  else .fin neg (2 ^ f.mbits + mant) (ex - f.bias - f.mbits)

/-- A signed integer as a value with exponent e; the sign is carried in m (R44). -/
def intNum (i : Int) (e : Int) : Num := .fin (decide (i < 0)) i.natAbs e

/-- The decoding of an element (Table 2.2). -/
def elemDecode (f : Fmt) (v : Nat) : Num :=
  match f with
  | .e4m3 => floatDecode ffE4m3 v
  | .e5m2 => floatDecode ffE5m2 v
  | .e3m2 => floatDecode ffE3m2 v
  | .e2m3 => floatDecode ffE2m3 v
  | .e2m1 => floatDecode ffE2m1 v
  | .int8 => intNum (toInt 8 v) 0
  | .mxint8 => intNum (toInt 8 v) (-6)
  | .int4 => intNum (toInt 4 v) 0
  | .bf16 => floatDecode ffBf16 v
  | .fp16 => floatDecode ffFp16 v
  | .fp32 => floatDecode ffFp32 v

/-- Bits of one element (Table 2.1). -/
def Fmt_bits (f : Fmt) : Nat :=
  match f with
  | .e4m3 | .e5m2 | .int8 | .mxint8 => 8
  | .e3m2 | .e2m3 => 6
  | .e2m1 | .int4 => 4
  | .bf16 | .fp16 => 16
  | .fp32 => 32

/-- The significand width p (Table 2.2). -/
def Fmt_p (f : Fmt) : Nat :=
  match f with
  | .e4m3 => 4 | .e5m2 => 3 | .e3m2 => 3 | .e2m3 => 4 | .e2m1 => 2
  | .int8 | .mxint8 => 8 | .int4 => 4
  | .bf16 => 8 | .fp16 => 11 | .fp32 => 24

/-- BF16 and FP16 are the formats of the windowed mode; all other operand formats are exact (R42). -/
def Fmt_windowed (f : Fmt) : Bool := match f with | .bf16 | .fp16 => true | _ => false

/-- Operand format of a code of Table 4.4. -/
def fmtOfCode (c : Nat) : Option Fmt :=
  match c with
  | 0 => some .e4m3 | 1 => some .e5m2 | 2 => some .e3m2 | 3 => some .e2m3 | 4 => some .e2m1
  | 5 => some .int8 | 6 => some .mxint8 | 7 => some .int4 | 8 => some .bf16 | 9 => some .fp16
  | _ => none

/-- Output format of a code of Table 4.4. -/
def ofmtOfCode (c : Nat) : Option OFmt :=
  match c with
  | 0 => some .fp32 | 1 => some .bf16 | 2 => some .fp16 | 3 => some .e4m3 | 4 => some .e5m2 | 5 => some .int32
  | 6 => some .accWord | _ => none

/-- Bytes of one element of an output format. -/
def OFmt_bytes (f : OFmt) : Nat :=
  match f with
  | .fp32 | .int32 => 4 | .bf16 | .fp16 => 2 | .e4m3 | .e5m2 => 1 | .accWord => 32

/-- m × 2^e rounded to a multiple of 2^q under a mode: the multiple and whether anything was lost (Table 2.6; SR is
R61, u24 its 24 random bits). -/
def roundTo (mode : RMode) (u24 : Nat) (neg : Bool) (m : Nat) (e q : Int) : Nat × Bool :=
  if q ≤ e then (m * 2 ^ (e - q).toNat, false)
  else
    let s := (q - e).toNat
    let k := m / 2 ^ s
    let r := m % 2 ^ s
    if r = 0 then (k, false)
    else
      let up := match mode with
        | .rne => decide (2 ^ s < 2 * r) || (decide (2 * r = 2 ^ s) && k % 2 == 1)
        | .rtz => false
        | .rdn => neg
        | .rup => !neg
        | .rmm => decide (2 ^ s ≤ 2 * r)
        | .sr => decide (2 ^ 24 ≤ r * 2 ^ 24 / 2 ^ s + u24)
      (if up then k + 1 else k, true)

/-- The exponent of the last place a format keeps for a magnitude whose top bit stands at 2^(t). -/
def quantumOf (f : FloatFmt) (t : Int) : Int := max (t - f.mbits) (1 - f.bias - f.mbits)

/-- The pattern of the largest finite value of a format, without its sign (Table 2.1). -/
def maxFinite (f : FloatFmt) : Nat :=
  match f.special with
  | .ieee => (2 ^ f.ebits - 1) * 2 ^ f.mbits - 1
  | .e4m3 => 2 ^ (f.ebits + f.mbits) - 2
  | .none => 2 ^ (f.ebits + f.mbits) - 1

def signBit (f : FloatFmt) (neg : Bool) : Nat := if neg then 2 ^ (f.ebits + f.mbits) else 0

/-- The canonical NaN of a format (Table 2.7). -/
def canonNan (f : FloatFmt) : Nat :=
  match f.special with
  | .e4m3 => 2 ^ (f.ebits + f.mbits) - 1
  | _ => (2 ^ f.ebits - 1) * 2 ^ f.mbits + 2 ^ (f.mbits - 1)

/-- The infinity pattern of an IEEE-style format. -/
def infBits (f : FloatFmt) (neg : Bool) : Nat := (2 ^ f.ebits - 1) * 2 ^ f.mbits + signBit f neg

/-- Whether the IEEE 754 overflow rule of a mode goes to infinity (R57). -/
def overflowsToInf (mode : RMode) (neg : Bool) : Bool :=
  match mode with
  | .rne | .rmm | .sr => true
  | .rtz => false
  | .rup => !neg
  | .rdn => neg

/-- A finite overflow (Table 2.7, R611). -/
def floatOverflow (f : FloatFmt) (mode : RMode) (sat neg : Bool) : Nat × FlagSet :=
  let fl : FlagSet := { of := true, nx := true }
  if sat || !(overflowsToInf mode neg) then (maxFinite f + signBit f neg, fl)
  else match f.special with
    | .ieee => (infBits f neg, fl)
    | .e4m3 => (canonNan f, { fl with nv := true })
    | .none => (maxFinite f + signBit f neg, fl)

/-- An infinity result (Table 2.7, R611). -/
def floatInfinity (f : FloatFmt) (sat neg : Bool) : Nat × FlagSet :=
  match f.special with
  | .ieee => (infBits f neg, {})
  | .e4m3 => if sat then (maxFinite f + signBit f neg, { of := true, nx := true }) else (canonNan f, { nv := true })
  | .none => (maxFinite f + signBit f neg, { of := true, nx := true })

/-- A finite value rounded once to a floating format (R56 to R59): a nonzero value that rounds to zero keeps its sign;
tininess is judged after rounding with an unbounded exponent (R58). -/
def floatRound (f : FloatFmt) (mode : RMode) (u24 : Nat) (sat neg : Bool) (m : Nat) (e : Int) : Nat × FlagSet :=
  if m = 0 then (signBit f neg, {})
  else
    let t : Int := e + (bitLen m : Int) - 1
    let q := quantumOf f t
    let (k0, inexact) := roundTo mode u24 neg m e q
    let (k, q) := if k0 = 2 ^ (f.mbits + 1) then (2 ^ f.mbits, q + 1) else (k0, q)
    let ex : Int := if 2 ^ f.mbits ≤ k then q + f.bias + f.mbits else 0
    let bits := if 2 ^ f.mbits ≤ k then ex.toNat * 2 ^ f.mbits + (k - 2 ^ f.mbits) else k
    if maxFinite f < bits then floatOverflow f mode sat neg
    else
      let qn := t - f.mbits
      let (kn, _) := roundTo mode u24 neg m e qn
      let minq : Int := 1 - f.bias - f.mbits
      let tiny := decide (qn < minq) && !(decide (qn + 1 = minq) && decide (kn = 2 ^ (f.mbits + 1)))
      (bits + signBit f neg, { nx := inexact, uf := inexact && tiny })

/-- An exact zero: +0, or -0 under RDN (R59). -/
def zeroBits (f : FloatFmt) (mode : RMode) : Nat := signBit f (decide (mode = .rdn))

/-- INT32 delivery of m × 2^e (R57, R60). -/
def int32Round (mode : RMode) (u24 : Nat) (neg : Bool) (m : Nat) (e : Int) : Nat × FlagSet :=
  let (k, inexact) := roundTo mode u24 neg m e 0
  if neg then (if 2 ^ 31 < k then (0x80000000, { of := true, nx := true }) else (ofInt 32 (-(k : Int)), { nx := inexact }))
  else (if 2 ^ 31 - 1 < k then (0x7FFFFFFF, { of := true, nx := true }) else (k, { nx := inexact }))

def floatOfO (o : OFmt) : FloatFmt :=
  match o with
  | .bf16 => ffBf16 | .fp16 => ffFp16 | .e4m3 => ffE4m3 | .e5m2 => ffE5m2 | _ => ffFp32

/-- A NaN delivered in an output format (Table 2.7). -/
def deliverNan (o : OFmt) : Nat := match o with | .int32 => 0x80000000 | _ => canonNan (floatOfO o)

/-- A decoded value delivered in an output format under a mode and SAT (R56 to R60, R611); a zero keeps its sign. -/
def deliver (o : OFmt) (mode : RMode) (u24 : Nat) (sat : Bool) (x : Num) : Nat × FlagSet :=
  match x with
  | .nan => (deliverNan o, { nv := true })
  | .inf neg => match o with
    | .int32 => (if neg then 0x80000000 else 0x7FFFFFFF, { of := true, nx := true })
    | _ => floatInfinity (floatOfO o) sat neg
  | .fin neg m e => match o with
    | .int32 => int32Round mode u24 neg m e
    | _ => floatRound (floatOfO o) mode u24 sat neg m e

/-! ### FP32 arithmetic (R43, R96) -/

def fpDecode (v : Nat) : Num := floatDecode ffFp32 v

def nanResult : Nat × FlagSet := (canonNan ffFp32, { nv := true })

def fpFinish (mode : RMode) (neg : Bool) (m : Nat) (e : Int) : Nat × FlagSet :=
  if m = 0 then (zeroBits ffFp32 mode, {}) else floatRound ffFp32 mode 0 false neg m e

/-- The exact sum of two finite values: sign, magnitude, exponent. -/
def addFinite (na : Bool) (ma : Nat) (ea : Int) (nb : Bool) (mb : Nat) (eb : Int) : Bool × Nat × Int :=
  let e := min ea eb
  let ia : Int := (if na then -1 else 1) * ((ma * 2 ^ (ea - e).toNat : Nat) : Int)
  let ib : Int := (if nb then -1 else 1) * ((mb * 2 ^ (eb - e).toNat : Nat) : Int)
  (decide (ia + ib < 0), (ia + ib).natAbs, e)

/-- The sum of two decoded values, rounded once; a zero of equal signs keeps that sign. -/
def numAdd (mode : RMode) (x y : Num) : Nat × FlagSet :=
  match x, y with
  | .nan, _ => nanResult
  | _, .nan => nanResult
  | .inf a, .inf b => if a = b then (infBits ffFp32 a, {}) else nanResult
  | .inf a, .fin _ _ _ => (infBits ffFp32 a, {})
  | .fin _ _ _, .inf b => (infBits ffFp32 b, {})
  | .fin na ma ea, .fin nb mb eb =>
    if ma = 0 ∧ mb = 0 ∧ na = nb then (signBit ffFp32 na, {})
    else
      let (n, m, e) := addFinite na ma ea nb mb eb
      fpFinish mode n m e

/-- The exact product of two decoded values; of two infinities an infinity of the product's sign (log 124). -/
def numProduct (x y : Num) : Num :=
  match x, y with
  | .nan, _ => .nan
  | _, .nan => .nan
  | .inf a, .inf b => .inf (a != b)
  | .inf a, .fin b m _ => if m = 0 then .nan else .inf (a != b)
  | .fin a m _, .inf b => if m = 0 then .nan else .inf (a != b)
  | .fin a ma ea, .fin b mb eb => .fin (a != b) (ma * mb) (ea + eb)

def numNeg (x : Num) : Num :=
  match x with
  | .nan => .nan
  | .inf a => .inf (!a)
  | .fin a m e => .fin (!a) m e

def fpAdd (mode : RMode) (a b : Nat) : Nat × FlagSet := numAdd mode (fpDecode a) (fpDecode b)

def fpSub (mode : RMode) (a b : Nat) : Nat × FlagSet := numAdd mode (fpDecode a) (numNeg (fpDecode b))

def fpMul (mode : RMode) (a b : Nat) : Nat × FlagSet :=
  match numProduct (fpDecode a) (fpDecode b) with
  | .nan => nanResult
  | .inf n => (infBits ffFp32 n, {})
  | .fin n m e => floatRound ffFp32 mode 0 false n m e

/-- a × b + c, rounded once (R96). -/
def fpFma (mode : RMode) (a b c : Nat) : Nat × FlagSet := numAdd mode (numProduct (fpDecode a) (fpDecode b)) (fpDecode c)

/-- a / b, correctly rounded: 64 extra quotient bits and a sticky bit fix the rounding. -/
def fpDiv (mode : RMode) (a b : Nat) : Nat × FlagSet :=
  match fpDecode a, fpDecode b with
  | .nan, _ => nanResult
  | _, .nan => nanResult
  | .inf _, .inf _ => nanResult
  | .inf x, .fin y _ _ => (infBits ffFp32 (x != y), {})
  | .fin x _ _, .inf y => (signBit ffFp32 (x != y), {})
  | .fin x ma ea, .fin y mb eb =>
    if mb = 0 then (if ma = 0 then nanResult else (infBits ffFp32 (x != y), { dz := true }))
    else
      let q := ma * 2 ^ 64 / mb
      let sticky := if ma * 2 ^ 64 % mb = 0 then 0 else 1
      floatRound ffFp32 mode 0 false (x != y) (2 * q + sticky) (ea - eb - 65)

/-- The integer square root, found bit by bit from 2^k down. -/
def isqrtBits : Nat → Nat → Nat → Nat
  | 0, n, r => if (r + 1) * (r + 1) ≤ n then r + 1 else r
  | k + 1, n, r => if (r + 2 ^ (k + 1)) * (r + 2 ^ (k + 1)) ≤ n then isqrtBits k n (r + 2 ^ (k + 1)) else isqrtBits k n r

def isqrt (n : Nat) : Nat := if n = 0 then 0 else isqrtBits (bitLen n / 2) n 0

/-- The square root of m × 2^e with a sticky bit: magnitude and exponent, precise enough for one rounding to 24 bits. -/
def sqrtExact (m : Nat) (e : Int) : Nat × Int :=
  let odd : Nat := if e % 2 = 0 then 0 else 1
  let n := m * 2 ^ (odd + 128)
  let r := isqrt n
  let sticky := if r * r = n then 0 else 1
  (2 * r + sticky, (e - odd - 128) / 2 - 1)

def fpSqrt (mode : RMode) (a : Nat) : Nat × FlagSet :=
  match fpDecode a with
  | .nan => nanResult
  | .inf n => if n then nanResult else (infBits ffFp32 false, {})
  | .fin n m e =>
    if m = 0 then (signBit ffFp32 n, {})
    else if n then nanResult
    else let (r, er) := sqrtExact m e
      floatRound ffFp32 mode 0 false false r er

/-- a < b as values; false for NaNs. -/
def numLt (x y : Num) : Bool :=
  match x, y with
  | .nan, _ => false
  | _, .nan => false
  | .inf a, .inf b => a && !b
  | .inf a, .fin _ _ _ => a
  | .fin _ _ _, .inf b => !b
  | .fin na ma ea, .fin nb mb eb => (addFinite na ma ea (!nb) mb eb).1

def numEq (x y : Num) : Bool :=
  match x, y with
  | .nan, _ => false
  | _, .nan => false
  | .inf a, .inf b => a == b
  | .fin na ma ea, .fin nb mb eb => (addFinite na ma ea (!nb) mb eb).2.1 == 0
  | _, _ => false

def isSignalling (v : Nat) : Bool := decide (fpDecode v = .nan) && !(v.testBit 22)

/-- IEEE 754 minimumNumber and maximumNumber (Table 3.7): -0 is below +0; NV for a NaN delivered or a signalling
operand. -/
def fpMinMax (isMax : Bool) (a b : Nat) : Nat × FlagSet :=
  let fl : FlagSet := { nv := isSignalling a || isSignalling b }
  match fpDecode a, fpDecode b with
  | .nan, .nan => nanResult
  | .nan, _ => (b, fl)
  | _, .nan => (a, fl)
  | x, y =>
    let aLess := numLt x y || (numEq x y && a.testBit 31)
    (if aLess = isMax then b else a, fl)

/-- A compare of two lanes: whether it holds, and NV. Table 3.7 names no predicates: equal (quiet), less and less-or-equal
(signalling), as in IEEE 754 (log 123). -/
def fpCompare (c : Cmp) (a b : Nat) : Bool × FlagSet :=
  let x := fpDecode a
  let y := fpDecode b
  let anyNan := decide (x = .nan) || decide (y = .nan)
  match c with
  | .eq => (numEq x y, { nv := isSignalling a || isSignalling b })
  | .lt => (numLt x y, { nv := anyNan })
  | .le => (numLt x y || numEq x y, { nv := anyNan })

/-! ### The counter-based generator (R191) -/

def philoxRounds : Nat → Nat → Nat → Nat → Nat → Nat → Nat → Nat × Nat × Nat × Nat
  | 0, _, _, c0, c1, c2, c3 => (c0, c1, c2, c3)
  | n + 1, k0, k1, c0, c1, c2, c3 =>
    let p := 0xD2511F53 * c0
    let q := 0xCD9E8D57 * c2
    let n0 := (q / 2 ^ 32) ^^^ c1 ^^^ k0
    let n2 := (p / 2 ^ 32) ^^^ c3 ^^^ k1
    philoxRounds n ((k0 + 0x9E3779B9) % 2 ^ 32) ((k1 + 0xBB67AE85) % 2 ^ 32) n0 (q % 2 ^ 32) n2 (p % 2 ^ 32)

/-- counter_generate of R191: Philox4x32 with ten rounds. -/
def counterGenerate (key : Nat) (ctr : Nat) : Nat :=
  let (c0, c1, c2, c3) := philoxRounds 10 (field key 0 32) (field key 32 32) (field ctr 0 32) (field ctr 32 32)
    (field key 64 32) (field key 96 32)
  c0 + c1 * 2 ^ 32 + c2 * 2 ^ 64 + c3 * 2 ^ 96

/-- U of R61: bits [23:0] of the generator. -/
def srBits (key ctr : Nat) : Nat := counterGenerate key (ctr % 2 ^ 64) % 2 ^ 24

/-! ### Transcendental functions (R100, R101, Table 3.8) -/

def fpOne : Nat := 0x3F800000

/-- The value of (-1)^neg × m × 2^e. -/
def numRat (neg : Bool) (m : Nat) (e : Int) : Rat := (if neg then -1 else 1) * (m : Rat) * pow2 e

/-- 1 / sqrt of m × 2^e for a positive m. -/
def rsqrtBetween (m : Nat) (e : Int) : Between :=
  let (m, e) := if e % 2 = 0 then (m, e) else (2 * m, e - 1)
  let r := isqrt (2 ^ 200 / m)
  Between.scale (pow2 (-(e / 2) - 100)) ⟨(r : Rat), ((r + 2 : Nat) : Rat)⟩

/-- Where the exact value of a function lies for a finite operand in the domain of Table 3.8, and the largest error in units in the last
place; none where the table gives no bound: an operand of sin or cos beyond 2^16, or a reciprocal that FP32 cannot hold. -/
def transcBetween (f : TFun) (neg : Bool) (m : Nat) (e : Int) : Option (Between × Nat) :=
  let x := numRat neg m e
  match f with
  | .exp2 => some (exp2Between x, 1)
  | .exp => some (expAll x, 2)
  | .log2 => some (overPos (lnBetween m e) ln2Between, 1)
  | .ln => some (lnBetween m e, 2)
  | .recip => if (1 / x).abs < pow2 128 then some (⟨1 / x, 1 / x⟩, 1) else none
  | .rsqrt => some (rsqrtBetween m e, 1)
  | .sin => if x.abs ≤ 65536 then some (sinBetween x 0, 2) else none
  | .cos => if x.abs ≤ 65536 then some (sinBetween x 1, 2) else none
  | .tanh => some (oddBetween tanhPos x, 2)
  | .sigmoid => some ((⟨1 + (expAll (-x)).lo, 1 + (expAll (-x)).hi⟩ : Between).inv, 2)
  | .erf => some (oddBetween erfPos x, 3)

/-- One unit in the last place of a finite FP32 result. -/
def ulpOf (r : Nat) : Rat := pow2 ((max (field r 23 8) 1 : Nat) - 150)

/-- Whether an FP32 result is finite and within n units in its last place of a value that lies between two bounds. -/
def withinUlps (b : Between) (n r : Nat) : Bool :=
  match fpDecode r with
  | .fin neg m e => decide (b.lo - n * ulpOf r ≤ numRat neg m e) && decide (numRat neg m e ≤ b.hi + n * ulpOf r)
  | _ => false

/-- A rational rounded to the nearest FP32 value. -/
def nearestFp (x : Rat) : Nat :=
  let m := x.num.natAbs * 2 ^ 200
  (floatRound ffFp32 .rne 0 false (decide (x < 0)) (2 * (m / x.den) + (if m % x.den = 0 then 0 else 1)) (-201)).1

/-- The result of a function on an ordinary operand: the free value Config.transc where it keeps the accuracy of Table 3.8, and otherwise a
value that does, so that nothing but the accuracy is fixed (log 5). -/
def transcValue (f : TFun) (a : Nat) : Nat :=
  let r := (Config.transc f (BitVec.ofNat 32 a)).toNat
  match fpDecode a with
  | .fin neg m e => match transcBetween f neg m e with
    | some (b, n) => if withinUlps b n r then r else nearestFp b.lo
    | none => r
  | _ => r

/-- A transcendental result and its flags: the special results of Table 3.8; every other result is a free value within the table's
accuracy. -/
def transcEval (f : TFun) (a : Nat) : Nat × FlagSet :=
  let open_ : Nat × FlagSet := (transcValue f a, {})
  match fpDecode a with
  | .nan => nanResult
  | .inf neg => match f with
    | .exp2 | .exp => (if neg then 0 else infBits ffFp32 false, {})
    | .log2 | .ln => if neg then nanResult else (infBits ffFp32 false, {})
    | .recip => (signBit ffFp32 neg, {})
    | .rsqrt => if neg then nanResult else open_
    | .sin | .cos => nanResult
    | .tanh | .erf => (fpOne + signBit ffFp32 neg, {})
    | .sigmoid => (if neg then 0 else fpOne, {})
  | .fin neg m _ => match f with
    | .exp2 => if !neg && decide (0x43000000 ≤ a) then (infBits ffFp32 false, { of := true }) else open_
    | .exp => if !neg && decide (0x42B17218 ≤ a) then (infBits ffFp32 false, { of := true }) else open_
    | .log2 | .ln =>
      if m = 0 then (infBits ffFp32 true, { dz := true }) else if neg then nanResult else open_
    | .recip => if m = 0 then (infBits ffFp32 neg, { dz := true }) else open_
    | .rsqrt =>
      if m = 0 then (infBits ffFp32 neg, { dz := true }) else if neg then nanResult else open_
    | _ => open_

/-! ### Quantising to an MX format (R99) -/

/-- The exponent of the largest magnitude an element format's normal range starts its top binade at: emax of the OCP
rule. -/
def elemEmax (f : Fmt) : Int :=
  match f with
  | .e4m3 => 8 | .e5m2 => 15 | .e3m2 => 4 | .e2m3 => 2 | .e2m1 => 2 | _ => 0

def elemFloat (f : Fmt) : FloatFmt :=
  match f with
  | .e4m3 => ffE4m3 | .e5m2 => ffE5m2 | .e3m2 => ffE3m2 | .e2m3 => ffE2m3 | _ => ffE2m1

/-- floor(log2 |x|) of a nonzero finite value. -/
def log2Floor (m : Nat) (e : Int) : Int := e + (bitLen m : Int) - 1

/-- One element divided by its scale 2^(x-127) and rounded to the element format, saturating (R99). -/
def quantElem (f : Fmt) (mode : RMode) (u24 : Nat) (scale : Nat) (x : Num) : Nat × FlagSet :=
  match x with
  | .nan => match f with
    | .e4m3 | .e5m2 => (canonNan (elemFloat f), { nv := true })
    | _ => (0, { nv := true })
  | .inf neg => match f with
    | .mxint8 => (if neg then 0x80 else 0x7F, { of := true, nx := true })
    | _ => (maxFinite (elemFloat f) + signBit (elemFloat f) neg, { of := true, nx := true })
  | .fin neg m e =>
    let e' := e - ((scale : Int) - 127)
    match f with
    | .mxint8 =>
      let (k, inexact) := roundTo mode u24 neg m e' (-6)
      if neg then (if 128 < k then (0x80, { of := true, nx := true }) else (ofInt 8 (-(k : Int)), { nx := inexact }))
      else (if 127 < k then (0x7F, { of := true, nx := true }) else (k, { nx := inexact }))
    | _ => floatRound (elemFloat f) mode u24 true neg m e'

def blockMax : List Num → Option (Nat × Int)
  | [] => none
  | .fin _ m e :: xs =>
    if m = 0 then blockMax xs
    else match blockMax xs with
      | none => some (m, e)
      | some (m', e') => if log2Floor m' e' < log2Floor m e then some (m, e) else some (m', e')
  | _ :: xs => blockMax xs

/-- The scale of a block (R99) and the flags it raises. A block with a NaN delivers one in its scale, so NV is raised as for every
NaN delivered (Table 2.8; log 122); a scale exponent below what E8M0 holds, which R99 does not speak of, gives the least scale
0x00 (log 122). -/
def blockScale (f : Fmt) (xs : List Num) : Nat × FlagSet :=
  if xs.any (fun x => decide (x = .nan)) then (0xFF, { nv := true })
  else if xs.any (fun x => match x with | .inf _ => true | _ => false) then (0xFF, { nv := true })
  else match blockMax xs with
    | none => (0, {})
    | some (m, e) => ((min (max (log2Floor m e - elemEmax f + 127) 0) 254).toNat, {})

end Sys2Proof.Machine
end

