-- ==== Sys2Proof/Machine/Acc.lean ====
section
/-! DEFINITION. The accumulator word and its operations (R45 to R71). -/

namespace Sys2Proof.Machine

/-- The accumulator word (Table 2.3); `a` and `hi` are signed, -512 (0x200) when empty. -/
structure Acc where
  i : Int := 0
  a : Int := -512
  hi : Int := -512
  count : Nat := 0
  res : Nat := 0
  nan : Bool := false
  pinf : Bool := false
  ninf : Bool := false
  sp : Bool := false
  wn : Bool := false
  mode : Nat := 0
  deriving DecidableEq, Repr

/-- The zero accumulator: the empty word (R46). -/
def accZero : Acc := {}

def accEmpty (x : Acc) : Bool := decide (x.a = -512)

/-- COUNT saturates at 0xFF_FFFF (Table 2.3). -/
def countSat (n : Nat) : Nat := min n 0xFFFFFF

/-- 2^((a + 512) mod 7) mod 127 (R68). -/
def resFactor (a : Int) : Nat := 2 ^ ((a + 512) % 7).toNat

/-- The residue of I × 2^A (R68). -/
def resOf (i a : Int) : Nat := (i * (resFactor a : Int) % 127).toNat

/-- The exact-mode limit of R48 and R49. -/
def spanExceeded (a hi : Int) (count : Nat) : Bool := decide (72 < hi - a) || decide (2 ^ 23 < count)

/-- The word of 256 bits (Table 2.3), reserved bits zero (R52). -/
def accEncode (x : Acc) : Nat :=
  packFields [(0, 128, ofInt 128 x.i), (128, 10, ofInt 10 x.a), (138, 10, ofInt 10 x.hi), (148, 24, x.count),
    (172, 7, x.res), (179, 1, boolNat x.nan), (180, 1, boolNat x.pinf), (181, 1, boolNat x.ninf), (182, 1, boolNat x.sp),
    (183, 1, boolNat x.wn), (184, 2, x.mode)]

/-- A word read from storage, its reserved bits ignored (R52). -/
def accDecode (v : Nat) : Acc :=
  { i := toInt 128 (field v 0 128), a := toInt 10 (field v 128 10), hi := toInt 10 (field v 138 10),
    count := field v 148 24, res := field v 172 7, nan := bitAt v 179, pinf := bitAt v 180, ninf := bitAt v 181,
    sp := bitAt v 182, wn := bitAt v 183, mode := field v 184 2 }

/-- What a failed check found (R52, R70, R214): the CODE of an arithmetic-integrity record and the two residues. -/
structure IntegErr where
  code : Nat
  held : Nat
  fresh : Nat
  deriving DecidableEq, Repr

/-- A malformed word (R52). -/
def accMalformed (x : Acc) : Bool :=
  decide (2 ≤ x.mode) || decide (x.res = 127) ||
    (decide (x.mode = 0) && (decide (x.i < -(2 ^ 95 : Int)) || decide ((2 ^ 95 : Int) ≤ x.i)))

/-- The checks made on a word that is read, merged or loaded (R52, R70): none where it passes. -/
def accCheck (x : Acc) : Option IntegErr :=
  if accMalformed x then some ⟨2, x.res, resOf x.i x.a⟩
  else if x.res ≠ resOf x.i x.a then some ⟨1, x.res, resOf x.i x.a⟩
  else none

/-- A product of two elements as one contribution, or the flags a special product sets (R45, R53). `b` is the block
exponent, `wd` the contribution's width, `r` its residue from the operands (R69). -/
inductive Contribution where
  | zero
  | nan
  | inf (neg : Bool)
  | value (q : Int) (f : Int) (wd : Nat) (r : Nat)
  deriving DecidableEq, Repr

/-- The contribution of elements x and y, block exponent b, significand widths pa and pb (R45, R53, R69); `scaleNan`
where either block scale is 0xFF. R53 does not speak of an infinity multiplied by an infinity: it counts as an infinity of the
product's sign (log 124). -/
def contribution (scaleNan : Bool) (x y : Num) (b : Int) (pa pb : Nat) : Contribution :=
  if scaleNan then .nan
  else match x, y with
  | .nan, _ => .nan
  | _, .nan => .nan
  | .inf s, .inf t => .inf (s != t)
  | .inf s, .fin t m _ => if m = 0 then .nan else .inf (s != t)
  | .fin t m _, .inf s => if m = 0 then .nan else .inf (s != t)
  | .fin sa ma ea, .fin sb mb eb =>
    if ma = 0 ∨ mb = 0 then .zero
    else
      let sgn : Int := if sa = sb then 1 else -1
      let f := ea + eb + b
      .value (sgn * ((ma * mb : Nat) : Int)) f (pa + pb)
        ((sgn * (((ma % 127) * (mb % 127) * resFactor f : Nat) : Int)) % 127).toNat

/-- A single contribution as a word of a mode. -/
def leafAcc (mode : Nat) (c : Contribution) : Acc :=
  match c with
  | .zero => accZero
  | .nan => { accZero with nan := true }
  | .inf neg => if neg then { accZero with ninf := true } else { accZero with pinf := true }
  | .value q f wd r =>
    if mode = 0 ∧ spanExceeded f (f + wd) 1 then
      { a := f, hi := f + wd, count := 1, sp := true, mode := mode }
    else { i := q, a := f, hi := f + wd, count := 1, res := r, mode := mode }

/-- Flag bits of two words ORed onto a word. -/
def orAccFlags (x y z : Acc) : Acc :=
  { z with nan := x.nan || y.nan, pinf := x.pinf || y.pinf, ninf := x.ninf || y.ninf, sp := z.sp || x.sp || y.sp,
           wn := z.wn || x.wn || y.wn }

/-- The word of the union of two sets of contributions in exact mode (R47, R49, R51). -/
def accUnion (x y : Acc) : Acc :=
  if accEmpty x then orAccFlags x y y
  else if accEmpty y then orAccFlags x y x
  else
    let a := min x.a y.a
    let hi := max x.hi y.hi
    let count := countSat (x.count + y.count)
    let past := x.sp || y.sp || spanExceeded a hi count
    let i := if past then 0 else x.i * 2 ^ (x.a - a).toNat + y.i * 2 ^ (y.a - a).toNat
    let res := if past then 0 else (x.res + y.res) % 127
    orAccFlags x y { i := i, a := a, hi := hi, count := count, res := res, sp := past, mode := x.mode }

/-- A node of the summation tree of BF16 and FP16 mode (R64): the exact sum, rounded to 127 significant bits under RNE
when its magnitude at the lower anchor reaches 2^127. -/
def accNode (x y : Acc) : Acc :=
  if accEmpty x then orAccFlags x y y
  else if accEmpty y then orAccFlags x y x
  else
    let a := min x.a y.a
    let s := x.i * 2 ^ (x.a - a).toNat + y.i * 2 ^ (y.a - a).toNat
    let base : Acc := { i := s, a := a, hi := max x.hi y.hi, count := countSat (x.count + y.count),
                        res := (x.res + y.res) % 127, mode := x.mode }
    if s.natAbs < 2 ^ 127 then orAccFlags x y base
    else
      let n := bitLen s.natAbs - 127
      let (k, inexact) := roundTo .rne 0 (decide (s < 0)) s.natAbs 0 n
      let (k, n) := if k = 2 ^ 127 then (2 ^ 126, n + 1) else (k, n)
      let i : Int := if s < 0 then -(k : Int) else (k : Int)
      -- the residue moves by the residue of the rounding adjustment, so that it keeps matching I
      let adj := (i * 2 ^ n - s) * (resFactor a : Int)
      orAccFlags x y { base with i := i, a := a + n, res := (((base.res : Int) + adj) % 127).toNat, wn := inexact }

/-- Whether the node that joins two words rounds: the WN that neither word brings (R64, Table 2.8). -/
def nodeRounds (mode : Nat) (x y : Acc) : Bool :=
  decide (mode ≠ 0) && (accNode { x with wn := false } { y with wn := false }).wn

def accJoin (mode : Nat) (x y : Acc) : Acc := if mode = 0 then accUnion x y else accNode x y

/-- One level of the tree of R63: neighbours paired; a last one without a partner pairs with zero contributions. -/
def pairLevel (mode : Nat) : List Acc → List Acc
  | x :: y :: rest => accJoin mode x y :: pairLevel mode rest
  | [x] => [x]
  | [] => []

/-- The summation tree (R63), one level per unit of fuel. -/
def accTree (mode : Nat) : Nat → List Acc → Acc
  | _, [] => accZero
  | _, [x] => x
  | 0, x :: _ => x
  | f + 1, xs => accTree mode f (pairLevel mode xs)

/-- Merging two stored words (R51, R66): the checks first (R70), an empty word is the identity, words of different
modes are a format error. Of two empty words neither is returned unchanged where both hold flags: their flags are ORed, so that
the order does not matter (log 125). -/
def accMerge (x y : Acc) : Except IntegErr Acc :=
  match accCheck x with
  | some e => .error e
  | none => match accCheck y with
    | some e => .error e
    | none =>
      if accEmpty x && accEmpty y then .ok (orAccFlags x y (if x = accZero then y else x))
      else if accEmpty y then .ok x
      else if accEmpty x then .ok y
      else if x.mode ≠ y.mode then .error ⟨2, x.res, resOf x.i x.a⟩
      else .ok (accJoin x.mode x y)

def mergePairs : List Acc → Except IntegErr (List Acc)
  | x :: y :: rest =>
    match accMerge x y with
    | .error e => .error e
    | .ok z => match mergePairs rest with
      | .error e => .error e
      | .ok zs => .ok (z :: zs)
  | xs => .ok xs

/-- Words merged in the pairwise order of ascending slice (R63, R66, R354). -/
def mergeTree : Nat → List Acc → Except IntegErr Acc
  | _, [] => .ok accZero
  | _, [x] => .ok x
  | 0, x :: _ => .ok x
  | f + 1, xs => match mergePairs xs with
    | .error e => .error e
    | .ok ys => mergeTree f ys

/-- An imported value as one contribution (R50, R53). -/
def importAcc (mode : Nat) (f : Fmt) (v : Nat) : Acc :=
  match elemDecode f v with
  | .nan => { accZero with nan := true }
  | .inf neg => leafAcc mode (.inf neg)
  | .fin neg m e =>
    if m = 0 then accZero
    else
      let q : Int := if neg then -(m : Int) else (m : Int)
      leafAcc mode (.value q e (Fmt_p f) (resOf q e))

/-- Flags a read-out or merge raises because of the word it met (Table 2.8). -/
def accWordFlags (x : Acc) : FlagSet := { sp := x.sp, wn := x.wn }

/-- Read-out of a word to a format (R54 to R60, Table 2.4): bits and flags; u24 the random bits of SR. -/
def accRead (o : OFmt) (mode : RMode) (u24 : Nat) (sat : Bool) (t : Int) (x : Acc) : Nat × FlagSet :=
  match o with
  | .accWord => (accEncode x, accWordFlags x)
  | _ =>
    let (bits, fl) : Nat × FlagSet :=
      if x.nan || (x.pinf && x.ninf) then deliver o mode u24 sat .nan
      else if x.sp then ((deliver o mode u24 sat .nan).1, { nv := true, sp := true })
      else if x.pinf then deliver o mode u24 sat (.inf false)
      else if x.ninf then deliver o mode u24 sat (.inf true)
      else if x.i = 0 then (match o with | .int32 => (0, {}) | _ => (zeroBits (floatOfO o) mode, {}))
      else deliver o mode u24 sat (.fin (decide (x.i < 0)) x.i.natAbs (x.a + t))
    (bits, flagsOr fl (accWordFlags x))

/-! ### Norm words (R212 to R215) -/

/-- The norm word (Table 7.3). -/
structure Norm where
  sum : Nat := 0
  cnt : Nat := 0
  nan : Bool := false
  inf : Bool := false
  res : Nat := 0
  deriving DecidableEq, Repr

def normEncode (n : Norm) : Nat :=
  packFields [(0, 640, n.sum), (640, 40, n.cnt), (680, 1, boolNat n.nan), (681, 1, boolNat n.inf), (682, 7, n.res)]

def normDecode (v : Nat) : Norm :=
  { sum := field v 0 640, cnt := field v 640 40, nan := bitAt v 680, inf := bitAt v 681, res := field v 682 7 }

/-- The residue check of a norm word (R214). -/
def normCheck (n : Norm) : Option IntegErr :=
  if n.res = n.sum % 127 then none else some ⟨3, n.res, n.sum % 127⟩

/-- A value squared into a norm word, exactly (R212, R213): the unit of SUM is 2^-300. -/
def normTap (n : Norm) (x : Num) : Norm :=
  let cnt := min (n.cnt + 1) (2 ^ 40 - 1)
  match x with
  | .nan => { n with cnt := cnt, nan := true }
  | .inf _ => { n with cnt := cnt, inf := true }
  | .fin _ m e =>
    let sq := m * m * 2 ^ (2 * e + 300).toNat
    { n with sum := n.sum + sq, cnt := cnt, res := (n.res + sq) % 127 }

/-- Two norm words merged (R214). -/
def normMerge (x y : Norm) : Except IntegErr Norm :=
  match normCheck x with
  | some e => .error e
  | none => match normCheck y with
    | some e => .error e
    | none => .ok { sum := x.sum + y.sum, cnt := min (x.cnt + y.cnt) (2 ^ 40 - 1), nan := x.nan || y.nan,
                    inf := x.inf || y.inf, res := (x.res + y.res) % 127 }

/-- The root form of R215, an FP32 pattern. -/
def normRoot (n : Norm) : Nat :=
  if n.nan || n.inf then canonNan ffFp32
  else if n.sum = 0 then 0
  else let (m, e) := sqrtExact n.sum (-300)
    (floatRound ffFp32 .rne 0 false false m e).1

/-- The sum form of R215, an FP32 pattern. -/
def normSum (n : Norm) : Nat :=
  if n.nan || n.inf then canonNan ffFp32
  else (floatRound ffFp32 .rne 0 false false n.sum (-300)).1

/-! ### Atomic operations (R246) -/

/-- The new value an atomic operation writes (Table 8.9); `bits` is 32 or 64. -/
def atomicNew (op : AOp) (bits old opnd cmp : Nat) : Nat :=
  let o := old % 2 ^ bits
  let x := opnd % 2 ^ bits
  match op with
  | .add => (o + x) % 2 ^ bits
  | .swap => x
  | .cas => if o = cmp % 2 ^ bits then x else o
  | .and => o &&& x
  | .or => o ||| x
  | .xor => o ^^^ x
  | .min => if toInt bits x < toInt bits o then x else o
  | .max => if toInt bits o < toInt bits x then x else o
  | .minu => min o x
  | .maxu => max o x

def aopOfCode (c : Nat) : Option AOp :=
  match c with
  | 0 => some .add | 1 => some .swap | 2 => some .cas | 3 => some .and | 4 => some .or | 5 => some .xor
  | 6 => some .min | 7 => some .max | 8 => some .minu | 9 => some .maxu | _ => none

end Sys2Proof.Machine
end

