-- ==== Sys2Proof/Machine/Tab.lean ====
section
/-! DEFINITION. Sparse tables in one canonical form: keys strictly rising, and no entry equal to the value that an
unlisted key reads as, so that equal tables are equal data. Memory and every large array of the spec (rings, streams,
tally counters, line marks) is one. -/

namespace Sys2Proof.Machine

/-- A table from numbers to values. -/
abbrev Tab (α : Type) := List (Nat × α)

/-- What key k holds, d where nothing is listed. -/
def Tab.get {α : Type} (d : α) : Tab α → Nat → α
  | [], _ => d
  | (j, v) :: t, k => if j = k then v else Tab.get d t k

/-- Key k removed. -/
def Tab.erase {α : Type} (t : Tab α) (k : Nat) : Tab α := t.filter (fun e => e.1 != k)

/-- Key k listed with v at its place in the order; an entry of the same key is replaced. -/
def Tab.insert {α : Type} : Tab α → Nat → α → Tab α
  | [], k, v => [(k, v)]
  | (j, w) :: t, k, v =>
    if k < j then (k, v) :: (j, w) :: t
    else if k = j then (k, v) :: t
    else (j, w) :: Tab.insert t k v

/-- Key k set to v, keeping the canonical form; whatever the table lists under k goes first, so that the last write to a key is all that
counts, in every table. -/
def Tab.put {α : Type} [DecidableEq α] (d : α) (t : Tab α) (k : Nat) (v : α) : Tab α :=
  if v = d then Tab.erase t k else Tab.insert (Tab.erase t k) k v

/-- Key k changed by a function. -/
def Tab.modify {α : Type} [DecidableEq α] (d : α) (t : Tab α) (k : Nat) (f : α → α) : Tab α :=
  Tab.put d t k (f (Tab.get d t k))

/-- The keys from a, n of them, returned to the default. -/
def Tab.eraseRange {α : Type} (t : Tab α) (a n : Nat) : Tab α :=
  t.filter (fun e => decide (e.1 < a) || decide (a + n ≤ e.1))

/-- The canonical form: keys strictly rising, no default listed. -/
def Tab.wf {α : Type} [DecidableEq α] (d : α) : Tab α → Bool
  | [] => true
  | [(_, v)] => decide (v ≠ d)
  | (j, v) :: (k, w) :: t => decide (v ≠ d) && decide (j < k) && Tab.wf d ((k, w) :: t)

end Sys2Proof.Machine
end

