-- ==== Sys2Proof/Types/Base.lean ====
section
/-! DEFINITION. Who makes an access, what answer it gets, where an address leads, what leaves the block, and Stoker's
log entries. -/

namespace Sys2Proof.Machine

/-- Who makes a request; the SRC codes of Table 20.3 and the TYPE codes of Table 10.7 follow from it. -/
inductive Agent where
  | tile (g : Nat)
  | copyIn (die i : Nat)
  | copyOut (die i : Nat)
  | mover (die i : Nat)
  | fuller (die k : Nat)
  | dispatch (die i : Nat)
  | streamTable
  | core (h : Nat)
  | cluster (b : Nat)
  | home (die : Nat)
  | hostLink (h : Nat)
  | flueLink (p : Nat)
  | ringUnit
  deriving DecidableEq, Repr

/-- Kinds of access (Table 10.7 ACC). -/
inductive Acc3 where
  | read | write | atomic | fetch
  deriving DecidableEq, Repr

/-- Where a physical address leads (Table 1.3); main memory under its direct name (R22). -/
inductive Place where
  | main (die d : Nat)
  | near (die off : Nat)
  | spad (g off : Nat)
  | remote (p off : Nat)
  | host (h off : Nat)
  | regs (off : Nat)
  | bell (off : Nat)
  | nowhere
  deriving DecidableEq, Repr

/-- The answer to an access. `wait` is no answer yet: the unit asked is held (R563, R564, R333). -/
inductive Resp where
  | ok
  | decode (code : Nat)
  | lost (overflow : Bool) (agent tick : Nat)
  | uncorr (code array : Nat)
  | guard
  | targetLost
  | hostLost
  | remoteErr
  | wait
  deriving DecidableEq, Repr

/-- Blocks that Table 19.5 names as SRC. -/
inductive LogSrc where
  | chm | hth | grt | mem | ful | flu | hlk | dmp | stk | thn
  deriving DecidableEq, Repr

/-- One record of Stoker's log (R551, Table 19.5). KIND and code are the spec's where it gives them; an event that the
spec has logged without numbering it has KIND 0 and the model's own number `tag` (log 7). SEV is the open value
Config.logSeverity where the spec names none. -/
structure LogRec where
  seq : Nat := 0
  tick : W64 := 0
  src : LogSrc
  sev : BitVec 2 := 0
  unit : Nat := 0
  kind : Nat := 0
  code : Nat := 0
  tag : Nat := 0
  ctx : Option Nat := none
  addr : Nat := 0
  data : Nat := 0
  deriving DecidableEq, Repr

/-- A flue packet as the model sends it (Table 14.6): what it asks, where it goes and its payload. -/
inductive FlueMsg where
  | write (id addr : Nat) (ctx : Nat) (mask : Nat) (data : List Byte)
  | merge (id addr : Nat) (ctx : Nat) (norm : Bool) (data : List Byte)
  | atomic (id addr : Nat) (ctx : Nat) (op : AOp) (size : Nat) (opnd cmp : Nat)
  | read (id addr : Nat) (ctx : Nat) (len : Nat)
  | ack (id : Nat)
  | data (id : Nat) (bytes : List Byte)
  | err (id : Nat) (code : Nat)
  | hello (fields : List Nat)
  | sync (count : W64)
  | ctrl (what : Nat) (fields : List Nat)
  | key (seq : Nat)
  | replay (seq : Nat)
  deriving DecidableEq, Repr

/-- What leaves the block, in order: interrupts, packets, host-link traffic, answers of Thirun and Stoker, pin levels.
The agents outside the block are not modelled. -/
inductive Out where
  | irq (vec : Nat)
  | msix (link vec : Nat) (addr : W64) (data : W32)
  | hostWrite (link addr : Nat) (relaxed : Bool) (bytes : List Byte)
  | hostRead (link id addr len : Nat)
  | hostFlushRead (link ring slot : Nat)
  | hostGenRead (link addr : Nat)
  | hostCpl (link : Nat) (ok : Bool) (bytes : List Byte)
  | hostUr (link : Nat)
  | cxl (what : Nat) (addr : Nat) (ide : Bool) (bytes : List Byte)
  | flue (link : Nat) (dest : Nat) (m : FlueMsg)
  /-- A data packet, with the sender's position and the destination's epoch (R421). -/
  | packet (link dest spos depoch : Nat) (m : FlueMsg)
  | coreFault (hart : Nat) (code : Nat) (tval : W64)
  | coreData (hart : Nat) (value : W64)
  | tileData (grate : Nat) (value : W64)
  | mgmt (what : Nat) (fields : List Nat)
  | pin (name : Nat) (level : Bool)
  deriving DecidableEq, Repr

end Sys2Proof.Machine
end

