-- ==== Sys2Proof/Types/Grate.lean ====
section
/-! DEFINITION. State of a grate and its tile controller (chapters 3, 4 and 8). -/

namespace Sys2Proof.Machine

/-- Grate states (Table 14.14; encodings of GRT_STATE). -/
inductive GState where
  | idle | running | stopped | halted
  deriving DecidableEq, Repr

/-- The accumulation an array holds (R88). -/
structure Held where
  shape : Nat
  m : Nat
  n : Nat
  mode : Nat
  deriving DecidableEq, Repr

/-- A slot-table entry (Table 4.7). -/
structure SlotEnt where
  base : BitVec 12 := 0
  len : BitVec 12 := 0
  cons : BitVec 4 := 0
  guard : Bool := false
  full : Bool := false
  v : Bool := false
  epoch : BitVec 16 := 0
  remain : BitVec 4 := 0
  deriving DecidableEq, Repr

/-- The read-out of a matrix instruction as it was issued: format, mode (DYN resolved), SAT, T, counter base, key. -/
structure ReadOut where
  ofmt : OFmt
  rm : RMode
  sat : Bool
  t : Int
  base : W64
  key : Nat
  deriving DecidableEq, Repr

/-- A queued matrix instruction: issue order, its PC and word, the command, where its activation and destination slots
stood at issue, its read-out. -/
structure MatOp where
  seq : Nat
  pc : W64
  insn : W32
  cmd : Nat
  abase : Nat
  dbase : Nat
  ro : Option ReadOut
  deriving DecidableEq, Repr

/-- A queued weight load, with the base of its source at issue. -/
structure WlOp where
  seq : Nat
  pc : W64
  insn : W32
  cmd : Nat
  pstr : Nat
  base : Nat
  deriving DecidableEq, Repr

/-- What a queued vector or transcendental instruction does: an operation with its rounding mode resolved, or a load or store with
the scratchpad offset, slot and role of its access. -/
inductive VecWork where
  | op (o : VecOp) (m : RMode)
  | load (rd : Fin 32) (off slot role : Nat)
  | store (rs2 : Fin 32) (off slot role : Nat)
  deriving DecidableEq, Repr

/-- A queued vector or transcendental instruction (R104): issue order, its PC and word, its work, the rounding key at issue, and
what the code will find in the words it reads. -/
structure VecInstr where
  seq : Nat
  pc : W64
  insn : W32
  work : VecWork
  key : Nat
  find : EccFind
  deriving DecidableEq, Repr

/-- The contents a scratchpad word had before a write that was made while unit instructions were outstanding: an instruction
issued before that write may still see them (R121, R129). `issued` counts the instructions issued before the write. -/
structure PastWord where
  word : Nat
  issued : Nat
  bytes : List Byte
  deriving DecidableEq, Repr

/-- The drain register while a read-out stands in it (R89, R90): the words by array, row and column. -/
structure Drain where
  op : MatOp
  ro : ReadOut
  words : Tab Acc
  deriving DecidableEq, Repr

/-- An exception being entered or entered: cause (Table 4.15), PC, instruction, further record fields, and the record
of the matching kind where Table 20.6 names one. -/
structure HaltInfo where
  cause : Nat
  pc : W64
  insn : W32
  extra : List (Nat × Nat × Nat) := []
  matching : Option Slot := none
  deriving DecidableEq, Repr

/-- A tile-controller scalar access (R242): `amo` none for a plain access; LR and SC are marked. -/
inductive TcKind where
  | load (size : Nat) (signed : Bool) (rd : Nat)
  | store (size : Nat) (value : W64)
  | amo (op : AOp) (size : Nat) (rd : Nat) (value : W64)
  | lr (size : Nat) (rd : Nat)
  | sc (size : Nat) (rd : Nat) (value : W64)
  | fetch
  deriving DecidableEq, Repr

structure TcAccess where
  pc : W64
  insn : W32
  va : W64
  kind : TcKind
  find : EccFind := .clean
  deriving DecidableEq, Repr

/-- Why issue stands still. -/
inductive Stall where
  | none
  | unitWait (mask : BitVec 5) (pc : W64) (insn : W32)
  | signal (g : Nat) (ctr : Nat) (inc : W64) (pc : W64) (insn : W32)
  | eventWait (ctr : Nat) (target : W64) (since : Nat) (pc : W64) (insn : W32)
  | tallyWait (ctr : Nat) (pkts : Bool) (target : W64) (since : Nat) (pc : W64) (insn : W32)
  | boundary (pc : W64) (insn : W32)
  | ecall (pc : W64) (insn : W32)
  | fence (read : Bool) (pc : W64) (insn : W32)
  | access (a : TcAccess)
  | remote (a : TcAccess) (id : Nat)
  | halting (h : HaltInfo)
  deriving DecidableEq, Repr

/-- A lost store (R264, R568): target kind and number, block address, virtual address, tick of its error. -/
structure LostStore where
  tt : Nat
  tgt : Nat
  block : Nat
  va : W64
  ctx : Nat
  tick : Nat
  deriving DecidableEq, Repr

/-- A store-buffer entry (R240, R604): its place in issue order, the store's PC, virtual and physical address, size and
value; `sent` holds the tick count at which a store to T4 was sent, and its request number;
`ack` and `lost` its answer, until it leaves the buffer in its place (R240, R263). -/
structure SbEnt where
  seq : Nat := 0
  pc : W64 := 0
  insn : W32 := 0
  va : W64 := 0
  pa : Nat := 0
  size : Nat := 0
  value : W64 := 0
  ctx : Nat := 0
  sent : Option (Nat × Nat) := none
  ack : Bool := false
  lost : Option LostStore := none
  deriving DecidableEq, Repr

/-- One grate; `badWords` are the scratchpad words that the code has found beyond correction and that no whole write has replaced
(R116), `cubeSteps` the activity counter of the window: cube steps that were not gated (R79, R467). -/
structure Grate where
  st : GState := .idle
  ctx : Ctx := 0
  pc : W64 := 0
  stopreq : Bool := false
  clearing : Bool := false
  ctlErr : Bool := false
  haltCause : BitVec 8 := 0
  guardMode : Bool := false
  errCount : Nat := 0
  status : W32 := 0
  keyLo : W64 := 0
  keyHi : W64 := 0
  srBase : W64 := 0
  waitLimit : BitVec 48 := 0
  conflicts : Tab (BitVec 48) := []
  xregs : Tab W64 := []
  slots : Tab SlotEnt := []
  events : Tab W64 := []
  held : Tab (Option Held) := []
  accs : Tab Acc := []
  wstore : Mem := []
  vregs : Tab W32 := []
  matQ : List MatOp := []
  wlQ : List WlOp := []
  vecQ : List VecInstr := []
  past : List PastWord := []
  badWords : List Nat := []
  drain : Option Drain := none
  issued : Nat := 0
  stall : Stall := .none
  sb : List SbEnt := []
  lost : List LostStore := []
  readBuf : List (Nat × List Byte) := []
  icache : List (Nat × List Byte) := []
  ir : W32 := 0
  launch : Option (Nat × Nat) := none
  debugHalt : Bool := false
  cubeSteps : Nat := 0
  deriving DecidableEq, Repr

/-- What a barrier of a hart waits for: its earlier stores, its earlier loads. -/
structure Barrier where
  stores : Bool
  loads : Bool
  deriving DecidableEq, Repr

/-- A trap of a hart: its exception code, trap value, and mepc or sepc, the PC at which it is entered (R606). -/
structure HartTrap where
  code : Nat
  tval : W64
  epc : W64
  deriving DecidableEq, Repr

/-- A chimney-core hart: its store buffer, device context (R300), lost stores, a barrier it waits at, a trap whose entry
waits for the store buffer (R252), the last trap delivered and the last value loaded. -/
structure Hart where
  sb : List SbEnt := []
  dctx : Ctx := 0
  lost : List LostStore := []
  fence : Option Barrier := none
  waitTrap : Option HartTrap := none
  trap : Option HartTrap := none
  loaded : W64 := 0
  deriving DecidableEq, Repr

/-- A remote scratchpad window (Table 4.13), with the accesses admitted and not yet complete (R139). -/
structure SpadWin where
  v : Bool := false
  wr : Bool := false
  rd : Bool := false
  grate : BitVec 7 := 0
  base : BitVec 12 := 0
  len : BitVec 12 := 0
  ctx : Ctx := 0
  tally : BitVec 12 := 0
  src : W64 := 0
  busy : Bool := false
  inflight : Nat := 0
  deriving DecidableEq, Repr

end Sys2Proof.Machine
end

