-- ==== Sys2Proof/Types/Ring.lean ====
section
/-! DEFINITION. State of rings, records, engines, translation, streams and Fuller (chapters 5, 6, 7, 10, 11). -/

namespace Sys2Proof.Machine

/-- Ring states (Table 11.3). -/
inductive RState where
  | off | active | paused | hosthold | error
  deriving DecidableEq, Repr

/-- A ring set-up entry (Table 11.1). -/
structure Ring where
  v : Bool := false
  kind : Bool := false
  role : BitVec 2 := 0
  die : BitVec 2 := 0
  sub : BitVec 3 := 0
  policy : BitVec 2 := 0
  inten : Bool := false
  ctx : Ctx := 0
  log2sz : BitVec 5 := 0
  cring : BitVec 16 := 0
  ivec : BitVec 16 := 0
  base : BitVec 40 := 0
  head : W32 := 0
  tail : W32 := 0
  st : RState := .off
  event : Byte := 0
  lost : BitVec 16 := 0
  deriving DecidableEq, Repr

/-- A descriptor inside the device: index of its head slot, the head slot, its continuation slots, and the model's number of it among all
that its ring has fetched, since an index comes again after DISABLE and ENABLE. -/
structure Desc where
  idx : W32
  head : Slot
  cont : List Slot := []
  serial : Nat := 0
  deriving DecidableEq, Repr

/-- What the device holds of a submission ring besides its set-up entry: fetched descriptors in order, the started ones
not yet completed, how many it has fetched, whether the front one's wait is met, whether its next head slot met a mismatching lap with the
re-fetches issued and returned (R343), whether it is held by an invalidation or by its dispatch, whether
the dispatch's walk or fault is its own (R612), and a launch record
asked of another module or a host, and come back; of a record ring in a host's memory, the records that its reader has not returned
(Table 11.14 scenario 6). -/
structure RingQ where
  fetched : List Desc := []
  started : List Desc := []
  count : Nat := 0
  waitMet : Bool := false
  stale : Bool := false
  refetches : Nat := 0
  returns : Nat := 0
  stalled : Bool := false
  faulting : Bool := false
  launchRec : Option (List Byte) := none
  launchReq : Option Nat := none
  written : List Slot := []
  deriving DecidableEq, Repr

/-- A record that waits for its ring (R313, R360, R571): the queue it waits in, the ring, the record, and of a completion record the
descriptor, by its ring and number, that counts as uncompleted until its record is written (R347). Queues: 0 to 4
fault records of die n or the chimney die, 8 + n translation faults of die n, 16 deadline records, 17 completions. -/
structure WaitRec where
  queue : Nat
  ring : Nat
  data : Slot
  desc : Option (Nat × Nat) := none
  deriving DecidableEq, Repr

/-- CHM_RING_CMD (Table 11.2). -/
structure RingCmd where
  ring : BitVec 16 := 0
  cmd : BitVec 3 := 0
  busy : Bool := false
  err : Bool := false
  deriving DecidableEq, Repr

/-- How a descriptor ended, before its record is posted (Table 11.10). -/
structure Ending where
  status : Nat
  detail : Nat := 0
  done : Nat := 0
  gval : Nat := 0
  pval : Nat := 0
  deriving DecidableEq, Repr

/-- Why an engine stands still. -/
inductive EWait where
  | run
  | walk
  | fault (token : Nat)
  | remote
  | flush
  deriving DecidableEq, Repr

/-- A partial norm word in a controller's tap buffer (R213): the controller (8 × die + its number), the word it belongs to (0 the norm
word, 1 + 2i row i's, 2 + 2j column j's), the partial. -/
structure TapPart where
  ctrl : Nat
  key : Nat
  part : Norm
  deriving DecidableEq, Repr

/-- A descriptor on an engine: its context, progress in pieces, DONE so far, requests without an answer, whether the present
piece's writes have been sent, data returned from T4 and T5, memory as it stood at the start where source and destination
overlap (R174), the host links written, the ending once reached, a Fuller pass's layer scalars, its partial norm words in the
controllers' tap buffers, oldest first, the one being merged, and the places of the last write that were written (virtual, physical,
length), the phase of a Fuller pass and the status it will end with; of a tile
mover the writes of the present tile not yet made (address, bytes, bits of the last byte that are written, 0 for all), and its
staging buffer by line (R249); of a merge copy the pages of its destination already checked (R353). -/
structure Job where
  ring : Nat
  desc : Desc
  ctx : Nat := 0
  sent : Bool := false
  before : Option Mem := none
  pos : Nat := 0
  done : Nat := 0
  wait : EWait := .run
  reqs : List Nat := []
  gathered : List (Nat × List Byte) := []
  oldVal : Option Nat := none
  hostMask : BitVec 4 := 0
  flushed : Bool := false
  ending : Option Ending := none
  scal : List Nat := []
  table : List W32 := []
  nv : Bool := false
  of : Bool := false
  taps : List TapPart := []
  merging : Option TapPart := none
  wrote : List (Nat × Nat × Nat) := []
  phase : Nat := 0
  status : Nat := 0
  todo : List (Nat × List Byte × Nat) := []
  staged : List (Nat × List Byte) := []
  checked : Nat := 0
  deriving DecidableEq, Repr

/-- A request sent to another module (T4) or a client host (T5) that awaits its answer; `signed` marks a core's
sign-extending load, `link` is the flue link that carried it. -/
structure OutReq where
  id : Nat
  agent : Agent
  kind : Acc3
  ctx : Nat
  va : Nat
  target : Nat
  toHost : Bool
  addr : Nat
  len : Nat
  since : Nat
  signed : Bool := false
  norm : Bool := false
  link : Option Nat := none
  deriving DecidableEq, Repr

/-- A buffered leaf translation (R309): context, virtual page base, page bits, physical base, rights, level. -/
structure Leaf where
  ctx : Nat
  vbase : Nat
  bits : Nat
  pbase : Nat
  rd : Bool
  wr : Bool
  at_ : Bool
  level : Nat
  entry : Nat
  deriving DecidableEq, Repr

/-- A pointer-cache entry (R310): context, level of the node it leads to, virtual base, node address. -/
structure Ptr where
  ctx : Nat
  level : Nat
  vbase : Nat
  node : Nat
  deriving DecidableEq, Repr

/-- A walk in progress: whose, for what, the entry it reads next, the pointers and last entry it has read, and whether its pointers may
enter the pointer cache (R302). -/
structure Walk where
  agent : Agent
  ctx : Nat
  va : Nat
  acc : Acc3
  level : Nat
  node : Nat
  seen : List Ptr := []
  lastEntry : Nat := 0
  keeps : Bool := true
  deriving DecidableEq, Repr

/-- A stalled translation fault that awaits its reply (R313, R316). -/
structure XFault where
  token : Nat
  agent : Agent
  ctx : Nat
  va : Nat
  acc : Acc3
  reason : Nat
  deriving DecidableEq, Repr

/-- A context-table entry (Table 10.1). -/
structure CtxEnt where
  v : Bool := false
  root : BitVec 36 := 0
  fring : BitVec 16 := 0
  deriving DecidableEq, Repr

/-- CHM_XLAT_INV_VA and CHM_XLAT_INV_CTL (Table 10.9); `va` is the page that the running invalidation started with
(R581), `dropped` the pages of the leaves it dropped (R321). -/
structure XInv where
  page : BitVec 39 := 0
  va : BitVec 39 := 0
  scope : BitVec 2 := 0
  busy : Bool := false
  err : Bool := false
  ctx : Ctx := 0
  npg : BitVec 32 := 0
  dropped : List (Nat × Nat × Nat) := []
  deriving DecidableEq, Repr

/-- A region-owner entry (R326); `moving` marks a region that a change is zeroing (R333). -/
structure Owner where
  owner : Ctx := 0
  v : Bool := false
  rt : Bool := false
  moving : Bool := false
  deriving DecidableEq, Repr

/-- MEM_ROT_ADDR and MEM_ROT_CTL of a die (Table 10.12); `addr` is the region that the running change started with (R581). -/
structure RotReg where
  page : BitVec 36 := 0
  addr : BitVec 36 := 0
  owner : Ctx := 0
  v : Bool := false
  rt : Bool := false
  busy : Bool := false
  err : Bool := false
  nreg : BitVec 23 := 0
  deriving DecidableEq, Repr

/-- A stream-table entry (Table 6.1). `arm` is the model's own field: the tick at which a WRITE or DEADLINE last set a
deadline, which is not missed before the next tick (R197). -/
structure Stream where
  v : Bool := false
  st : BitVec 3 := 0
  ctx : Ctx := 0
  ring : BitVec 16 := 0
  misses : Byte := 0
  misslim : Byte := 0
  late : Bool := false
  rqmiss : Bool := false
  tok : Bool := false
  len : BitVec 22 := 0
  tpbl : BitVec 4 := 0
  bps : BitVec 12 := 0
  first : BitVec 52 := 0
  last : BitVec 52 := 0
  nblk : BitVec 24 := 0
  ndl : W64 := 0
  rqd : W64 := 0
  tdi : W32 := 0
  lastc : W64 := 0
  rctr : W64 := 0
  rkey : BitVec 128 := 0
  tag : W64 := 0
  arm : Option W64 := none
  deriving DecidableEq, Repr

/-- A tally counter (Table 8.5). -/
structure Tally where
  bytes : W64 := 0
  pkts : W64 := 0
  ctx : Ctx := 0
  v : Bool := false
  deriving DecidableEq, Repr

end Sys2Proof.Machine
end

