-- ==== Sys2Proof/Machine/Operands.lean ====
section
/-! DEFINITION. The operand forms: command registers of the tile controller (Tables 4.1 to 4.4), slot-table entries
(Table 4.7), tile sizes (Table 5.5), and descriptor headers and bodies (Tables 11.5 to 11.16, 5.6). -/

namespace Sys2Proof.Machine

/-! ### Tiles (Tables 5.4, 5.5) -/

/-- Rounded up to whole 32-byte words. -/
def up32 (n : Nat) : Nat := (n + 31) / 32 * 32

/-- Bytes of the elements of a tile of side S. -/
def tileElemBytes (bits side : Nat) : Nat := up32 (side * side * bits / 8)

/-- Bytes of an A or B tile: elements, then 32 scales' bytes for a scaled format (R164 to R166). -/
def operandTileBytes (f : Fmt) (side : Nat) : Nat :=
  tileElemBytes (Fmt_bits f) side + (if Fmt_windowed f then 0 else 32)

/-- Bytes of a C or accumulator-word tile. -/
def outTileBytes (o : OFmt) (side : Nat) : Nat := side * side * OFmt_bytes o

/-- The element of `bits` bits at index k of a packed run (R38). -/
def packedGet (bs : List Byte) (bits k : Nat) : Nat :=
  field (ofBytes ((bs.drop (k * bits / 8)).take 4)) (k * bits % 8) bits

/-! ### Matrix command (Table 4.2) -/

def mcShape (c : Nat) : Nat := field c 0 2
def mcAfmt (c : Nat) : Option Fmt := fmtOfCode (field c 2 4)
def mcBfmt (c : Nat) : Option Fmt := fmtOfCode (field c 6 4)
def mcBegin (c : Nat) : Nat := field c 10 2
def mcM (c : Nat) : Nat := field c 12 5 + 1
def mcN (c a : Nat) : Nat := field c (17 + 5 * a) 5 + 1
def mcActive (c a : Nat) : Bool := bitAt c (37 + a)
def mcHalf (c : Nat) : Nat := field c 41 1
def mcKrow (c : Nat) : Nat := field c 42 12
def mcAslot (c : Nat) : Nat := field c 56 8
def mcK (c : Nat) : Nat := field c 64 13 + 1
def mcAoff (c : Nat) : Nat := field c 77 18 * 32
def mcRo (c : Nat) : Bool := bitAt c 95
def mcOfmt (c : Nat) : Option OFmt := ofmtOfCode (field c 96 4)
def mcRm (c : Nat) : Nat := field c 100 3
def mcSat (c : Nat) : Bool := bitAt c 103
def mcT (c : Nat) : Int := toInt 8 (field c 104 8)
def mcDslot (c : Nat) : Nat := field c 112 8
def mcArole (c : Nat) : Nat := field c 120 2
def mcDrole (c : Nat) : Nat := field c 122 2
def mcIfmt (c : Nat) : Nat := field c 124 2

/-- Rows and columns of a shape (Table 3.2). -/
def shapeSide (shape : Nat) : Nat := if shape = 1 then 16 else 32

/-- The accumulation mode of an instruction: 0 exact, 1 BF16 and FP16 (R610). -/
def modeOf (f : Fmt) : Nat := if Fmt_windowed f then 1 else 0

/-- Usable depth of a weight half at row width S, in K rows (Table 3.4). -/
def usableDepth (f : Fmt) (side : Nat) : Nat :=
  if Fmt_windowed f then (if side = 32 then 512 else 1024) else if side = 32 then 1024 else 2048

/-- Whether any field of a matrix command is wrong in itself (R109, R112, R42, R85): reserved fields, encodings,
extents beyond the shape, formats that do not pair, K rows beyond the half. -/
def mcMalformed (c : Nat) : Bool :=
  match mcAfmt c, mcBfmt c with
  | some fa, some fb =>
    decide (2 ≤ mcShape c) || decide (field c 54 2 ≠ 0) || decide (field c 126 2 ≠ 0) ||
    (decide (mcBegin c = 3) && decide (mcIfmt c = 3)) ||
    decide (shapeSide (mcShape c) < mcM c) ||
    (List.range 4).any (fun a => decide (shapeSide (mcShape c) < mcN c a)) ||
    (Fmt_windowed fa != Fmt_windowed fb) ||
    decide (usableDepth fb (shapeSide (mcShape c)) < mcKrow c + mcK c)
  | _, _ => true

/-- Bytes of activations an instruction reads: whole A tiles along K. -/
def mcAbytes (c : Nat) (fa : Fmt) : Nat :=
  let s := shapeSide (mcShape c)
  ceilDiv (mcK c) s * operandTileBytes fa s

/-- The import format: its element format and bytes (Table 4.2 IFMT, BEGIN). -/
def mcImportBytes (c : Nat) : Nat := if mcBegin c = 2 then 32 else if mcIfmt c = 0 then 4 else 2
def mcImportFmt (c : Nat) : Fmt := if mcIfmt c = 0 then .fp32 else if mcIfmt c = 1 then .bf16 else .fp16

/-! ### Weight-load command (Table 4.3) -/

def wlSlot (c : Nat) : Nat := field c 0 8
def wlOff (c : Nat) : Nat := field c 8 18 * 32
def wlMask (c a : Nat) : Bool := bitAt c (26 + a)
def wlHalf (c : Nat) : Nat := field c 30 1
def wlKrow (c : Nat) : Nat := field c 31 12
def wlRows (c : Nat) : Nat := field c 43 13 + 1
def wlFmt (c : Nat) : Option Fmt := fmtOfCode (field c 56 4)
def wlRole (c : Nat) : Nat := field c 60 2
def wlSide (c : Nat) : Nat := if bitAt c 62 then 16 else 32
def wlArrays (c : Nat) : List Nat := (List.range 4).filter (wlMask c)

/-- Bytes of one array's part (R111). -/
def wlPart (c : Nat) (f : Fmt) : Nat := wlRows c / wlSide c * operandTileBytes f (wlSide c)

/-- The offset of the j-th part after SOFF (R111). -/
def wlPartOff (c : Nat) (f : Fmt) (pstr j : Nat) : Nat := j * (if pstr = 0 then wlPart c f else pstr * 32)

/-- Wrong in itself (R110, R111): reserved bit, format, rows not whole tiles, rows beyond the half. -/
def wlMalformed (c : Nat) : Bool :=
  match wlFmt c with
  | some f => bitAt c 63 || decide (wlRows c % wlSide c ≠ 0) || decide (usableDepth f (wlSide c) < wlKrow c + wlRows c)
  | none => true

/-! ### Slot-table entry (Table 4.7) -/

def slotWord (e : SlotEnt) : Nat :=
  packFields [(0, 12, e.base.toNat), (12, 12, e.len.toNat), (24, 4, e.cons.toNat), (28, 1, boolNat e.guard),
    (29, 1, boolNat e.full), (31, 1, boolNat e.v), (32, 16, e.epoch.toNat), (48, 4, e.remain.toNat)]

/-- The entry SLOT.SET writes: read-only fields zero (R119). -/
def slotOfWord (w : Nat) : SlotEnt :=
  { base := BitVec.ofNat 12 (field w 0 12), len := BitVec.ofNat 12 (field w 12 12), cons := BitVec.ofNat 4 (field w 24 4),
    guard := bitAt w 28, v := bitAt w 31 }

/-! ### Descriptor header (Table 11.5) and bodies; body bit 0 is descriptor bit 128 -/

def hdLap (d : Slot) : Nat := field d.toNat 0 8
def hdOp (d : Slot) : Nat := field d.toNat 8 8
def hdNcont (d : Slot) : Nat := field d.toNat 16 2
def hdWait (d : Slot) : Nat := field d.toNat 18 2
def hdCqe (d : Slot) : Bool := bitAt d.toNat 20
def hdTally (d : Slot) : Nat := field d.toNat 24 12
def hdTag (d : Slot) : Nat := field d.toNat 40 16
def hdLen (d : Slot) : Nat := field d.toNat 56 8
def hdTarget (d : Slot) : Nat := field d.toNat 64 64
def body (d : Slot) : Nat := d.toNat >>> 128

/-- SIG, SGRATE and SCNT of a body, from the bit SIG stands at (Tables 5.6, 11.7, 11.8, 11.16). -/
structure SigField where
  on : Bool
  grate : Nat
  ctr : Nat
  deriving DecidableEq, Repr

def sigAt (b lo : Nat) : SigField := { on := bitAt b lo, grate := field b (lo + 1) 7, ctr := field b (lo + 8) 5 }

/-- SIG of a descriptor by its operation. -/
def sigOf (d : Slot) : SigField :=
  let b := body d
  match hdOp d with
  | 1 => sigAt b 160
  | 3 => sigAt b 263
  | 4 => sigAt b 297
  | 8 => sigAt b 133
  | _ => { on := false, grate := 0, ctr := 0 }

/-- The reserved header fields, NCONT, and TALLY and TARGET without a tally wait (R346). -/
def headerBad (d : Slot) : Bool :=
  let tallyWait := decide (2 ≤ hdWait d)
  decide (field d.toNat 21 3 ≠ 0) || decide (field d.toNat 36 4 ≠ 0) ||
  (if hdOp d = 2 then
     decide (hdTally d ≠ 0) || decide (field d.toNat 119 9 ≠ 0) || tallyWait
   else
     decide (hdLen d ≠ 0) || decide (hdNcont d ≠ 0) || (!tallyWait && (decide (hdTally d ≠ 0) || decide (hdTarget d ≠ 0))))

/-- Payload bytes of an INLINE and the continuation slots they need (R350). -/
def inlineBytes (d : Slot) : Nat := hdLen d + 1
def inlineSlots (d : Slot) : Nat := if inlineBytes d ≤ 48 then 0 else ceilDiv (inlineBytes d - 48) 64

end Sys2Proof.Machine
end

