-- ==== Sys2Proof/Types/Coh.lean ====
section
/-! DEFINITION. State of the homes, the directory, the caching agents, ash lists and the maintenance engines
(chapter 9), and of pool mode (chapter 5). Lines are numbered by direct address / 128. -/

namespace Sys2Proof.Machine

/-- Line states of a cluster or the CXL.cache agent (Table 9.4). -/
inductive CSt where
  | i | s | e | m | isd | isdi | imd | sma | xia | iia
  deriving DecidableEq, Repr

/-- Snoops (Table 9.3). -/
inductive Snoop where
  | snpS | snpX | snpXI | snpInv
  deriving DecidableEq, Repr

/-- An access that waits for a line (Table 9.4 "wait"), or the access that sent the request. -/
inductive WaitAcc where
  | load (hart : Nat) (va : W64) (pa size : Nat) (signed : Bool)
  | store (hart : Nat)
  deriving DecidableEq, Repr

/-- A line at a caching agent: its state, a deferred snoop, waiting accesses, and the grant with data, or the upgrade, on its
way to it; `ctx` is the context of the access that left the stable state, which the request carries (R300). -/
structure ALine where
  st : CSt := .i
  ctx : Option Nat := none
  deferred : Option Snoop := none
  waiting : List WaitAcc := []
  incoming : Option (Grant × LineData) := none
  ackDue : Bool := false
  deriving DecidableEq, Repr

/-- A directory entry (Table 9.2): DST 0 I, 1 S, 2 X. -/
structure DirEnt where
  dst : BitVec 2 := 0
  vec : BitVec 14 := 0
  dirty : Bool := false
  deriving DecidableEq, Repr

/-- Requests a home orders (Table 9.3), and its own: the snoop of CLEAN, and the back-invalidation of replacement, FLUSH, LOCK and a
change of the region's owner (R274, R295, R297, R333). -/
inductive HomeReq where
  | rdS | rdX | upg | wbM | evE | readOnce | writeFull | writePart | atomic | clean | drop
  deriving DecidableEq, Repr

/-- Who made a home request: a caching agent by its sharer bit; a retry agent by a request command of Table 9.3, which carries the
request whole; a unit by an access of its own command, which it makes again once the home has its line ready (log 12); or the home. -/
inductive Requester where
  | caching (bit : Nat)
  | retry (a : Agent)
  | unit (a : Agent)
  | home
  deriving DecidableEq, Repr

/-- A write or atomic carried by a request: byte mask and data, or the atomic's operands; `hasData` is clear for a WbM with a
lost indication (Table 20.1). -/
structure Payload where
  mask : BitVec 128 := 0
  data : LineData := 0
  op : AOp := .add
  offset : Nat := 0
  size : Nat := 0
  opnd : W64 := 0
  cmp : W64 := 0
  hasData : Bool := true
  deriving DecidableEq, Repr

/-- An open transaction at a home: the request, who still owes a response, the snoop sent and to whom it is still on its way,
the responses on their way back, whether data went to the requester, whether it waits in its entry for a place in the system cache
or the eviction buffer (R299), whether its line is ready for the unit's access, and whether only Done is awaited (R281). -/
structure Txn where
  req : HomeReq
  who : Requester
  ctx : Nat
  payload : Payload
  owed : BitVec 14
  asked : Option Snoop
  unsent : BitVec 14 := 0
  rsps : List (Nat × SnpRsp) := []
  replied : Bool := false
  room : Bool := false
  ready : Bool := false
  awaitDone : Bool := false
  since : Nat := 0
  deriving DecidableEq, Repr

/-- A request of a privileged agent waiting in its tracker entry (R278), or a reservation of a retry agent (R279), with the timebase
tick of its first attempt. -/
structure WaitReq where
  line : Nat
  req : HomeReq
  who : Requester
  ctx : Nat
  payload : Payload
  tick : Nat
  told : Bool := false
  deriving DecidableEq, Repr

/-- What a home answered a retry agent: status of Table 11.12, and the data of a read or the old value of an atomic. -/
structure HomeAns where
  agent : Agent
  line : Nat
  status : Nat
  data : LineData := 0
  deriving DecidableEq, Repr

/-- An ash-list entry (Table 9.8). -/
structure AshEnt where
  v : Bool := false
  agent : BitVec 4 := 0
  addr : BitVec 45 := 0
  ctx : Ctx := 0
  tick : W64 := 0
  deriving DecidableEq, Repr

/-- A die's maintenance engine (Tables 9.9 and 9.10); `runBase` and `runLen` are the range that the running operation started
with (R581), `todo` its lines that are still to be cleaned or flushed. -/
structure Maint where
  base : BitVec 45 := 0
  len : BitVec 40 := 0
  runBase : BitVec 45 := 0
  runLen : BitVec 40 := 0
  op : BitVec 3 := 0
  busy : Bool := false
  err : Bool := false
  ways : BitVec 4 := 0
  fill : Bool := false
  locked : BitVec 4 := 0
  todo : List Nat := []
  deriving DecidableEq, Repr

/-- A die's pool registers and lines (R156 to R163, R585): a pool line's key is its line number, its value its age
plus one. -/
structure Pool where
  mode : Bool := false
  ways : BitVec 4 := 0
  ranges : Tab (W64) := []
  busy : Bool := false
  err : Bool := false
  lines : Tab Nat := []
  deriving DecidableEq, Repr

/-- Coherence state of the package. `stale` holds the home's copy of a line that an owner has modified; `stopped` marks the
sets in which both tag copies have failed (R564), keyed 49,152 × die + set; `swept` is the period's end of the last age sweep of the
pools (R158); `hostLines` holds a cluster's copy of a line of client-host memory, keyed as `agents` (R287). -/
structure CohSt where
  dir : Tab DirEnt := []
  agents : Tab ALine := []
  txns : Tab (Option Txn) := []
  waits : List WaitReq := []
  stale : Tab (Option LineData) := []
  hostLines : Tab LineData := []
  dead : BitVec 14 := 0
  walking : BitVec 14 := 0
  evict : List Nat := []
  ash : Tab AshEnt := []
  ashGen : Tab Nat := []
  ashOvf : Tab Bool := []
  maint : Tab Maint := []
  pool : Tab Pool := []
  nearOwn : Tab W64 := []
  answers : List HomeAns := []
  stopped : Tab Bool := []
  swept : Nat := 0
  deriving DecidableEq, Repr

end Sys2Proof.Machine
end

