-- ==== Sys2Proof/Types/Link.lean ====
section
/-! DEFINITION. State of host links, the package fabric, flue links, peers and the group (chapters 12, 13, 14). -/

namespace Sys2Proof.Machine

/-- HLK_PORT_CFG of a port (Table 12.1). -/
structure PortCfg where
  linken : Bool := false
  bifur : Bool := false
  cxl : Bool := false
  maxspd : BitVec 3 := 5
  reqide : Bool := false
  deriving DecidableEq, Repr

/-- A host inbound window (Table 12.6). -/
structure HostWin where
  v : Bool := false
  rd : Bool := false
  wr : Bool := false
  at_ : Bool := false
  ctx : Ctx := 0
  len : BitVec 16 := 0
  pa : BitVec 36 := 0
  deriving DecidableEq, Repr

/-- An MSI-X vector: table entry, vector mask and pending bit (R375, R380). -/
structure MsixVec where
  addr : W64 := 0
  data : W32 := 0
  masked : Bool := true
  pend : Bool := false
  deriving DecidableEq, Repr

/-- An IDE stream: no keys, or secure; a stream that enters its insecure state loses its link, and its keys with it (R533, R382). -/
inductive IdeSt where
  | none | secure
  deriving DecidableEq, Repr

/-- Something held until an IDE stream is secure (R534). -/
inductive HeldTlp where
  | write (addr : Nat) (relaxed : Bool) (bytes : List Byte)
  | read (id addr len : Nat)
  | msix (vec : Nat)
  | flush (id ring slot : Nat)
  | cxl (what addr : Nat) (bytes : List Byte)
  deriving DecidableEq, Repr

/-- One host link: HLK_LINK_STATE (Table 12.8), generation registers (Table 11.13), HDM registers (Table 12.4, link 0),
windows, MSI-X, timeouts, messages held for a secure stream and back-invalidation snoops. `suspended` stands from a loss of the
host until its rings go on or are turned off (Table 11.14). `ide` is the link stream, `ideSel` the selective stream, `ideCxl` the stream
of CXL.cachemem (R533, R535). -/
structure HostLink where
  dlup : Bool := false
  speed : BitVec 3 := 0
  width : BitVec 5 := 0
  flit : Bool := false
  cxlup : Bool := false
  ide : IdeSt := .none
  ideSel : IdeSt := .none
  ideCxl : IdeSt := .none
  lost : Bool := false
  suspended : Bool := false
  cause : BitVec 3 := 0
  downcnt : BitVec 16 := 0
  perst : Bool := false
  seen : Bool := false
  genAddr : BitVec 61 := 0
  genSeen : W64 := 0
  genReading : Bool := false
  timeouts : Nat := 0
  hdmBase : BitVec 36 := 0
  hdmV : Bool := false
  hdmCtx : Ctx := 0
  hdmNpg : BitVec 24 := 0
  inwin : Tab HostWin := []
  msix : Tab MsixVec := []
  fmask : Bool := false
  share : Tab (BitVec 16) := []
  clsBytes : Tab W64 := []
  heldTlps : List HeldTlp := []
  snoops : List (Nat × Nat) := []
  deriving DecidableEq, Repr

/-- Bundle states (Table 13.4). -/
inductive BState where
  | down | training | up | disabled | loopback
  deriving DecidableEq, Repr

/-- One side of a bundle (Table 13.4). Its maps stand through a retrain, so that a kept-map bring-up finds them (Table
13.10). -/
structure Bundle where
  st : BState := .down
  width : BitVec 2 := 0
  kept : Bool := false
  off : Bool := false
  replays : W32 := 0
  rxmap : BitVec 68 := 0
  txmap : BitVec 68 := 0
  deriving DecidableEq, Repr

/-- HTH_DIETEST_CTL or CHM_DIETEST_CTL (Table 13.5). -/
structure DieTest where
  en : Bool := false
  busy : Bool := false
  err : Bool := false
  all : Bool := false
  log2ui : BitVec 5 := 0x14
  fails : BitVec 7 := 0
  deriving DecidableEq, Repr

/-- The four virtual channels of the fabric (Table 9.3). -/
inductive Chan where
  | request | snoop | response | completion
  deriving DecidableEq, Repr

/-- A message between two dies that has been sent and has not arrived (R401 to R407): its channel, source and destination die, the line it
is about and the agent at its agent end; the intermediate die of its route (5 for none), the hops it has made, and the buffer it stands in:
the sending die's bundle direction (64 × die + bundle) of its last hop. -/
structure FabMsg where
  chan : Chan
  src : Nat
  dst : Nat
  line : Nat
  agent : Nat
  via : Nat := 5
  hops : Nat := 0
  dir : Nat := 0
  deriving DecidableEq, Repr

/-- The fabric: bundle entries keyed 64 × die + bundle (die 4 is the chimney), test registers by die, keyed 5 × source
+ destination the pairs whose new messages a change of route holds until its markers return (R405), and the messages between dies
that are on their way, in the order sent. -/
structure FabricSt where
  bundles : Tab Bundle := []
  tests : Tab DieTest := []
  draining : Tab Bool := []
  msgs : List FabMsg := []
  deriving DecidableEq, Repr

/-- Flue link states (Table 14.3). -/
inductive FState where
  | down | training | attest | probation | ctrlonly | up | disabled | loopback
  deriving DecidableEq, Repr

/-- One flue link (Table 14.4), what attestation and key updates leave (R536 to R540), the replay buffer with the number of the flit sent
last and what waits for room in it (R415), the CRC errors since the last good flit, and the counts of received flits at the last two that
needed a second replay (R417). -/
structure FlueLink where
  en : Bool := false
  holdctl : Bool := false
  loop : Bool := false
  st : FState := .down
  width : BitVec 2 := 0
  keyed : Bool := false
  pv : Bool := false
  peerpos : BitVec 6 := 0
  cause : BitVec 4 := 0
  downcnt : BitVec 16 := 0
  flits : BitVec 48 := 0
  replays : W32 := 0
  second : BitVec 16 := 0
  since : Nat := 0
  idh : W64 := 0
  admitted : Bool := false
  sentFlits : Nat := 0
  keyGen : Nat := 0
  keyNext : Option Nat := none
  rxSeq : BitVec 12 := 0
  farHold : Bool := false
  txSeq : BitVec 12 := 0
  unacked : List (BitVec 12 × Out) := []
  backlog : List Out := []
  crcRun : Nat := 0
  secondAt : List Nat := []
  deriving DecidableEq, Repr

/-- An inbound flue window (Table 14.11), with the accesses in flight. -/
structure FlueWin where
  v : Bool := false
  rd : Bool := false
  wr : Bool := false
  at_ : Bool := false
  mode : BitVec 2 := 0
  busy : Bool := false
  ctx : Ctx := 0
  len : BitVec 16 := 0
  tally : BitVec 12 := 0
  pa : BitVec 36 := 0
  src : W64 := 0
  deriving DecidableEq, Repr

/-- A membership entry (Table 14.9): ST 0 EMPTY, 1 MEMBER, 2 DEAD. -/
structure Memb where
  st : BitVec 2 := 0
  epoch : W32 := 0
  idh : W64 := 0
  deriving DecidableEq, Repr

/-- Group states (Table 14.7). -/
inductive GroupSt where
  | standalone | forming | joining | member | test
  deriving DecidableEq, Repr

/-- A peer, by its identity (R385 to R389). -/
structure Peer where
  idh : W64
  pv : Bool
  pos : Nat
  spare : Bool
  last : Nat
  deriving DecidableEq, Repr

/-- An offer collected by the master (R424). -/
structure Offer where
  pos : Nat
  idh : W64
  count : W64
  deriving DecidableEq, Repr

/-- Flue links, windows, routes and requests under way (chapter 14). -/
structure FlueSt where
  links : Tab FlueLink := []
  route : Tab (BitVec 18) := []
  fwdClass : BitVec 4 := 0
  share : Tab (BitVec 16) := []
  clsBytes : Tab W64 := []
  inwin : Tab FlueWin := []
  deriving DecidableEq, Repr

/-- A membership change received ahead of its turn (R426). -/
structure HeldChange where
  epoch : W32
  pos : Nat
  st : BitVec 2
  idh : W64
  deriving DecidableEq, Repr

/-- The group: FLU_GROUP, FLU_MEMB, FLU_MEMB_CMD (Table 14.9), FLU_TB_STATE (Table 14.10), formation and joins. -/
structure GroupState where
  gst : GroupSt := .standalone
  mv : Bool := false
  mypos : BitVec 6 := 0
  mpos : BitVec 6 := 0
  epoch : W32 := 0
  memb : Tab Memb := []
  held : List HeldChange := []
  cmdPos : BitVec 6 := 0
  cmdAct : BitVec 2 := 0
  cmdErr : Bool := false
  peers : List Peer := []
  offers : List Offer := []
  offered : Bool := false
  offerSent : Option Nat := none
  acks : List Nat := []
  tableSent : Option Nat := none
  joins : List Offer := []
  deadKnown : W64 := 0
  helloSeq : W32 := 0
  lastHello : Nat := 0
  lastSync : Nat := 0
  tbSync : Bool := false
  tbLock : Bool := false
  tbHold : Bool := false
  tbOffs : BitVec 16 := 0
  tbSteps : W32 := 0
  slewFrom : Nat := 0
  slew : Int := 0
  deriving DecidableEq, Repr

end Sys2Proof.Machine
end

