-- ==== Sys2Proof/Types/Mgmt.lean ====
section
/-! DEFINITION. State of power and clocks, kindling and firmware, trust, Stoker, and the training runtime
(chapters 15 to 19, 21, 22). -/

namespace Sys2Proof.Machine

/-- CHM_ROOTCLK_CFG (Table 16.2). -/
structure RootClk where
  rlock : Bool := false
  refok : Bool := false
  slock : BitVec 4 := 0
  reflost : Bool := false
  slost : BitVec 4 := 0
  hold : Bool := false
  deriving DecidableEq, Repr

/-- The Damper's registers (Tables 16.5, 16.9, 21.17) and what it acts on: level and target of each domain in its own
steps (0 links, 1 memory, 2 cores, each in 1/16; 3 protected grates, 4 unprotected grates, in 1/64), governed level and
ballast of each unit, thermal ceilings of each die, bubbles due to each grate, supplies in a dip and the start of the hold, feed and package power, the time of
a thermal trip, whether a supply loss came before, and by die the cause of a reset that waits for the die's taper (R481). -/
structure PowerSt where
  clk : RootClk := {}
  cap : BitVec 12 := 0xBB8
  rlink : BitVec 2 := 0
  rmem : BitVec 2 := 1
  rcore : BitVec 2 := 2
  rgrate : BitVec 2 := 3
  capErr : Bool := false
  est : BitVec 12 := 0
  clamp : Bool := false
  hold : Bool := false
  capx : Bool := false
  dips : BitVec 16 := 0
  droops : BitVec 16 := 0
  prot0 : W64 := 0
  prot1 : W32 := 0
  droopThr : BitVec 4 := 4
  droopLen : BitVec 6 := 0x20
  corr : Byte := 0xC8
  corrSeen : Bool := false
  counted : BitVec 8 := 0
  targets : Tab Nat := []
  governed : Tab Nat := []
  ballast : Tab Nat := []
  ceilings : Tab Nat := []
  bursts : Tab Nat := []
  dipping : List Nat := []
  holdFrom : Nat := 0
  feedOn : Bool := false
  sense : Bool := false
  softStart : Bool := false
  pkgPower : Bool := false
  tripped : Option Nat := none
  lossSeen : Bool := false
  taper : Tab Nat := []
  deriving DecidableEq, Repr

/-- An image slot's contents as its header gives them (R498, R517): validity is what Thirun's check of it finds. -/
structure ImgSlot where
  valid : Bool := false
  ver : BitVec 16 := 0
  arb : BitVec 6 := 0
  deriving DecidableEq, Repr

/-- A pairing-manifest slot (R499). -/
structure Manifest where
  valid : Bool := false
  seq : W32 := 0
  arb : BitVec 6 := 0
  entries : List ManEnt := []
  deriving DecidableEq, Repr

/-- A firmware component under transfer (R556): the slot, what the slot will hold, and what Thirun's check of it will find. -/
structure Writing where
  im : Nat
  slot : Nat
  ver : W32 := 0
  arb : BitVec 6 := 0
  entries : List ManEnt := []
  good : Bool := false
  deriving DecidableEq, Repr

/-- The slot-selection record (Table 17.5). -/
structure SlotSel where
  pref : BitVec 4 := 0
  trial : BitVec 4 := 0
  pend : BitVec 4 := 0
  seq : W32 := 0
  deriving DecidableEq, Repr

/-- The configuration record (Table 19.2). -/
structure CfgRec where
  seq : W32 := 0
  gid : W32 := 0
  pos : BitVec 6 := 0
  pmask : W64 := 0
  port0 : BitVec 7 := 0
  port1 : BitVec 7 := 0
  fluen : BitVec 18 := 0
  ddef : W32 := 0
  hbdef : BitVec 16 := 0
  sth : BitVec 2 := 0
  staddr : W64 := 0
  ok : Bool := false
  deriving DecidableEq, Repr

/-- Kindling (chapter 17): readiness words, CHM_KINDLE, resets, firmware slots keyed 2 × image + slot with images 0 Stoker,
1 runtime, 2 microcode, 3 LPDDR6 training; the dies whose K3 actions are done, the units whose resets wait for their stage,
whether K6 has enabled the links, the manifest slot in use, the component under transfer, and by image one more than the
written slot that Thirun has found good since (R556); the two copies of the slot-selection record, none where its CRC fails (R498); when
a stage was entered: 200 + stage, 16 + die for K3, 20 + die for K4, 4 + cluster for K5. -/
structure KindleSt where
  ready0 : W64 := 0
  ready1 : W64 := 0
  ready2 : W64 := 0
  stage : BitVec 3 := 0
  hold : BitVec 4 := 0
  gpv : BitVec 16 := 0
  rtdie : BitVec 2 := 0
  rtSet : Bool := false
  lastKind : BitVec 3 := 0
  slots : BitVec 4 := 0
  resetErr : Bool := false
  images : Tab ImgSlot := []
  manifests : Tab Manifest := []
  selA : Option SlotSel := none
  selB : Option SlotSel := none
  combo : Bool := false
  altTried : Bool := false
  loaded : Tab Bool := []
  dieWait : Tab Bool := []
  dieRetry : Tab Bool := []
  chTries : Tab Nat := []
  cluWait : Tab Bool := []
  rstLow : Bool := false
  opened : Bool := false
  manUsed : Option Nat := none
  writing : Option Writing := none
  verified : Tab Nat := []
  since : Tab Nat := []
  deriving DecidableEq, Repr

/-- The copy of the slot-selection record that kindling uses: the valid one with the higher sequence number, or zero fields (R498). -/
def KindleSt.sel (k : KindleSt) : SlotSel :=
  match k.selA, k.selB with
  | some a, some b => if b.seq.toNat ≤ a.seq.toNat then a else b
  | some a, none => a
  | none, some b => b
  | none, none => {}

/-- The record written to the copy that is not in use (R498, R502). -/
def KindleSt.withSel (k : KindleSt) (x : SlotSel) : KindleSt :=
  let inA := match k.selA, k.selB with
    | some a, some b => decide (b.seq.toNat ≤ a.seq.toNat)
    | some _, none => true
    | none, _ => false
  if inA then { k with selB := some x } else { k with selA := some x }

/-- Thirun (chapter 18): fuses, anti-rollback records keyed 16 × counter + record, command registers, key generations
by context, debug, sessions. -/
structure TrustSt where
  cstep : Byte := 0xB0
  hsteps : Tab Byte := []
  permlock : Bool := false
  arb : Tab (BitVec 24) := []
  arbIdx : BitVec 6 := 0
  arbVal : BitVec 16 := 0
  arbBusy : Bool := false
  arbErr : Bool := false
  keyCtx : Ctx := 0
  keyOp : BitVec 3 := 0
  keyBusy : Bool := false
  keyErr : Bool := false
  keyGen : Tab Nat := []
  keyEpoch : Nat := 0
  level : BitVec 2 := 0
  dbgPend : BitVec 2 := 0
  challenge : Nat := 0
  certOk : Bool := false
  measured : BitVec 16 := 0
  sessions : Tab Nat := []
  tableWait : Tab Bool := []
  deriving DecidableEq, Repr

/-- A sensor (Table 19.4). -/
structure Sensor where
  value : W32 := 0
  stat : BitVec 2 := 3
  deriving DecidableEq, Repr

/-- Stoker (chapter 19): sensors, the SRAM log and its mirror, configuration copies, heartbeat. -/
structure StokerSt where
  sensors : Tab Sensor := []
  log : List LogRec := []
  nextSeq : Nat := 0
  mirror : List LogRec := []
  mirrored : Nat := 0
  mirrorPos : Nat := 0
  cfgA : CfgRec := {}
  cfgB : CfgRec := {}
  cfg : CfgRec := {}
  period : BitVec 16 := 0
  armed : Bool := false
  kicked : Nat := 0
  leak : Bool := false
  downFor : Nat := 0
  deriving DecidableEq, Repr

/-- One position's checkpoint in a slot (Table 15.3), its width log (Table 15.2), and the microbatch widths of the two steps after it as
first run (R459). -/
structure Ckpt where
  step : W64 := 0
  loss1 : Option W32 := none
  loss2 : Option W32 := none
  widths : List (W64 × List (BitVec 16)) := []
  widths1 : Option (List (BitVec 16)) := none
  widths2 : Option (List (BitVec 16)) := none
  onBoard : Bool := false
  buddy : Bool := false
  staged : Bool := false
  idh : W64 := 0
  vers : W64 := 0
  tmod : W64 := 0
  nfail : W32 := 0
  lbound : BitVec 16 := 0
  dsec : W32 := 0
  clog : List Nat := []
  dir : BitVec 52 := 0
  deriving DecidableEq, Repr

/-- The training runtime's state (chapter 15): members of the training group, slots keyed 2 × position + slot, the inputs of the
cadence (ticks spent as members, counted failures, bound, pauses in µs, step times in µs, the last buddy copy's time, bytes and
dies of the snapshot) and its result, the loss log and the width log since the last checkpoint, the program's accumulation, the position under recovery, the restore point and the source tried, whether a
checkpoint is due, and the stop of R461. -/
structure TrainSt where
  members : W64 := 0
  slots : Tab Ckpt := []
  spent : Nat := 0
  since : Nat := 0
  nfail : Nat := 0
  lbound : Nat := 0
  pauses : List Nat := []
  times : List Nat := []
  buddyUs : Option Nat := none
  bytes : Nat := 0
  dies : Nat := 4
  interval : Nat := 0
  losses : List (W64 × W32) := []
  widths : List (W64 × List (BitVec 16)) := []
  accum : TrainAcc := .exact
  recovering : Option Nat := none
  restoreStep : Option W64 := none
  source : Nat := 0
  due : Bool := false
  stopped : Bool := false
  deriving DecidableEq, Repr

end Sys2Proof.Machine
end

