-- ==== Sys2Proof/Machine/State.lean ====
section
/-! DEFINITION. The state of the block: everything the spec gives the package and its module to hold, and the queue of
commands that wait. Large arrays are tables that list only what differs from their reset contents. -/

namespace Sys2Proof.Machine

/-- A set of a context's keys: the context, the reset that drew it and its generation since (R527, R532). -/
structure KeySet where
  ctx : Nat := 0
  epoch : Nat := 0
  gen : Nat := 0
  deriving DecidableEq, Repr

/-- A line as LPDDR6 holds it: the keys it was written under, its ciphertext and its integrity tag (R529, R530). No keys: the zeros of
R333. -/
structure StoredLine where
  keys : Option KeySet := none
  cipher : LineData := 0
  tag : W32 := 0
  deriving DecidableEq, Repr

/-- A memory controller's registers (Tables 21.5 and 21.16): corrected and uncorrectable counts, the address of the
last uncorrectable line, class shares and class byte counts; its LPDDR6 package's lines with their tags, by line. -/
structure MemCtl where
  corr : W32 := 0
  uncorr : BitVec 16 := 0
  addr : W64 := 0
  share : Tab (BitVec 16) := []
  clsBytes : Tab W64 := []
  lines : Tab StoredLine := []
  deriving DecidableEq, Repr

/-- Translation: buffers, walks, stalled faults, invalidation (chapter 10). `micro` is keyed by engine, `l2` and `ptr`
by die. -/
structure XlatSt where
  micro : Tab (List Leaf) := []
  l2 : Tab (List Leaf) := []
  ptr : Tab (List Ptr) := []
  walks : List Walk := []
  faults : List XFault := []
  nextTok : Tab Nat := []
  inv : XInv := {}
  deriving DecidableEq, Repr

/-- The state of the block. The fields `free` and `out` are the model's own: the number of free values used (log 4), and
what has left the block, oldest first (log 3). -/
structure State where
  pending : List Instr := []
  tick : W64 := 0
  elapsed : Nat := 0
  free : Nat := 0
  out : List Out := []
  mem : Mem := []
  badLines : Tab Nat := []
  memCtl : Tab MemCtl := []
  ctxClass : Tab (BitVec 4) := []
  grates : Tab Grate := []
  harts : Tab Hart := []
  spadWins : Tab SpadWin := []
  resv : Tab Nat := []
  tallies : Tab Tally := []
  ctxs : Tab CtxEnt := []
  xlat : XlatSt := {}
  owners : Tab Owner := []
  rot : Tab RotReg := []
  rings : Tab Ring := []
  ringq : Tab RingQ := []
  ringCmd : RingCmd := {}
  jobs : Tab (Option Job) := []
  reqs : List OutReq := []
  nextReq : Nat := 0
  waitRecs : List WaitRec := []
  streams : Tab Stream := []
  streamBad : Tab Bool := []
  coefs : Tab W32 := []
  fulStat : Tab Nat := []
  coh : CohSt := {}
  ports : Tab PortCfg := []
  hosts : Tab HostLink := []
  fabric : FabricSt := {}
  flue : FlueSt := {}
  group : GroupState := {}
  power : PowerSt := {}
  kindle : KindleSt := {}
  trust : TrustSt := {}
  stoker : StokerSt := {}
  train : TrainSt := {}
  served : Tab Nat := []
  deriving DecidableEq, Repr

/-- Why the block stops. -/
inductive Fault where
  /-- A meaning whose command carries operands outside what the spec's command can carry (a packet longer than a
  packet, a lane map of the wrong length): Sys2Proof.WellFormed. Safe: no hardware agent sends it. -/
  | illFormed
  deriving DecidableEq, Repr

/-- Why a command has no meaning in a state. -/
inductive Refusal where
  /-- Raised by an arm of exec without a meaning. Safe. -/
  | notModelled (mnemonic : String)
  /-- Raised by a meaning whose command is the END of something (a completion, a timeout, an answer) when that thing is
  not under way. Safe: the hardware does not raise the event in such a state. -/
  | notPending
  /-- Raised by a meaning whose command is issued by an agent that cannot issue (a grate that is not running or whose
  issue stands still, a hart that waits at a fence). Safe: the agent does not send the command in such a state. -/
  | agentNotReady
  deriving DecidableEq, Repr

/-- The block after power-on (R466, R487, R489, R577): every field at its reset value. -/
def State.reset : State := {}

end Sys2Proof.Machine
end

