-- ==== Sys2Proof/Machine/Ops.lean ====
section
/-! DEFINITION. The named reads and updates of the state's tables; free values; what leaves the block; Stoker's log; the
address map and who can be reached; bytes of memory. -/

namespace Sys2Proof.Machine

abbrev Res := Host.Outcome State Fault Refusal

/-! ### Tables of the state -/

def State.gr (s : State) (g : Nat) : Grate := Tab.get {} s.grates g
def State.setGr (s : State) (g : Nat) (x : Grate) : State := { s with grates := Tab.put {} s.grates g x }
def State.modGr (s : State) (g : Nat) (f : Grate → Grate) : State := s.setGr g (f (s.gr g))
def State.ht (s : State) (h : Nat) : Hart := Tab.get {} s.harts h
def State.setHt (s : State) (h : Nat) (x : Hart) : State := { s with harts := Tab.put {} s.harts h x }
def State.ring (s : State) (r : Nat) : Ring := Tab.get {} s.rings r
def State.setRing (s : State) (r : Nat) (x : Ring) : State := { s with rings := Tab.put {} s.rings r x }
def State.rq (s : State) (r : Nat) : RingQ := Tab.get {} s.ringq r
def State.setRq (s : State) (r : Nat) (x : RingQ) : State := { s with ringq := Tab.put {} s.ringq r x }
def State.stream (s : State) (i : Nat) : Stream := Tab.get {} s.streams i
def State.setStream (s : State) (i : Nat) (x : Stream) : State := { s with streams := Tab.put {} s.streams i x }
def State.tally (s : State) (i : Nat) : Tally := Tab.get {} s.tallies i
def State.setTally (s : State) (i : Nat) (x : Tally) : State := { s with tallies := Tab.put {} s.tallies i x }
def State.job (s : State) (k : Nat) : Option Job := Tab.get none s.jobs k
def State.setJob (s : State) (k : Nat) (x : Option Job) : State := { s with jobs := Tab.put none s.jobs k x }
def State.host (s : State) (h : Nat) : HostLink := Tab.get {} s.hosts h
def State.setHost (s : State) (h : Nat) (x : HostLink) : State := { s with hosts := Tab.put {} s.hosts h x }
def State.port (s : State) (p : Nat) : PortCfg := Tab.get {} s.ports p
def State.ctxE (s : State) (c : Nat) : CtxEnt := Tab.get {} s.ctxs c
def State.fl (s : State) (f : Nat) : FlueLink := Tab.get {} s.flue.links f
def State.setFl (s : State) (f : Nat) (x : FlueLink) : State :=
  { s with flue := { s.flue with links := Tab.put {} s.flue.links f x } }
def State.memb (s : State) (p : Nat) : Memb := Tab.get {} s.group.memb p
def State.setMemb (s : State) (p : Nat) (x : Memb) : State :=
  { s with group := { s.group with memb := Tab.put {} s.group.memb p x } }
def State.bundle (s : State) (die b : Nat) : Bundle := Tab.get {} s.fabric.bundles (die * 64 + b)
def State.setBundle (s : State) (die b : Nat) (x : Bundle) : State :=
  { s with fabric := { s.fabric with bundles := Tab.put {} s.fabric.bundles (die * 64 + b) x } }
def State.mctl (s : State) (c : Nat) : MemCtl := Tab.get {} s.memCtl c
def State.setMctl (s : State) (c : Nat) (x : MemCtl) : State := { s with memCtl := Tab.put {} s.memCtl c x }
def State.maint (s : State) (d : Nat) : Maint := Tab.get {} s.coh.maint d
def State.setMaint (s : State) (d : Nat) (x : Maint) : State :=
  { s with coh := { s.coh with maint := Tab.put {} s.coh.maint d x } }
def State.pool (s : State) (d : Nat) : Pool := Tab.get {} s.coh.pool d
def State.setPool (s : State) (d : Nat) (x : Pool) : State :=
  { s with coh := { s.coh with pool := Tab.put {} s.coh.pool d x } }

/-! ### Free values and what leaves the block -/

/-- A value the spec leaves undefined, w bits wide, and the state after it is taken (log 4). -/
def takeFree (w : Nat) (s : State) : BitVec w × State := (Config.freeValue w s.free, { s with free := s.free + 1 })

def State.emit (s : State) (o : Out) : State := { s with out := s.out ++ [o] }
def State.emits (s : State) (os : List Out) : State := { s with out := s.out ++ os }

/-- What goes out on a flue link goes in a flit of its own, which the 2,048-flit replay buffer keeps until it is acknowledged, and waits
while the buffer is full (R415, log 153). -/
def flueSend (s : State) (f : Nat) (o : Out) : State :=
  let x := s.fl f
  if 2048 ≤ x.unacked.length then s.setFl f { x with backlog := x.backlog ++ [o] }
  else (s.setFl f { x with sentFlits := x.sentFlits + 1, txSeq := x.txSeq + 1, unacked := x.unacked ++ [(x.txSeq + 1, o)] }).emit o

/-- A message sent on each of some links. -/
def flueSendAll (s : State) (links : List Nat) (m : FlueMsg) : State :=
  links.foldl (fun s f => flueSend s f (.flue f 64 m)) s

/-- The flits up to an acknowledged one leave the replay buffer, and what waited goes out as far as there is room. -/
def flueAcked (s : State) (f : Nat) (seq : BitVec 12) : State :=
  let x := s.fl f
  if x.unacked.any (fun e => decide (e.1 = seq)) then
    let kept := (x.unacked.dropWhile (fun e => decide (e.1 ≠ seq))).drop 1
    x.backlog.foldl (fun s o => flueSend s f o) (s.setFl f { x with unacked := kept, backlog := [] })
  else s

/-- The flits still in the replay buffer sent again, as they were (R415, R538). -/
def flueReplay (s : State) (f : Nat) : State := s.emits ((s.fl f).unacked.map (·.2))

/-- One of a link's IDE streams (R533, R535). -/
def HostLink.stream (l : HostLink) : IdeStream → IdeSt | .link => l.ide | .selective => l.ideSel | .cxl => l.ideCxl

def HostLink.secureStream (l : HostLink) : IdeStream → HostLink
  | .link => { l with ide := .secure }
  | .selective => { l with ideSel := .secure }
  | .cxl => { l with ideCxl := .secure }

/-- Whether one of a link's streams is secure (R534). -/
def HostLink.secured (l : HostLink) : Bool := decide (l.ide = .secure) || decide (l.ideSel = .secure) || decide (l.ideCxl = .secure)

/-- Whether REQIDE holds back what the module would send (R534). -/
def ideHeld (s : State) (h : Nat) : Bool := (s.port (h / 2)).reqide && !(s.host h).secured

/-- A CXL.cachemem message to the host: under its IDE stream where that is secure (R535), or held back (R534). -/
def cxlSend (s : State) (what addr : Nat) (bs : List Byte) : State :=
  let l := s.host 0
  if ideHeld s 0 then s.setHost 0 { l with heldTlps := l.heldTlps ++ [.cxl what addr bs] }
  else s.emit (.cxl what addr (decide (l.ideCxl = .secure)) bs)

/-- The next request number (R263, R438). -/
def State.newReq (s : State) : Nat × State := (s.nextReq, { s with nextReq := s.nextReq + 1 })

/-! ### Stoker's log -/

/-- A record appended to the SRAM log with the next SEQ and the current tick; the log keeps the last 4,096 (R551,
R552). A SEV that the spec names is given with the record, otherwise it is the open value (log 7). -/
def State.logE (s : State) (r : LogRec) : State :=
  let r := { r with seq := s.stoker.nextSeq, tick := s.tick, sev := if r.sev = 0 then Config.logSeverity r.kind r.code r.tag else r.sev }
  let l := s.stoker.log ++ [r]
  { s with stoker := { s.stoker with log := l.drop (l.length - 4096), nextSeq := s.stoker.nextSeq + 1 } }

/-- An event that the spec has logged without numbering it: the model's own number (log 7). -/
def State.logTag (s : State) (src : LogSrc) (unit tag data : Nat) : State :=
  s.logE { src := src, unit := unit, tag := tag, data := data }

/-- One of Stoker's own events (Table 19.6). -/
def State.logStk (s : State) (code data : Nat) : State := s.logE { src := .stk, kind := 0x30, code := code, data := data }

/-! ### The readiness word (R494) -/

def readyThn (s : State) : Bool := s.kindle.ready0.getLsbD 0
def readyStk (s : State) : Bool := s.kindle.ready0.getLsbD 1
def readyStrm (s : State) : Bool := s.kindle.ready0.getLsbD 2
def readyClu (s : State) (c : Nat) : Bool := s.kindle.ready0.getLsbD (4 + c)
def readyHth (s : State) (n : Nat) : Bool := s.kindle.ready0.getLsbD (16 + n)
def readyCpe (s : State) (n : Nat) : Bool := s.kindle.ready0.getLsbD (20 + n)
def readyFul (s : State) (n : Nat) : Bool := s.kindle.ready0.getLsbD (24 + n)
def readyHl (s : State) (h : Nat) : Bool := s.kindle.ready0.getLsbD (28 + h)
def readyFl (s : State) (f : Nat) : Bool := s.kindle.ready0.getLsbD (32 + f)
def readyCh (s : State) (k : Nat) : Bool :=
  if k < 64 then s.kindle.ready1.getLsbD k else s.kindle.ready2.getLsbD (k - 64)

/-! ### The address map (R20 to R33) -/

def dieSize : Nat := 0x6000000000
def mainSize : Nat := 0x18000000000
def aliasBase : Nat := 0x20000000000
def nearBase : Nat := 0x40000000000
def spadBase : Nat := 0x41000000000
def remoteBase : Nat := 0x100000000000
def hostBase : Nat := 0x200000000000
def regBase : Nat := 0xF00000000000
def bellBase : Nat := 0xF10000000000

/-- The direct address of an offset A into the interleaved alias (R22). -/
def aliasToDirect (a : Nat) : Nat := field a 12 2 * dieSize + field a 14 27 * 0x1000 + a % 0x1000

/-- Where a physical address leads (Table 1.3). -/
def placeOf (pa : Nat) : Place :=
  if pa < mainSize then .main (pa / dieSize) pa
  else if aliasBase ≤ pa ∧ pa < aliasBase + mainSize then
    let d := aliasToDirect (pa - aliasBase)
    .main (d / dieSize) d
  else if nearBase ≤ pa ∧ pa < nearBase + 4 * 0x4000000 then
    .near ((pa - nearBase) / 0x4000000) ((pa - nearBase) % 0x4000000)
  else if spadBase ≤ pa ∧ pa < spadBase + 96 * 0x800000 then
    .spad ((pa - spadBase) / 0x800000) ((pa - spadBase) % 0x800000)
  else if remoteBase ≤ pa ∧ pa < remoteBase + 64 * 0x4000000000 then
    .remote ((pa - remoteBase) / 0x4000000000) ((pa - remoteBase) % 0x4000000000)
  else if hostBase ≤ pa ∧ pa < hostBase + 4 * 0x40000000000 then
    .host ((pa - hostBase) / 0x40000000000) ((pa - hostBase) % 0x40000000000)
  else if regBase ≤ pa ∧ pa < regBase + 0x10000000 then .regs (pa - regBase)
  else if bellBase ≤ pa ∧ pa < bellBase + 0x80000 then .bell (pa - bellBase)
  else .nowhere

/-- The key under which a byte of scratchpad g is held: its window address. -/
def spadKey (g off : Nat) : Nat := spadBase + g * 0x800000 + off
def nearKey (die off : Nat) : Nat := nearBase + die * 0x4000000 + off

/-! ### Bytes of memory -/

/-- n bytes from key a, lowest first. -/
def Mem.read (m : Mem) (a : Nat) : Nat → List Byte
  | 0 => []
  | n + 1 => Tab.get 0 m a :: Mem.read m (a + 1) n

/-- Bytes written from key a upward. -/
def Mem.write (m : Mem) (a : Nat) : List Byte → Mem
  | [] => m
  | b :: bs => Mem.write (Tab.put 0 m a b) (a + 1) bs

/-- The canonical form of the memory: addresses strictly rising, no zero listed. -/
def Mem.wf (m : Mem) : Bool := Tab.wf (0 : Byte) m

def State.bytes (s : State) (a n : Nat) : List Byte := Mem.read s.mem a n
def State.putBytes (s : State) (a : Nat) (bs : List Byte) : State := { s with mem := Mem.write s.mem a bs }
/-- n bytes from key a written with zero. -/
def State.zeroBytes (s : State) (a n : Nat) : State := { s with mem := Tab.eraseRange s.mem a n }
def State.word (s : State) (a n : Nat) : Nat := ofBytes (s.bytes a n)
def State.putWord (s : State) (a n v : Nat) : State := s.putBytes a (toBytes n v)

/-! ### Words of a scratchpad (R115, R116, R121, R129) -/

/-- The words that an extent of bytes touches, and those it covers. -/
def touches (off n w : Nat) : Bool := decide (32 * w < off + n) && decide (off < 32 * w + 32)
def covers (off n w : Nat) : Bool := decide (off ≤ 32 * w) && decide (32 * w + 32 ≤ off + n)

/-- Whether an access meets a word that the code cannot correct: a read that touches it, a write that covers part of it. -/
def spadBad (x : Grate) (write : Bool) (off n : Nat) : Bool := x.badWords.any (fun w => touches off n w && !(write && covers off n w))

/-- A whole write replaces bad words. -/
def mendWords (s : State) (g : Nat) (f : Nat → Bool) : State :=
  if (s.gr g).badWords.isEmpty then s else s.modGr g (fun x => { x with badWords := x.badWords.filter (fun w => !(f w)) })

/-- Before the bytes of an extent of a scratchpad are written: the words it touches are kept for the instructions of the grate's
units that have issued and not completed. -/
def keepPast (s : State) (g off n : Nat) : State :=
  let x := s.gr g
  if x.matQ.isEmpty && x.wlQ.isEmpty && x.vecQ.isEmpty then s
  else
    let old := (rangeFrom (off / 32) ((off + n + 31) / 32 - off / 32)).map (fun w =>
      { word := w, issued := x.issued, bytes := s.bytes (spadKey g (32 * w)) 32 : PastWord })
    s.setGr g { x with past := x.past ++ old }

/-- What a write of an extent of a scratchpad does beside storing its bytes. -/
def notePast (s : State) (g off n : Nat) : State := mendWords (keepPast s g off n) g (covers off n)

/-! ### Agents -/

/-- SRC of Table 20.3. The dispatch front ends have no code of their own there; their faults carry the copy engine's
(log 10). -/
def agentSrc : Agent → Nat
  | .tile _ => 0 | .copyIn _ _ => 1 | .copyOut _ _ => 2 | .mover _ _ => 3 | .fuller _ _ => 4 | .streamTable => 5
  | .core _ => 6 | .cluster _ => 6 | .home _ => 7 | .hostLink _ => 8 | .flueLink _ => 9 | .dispatch _ _ => 1 | .ringUnit => 7

/-- DIE of Table 20.3. -/
def agentDie : Agent → Nat
  | .tile g => g / 24 | .copyIn d _ => d | .copyOut d _ => d | .mover d _ => d | .fuller d _ => d | .dispatch d _ => d
  | .home d => d | _ => 4

/-- UNIT of Table 20.3. -/
def agentUnit : Agent → Nat
  | .tile g => g % 24 | .copyIn _ i => i | .copyOut _ i => i | .mover _ i => i | .fuller _ k => k | .dispatch _ i => i
  | .core h => h | .cluster b => 8 * b | .hostLink h => h | .flueLink p => p | _ => 0

/-- The block of Table 19.5 in which an agent lies. -/
def agentLogSrc : Agent → LogSrc
  | .tile _ => .grt | .copyIn _ _ => .hth | .copyOut _ _ => .hth | .mover _ _ => .hth | .dispatch _ _ => .hth
  | .fuller _ _ => .ful | .home _ => .hth | .hostLink _ => .hlk | .flueLink _ => .flu | _ => .chm

/-- The agent number that breaks ties between requests and that a refused request's log record names (R280, R328): the place of a
translating engine in the table of micro-translation buffers. The spec numbers no agents (log 139). -/
def agentKey : Agent → Nat
  | .tile g => g
  | .copyIn d i => 1024 + d * 64 + i
  | .copyOut d i => 1024 + d * 64 + 16 + i
  | .mover d i => 1024 + d * 64 + 32 + i
  | .fuller d k => 1024 + d * 64 + 48 + k
  | .dispatch d i => 2048 + d * 2 + i
  | .core h => 4096 + h
  | .cluster b => 4224 + b
  | .streamTable => 8192
  | .ringUnit => 8193
  | .hostLink h => 8200 + h
  | .home d => 8210 + d
  | .flueLink p => 8220 + p

def xagent : XAgent → Agent
  | .tile g => .tile g.val
  | .copyIn d i => .copyIn d.val i.val
  | .copyOut d i => .copyOut d.val i.val
  | .mover d i => .mover d.val i.val
  | .fuller d k => .fuller d.val k.val
  | .dispatch d f => .dispatch d.val (boolNat f)

/-- ACC of Table 10.7. -/
def accCode : Acc3 → Nat | .read => 0 | .write => 1 | .atomic => 2 | .fetch => 3

/-! ### Routes between dies (R391, R403, R404); die 4 is the chimney -/

def bundleUp (s : State) (die b : Nat) : Bool := decide ((s.bundle die b).st = .up)

/-- The bundles of die a that lead to die b (Table 13.1). -/
def groupBundles (a b : Nat) : List Nat :=
  if a = 4 then (if b < 4 then rangeFrom (16 * b) 16 else [])
  else if b = 4 then rangeFrom 0 16
  else if b = (a + 1) % 4 then rangeFrom 16 8
  else if b = (a + 3) % 4 then rangeFrom 24 8
  else []

/-- Whether a hop has an UP bundle, at both dies: a die that has been reset has none. -/
def hopUp (s : State) (a b : Nat) : Bool := (groupBundles a b).any (bundleUp s a) && (groupBundles b a).any (bundleUp s b)

/-- The routes of Table 13.6, each by its intermediate die (5 for a direct route). -/
def routeList (a b : Nat) : List Nat :=
  if a = 4 then [5, (b + 1) % 4, (b + 3) % 4]
  else if b = 4 then [5, (a + 1) % 4, (a + 3) % 4]
  else if b = (a + 1) % 4 ∨ b = (a + 3) % 4 then [5, 4]
  else [4, (a + 1) % 4, (a + 3) % 4]

def routeUsable (s : State) (a b via : Nat) : Bool :=
  if via = 5 then hopUp s a b else hopUp s a via && hopUp s via b

/-- The route in use: the first usable one; none where the destination is unreachable (R404). -/
def routeOf (s : State) (a b : Nat) : Option Nat := (routeList a b).find? (routeUsable s a b)

def reachable (s : State) (a b : Nat) : Bool := decide (a = b) || (routeOf s a b).isSome

/-- Whether new messages from a to b are held until the markers of a change of route have returned (R405). -/
def draining (s : State) (a b : Nat) : Bool := Tab.get false s.fabric.draining (5 * a + b)

/-! ### Backing of ranges -/

/-- Locked ways of a die (R25); none in pool mode (R160). -/
def lockedWays (s : State) (die : Nat) : Nat :=
  if (s.pool die).mode then 0 else min (s.maint die).locked.toNat 8

def nearWayBytes : Nat := 0x600000

def nearBacked (s : State) (die off : Nat) : Bool := decide (off < nearWayBytes * lockedWays s die)

/-- The owner entry of a locked way (R329), in the form of R326. -/
def nearOwner (s : State) (die way : Nat) : Nat :=
  field (Tab.get 0 s.coh.nearOwn (2 * die + way / 4)).toNat (16 * (way % 4)) 16

/-- Whether a 16-bit owner entry lets a context through (R326, R327). -/
def ownerAllows (e ctx : Nat) : Bool :=
  decide (field e 14 2 = 0) && bitAt e 12 && (decide (field e 0 12 = ctx) || (bitAt e 13 && decide (ctx = 0)))

def ownerWord (o : Owner) : Nat := packFields [(0, 12, o.owner.toNat), (12, 1, boolNat o.v), (13, 1, boolNat o.rt)]

/-- The region of a direct address: its key in the table of owners. -/
def regionOf (d : Nat) : Nat := d / 0x10000

/-- The table area of R325. -/
def inOwnerTable (d : Nat) : Bool := decide (0x5FFF400000 ≤ d % dieSize)

def mainAllows (s : State) (d ctx : Nat) : Bool :=
  !(inOwnerTable d) && ownerAllows (ownerWord (Tab.get {} s.owners (regionOf d))) ctx

/-- The die channel of a line (R491). -/
def channelOf (d : Nat) : Nat := field (d % dieSize) 7 5 ^^^ field (d % dieSize) 12 5

def channelReady (s : State) (d : Nat) : Bool := readyCh s (32 * (d / dieSize) + channelOf d)

/-- The line of the region-owner table that holds a region's entry (R325). -/
def ownerLine (d : Nat) : Nat :=
  d / dieSize * dieSize + 0x5FFF400000 + 2 * (d % dieSize / 0x10000)

/-- The package number of the memory controller that serves a line (R16, R491). -/
def controllerOf (d : Nat) : Nat := 8 * (d / dieSize) + channelOf d / 4

/-- A host link's window is backed while the link is trained (R29); an upper half exists only on a bifurcated port. -/
def hostBacked (s : State) (h : Nat) : Bool :=
  (s.host h).dlup && (decide (h % 2 = 0) || (s.port (h / 2)).bifur)

/-- A remote window is backed while its position is another member's (R28). A dead member stays decoded: its requests
end with error responses (R263, R438). -/
def remoteBacked (s : State) (p : Nat) : Bool :=
  decide ((s.memb p).st ≠ 0) && !(s.group.mv && decide (s.group.mypos.toNat = p))

def positionDead (s : State) (p : Nat) : Bool := decide ((s.memb p).st = 2) || s.group.deadKnown.getLsbD p

/-- SPDM sessions of a path that has gone down are over (R537, log 49). -/
def dropSessions (s : State) (path : Nat) : State :=
  { s with trust := { s.trust with sessions := Tab.put 0 s.trust.sessions path 0 } }

/-! ### Byte counts of bandwidth classes (R155) -/

def classOf (s : State) (ctx : Nat) : Nat := (Tab.get 0 s.ctxClass ctx).toNat

def countMem (s : State) (d ctx n : Nat) : State :=
  let c := controllerOf d
  let m := s.mctl c
  let k := classOf s ctx
  s.setMctl c { m with clsBytes := Tab.put 0 m.clsBytes k (Tab.get 0 m.clsBytes k + BitVec.ofNat 64 n) }

def countHost (s : State) (h ctx n : Nat) : State :=
  let m := s.host h
  let k := classOf s ctx
  s.setHost h { m with clsBytes := Tab.put 0 m.clsBytes k (Tab.get 0 m.clsBytes k + BitVec.ofNat 64 n) }

def countFlue (s : State) (f ctx n : Nat) : State :=
  let k := f * 16 + classOf s ctx
  { s with flue := { s.flue with clsBytes := Tab.put 0 s.flue.clsBytes k (Tab.get 0 s.flue.clsBytes k + BitVec.ofNat 64 n) } }

/-! ### A grate's exceptions -/

/-- The bank grants that a unit of a grate loses in one command, and the cycles that costs: free amounts, since the model has no
bank cycles; the counters of Table 4.11 saturate and count only while a program runs (R135, log 55). -/
def bankConflicts (s : State) (g pair : Nat) : State :=
  if (s.gr g).st = .running then
    let (v, s) := takeFree 96 s
    s.modGr g (fun x =>
      let lost := satAdd (Tab.get 0 x.conflicts (2 * pair)) (v.toNat % 2 ^ 48)
      let cyc := satAdd (Tab.get 0 x.conflicts (2 * pair + 1)) (v.toNat / 2 ^ 48)
      { x with conflicts := Tab.put 0 (Tab.put 0 x.conflicts (2 * pair) lost) (2 * pair + 1) cyc })
  else s

/-- The start of taking an exception (R142, R604): issue stops; the grate enters HALTED when its units and store buffer
have drained. A grate that is already halting keeps its first exception. -/
def beginHalt (s : State) (g : Nat) (h : HaltInfo) : State :=
  let x := s.gr g
  match x.stall with
  | .halting _ => s
  | _ => if x.st = .running ∨ x.st = .stopped then s.setGr g { x with stall := .halting h } else s

end Sys2Proof.Machine
end

