-- ==== Sys2Proof/Machine/Cipher.lean ====
section
/-! DEFINITION. What stands at the LPDDR6 pins: the keys of a line, its ciphertext, its integrity tag and the check of the tag (R510,
R527 to R531, log 149). -/

namespace Sys2Proof.Machine

/-! ### AES-256 in the XTS and CMAC modes (R529, R530). A block's byte 0 is its least significant -/

/-- A block times alpha in the field of XTS: little-endian bytes. -/
def xtsDouble (t : BitVec 128) : BitVec 128 := (t <<< 1) ^^^ (if t.msb then 0x87 else 0)

/-- The i-th 16-byte block of a line. -/
def lineBlock (x : LineData) (i : Nat) : BitVec 128 := x.extractLsb' (128 * i) 128

/-- The tweak of block i of the data unit numbered by its line. -/
def xtsTweak (key : BitVec 256) (line i : Nat) : BitVec 128 := i.repeat xtsDouble (Config.aes256 key (BitVec.ofNat 128 line))

/-- A line through one direction of XTS: the data unit is the line, its number the line's (R529). -/
def xtsLine (f : BitVec 256 → BitVec 128 → BitVec 128) (k : KeySet) (line : Nat) (x : LineData) : LineData :=
  (List.range 8).foldr (fun i acc =>
    let t := xtsTweak (Config.contextKey 1 k.ctx k.epoch k.gen) line i
    (acc <<< 128) ||| (f (Config.contextKey 0 k.ctx k.epoch k.gen) (lineBlock x i ^^^ t) ^^^ t).setWidth 1024) 0

def encryptLine (k : KeySet) (line : Nat) (x : LineData) : LineData := xtsLine Config.aes256 k line x
def decryptLine (k : KeySet) (line : Nat) (x : LineData) : LineData := xtsLine Config.aes256Inv k line x

/-- A block with its bytes in the opposite order. -/
def swapBytes (x : BitVec 128) : BitVec 128 :=
  BitVec.ofNat 128 (ofBytes ((List.range 16).map (fun i => x.extractLsb' (8 * (15 - i)) 8)))

/-- A block times x in the field of CMAC: big-endian bytes. -/
def cmacDouble (x : BitVec 128) : BitVec 128 := swapBytes (xtsDouble (swapBytes x))

/-- AES-256-CMAC of full blocks and a last block that padding has filled. -/
def cmacPadded (key : BitVec 256) (full : List (BitVec 128)) (last : BitVec 128) : BitVec 128 :=
  let sub := cmacDouble (cmacDouble (Config.aes256 key 0))
  Config.aes256 key (full.foldl (fun c b => Config.aes256 key (c ^^^ b)) 0 ^^^ last ^^^ sub)

/-- The integrity tag of a line's ciphertext: bits [31:0] of the CMAC of the 8 bytes of the address bits [51:7] and the 128 bytes of
ciphertext, in nine blocks of which the last holds 8 bytes and the padding (R530). -/
def lineTag (k : KeySet) (line : Nat) (cipher : LineData) : BitVec 32 :=
  let msg : BitVec 1088 := (cipher.setWidth 1088 <<< 64) ||| (BitVec.ofNat 64 line).setWidth 1088
  let last : BitVec 128 := msg.extractLsb' 1024 128 ||| (0x80 : BitVec 128) <<< 64
  (cmacPadded (Config.contextKey 2 k.ctx k.epoch k.gen) ((List.range 8).map (fun i => msg.extractLsb' (128 * i) 128)) last).setWidth 32

/-! ### The stored lines of a controller -/

/-- The keys of a line: those of its region's OWNER, whoever asks, and context 0's for the table area (R528). -/
def lineKeys (s : State) (line : Nat) : KeySet :=
  let d := line * 128
  let c := if inOwnerTable d then 0 else (Tab.get {} s.owners (regionOf d)).owner.toNat
  { ctx := c, epoch := s.trust.keyEpoch, gen := Tab.get 0 s.trust.keyGen c }

def storedAt (s : State) (line : Nat) : StoredLine := Tab.get {} (s.mctl (controllerOf (line * 128))).lines line

def setStored (s : State) (line : Nat) (x : StoredLine) : State :=
  let c := controllerOf (line * 128)
  s.setMctl c { s.mctl c with lines := Tab.put {} (s.mctl c).lines line x }

/-- A line written to LPDDR6: encrypted and tagged with the keys of its region's OWNER (R510, R528 to R530). -/
def storeLine (s : State) (line : Nat) : State :=
  let k := lineKeys s line
  let x := encryptLine k line (BitVec.ofNat 1024 (s.word (line * 128) 128))
  setStored s line { keys := some k, cipher := x, tag := lineTag k line x }

/-- Whether what a controller holds for a line carries the tag of its present keys; a line not written since its region was installed
holds the zeros and the fresh tags of R333. -/
def tagMatches (s : State) (line : Nat) : Bool :=
  let x := storedAt s line
  match x.keys with
  | none => true
  | some _ => decide (x.tag = lineTag (lineKeys s line) line x.cipher)

/-- Whether a read of a line takes it from LPDDR6: its home holds no newer data in its cache or its eviction buffer. -/
def fromMemory (s : State) (line : Nat) : Bool :=
  let e : DirEnt := Tab.get {} s.coh.dir line
  !e.dirty && decide (e.dst ≠ 2) && !s.coh.evict.contains line

/-- The stored line as the wires to memory deliver it from now on: other ciphertext or another tag. Where its tag still matches, its
plaintext is what a read gives (R531). -/
def alterLine (s : State) (line : Nat) (cipher : LineData) (tag : BitVec 32) : State :=
  let s := setStored s line { keys := some ((storedAt s line).keys.getD (lineKeys s line)), cipher := cipher, tag := tag }
  if fromMemory s line && tagMatches s line then s.putBytes (line * 128) (toBytes 128 (decryptLine (lineKeys s line) line cipher).toNat) else s

end Sys2Proof.Machine
end

