-- ==== Sys2Proof/Machine/FabMsg.lean ====
section
/-! DEFINITION. Messages on their way between dies: virtual channels, hop classes, the receivers' flit buffers and their credits, stripes
(R276, R401 to R407, R409). -/

namespace Sys2Proof.Machine

/-! ### Stripes (R406) -/

/-- Logical lanes over 16 of a bundle's WIDTH code. -/
def widthRounds (w : BitVec 2) : Nat := match w.toNat with | 1 => 1 | 2 => 2 | 3 => 4 | _ => 0

/-- The stripe list of a link group's direction: in round r every UP bundle whose width over 16 exceeds r, in ascending number. -/
def stripeList (s : State) (a b : Nat) : List Nat :=
  (List.range 4).flatMap (fun r =>
    (groupBundles a b).filter (fun n => bundleUp s a n && decide (r < widthRounds (s.bundle a n).width)))

/-- The stripe of a line's messages: PA[12:7] xor PA[18:13]. -/
def lineStripe (line : Nat) : Nat := line % 64 ^^^ (line / 64 % 64)

/-- The bundle of die a on which a stripe leaves for die b. -/
def stripeBundle (s : State) (a b stripe : Nat) : Option Nat :=
  let l := stripeList s a b
  if l.isEmpty then none else l[stripe % l.length]?

/-! ### Buffers and credits (R401, R402) -/

/-- Flits in one of the eight protocol buffers at the receiver of a bundle direction: a message of a class takes one (log 147). -/
def bufferFlits (s : State) (dir : Nat) (c : Chan) (cls : Nat) : Nat :=
  (s.fabric.msgs.filter (fun m => decide (m.dir = dir) && decide (m.chan = c) && decide (m.hops = cls + 1))).length

/-- The shared flits in use at a receiver: what each buffer holds beyond the 32 reserved for it. -/
def sharedFlits (s : State) (dir : Nat) : Nat :=
  (([Chan.request, .snoop, .response, .completion].flatMap (fun c => [bufferFlits s dir c 0 - 32, bufferFlits s dir c 1 - 32]))).sum

/-- Whether the sender holds a credit for one more flit of a buffer: a reserved one, or one of the 64 shared. -/
def creditFor (s : State) (dir : Nat) (c : Chan) (cls : Nat) : Bool :=
  decide (bufferFlits s dir c cls < 32) || decide (sharedFlits s dir < 64)

/-- The dies of a message's next hop: from its source in class 0, or from its intermediate die in class 1. -/
def nextHop (m : FabMsg) (via : Nat) : Nat × Nat :=
  if m.hops = 0 then (m.src, if via = 5 then m.dst else via) else (via, m.dst)

/-- Whether a message has made the last hop of its route. -/
def FabMsg.there (m : FabMsg) : Bool := decide (m.hops = if m.via = 5 then 1 else 2)

/-- Whether two messages must keep their order: one channel, one pair of dies, one stripe (R407). -/
def FabMsg.flow (m n : FabMsg) : Bool :=
  decide (m.chan = n.chan) && decide (m.src = n.src) && decide (m.dst = n.dst) && decide (lineStripe m.line = lineStripe n.line)

/-- A message's next hop made, where its route allows it and a credit is held. A message still at its source takes the route now in use,
and waits while the markers of a change of route are out (R403, R405). -/
def hopOne (s : State) (m : FabMsg) : Option FabMsg :=
  if m.there then none
  else
    let via := if m.hops = 0 then (if draining s m.src m.dst then none else routeOf s m.src m.dst) else some m.via
    match via with
    | none => none
    | some v =>
      let (a, b) := nextHop m v
      match stripeBundle s a b (lineStripe m.line) with
      | none => none
      | some n =>
        let dir := 64 * a + n
        if creditFor s dir m.chan m.hops then some { m with via := v, hops := m.hops + 1, dir := dir } else none

/-- The messages on their way moved one hop further where they can, oldest first; none passes an older one of its flow. `done` are those
already looked at. -/
def hopAll : List FabMsg → List FabMsg → State → State
  | _, [], s => s
  | done, m :: rest, s =>
    let behind := done.any (fun n => n.flow m && decide (n.hops ≤ m.hops) && !(n.there))
    match if behind then none else hopOne s m with
    | some m' => hopAll (done ++ [m']) rest { s with fabric := { s.fabric with msgs := done ++ m' :: rest } }
    | none => hopAll (done ++ [m]) rest s

/-- The fabric moves what it can: two hops at most lie before any message. -/
def fabricGo (s : State) : State :=
  let s := hopAll [] s.fabric.msgs s
  hopAll [] s.fabric.msgs s

/-! ### Sending and arrival -/

/-- A message sent; between agents of one die it does not enter the fabric. -/
def fabSend (s : State) (c : Chan) (src dst line agent : Nat) : State :=
  if src = dst then s
  else fabricGo { s with fabric := { s.fabric with
    msgs := s.fabric.msgs ++ [{ chan := c, src := src, dst := dst, line := line, agent := agent }] } }

/-- The oldest message on its way to a die, of a channel, about a line, with an agent at its agent's end. -/
def onWay (s : State) (c : Chan) (dst line agent : Nat) : Option FabMsg :=
  s.fabric.msgs.find? (fun m => decide (m.chan = c) && decide (m.dst = dst) && decide (m.line = line) && decide (m.agent = agent))

/-- A message arrives: it has made its last hop, and no older one of its flow is still on its way (R407). Its flit's credit returns, and
what waited for it moves. One that never left its die is there at once. -/
def fabTake (s : State) (c : Chan) (dst line agent : Nat) : Option State :=
  match onWay s c dst line agent with
  | none => some s
  | some m =>
    let older := s.fabric.msgs.takeWhile (fun n => decide (n ≠ m))
    if m.there && !(older.any (fun n => n.flow m)) then
      some (fabricGo { s with fabric := { s.fabric with msgs := s.fabric.msgs.erase m } })
    else none

/-- The messages of an agent, or of a die, that are gone with it. -/
def fabDrop (s : State) (gone : FabMsg → Bool) : State :=
  fabricGo { s with fabric := { s.fabric with msgs := s.fabric.msgs.filter (fun m => !(gone m)) } }

end Sys2Proof.Machine
end

