-- ==== Sys2Proof/Machine/Access.lean ====
section
/-! DEFINITION. Accesses to physical memory by agents that hold no tracked copy: the home's checks and its directory
(chapter 9), the region-owner check (R327 to R330), near SRAM, scratchpad windows and slot-guard mode. Such an access is
one closed transaction at the home (log 12). -/

namespace Sys2Proof.Machine

/-! ### Directory, agents' lines, ash list -/

def lineOf (d : Nat) : Nat := d / 128
def lineDie (line : Nat) : Nat := line * 128 / dieSize

def State.dirE (s : State) (line : Nat) : DirEnt := Tab.get {} s.coh.dir line
def State.setDir (s : State) (line : Nat) (x : DirEnt) : State :=
  { s with coh := { s.coh with dir := Tab.put {} s.coh.dir line x } }
def State.al (s : State) (line bit : Nat) : ALine := Tab.get {} s.coh.agents (line * 16 + bit)
def State.setAl (s : State) (line bit : Nat) (x : ALine) : State :=
  { s with coh := { s.coh with agents := Tab.put {} s.coh.agents (line * 16 + bit) x } }
def State.txn (s : State) (line : Nat) : Option Txn := Tab.get none s.coh.txns line
def State.setTxn (s : State) (line : Nat) (x : Option Txn) : State :=
  { s with coh := { s.coh with txns := Tab.put none s.coh.txns line x } }

/-- The line as its owner has it becomes the home's copy too (R272, R285). -/
def dropStale (s : State) (line : Nat) : State :=
  { s with coh := { s.coh with stale := Tab.put none s.coh.stale line none } }

/-- Before an owner writes a line for the first time, the home's copy is set aside (R272). -/
def keepStale (s : State) (line : Nat) : State :=
  match Tab.get none s.coh.stale line with
  | some _ => s
  | none =>
    let old : LineData := BitVec.ofNat 1024 (s.word (line * 128) 128)
    { s with coh := { s.coh with stale := Tab.put none s.coh.stale line (some old) } }

/-- The lowest sharer bit of a vector. -/
def lowBit (v : BitVec 14) : Nat := ((List.range 14).find? (fun b => v.getLsbD b)).getD 14

def bitMask (b : Nat) : BitVec 14 := BitVec.ofNat 14 (2 ^ b)

/-- The place of a listed line in its die's ash list (R291). -/
def ashFind (s : State) (line : Nat) : Option (Nat × AshEnt) :=
  s.coh.ash.find? (fun e => decide (e.1 / 4096 = lineDie line) && e.2.v && decide (e.2.addr.toNat = line))

def ashFree (s : State) (die : Nat) : Option Nat :=
  (List.range 4096).find? (fun i => !(Tab.get {} s.coh.ash (die * 4096 + i)).v)

def ashBump (s : State) (die : Nat) : State :=
  { s with coh := { s.coh with ashGen := Tab.put 0 s.coh.ashGen die (Tab.get 0 s.coh.ashGen die + 1) } }

/-- The entry of a line removed (R293). -/
def ashRemove (s : State) (line : Nat) : State :=
  match ashFind s line with
  | some (k, _) => ashBump { s with coh := { s.coh with ash := Tab.put {} s.coh.ash k {} } } (lineDie line)
  | none => s

/-- A line listed with the agent that lost it: the lowest free entry, or the overflow bit of its region's owner (R291,
R294, R584). -/
def ashList (s : State) (line agent : Nat) : State :=
  let die := lineDie line
  let ctx := (Tab.get {} s.owners (regionOf (line * 128))).owner
  match ashFind s line with
  | some _ => s
  | none => match ashFree s die with
    | some i =>
      let e : AshEnt :=
        { v := true, agent := BitVec.ofNat 4 agent, addr := BitVec.ofNat 45 line, ctx := ctx, tick := s.tick }
      ashBump { s with coh := { s.coh with ash := Tab.put {} s.coh.ash (die * 4096 + i) e } } die
    | none => { s with coh := { s.coh with ashOvf := Tab.put false s.coh.ashOvf (die * 4096 + ctx.toNat) true } }

/-! ### Pool lines (R157 to R159) -/

/-- Whether a line lies in a pool range in use of its die in pool mode. -/
def inPool (s : State) (line : Nat) : Bool :=
  let p := s.pool (lineDie line)
  p.mode && (List.range 8).any (fun i =>
    let base := field (Tab.get 0 p.ranges (2 * i)).toNat 16 36 * 0x10000
    let npg := field (Tab.get 0 p.ranges (2 * i + 1)).toNat 0 24 + 1
    bitAt (Tab.get 0 p.ranges 16).toNat i && decide (base ≤ line * 128) && decide (line * 128 < base + npg * 0x10000))

/-- Sets of a way (R297). -/
def cacheSets : Nat := 49152

/-- A dirty line put into its home's eviction buffer (R298). -/
def evictLine (s : State) (line : Nat) : State :=
  let d := s.dirE line
  if d.dirty then
    let s := s.setDir line { d with dirty := false }
    { s with coh := { s.coh with evict := s.coh.evict ++ [line] } }
  else s

/-- The pool lines of a set as (line, age, way); a pool line's value is 16 × (age + 1) + way. -/
def poolSet (p : Pool) (set : Nat) : List (Nat × Nat × Nat) :=
  (p.lines.filter (fun e => decide (e.1 % cacheSets = set))).map (fun e => (e.1, e.2 / 16 - 1, e.2 % 16))

/-- The victim of a fill: the greatest age, then the lowest way (R158). -/
def poolVictim : List (Nat × Nat × Nat) → Option (Nat × Nat × Nat)
  | [] => none
  | x :: xs => match poolVictim xs with
    | none => some x
    | some y => if y.2.1 < x.2.1 ∨ (y.2.1 = x.2.1 ∧ x.2.2 < y.2.2) then some x else some y

/-- An access to a resident pool line sets its age to 0 (R158). -/
def poolTouch (s : State) (line : Nat) : State :=
  let die := lineDie line
  let p := s.pool die
  let v := Tab.get 0 p.lines line
  if inPool s line && decide (v ≠ 0) then s.setPool die { p with lines := Tab.put 0 p.lines line (16 + v % 16) } else s

/-! ### Snoops of a home's own, and places in the system cache (R274, R298, R299) -/

/-- The snoop a request needs and who gets it (R274, R284, R285, R295). -/
def snoopsFor (e : DirEnt) (req : HomeReq) (b : BitVec 14) : Option Snoop × BitVec 14 :=
  let v := e.vec &&& ~~~b
  let owner := decide (e.dst = 2)
  match req with
  | .rdS => if owner then (some .snpS, v) else (none, 0)
  | .readOnce => if owner then (some .snpS, v) else (none, 0)
  | .clean => if owner then (some .snpS, v) else (none, 0)
  | .writeFull => (some (if owner then .snpXI else .snpInv), v)
  | .wbM => (none, 0)
  | .evE => (none, 0)
  | _ => (some (if owner then .snpX else .snpInv), v)

/-- The snoops of a request sent; false where there are none to send. -/
def sendSnoops (s : State) (line : Nat) (t : Txn) (b : BitVec 14) : Bool × State :=
  let (sn, v) := snoopsFor (s.dirE line) t.req b
  if v = 0 then (false, s)
  else
    let s := s.setTxn line (some { t with owed := v, asked := sn, unsent := v, room := false, since := s.elapsed })
    (true, ((List.range 14).filter (fun b => v.getLsbD b)).foldl (fun s b => fabSend s .snoop (lineDie line) 4 line b) s)

/-- A transaction of the home's own on a line that is free: its copies cleaned or back-invalidated (R274, R295). -/
def homeSnoop (s : State) (line : Nat) (req : HomeReq) : State :=
  (sendSnoops s line { req := req, who := .home, ctx := 0, payload := {}, owed := 0, asked := none } 0).2

/-- Whether a die's eviction buffer is full (R298). -/
def evictFull (s : State) (die : Nat) : Bool := decide (64 ≤ (s.coh.evict.filter (fun l => decide (lineDie l = die))).length)

/-- A line without copies that is to leave its place: dirty data through the eviction buffer where it has room (R274, R298). -/
def giveUpPlace (s : State) (line : Nat) : State :=
  if (s.dirE line).dst = 0 ∧ !(evictFull s (lineDie line)) then evictLine s line else s

/-- The key of a line's set at its home. -/
def setKey (line : Nat) : Nat := lineDie line * cacheSets + line % cacheSets

/-- The lines whose tags stand in a line's set outside the pool's ways: those with a directory entry and those whose request has its
place (R271, log 120). -/
def setTags (s : State) (line : Nat) : List Nat :=
  let placed := s.coh.txns.filter (fun (e : Nat × Option Txn) => match e.2 with | some t => !t.room | none => false)
  ((s.coh.dir.map (·.1)) ++ (placed.map (·.1)).filter (fun l => decide (s.dirE l = {}))).filter
    (fun l => decide (setKey l = setKey line) && !(inPool s l))

/-- The ways of a die's cache that hold neither locked lines, nor lines that LOCK is about to hold, nor pool lines (R147, R156, R275,
R297). -/
def tagWays (s : State) (die : Nat) : Nat :=
  let m := s.maint die
  let locked := if m.busy && decide (m.op = 4) then max m.locked.toNat m.ways.toNat else lockedWays s die
  16 - locked - (if (s.pool die).mode then (s.pool die).ways.toNat else 0)

/-- The tags of a set that can be chosen for replacement: no transaction is open on them. -/
def replaceable (s : State) (line : Nat) : List Nat := (setTags s line).filter (fun l => (s.txn l).isNone)

/-- The tags of a set that are being replaced. -/
def leaving (s : State) (line : Nat) : List Nat :=
  (setTags s line).filter (fun l => match s.txn l with | some t => decide (t.req = .drop) | none => false)

/-- Tags of a line's set replaced until n places are free beside `more` new ones, as far as copies, open transactions and the eviction
buffer allow; by fuel (R274, R297). -/
def thinSet : Nat → State → Nat → Nat → State
  | 0, s, _, _ => s
  | n + 1, s, line, more =>
    let tags := setTags s line
    let c := replaceable s line
    if tags.length + more ≤ tagWays s (lineDie line) + (leaving s line).length then s
    else match (c.drop (Config.victim line s.elapsed % c.length)).head? with
    | none => s
    | some l =>
      if (s.dirE l).dst ≠ 0 then thinSet n (homeSnoop s l .drop) line more
      else if evictFull s (lineDie l) then s
      else thinSet n (evictLine s l) line more

/-- Whether a line has a tag, or its set a free place for one. -/
def hasPlace (s : State) (line : Nat) : Bool :=
  decide (s.dirE line ≠ {}) || decide ((setTags s line).length < tagWays s (lineDie line))

/-- A place for a line of a pool range: its own, a free pool way, or that of the set's victim, whose copies are invalidated first
(R157 to R159, R274); false while the line has none. -/
def poolPlace (s : State) (line : Nat) : Bool × State :=
  let die := lineDie line
  let p := s.pool die
  let here := poolSet p (line % cacheSets)
  let fill := fun (s : State) (t : Tab Nat) (w : Nat) => s.setPool die { s.pool die with lines := Tab.put 0 t line (16 + w) }
  if Tab.get 0 p.lines line ≠ 0 then (true, s)
  else match (List.range p.ways.toNat).find? (fun w => !here.any (fun e => decide (e.2.2 = w))), poolVictim here with
  | some w, _ => (true, fill s p.lines w)
  | none, some (l, _, w) =>
    if (s.txn l).isSome then (false, s)
    else if (s.dirE l).dst ≠ 0 then (false, homeSnoop s l .drop)
    else if (s.dirE l).dirty && evictFull s die then (false, s)
    else (true, fill (evictLine s l) (Tab.put 0 p.lines l 0) w)
  | none, none => (false, s)

/-- Whether requests wait for their controller's key table (R563). -/
def keyTableWaits (s : State) (d : Nat) : Bool := Tab.get false s.trust.tableWait (controllerOf d)

/-- A request's line looked up at its home: true once it has a place, false while the request waits in its entry for one, for a key
table or in a stopped set (R299, R563, R564). -/
def findPlace (s : State) (line : Nat) : Bool × State :=
  if keyTableWaits s (line * 128) || Tab.get false s.coh.stopped (setKey line) then (false, s)
  else if inPool s line then poolPlace s line
  else if hasPlace s line then (true, s)
  else
    let s := thinSet 16 s line 1
    (hasPlace s line, s)

/-! ### The home's checks (R327, R292, R294, R404, R490, R491) -/

/-- Kinds of a request to a line: a read, a write of part of it or an atomic, a write of the whole line. -/
inductive LineReq where
  | read | part | full
  deriving DecidableEq, Repr

/-- Whether the line can be reached and is backed by trained channels (R404, R490, R491). -/
def lineReach (s : State) (agent : Agent) (d : Nat) : Option Resp :=
  let die := d / dieSize
  if !(reachable s (agentDie agent) die) then some (.uncorr 4 0)
  else if !(readyHth s die) || !(channelReady s d) || !(channelReady s (ownerLine d)) then some (.decode 1)
  else none

/-- Whether a read of a line fails on its integrity tag (R530, R531). -/
def tagFails (s : State) (line : Nat) : Bool := fromMemory s line && !(tagMatches s line)

/-- A failing tag logged with the line's address and owner; the stored line stays as it is (R531). -/
def logTagFail (s : State) (line : Nat) : State :=
  let owner := (Tab.get {} s.owners (regionOf (line * 128))).owner.toNat
  s.logE { src := .mem, unit := controllerOf (line * 128), kind := 0x17, code := 2, ctx := some owner, addr := line * 128 }

/-- The answer to a request that needs a line's old data, logged where it is for the line's tag. -/
def logAnswer (s : State) (line : Nat) (r : Option Resp) : State := if r = some (.uncorr 2 0) then logTagFail s line else s

/-- What a line's state answers to a request that has the line: lost-line responses and bad data (R292, R294, R531, R561). -/
def lineAnswer (s : State) (ctx line : Nat) (full : Bool) : Option Resp :=
  if Tab.get false s.coh.ashOvf (lineDie line * 4096 + ctx) then some (.lost true 0 0)
  else match ashFind s line, full with
  | some (_, e), false => some (.lost false e.agent.toNat e.tick.toNat)
  | _, _ =>
    let bad := Tab.get 0 s.badLines line
    if full then none else if bad ≠ 0 then some (.uncorr bad 0) else if tagFails s line then some (.uncorr 2 0) else none

/-! ### Accesses of units at a home (R270, R278 to R281, log 12) -/

/-- The request of Table 9.3 that a unit's access makes. -/
def unitReq : LineReq → HomeReq | .read => .readOnce | .part => .writePart | .full => .writeFull

/-- Whether a requester is refused with Retry where its line is busy (R270, R279); every other waits in its entry (R278). -/
def Requester.retries : Requester → Bool
  | .retry _ => true
  | .caching b => decide (b = 12)
  | .unit (.core _) => false
  | .unit _ => true
  | .home => false

/-- Entries of a home's tracker that retry agents hold (R278). -/
def retryOpen (s : State) (die : Nat) : Nat :=
  (s.coh.txns.filter (fun e => decide (lineDie e.1 = die) && (match e.2 with | some t => t.who.retries | none => false))).length

def trackerFull (s : State) (line : Nat) : Bool := decide (576 ≤ retryOpen s (lineDie line))

/-- A request held at its home: a reservation, or a privileged agent's entry. -/
def addWait (s : State) (w : WaitReq) : State := { s with coh := { s.coh with waits := s.coh.waits ++ [w] } }

/-- The die at which a requester receives its messages; caching agents are on the chimney die. -/
def Requester.die : Requester → Nat
  | .retry a => agentDie a
  | .unit a => agentDie a
  | _ => 4

/-- The number of a requester in the fabric's messages: its sharer bit, or its agent's key above them. -/
def Requester.num : Requester → Nat
  | .caching b => b
  | .retry a => 16 + agentKey a
  | .unit a => 16 + agentKey a
  | .home => 14

/-- A request of a retry agent refused with a reservation; Retry is on its way to it (R279). -/
def addRetry (s : State) (w : WaitReq) : State :=
  fabSend (addWait s w) .completion (lineDie w.line) w.who.die w.line w.who.num

/-- Whether a requester's request for a line is held. -/
def isWaiting (s : State) (line : Nat) (r : Requester) : Bool := s.coh.waits.any (fun w => decide (w.line = line) && decide (w.who = r))

/-- A unit's request held, once. -/
def holdUnit (s : State) (line : Nat) (a : Agent) (ctx : Nat) (k : LineReq) : State :=
  if isWaiting s line (.unit a) then s
  else
    let w : WaitReq := { line := line, req := unitReq k, who := .unit a, ctx := ctx, payload := {}, tick := s.tick.toNat }
    if w.who.retries then addRetry s w else addWait s w

/-- A unit's request at a line that is free: ok where it is performed at once, otherwise its transaction is open (R285, R299). -/
def unitOpen (s : State) (line : Nat) (a : Agent) (ctx : Nat) (k : LineReq) : Resp × State :=
  let t : Txn := { req := unitReq k, who := .unit a, ctx := ctx, payload := {}, owed := 0, asked := none, since := s.elapsed }
  match findPlace s line with
  | (false, s) => (.wait, s.setTxn line (some { t with room := true }))
  | (true, s) => match sendSnoops s line t 0 with
    | (true, s) => (.wait, s)
    | (false, s) => (.ok, s)

/-- One request to one main-memory line by an agent that leaves no tracked copy: the region owner first, before the home looks the line
up (R327); then its turn at the line. -/
def mainCheck (s : State) (agent : Agent) (ctx : Nat) (k : LineReq) (d : Nat) : Resp × State :=
  let line := lineOf d
  let answer := lineAnswer s ctx line (decide (k = .full))
  if draining s (agentDie agent) (d / dieSize) then (.wait, s)
  else match lineReach s agent d with
  | some r => (r, s)
  | none =>
    if !(mainAllows s d ctx) then
      (.decode 1, s.logE { src := .mem, unit := d / dieSize, tag := 328, ctx := some ctx, addr := d, data := agentKey agent })
    else match s.txn line with
    | some t =>
      if t.who = .unit agent ∧ t.req = unitReq k ∧ t.awaitDone = false then
        if t.ready then (answer.getD .ok, logAnswer s line answer) else (.wait, s)
      else (.wait, holdUnit s line agent ctx k)
    | none =>
      if isWaiting s line (.unit agent) then (.wait, s)
      else if (Requester.unit agent).retries && trackerFull s line then (.wait, holdUnit s line agent ctx k)
      else match answer with
      | some r => (r, logAnswer s line answer)
      | none => unitOpen s line agent ctx k

/-- The end of a unit's own transaction at a line: a retry agent's keeps the line until Done (R281), a core's is closed. -/
def unitEnd (s : State) (line : Nat) (a : Agent) : State :=
  match s.txn line with
  | some t =>
    if t.who = .unit a ∧ t.ready then
      s.setTxn line (if t.who.retries then some { t with ready := false, awaitDone := true } else none)
    else s
  | none => s

/-- What a request that has been checked does at its line's home: its bytes counted, its pool age; a write leaves the line dirty, out of
the eviction buffer, and, where it writes all of it, off the ash list (R155, R158, R292, R298). -/
def mainDone (s : State) (agent : Agent) (ctx : Nat) (k : LineReq) (d : Nat) : State :=
  let line := lineOf d
  let s := unitEnd (poolTouch (countMem s d ctx 128) line) line agent
  if k = .read then s
  else
    let s := dropStale (if k = .full then ashRemove s line else s) line
    let s := s.setDir line { s.dirE line with dirty := true }
    { s with badLines := Tab.put 0 s.badLines line 0, coh := { s.coh with evict := s.coh.evict.filter (· ≠ line) } }

/-- An access to near SRAM (R25, R329, R147). -/
def nearCheck (s : State) (agent : Agent) (ctx : Nat) (k : LineReq) (die off : Nat) : Resp × State :=
  if !(reachable s (agentDie agent) die) then (.uncorr 4 0, s)
  else if draining s (agentDie agent) die then (.wait, s)
  else if !(readyHth s die) || !(nearBacked s die off) then (.decode 1, s)
  else if !(ownerAllows (nearOwner s die (off / nearWayBytes)) ctx) then
    (.decode 1, s.logE { src := .hth, unit := die, tag := 328, ctx := some ctx, addr := nearKey die off, data := agentKey agent })
  else
    let line := lineOf (nearKey die off)
    if Tab.get 0 s.badLines line ≠ 0 ∧ k ≠ .full then (.uncorr 3 7, s) else (.ok, s)

/-! ### Scratchpad windows (R26, R330, R132, R133) -/

/-- Whether an extent of bytes touches a slot. -/
def slotHits (e : SlotEnt) (off len : Nat) : Bool :=
  e.v && decide (off < (e.base.toNat + e.len.toNat + 1) * 2048) && decide (e.base.toNat * 2048 < off + len)

/-- The guarded slot that an external access breaks, if any (Table 4.12). -/
def guardBreach (x : Grate) (acc : Acc3) (off len : Nat) : Option (Nat × SlotEnt) :=
  if x.guardMode then
    x.slots.find? (fun e => e.2.guard && slotHits e.2 off len &&
      (match acc with | .write => e.2.full | .read => !e.2.full | .fetch => !e.2.full | .atomic => true))
  else none

/-- The DATA fields of a slot-guard record (Table 20.5, cause 0x05). -/
def guardFields (slot : Nat) (e : SlotEnt) (agent : Agent) : List (Nat × Nat × Nat) :=
  [(352, 8, slot), (360, 16, e.epoch.toNat), (376, 1, boolNat e.full), (380, 4, agentSrc agent), (384, 8, agentUnit agent)]

/-- The checks of an access to a scratchpad window: of its own grate, or from outside it. -/
def spadCheck (s : State) (agent : Agent) (ctx : Nat) (acc : Acc3) (g off len : Nat) : Resp × State :=
  let x := s.gr g
  let bad := spadBad x (decide (acc = .write)) off len
  if agent = .tile g then
    if 0x600000 < off + len then (.decode 1, s)
    else if bad then (.uncorr 3 1, s)
    else (.ok, s)
  else if !(reachable s (agentDie agent) (g / 24)) then (.uncorr 4 0, s)
  else if draining s (agentDie agent) (g / 24) then (.wait, s)
  else if !(readyHth s (g / 24)) || decide (0x600000 < off + len) then (.decode 1, s)
  else
    let held := decide (x.st = .running) || decide (x.st = .stopped)
    if x.clearing || !(if ctx = 0 then decide (x.st = .idle) else held && decide (x.ctx.toNat = ctx)) then
      (.decode 1, s.logE { src := .grt, unit := g, tag := 330, ctx := some ctx, addr := spadKey g off, data := agentKey agent })
    else match guardBreach x acc off len with
    | some (i, e) => (.guard, beginHalt s g { cause := 5, pc := x.pc, insn := 0, extra := guardFields i e agent })
    | none =>
      if bad then (.uncorr 3 1, beginHalt s g { cause := 4, pc := x.pc, insn := 0 })
      else (.ok, s)

/-! ### Physical accesses -/

/-- An extent cut at line boundaries: (address, length), by fuel. -/
def lineChunks : Nat → Nat → Nat → List (Nat × Nat)
  | 0, _, _ => []
  | f + 1, a, n =>
    if n = 0 then []
    else
      let k := min n (128 - a % 128)
      (a, k) :: lineChunks f (a + k) (n - k)

def chunksOf (a n : Nat) : List (Nat × Nat) := lineChunks (n / 128 + 2) a n

/-- The key under which the byte at a physical address is held; none where no memory of the package lies. -/
def keyOf (pa : Nat) : Option Nat :=
  match placeOf pa with
  | .main _ d => some d
  | .near die off => some (nearKey die off)
  | .spad g off => some (spadKey g off)
  | _ => none

/-- Whether an address lies in the window of another module. -/
def isRemote (pa : Nat) : Bool := match placeOf pa with | .remote _ _ => true | _ => false

def lineReq (acc : Acc3) (len : Nat) : LineReq :=
  match acc with
  | .read => .read
  | .fetch => .read
  | .atomic => .part
  | .write => if len = 128 then .full else .part

/-- The checks of one access that lies within one line. T4, T5 and device space are the caller's (R247, R31): here they
decode to nothing. -/
def chunkCheck (s : State) (agent : Agent) (ctx : Nat) (acc : Acc3) (pa len : Nat) : Resp × State :=
  match placeOf pa with
  | .main _ d => mainCheck s agent ctx (lineReq acc len) d
  | .near die off => nearCheck s agent ctx (lineReq acc len) die off
  | .spad g off => spadCheck s agent ctx acc g off len
  | .regs _ => (.decode 2, s)
  | .bell _ => (.decode 3, s)
  | _ => (.decode 1, s)

/-- What a checked piece does beside moving its bytes. -/
def chunkDone (s : State) (agent : Agent) (ctx : Nat) (acc : Acc3) (pa len : Nat) : State :=
  match placeOf pa with
  | .main _ d => mainDone s agent ctx (lineReq acc len) d
  | .near die off =>
    if lineReq acc len = .full then { s with badLines := Tab.put 0 s.badLines (lineOf (nearKey die off)) 0 } else s
  | .spad g _ => bankConflicts s g (if agent = .tile g then 4 else 5)
  | _ => s

/-- All pieces of an extent checked in address order, up to the first that does not answer ok. -/
def checkChunks (s : State) (agent : Agent) (ctx : Nat) (acc : Acc3) : List (Nat × Nat) → Resp × State
  | [] => (.ok, s)
  | (a, n) :: rest => match chunkCheck s agent ctx acc a n with
    | (.ok, s) => checkChunks s agent ctx acc rest
    | (r, s) => (r, s)

/-- The unit's own transactions at the lines of an extent, ended: its access has been answered, or it waits elsewhere and gives its
lines back meanwhile, so that no two accesses wait for each other. -/
def unitEnds (s : State) (agent : Agent) (cs : List (Nat × Nat)) : State :=
  cs.foldl (fun s c => match placeOf c.1 with | .main _ d => unitEnd s (lineOf d) agent | _ => s) s

/-- An extent checked whole and then performed: nothing of it is performed while one of its pieces waits or fails. -/
def checkExtent (s : State) (agent : Agent) (ctx : Nat) (acc : Acc3) (pa len : Nat) : Resp × State :=
  let cs := chunksOf pa len
  match checkChunks s agent ctx acc cs with
  | (.ok, s) => (.ok, cs.foldl (fun s c => chunkDone s agent ctx acc c.1 c.2) s)
  | (r, s) => (r, unitEnds s agent cs)

/-- The bytes of an extent that has passed its checks. -/
def rawRead (s : State) (pa len : Nat) : List Byte :=
  ((chunksOf pa len).map (fun c => match keyOf c.1 with
    | some k => s.bytes k c.2
    | none => List.replicate c.2 0)).flatten

/-- Reservations on a line are lost when it is written (R245, R247); a reservation is held as line + 1 by agent. -/
def killResv (s : State) (line : Nat) : State := { s with resv := s.resv.filter (fun e => decide (e.2 ≠ line + 1)) }

/-- Bytes stored to an extent that has passed its checks. -/
def rawWrite (s : State) (pa : Nat) (bs : List Byte) : State :=
  ((chunksOf pa bs.length).foldl (fun (p : State × List Byte) c =>
    ((match placeOf c.1, keyOf c.1 with
      | .spad g off, some k => (killResv (notePast p.1 g off c.2) (lineOf k)).putBytes k (p.2.take c.2)
      | _, some k => (killResv p.1 (lineOf k)).putBytes k (p.2.take c.2)
      | _, none => p.1), p.2.drop c.2)) (s, bs)).1

def physRead (s : State) (agent : Agent) (ctx pa len : Nat) : Resp × List Byte × State :=
  match checkExtent s agent ctx .read pa len with
  | (.ok, s) => (.ok, rawRead s pa len, s)
  | (r, s) => (r, [], s)

def physWrite (s : State) (agent : Agent) (ctx pa : Nat) (bs : List Byte) : Resp × State :=
  match checkExtent s agent ctx .write pa bs.length with
  | (.ok, s) => (.ok, rawWrite s pa bs)
  | (r, s) => (r, s)

/-- The store of one line's piece in an extent of which some lines fail: a piece that passes its checks may or may not be written, as a
free bit decides (R352, log 13); whether it was. -/
def physWriteSome (s : State) (agent : Agent) (ctx pa : Nat) (bs : List Byte) : Bool × State :=
  let (v, s) := takeFree 1 s
  if v = 1 then
    match chunkCheck s agent ctx .write pa bs.length with
    | (.ok, s) => (true, rawWrite (chunkDone s agent ctx .write pa bs.length) pa bs)
    | (_, s) => (false, s)
  else (false, s)

/-- An atomic operation at its single point (R245, R246): the old value. -/
def physAtomic (s : State) (agent : Agent) (ctx pa size : Nat) (op : AOp) (opnd cmp : Nat) : Resp × Nat × State :=
  match checkExtent s agent ctx .atomic pa size with
  | (.ok, s) =>
    let old := ofBytes (rawRead s pa size)
    (.ok, old, rawWrite s pa (toBytes size (atomicNew op (8 * size) old opnd cmp)))
  | (r, s) => (r, 0, s)

/-! ### Tally counters (R255 to R261) -/

/-- A performed remote write counted in one step (R256). -/
def countTally (s : State) (t bytes : Nat) : State :=
  let c := s.tally t
  s.setTally t { c with bytes := c.bytes + BitVec.ofNat 64 bytes, pkts := c.pkts + 1 }

/-- What a wait of a context reads from a counter (R259, R260). -/
def tallyRead (s : State) (t ctx : Nat) (pkts : Bool) : Nat :=
  let c := s.tally t
  if c.v && decide (c.ctx.toNat = ctx) then (if pkts then c.pkts else c.bytes).toNat else 0

/-- Whether a window's counter admits a WRITE, MERGE or ATOMIC of the window's context (R257). -/
def tallyAdmits (s : State) (t ctx : Nat) : Bool := (s.tally t).v && decide ((s.tally t).ctx.toNat = ctx)

end Sys2Proof.Machine
end

