-- ==== Sys2Proof/Machine/Records.lean ====
section
/-! DEFINITION. Records and record rings (R359, R360, R566, R571, R572, R613), ring events (Table 11.4), fault records
(Tables 20.3, 20.4), interrupts of rings (R335, R380). -/

namespace Sys2Proof.Machine

def ringSize (r : Ring) : Nat := 2 ^ r.log2sz.toNat

/-- The physical address of slot index F of a ring (R342). -/
def slotAddr (r : Ring) (idx : Nat) : Nat := r.base.toNat * 0x1000 + 64 * (idx % ringSize r)

/-- The lap byte of index F (R342, R359). -/
def lapOf (r : Ring) (idx : Nat) : Nat := idx / ringSize r % 255 + 1

/-- Records in a record ring that its reader has not returned. -/
def ringFill (r : Ring) : Nat := (r.tail - r.head).toNat

/-- The host link whose memory holds a ring, if any. -/
def ringHost (r : Ring) : Option Nat :=
  match placeOf (r.base.toNat * 0x1000) with
  | .host h _ => some h
  | _ => none

/-- Whether records for a ring are held: the host whose memory holds it is lost, or has returned and its rings have not gone on
(Table 11.14 scenario 5). -/
def recordsHeld (s : State) (r : Ring) : Bool :=
  match ringHost r with
  | some h => (s.host h).suspended
  | none => false

def ringFull (r : Ring) : Bool := decide (ringSize r ≤ ringFill r)

/-- The host link that SUB names (Table 11.1). -/
def subHost (r : Ring) : Option Nat := if 4 ≤ r.sub.toNat then some (r.sub.toNat - 4) else none

/-! ### Interrupts -/

/-- One MSI-X message, or its pending bit where it is masked (R380); under REQIDE it is held until the stream is secure
(R534). -/
def raiseMsix (s : State) (h vec : Nat) : State :=
  if 2048 ≤ vec then s.logTag .hlk h 380 vec
  else
    let l := s.host h
    let v := Tab.get {} l.msix vec
    if l.fmask || v.masked then s.setHost h { l with msix := Tab.put {} l.msix vec { v with pend := true } }
    else if ideHeld s h then
      s.setHost h { l with heldTlps := l.heldTlps ++ [.msix vec] }
    else s.emit (.msix h vec v.addr v.data)

/-- The interrupt of a record ring (R335, R380). -/
def raiseRing (s : State) (r : Ring) : State :=
  if r.inten then
    match subHost r with
    | some h => raiseMsix s h r.ivec.toNat
    | none => s.emit (.irq r.ivec.toNat)
  else s

/-! ### One record written -/

/-- A posted write to a client host: sent, or held until the stream is secure under REQIDE (R534). -/
def hostPosted (s : State) (h off ctx : Nat) (bs : List Byte) (relaxed : Bool := false) : State :=
  let s := countHost s h ctx bs.length
  if ideHeld s h then
    s.setHost h { s.host h with heldTlps := (s.host h).heldTlps ++ [.write off relaxed bs] }
  else s.emit (.hostWrite h off relaxed bs)

/-- A record's 64 bytes with the lap of its place. -/
def withLap (r : Ring) (rec : Slot) : Slot :=
  (rec &&& BitVec.ofNat 512 (2 ^ 504 - 1)) ||| BitVec.ofNat 512 (place 504 8 (lapOf r r.tail.toNat))

/-- The 64-byte write of a record to an ACTIVE record ring that has room (R359). -/
def putRecord (s : State) (rn : Nat) (rec : Slot) : Resp × State :=
  let r := s.ring rn
  let a := slotAddr r r.tail.toNat
  let full := withLap r rec
  let bs := toBytes 64 full.toNat
  let res : Resp × State := match placeOf a with
    | .host h off =>
      if hostBacked s h then
        let q := s.rq rn
        (.ok, (hostPosted s h off r.ctx.toNat bs).setRq rn { q with written := q.written ++ [full] })
      else (.decode 1, s)
    | _ => physWrite s .ringUnit r.ctx.toNat a bs
  match res with
  | (.ok, s) => (.ok, raiseRing (s.setRing rn { r with tail := r.tail + 1 }) r)
  | x => x

/-! ### Where a fault record goes (R566) -/

def fringOk (s : State) (ctx : Nat) : Bool :=
  let e := s.ctxE ctx
  let r := s.ring e.fring.toNat
  e.v && r.v && r.kind && decide (r.ctx.toNat = ctx)

/-- The ring for a context's fault records: its own FRING, else that of context 0. -/
def fringOf (s : State) (ctx : Nat) : Option Nat :=
  if fringOk s ctx then some (s.ctxE ctx).fring.toNat
  else if fringOk s 0 then some (s.ctxE 0).fring.toNat
  else none

/-! ### Posting -/

/-- Queues in which records wait (R313, R360, R571). -/
def qFault (die : Nat) : Nat := die
def qXlat (die : Nat) : Nat := 8 + die
def qDeadline : Nat := 16
def qDone : Nat := 17

/-- Whether a queue takes one more record for a ring. -/
def queueTakes (s : State) (q rn : Nat) : Bool :=
  let here := s.waitRecs.filter (fun w => decide (w.queue = q))
  if q < 8 then decide (here.length < 1024) && decide ((here.filter (fun w => decide (w.ring = rn))).length < 8)
  else if q = qDeadline then decide (here.length < 4096)
  else true

/-- An event record (Table 11.4). -/
def eventRec (s : State) (rn code idx : Nat) : Slot :=
  mkSlot [(0, 8, 0x20), (8, 8, code), (16, 16, rn), (32, 32, idx), (64, 64, s.tick.toNat)]

def isDropEvent (rec : Slot) : Bool := decide (field rec.toNat 0 16 = 0x0620)

/-- A record that its ring does not take: counted in LOST of the ring and logged (R338, R360, R571). -/
def dropRecord (s : State) (rn : Nat) (rec : Slot) : State :=
  let r := s.ring rn
  (s.setRing rn { r with lost := satAdd r.lost 1 }).logE
    { src := .chm, tag := 338, data := rn, kind := 0, addr := field rec.toNat 0 16 }

/-- The rings an event of ring rn is posted to (R338 Table 11.4): its CRING, or the record ring itself, and the FRING of context 0; not
the ring whose failed write raised it (R613). -/
def eventTargets (s : State) (rn code : Nat) : List Nat :=
  let r := s.ring rn
  let own := if r.kind then rn else r.cring.toNat
  let all := match fringOf s 0 with
    | some f => if f = own then [own] else [own, f]
    | none => [own]
  if code = 7 then all.filter (fun t => decide (t ≠ rn) && decide (t ≠ own)) else all

/-- A target that cannot take an event record (R613): it is not posted, and a record-dropped event's is counted and logged there (R360). -/
def eventBarred (s : State) (t : Nat) : Bool :=
  let x := s.ring t
  !(x.v && x.kind) || decide (x.st = .off) || decide (x.st = .error)

/-- The descriptor whose record has been written, dropped or is not due leaves its ring's started ones (R347). -/
def releaseDesc (s : State) (o : Option (Nat × Nat)) : State :=
  match o with
  | none => s
  | some (rn, n) => s.setRq rn { s.rq rn with started := (s.rq rn).started.filter (fun d => decide (d.serial ≠ n)) }

/-- A completion record as it is posted: RHEAD is the submission ring's HEAD at that moment (Table 11.10). -/
def atPosting (s : State) (o : Option (Nat × Nat)) (rec : Slot) : Slot :=
  match o with
  | none => rec
  | some (rn, _) => (rec &&& ~~~(BitVec.ofNat 512 (place 224 32 (2 ^ 32 - 1)))) |||
      BitVec.ofNat 512 (place 224 32 (s.ring rn).head.toNat)

/-- A record sent to a ring through a queue, with the events that follow (R338, R360, R571, R613); the fuel bounds events
that raise events. `o` names the descriptor that a completion record ends. -/
def postF : Nat → State → Nat → Nat → Slot → Option (Nat × Nat) → State
  | 0, s, _, rn, rec, o => releaseDesc (dropRecord s rn rec) o
  | n + 1, s, q, rn, rec, o =>
    let r := s.ring rn
    let event := fun (s : State) (rn code idx : Nat) =>
      let s := (s.setRing rn { s.ring rn with event := BitVec.ofNat 8 code }).logE
        { src := .chm, kind := 0x20, code := code, data := rn }
      (eventTargets s rn code).foldl (fun s t =>
        if eventBarred s t then (if code = 6 then dropRecord s t (eventRec s rn code idx) else s)
        else postF n s (qFault 4) t (eventRec s rn code idx) none) s
    let queue := fun (s : State) =>
      if queueTakes s q rn then { s with waitRecs := s.waitRecs ++ [{ queue := q, ring := rn, data := rec, desc := o }] }
      else
        let s := dropRecord (releaseDesc s o) rn rec
        if isDropEvent rec then s else event s rn 6 (s.ring rn).tail.toNat
    if !(r.v && r.kind) then dropRecord (releaseDesc s o) rn rec
    else match r.st with
    | .off | .error => dropRecord (releaseDesc s o) rn rec
    | .paused | .hosthold => queue s
    | .active =>
      if ringFull r || recordsHeld s r || s.waitRecs.any (fun w => decide (w.ring = rn) && decide (w.queue = q)) then queue s
      else match putRecord s rn (atPosting s o rec) with
      | (.ok, s) => releaseDesc s o
      | (.wait, s) => queue s
      | (_, s) =>
        let s := s.setRing rn { s.ring rn with st := .error }
        event (dropRecord (releaseDesc s o) rn rec) rn 7 r.tail.toNat

def post (s : State) (q rn : Nat) (rec : Slot) (o : Option (Nat × Nat) := none) : State := postF 4 s q rn rec o

/-- A ring event: EVENT, Stoker's log and the event records (R338 Table 11.4). -/
def ringEvent (s : State) (rn code idx : Nat) : State :=
  let s := (s.setRing rn { s.ring rn with event := BitVec.ofNat 8 code }).logE
    { src := .chm, kind := 0x20, code := code, data := rn }
  (eventTargets s rn code).foldl (fun s t => if eventBarred s t then s else post s (qFault 4) t (eventRec s rn code idx)) s

/-- The waiting records of a ring, oldest first, written while the ring takes them; by fuel. -/
def flushF : Nat → State → Nat → State
  | 0, s, _ => s
  | n + 1, s, rn =>
    match s.waitRecs.find? (fun w => decide (w.ring = rn)) with
    | none => s
    | some w =>
      let r := s.ring rn
      let rest := { s with waitRecs := s.waitRecs.erase w }
      match r.st with
      | .active =>
        if ringFull r || recordsHeld s r then s
        else match putRecord rest rn (atPosting s w.desc w.data) with
        | (.ok, s') => flushF n (releaseDesc s' w.desc) rn
        | (.wait, s') => { s' with waitRecs := s.waitRecs }
        | (_, s') =>
          ringEvent (dropRecord (releaseDesc (s'.setRing rn { s'.ring rn with st := .error }) w.desc) rn w.data) rn 7 r.tail.toNat
      | .off | .error => flushF n (dropRecord (releaseDesc rest w.desc) rn w.data) rn
      | _ => s

def flushRing (s : State) (rn : Nat) : State := flushF (s.waitRecs.length + 1) s rn

/-- The waiting records of every ring tried again: after the homes have moved, a record held by one of them is written. -/
def ringsGo (s : State) : State := s.waitRecs.foldl (fun s w => flushRing s w.ring) s

/-- A record for a context's fault ring (R566): sent on, or dropped and logged. -/
def postFring (s : State) (q ctx : Nat) (rec : Slot) : State :=
  match fringOf s ctx with
  | some rn => post (if fringOk s ctx then s else s.logTag .chm 0 566 ctx) q rn rec
  | none => s.logE { src := .chm, tag := 566, ctx := some ctx, data := field rec.toNat 0 16 }

/-! ### Fault records (R567 to R572) -/

/-- A record of Table 20.3. -/
def faultRec (kind code ctx : Nat) (a : Agent) (ovf : Bool) (va : Option Nat) (tick pa : Nat)
    (data : List (Nat × Nat × Nat)) : Slot :=
  mkSlot ([(0, 8, kind), (8, 8, code), (16, 12, ctx), (32, 4, agentSrc a), (36, 3, agentDie a), (40, 8, agentUnit a),
    (48, 1, boolNat ovf), (49, 1, boolNat va.isSome), (64, 64, tick), (128, 52, pa), (192, 55, va.getD 0)] ++ data)

/-- A fault of kinds 0x12 to 0x17: logged to Stoker with its KIND and CODE and posted (R566, R571, R572). -/
def fault (s : State) (kind code ctx : Nat) (a : Agent) (ovf : Bool) (va : Option Nat) (pa : Nat)
    (data : List (Nat × Nat × Nat)) : State :=
  let s := s.logE { src := agentLogSrc a, unit := agentUnit a, kind := kind, code := code, ctx := some ctx, addr := pa }
  postFring s (qFault (agentDie a)) ctx (faultRec kind code ctx a ovf va s.tick.toNat pa data)

/-- The record of the kind that matches a failed access (Table 20.6, R438): decode, lost line or uncorrectable error. The
other answers have no record of their own. -/
def respFault (s : State) (r : Resp) (ctx : Nat) (a : Agent) (acc : Acc3) (va : Option Nat) (pa : Nat) : State :=
  let ac : Nat × Nat × Nat := (256, 3, accCode acc)
  match r with
  | .decode c => fault s 0x14 c ctx a false va pa [ac]
  | .lost ovf ag t => fault s 0x15 (if ovf then 2 else 1) ctx a ovf va pa [ac, (260, 4, ag), (320, 64, t)]
  | .uncorr c arr => fault s 0x17 c ctx a false va pa [ac, (264, 8, arr)]
  | .remoteErr => fault s 0x14 4 ctx a false va pa [ac]
  | .targetLost => fault s 0x17 4 ctx a false va pa [ac]
  | _ => s

/-- The status code of Table 11.12 for a failed access of an engine. -/
def respStatus (r : Resp) : Nat :=
  match r with
  | .ok => 0 | .wait => 0 | .decode _ => 0x11 | .lost _ _ _ => 0x0F | .uncorr _ _ => 0x10 | .guard => 0x13
  | .targetLost => 0x14 | .hostLost => 0x15 | .remoteErr => 0x12

/-- The target of a lost store: (TT, TGT) of Table 20.4. -/
def lostTargets (l : List LostStore) : List (Nat × Nat) :=
  (l.map (fun e => (e.tt, e.tgt))).eraseDups

/-- The lost-store record of one target (Table 20.4, R568). -/
def lostRec (a : Agent) (ctx : Nat) (t : Nat × Nat) (l : List LostStore) : Slot :=
  let mine := l.filter (fun e => decide (e.tt = t.1) && decide (e.tgt = t.2))
  let blocks := (mine.map (·.block)).eraseDups.take 8
  mkSlot ([(0, 8, 0x16), (8, 4, blocks.length), (12, 2, t.1), (16, 12, ctx), (32, 4, agentSrc a), (36, 3, agentDie a),
    (40, 8, agentUnit a), (48, 6, t.2), (54, 10, satNat 10 mine.length), (64, 64, (mine.map (·.tick)).headD 0)] ++
    (blocks.zipIdx.map (fun b => (128 + 47 * b.2, 47, b.1))))

/-- One record per target, in the order of each target's oldest lost store (R264). -/
def postLost (s : State) (a : Agent) (l : List LostStore) : State :=
  (lostTargets l).foldl (fun s t =>
    let ctx := ((l.filter (fun e => decide (e.tt = t.1) && decide (e.tgt = t.2))).map (·.ctx)).headD 0
    let s := s.logE { src := agentLogSrc a, unit := agentUnit a, kind := 0x16, ctx := some ctx }
    postFring s (qFault (agentDie a)) ctx (lostRec a ctx t l)) s

/-! ### Events of the package (R384, R495, Tables 12.9, 13.x, 17.x) -/

/-- An event record of KIND 0x21 to 0x23 for the FRING of context 0, logged with the same KIND and code. -/
def packageEvent (s : State) (src : LogSrc) (unit kind code : Nat) (fields : List (Nat × Nat × Nat)) : State :=
  let s := s.logE { src := src, unit := unit, kind := kind, code := code }
  match fringOf s 0 with
  | some rn => post s (qFault 4) rn (mkSlot ([(0, 8, kind), (8, 8, code), (64, 64, s.tick.toNat)] ++ fields))
  | none => s

/-- A partner event (R384, Table 12.9). -/
def partnerEvent (s : State) (src : LogSrc) (code who lostcause : Nat) : State :=
  packageEvent s src who 0x21 code [(16, 16, who), (32, 3, lostcause)]

/-- A kindling event (R495): code 1 bit set, 2 bit cleared, 3 reset started, 4 hold. -/
def kindleEvent (s : State) (code bit kind cause : Nat) : State :=
  packageEvent s .chm 0 0x23 code [(16, 8, bit), (24, 3, kind), (27, 5, cause)]

/-- A readiness bit (0 to 191) set or cleared, with its event where it changes (R494, R495). -/
def setReady (s : State) (bit : Nat) (v : Bool) : State :=
  let was := if bit < 64 then s.kindle.ready0.getLsbD bit else if bit < 128 then s.kindle.ready1.getLsbD (bit - 64)
    else s.kindle.ready2.getLsbD (bit - 128)
  if was = v then s
  else
    let flip := fun (w : W64) (i : Nat) => w ^^^ BitVec.ofNat 64 (2 ^ i)
    let k := s.kindle
    let k := if bit < 64 then { k with ready0 := flip k.ready0 bit }
      else if bit < 128 then { k with ready1 := flip k.ready1 (bit - 64) }
      else { k with ready2 := flip k.ready2 (bit - 128) }
    kindleEvent { s with kindle := k } (if v then 1 else 2) bit 0 0

end Sys2Proof.Machine
end

