-- ==== Sys2Proof/Machine/Translate.lean ====
section
/-! DEFINITION. Translation: buffers, page-table walks, rights, faults and their records, invalidation scopes
(chapter 10). -/

namespace Sys2Proof.Machine

/-! ### Page-table entries (R304, R305) -/

def pteV (e : Nat) : Bool := bitAt e 0
def pteLeaf (e : Nat) : Bool := bitAt e 1
def ptePa (e : Nat) : Nat := field e 16 36 * 0x10000

/-- Page-offset bits of a leaf at a level (Table 10.2). -/
def levelBits (level : Nat) : Nat := match level with | 1 => 42 | 2 => 29 | _ => 16

/-- The index bits of a level, 13 of them (Table 10.2). -/
def levelIndex (level va : Nat) : Nat := field va (levelBits level) 13

/-- Whether a physical extent lies in main memory under either name. -/
def inMain (pa : Nat) : Bool :=
  decide (pa < mainSize) || (decide (aliasBase ≤ pa) && decide (pa < aliasBase + mainSize))

/-- Whether a page overlaps register or doorbell space. -/
def overlapsDevice (base bits : Nat) : Bool :=
  (decide (base < regBase + 0x10000000) && decide (regBase < base + 2 ^ bits)) ||
    (decide (base < bellBase + 0x80000) && decide (bellBase < base + 2 ^ bits))

/-- A malformed entry with V set (R305). -/
def pteMalformed (e level : Nat) : Bool :=
  decide (field e 52 12 ≠ 0) ||
  (if pteLeaf e then
     (bitAt e 4 && !(bitAt e 2 && bitAt e 3)) ||
     (decide (level = 1) && decide (field e 16 26 ≠ 0)) ||
     (decide (level = 2) && decide (field e 16 13 ≠ 0)) ||
     overlapsDevice (ptePa e) (levelBits level)
   else
     decide (level = 3) || bitAt e 2 || bitAt e 3 || bitAt e 4 || !(inMain (ptePa e)))

/-- The right an access needs (Table 10.5). -/
def leafAllows (l : Leaf) (acc : Acc3) : Bool :=
  match acc with | .read => l.rd | .fetch => l.rd | .write => l.wr | .atomic => l.at_

def leafHit (l : Leaf) (ctx va : Nat) : Bool :=
  decide (l.ctx = ctx) && decide (va / 2 ^ l.bits = l.vbase / 2 ^ l.bits)

/-! ### Buffers (R309, R310) -/

def microOf (s : State) (a : Agent) : List Leaf := Tab.get [] s.xlat.micro (agentKey a)
def l2Of (s : State) (die : Nat) : List Leaf := Tab.get [] s.xlat.l2 die
def ptrOf (s : State) (die : Nat) : List Ptr := Tab.get [] s.xlat.ptr die

/-- The newest entries of a buffer, oldest evicted (R312: replacement is not visible). -/
def bufAdd {α : Type} [DecidableEq α] (cap : Nat) (l : List α) (x : α) : List α :=
  let l := l.filter (· ≠ x) ++ [x]
  l.drop (l.length - cap)

def fillMicro (s : State) (a : Agent) (l : Leaf) : State :=
  { s with xlat := { s.xlat with micro := Tab.put [] s.xlat.micro (agentKey a) (bufAdd 32 (microOf s a) l) } }

/-- The set of a leaf in its die's buffer of 2,048 sets: the low bits of its page number, at its own page size (R310; log 142). -/
def l2Set (l : Leaf) : Nat := l.vbase / 2 ^ l.bits % 2048

/-- A leaf put into its set of 8 ways, the oldest of the set giving place (R310). -/
def l2Add (b : List Leaf) (l : Leaf) : List Leaf :=
  let here := fun (x : Leaf) => decide (l2Set x = l2Set l)
  b.filter (fun x => !(here x)) ++ bufAdd 8 (b.filter here) l

def fillL2 (s : State) (die : Nat) (l : Leaf) : State :=
  { s with xlat := { s.xlat with l2 := Tab.put [] s.xlat.l2 die (l2Add (l2Of s die) l) } }

def fillPtr (s : State) (die : Nat) (p : Ptr) : State :=
  { s with xlat := { s.xlat with ptr := Tab.put [] s.xlat.ptr die (bufAdd 256 (ptrOf s die) p) } }

/-! ### Invalidation scopes (R319, R322) -/

/-- Whether an address of a context lies in the range of an invalidation. -/
def invCovers (x : XInv) (ctx va : Nat) : Bool :=
  match x.scope.toNat with
  | 0 => decide (ctx = x.ctx.toNat) && decide (x.va.toNat ≤ va / 0x10000) &&
      decide (va / 0x10000 ≤ x.va.toNat + x.npg.toNat)
  | 1 => decide (ctx = x.ctx.toNat)
  | _ => true

/-- Whether a buffered page touches the range: the whole page's entry goes (R319). -/
def invTouches (x : XInv) (ctx vbase bits : Nat) : Bool :=
  match x.scope.toNat with
  | 0 => decide (ctx = x.ctx.toNat) && decide (x.va.toNat * 0x10000 < vbase + 2 ^ bits) &&
      decide (vbase < (x.va.toNat + x.npg.toNat + 1) * 0x10000)
  | 1 => decide (ctx = x.ctx.toNat)
  | _ => true

def inScope (s : State) (ctx va : Nat) : Bool := s.xlat.inv.busy && invCovers s.xlat.inv ctx va

/-- The pages of the buffered leaves that an invalidation drops: what accesses in flight may be using (R320, R321). -/
def droppedPages (s : State) (x : XInv) : List (Nat × Nat × Nat) :=
  let of := fun (t : Tab (List Leaf)) => t.flatMap (fun e => (e.2.filter (fun l => invTouches x l.ctx l.vbase l.bits)).map
    (fun l => (l.ctx, l.vbase, l.bits)))
  (of s.xlat.micro ++ of s.xlat.l2).eraseDups

/-- Every buffer without the entries in scope, and the pointer caches without the entries on the range's walk paths
(R319). A pointer to a level-2 node covers a 4 TiB page of addresses, one to a level-3 node 512 MiB. -/
def dropScope (s : State) (x : XInv) : State :=
  let keepL := fun (l : Leaf) => !(invTouches x l.ctx l.vbase l.bits)
  let keepP := fun (p : Ptr) => !(invTouches x p.ctx p.vbase (levelBits (p.level - 1)))
  let cut {α : Type} [DecidableEq α] (keep : α → Bool) (t : Tab (List α)) : Tab (List α) :=
    t.foldl (fun acc e => Tab.put [] acc e.1 (e.2.filter keep)) t
  { s with xlat := { s.xlat with
      micro := cut keepL s.xlat.micro, l2 := cut keepL s.xlat.l2, ptr := cut keepP s.xlat.ptr } }

/-! ### Walks -/

/-- The deepest cached pointer for an address, as (level of its node, node); the root otherwise. -/
def walkStart (s : State) (die ctx va : Nat) : Nat × Nat :=
  let hit := fun (lv : Nat) => (ptrOf s die).find? (fun p => decide (p.ctx = ctx) && decide (p.level = lv) &&
    decide (va / 2 ^ levelBits (lv - 1) = p.vbase / 2 ^ levelBits (lv - 1)))
  match hit 3 with
  | some p => (3, p.node)
  | none => match hit 2 with
    | some p => (2, p.node)
    | none => (1, (s.ctxE ctx).root.toNat * 0x10000)

/-- A translation's answer: an address; an answer to wait for (a walk or a reply); a refusal at once (NOCTX). -/
inductive XRes where
  | ok (pa : Nat)
  | blocked
  | refused
  deriving DecidableEq, Repr

/-- TYPE and INDEX of Table 10.7. -/
def agentType : Agent → Nat
  | .tile _ => 0 | .copyIn _ _ => 1 | .copyOut _ _ => 2 | .mover _ _ => 3 | .fuller _ _ => 4 | .dispatch _ _ => 5 | _ => 0

/-- The first TOKEN from n on that no stalled fault holds (log 58). -/
def freeToken (faults : List XFault) : Nat → Nat → Nat
  | 0, n => n
  | f + 1, n => if faults.any (fun x => decide (x.token = n)) then freeToken faults f ((n + 1) % 0x10000) else n

/-- A translation fault (R313 to R315): the access stalls under a new TOKEN and its record is posted and logged. -/
def xlatFault (s : State) (a : Agent) (ctx va vahi : Nat) (acc : Acc3) (reason level entry : Nat) : State :=
  let tok := freeToken s.xlat.faults s.xlat.faults.length (Tab.get 0 s.xlat.nextTok 0 % 0x10000)
  let f : XFault := { token := tok, agent := a, ctx := ctx, va := va, acc := acc, reason := reason }
  let s := { s with xlat := { s.xlat with faults := s.xlat.faults ++ [f], nextTok := Tab.put 0 s.xlat.nextTok 0 (tok + 1) } }
  let s := s.logE { src := agentLogSrc a, unit := agentUnit a, kind := 0x10, code := reason, ctx := some ctx, addr := va }
  postFring s (qXlat (agentDie a)) ctx (mkSlot [(0, 8, 0x10), (8, 4, reason), (12, 3, accCode acc), (16, 12, ctx),
    (28, 2, level), (32, 2, agentDie a), (34, 3, agentType a), (37, 5, agentUnit a), (48, 16, tok), (64, 55, va),
    (119, 9, vahi), (128, 64, entry), (192, 64, s.tick.toNat)])

/-- A walk begun for an engine; its reads return with WALK_READ_RETURN. -/
def beginWalk (s : State) (a : Agent) (ctx va : Nat) (acc : Acc3) : State :=
  let (lv, node) := walkStart s (agentDie a) ctx va
  let w : Walk := { agent := a, ctx := ctx, va := va, acc := acc, level := lv, node := node }
  { s with xlat := { s.xlat with walks := s.xlat.walks ++ [w] } }

def walkOf (s : State) (a : Agent) : Option Walk := s.xlat.walks.find? (fun w => decide (w.agent = a))
def faultOf (s : State) (a : Agent) : Option XFault := s.xlat.faults.find? (fun f => decide (f.agent = a))
def endWalk (s : State) (a : Agent) : State :=
  { s with xlat := { s.xlat with walks := s.xlat.walks.filter (fun w => decide (w.agent ≠ a)) } }

/-- An agent's stalled access given up, with its walk and its fault (R318). -/
def dropXlat (s : State) (a : Agent) : State :=
  { s with xlat := { s.xlat with walks := s.xlat.walks.filter (fun w => decide (w.agent ≠ a)),
                                 faults := s.xlat.faults.filter (fun f => decide (f.agent ≠ a)) } }

/-- Whether an agent's access stands still in translation. -/
def xlatBusy (s : State) (a : Agent) : Bool := (walkOf s a).isSome || (faultOf s a).isSome

/-- A buffered leaf for an address, from the engine's own buffer or its die's (R309, R310). -/
def findLeaf (s : State) (a : Agent) (ctx va : Nat) : Option Leaf :=
  match (microOf s a).find? (fun l => leafHit l ctx va) with
  | some l => some l
  | none => (l2Of s (agentDie a)).find? (fun l => leafHit l ctx va)

/-- One translation (R301, R311 to R314). -/
def xlate (s : State) (a : Agent) (ctx va : Nat) (acc : Acc3) : XRes × State :=
  let isTile := match a with | .tile _ => true | _ => false
  let vahi := va / 2 ^ 55
  let va := va % 2 ^ 55
  if isTile && decide (vahi ≠ 0) then (.blocked, xlatFault s a ctx va (vahi % 512) acc 4 0 0)
  else match findLeaf s a ctx va with
  | some l =>
    if leafAllows l acc then (.ok (l.pbase + va % 2 ^ l.bits), fillMicro s a l)
    else (.blocked, xlatFault s a ctx va 0 acc 2 l.level l.entry)
  | none =>
    if !(s.ctxE ctx).v then
      (.refused, s.logE { src := agentLogSrc a, unit := agentUnit a, kind := 0x10, code := 6, ctx := some ctx, addr := va })
    else (.blocked, beginWalk s a ctx va acc)

/-- What a walk's next read brings: still walking, a leaf found (the agent's access may be tried again), a fault, or
nothing yet where the home holds the read. -/
def walkStep (s : State) (w : Walk) : Bool × State :=
  let idx := levelIndex w.level w.va
  match physRead s w.agent 0 (w.node + 8 * idx) 8 with
  | (.wait, _, s) => (false, s)
  | (.ok, bs, s) =>
    let e := ofBytes bs
    let stop := fun (s : State) (reason : Nat) =>
      (false, xlatFault (endWalk s w.agent) w.agent w.ctx w.va 0 w.acc reason w.level e)
    if !(pteV e) then stop s 1
    else if pteMalformed e w.level then stop s 3
    else if pteLeaf e then
      let bits := levelBits w.level
      let l : Leaf := { ctx := w.ctx, vbase := w.va / 2 ^ bits * 2 ^ bits, bits := bits, pbase := ptePa e, rd := bitAt e 2,
                        wr := bitAt e 3, at_ := bitAt e 4, level := w.level, entry := e }
      if leafAllows l w.acc then
        let s := (if w.keeps then w.seen else []).foldl (fun s p => fillPtr s (agentDie w.agent) p) (endWalk s w.agent)
        (true, fillMicro (fillL2 s (agentDie w.agent) l) w.agent l)
      else stop s 2
    else
      let bits := levelBits w.level
      let p : Ptr := { ctx := w.ctx, level := w.level + 1, vbase := w.va / 2 ^ bits * 2 ^ bits, node := ptePa e }
      let w' := { w with level := w.level + 1, node := ptePa e, seen := w.seen ++ [p], lastEntry := e }
      (false, { s with xlat := { s.xlat with walks := s.xlat.walks.map (fun v => if v.agent = w.agent then w' else v) } })
  | (_, _, s) =>
    let lv := if w.lastEntry = 0 then 0 else w.level - 1
    (false, xlatFault (endWalk s w.agent) w.agent w.ctx w.va 0 w.acc 5 lv w.lastEntry)

/-- The physical address that the translation table gives a virtual one as it stands in memory, levels from one node on. -/
def tablePa (s : State) (va : Nat) : Nat → Nat → Nat → Option Nat
  | 0, _, _ => none
  | n + 1, level, node =>
    let e := ofBytes (rawRead s (node + 8 * levelIndex level va) 8)
    if !(pteV e) || pteMalformed e level then none
    else if pteLeaf e then some (ptePa e + va % 2 ^ levelBits level)
    else tablePa s va n (level + 1) (ptePa e)

/-- The walks that hold a walker of their die: the oldest eight (R310). -/
def walkHasWalker (s : State) (w : Walk) : Bool :=
  ((s.xlat.walks.filter (fun v => decide (agentDie v.agent = agentDie w.agent))).take 8).any (fun v => decide (v.agent = w.agent))

end Sys2Proof.Machine
end

