-- ==== Sys2Proof/Machine/Completion.lean ====
section
/-! DEFINITION. Completion records of descriptors (R346, R359 to R363), the end of a started descriptor, event signals of
descriptors (R124, R125). -/

namespace Sys2Proof.Machine

/-- The completion record of a descriptor (Table 11.10). -/
def completionRec (s : State) (rn : Nat) (d : Desc) (e : Ending) (extra : List (Nat × Nat × Nat)) : Slot :=
  mkSlot ([(0, 8, 1), (8, 8, e.status), (16, 16, rn), (32, 32, d.idx.toNat), (64, 16, hdTag d.head), (80, 8, hdOp d.head),
    (88, 8, e.detail), (96, 64, e.done), (160, 32, e.gval), (192, 32, e.pval), (224, 32, (s.ring rn).head.toNat)] ++ extra)

/-- Whether a completion record is due: CQE set, or a status other than success (Table 11.5). -/
def recordDue (d : Desc) (e : Ending) : Bool := hdCqe d.head || decide (e.status ≠ 0)

/-- A descriptor completes: its record is posted to the CRING, and the descriptor leaves the ring's started ones once it has been written
or dropped, or at once where none is due (R347, R360, R361). -/
def completeDesc (s : State) (rn : Nat) (d : Desc) (e : Ending) (extra : List (Nat × Nat × Nat) := []) : State :=
  let o := some (rn, d.serial)
  if recordDue d e then post s qDone (s.ring rn).cring.toNat (completionRec s rn d e extra) o else releaseDesc s o

/-- Whether a descriptor of a ring has ended and only its record waits. -/
def descEnded (s : State) (rn : Nat) (d : Desc) : Bool := s.waitRecs.any (fun w => decide (w.desc = some (rn, d.serial)))

/-- Whether the CRING can take a record now, or drops it: an engine holds its completion while it cannot (R360). -/
def cringTakes (s : State) (rn : Nat) : Bool :=
  let c := s.ring (s.ring rn).cring.toNat
  !(c.v && c.kind) || decide (c.st = .off) || decide (c.st = .error) || (decide (c.st = .active) && !(ringFull c)) ||
    (decide (c.st = .hosthold))

/-- Whether an increment of a context may reach a grate's event counters (R125). -/
def signalOk (s : State) (g ctx : Nat) : Bool :=
  let x := s.gr g
  decide (g < 96) && decide (x.st ≠ .idle) && !x.clearing && decide (x.ctx.toNat = ctx)

def addEvent (s : State) (g ctr : Nat) (n : W64) : State :=
  s.modGr g (fun x => { x with events := Tab.put 0 x.events ctr (Tab.get 0 x.events ctr + n) })

/-- The completion signal of a descriptor: adds 1, or is logged with ring and slot (R124, R125). -/
def descSignal (s : State) (rn : Nat) (d : Desc) : State :=
  let g := sigOf d.head
  if g.on then
    if signalOk s g.grate (s.ring rn).ctx.toNat then addEvent s g.grate g.ctr 1
    else s.logTag .grt g.grate 125 (rn * 2 ^ 32 + d.idx.toNat)
  else s

end Sys2Proof.Machine
end

