-- ==== Sys2Proof/Machine/Tile.lean ====
section
/-! DEFINITION. The tile controller's shared operations: issue, exceptions and HALTED (R142, R604 to R606), slots and
slot-guard mode (R118 to R120, R131 to R133), unit completion (R123), the end of a program (R357), the clear (R141). -/

namespace Sys2Proof.Machine

/-! ### Issue -/

/-- Whether the grate issues: RUNNING, nothing stalling it, no clear (R104, R140). -/
def canIssue (x : Grate) : Bool := decide (x.st = .running) && !x.clearing && !x.debugHalt && decide (x.stall = .none)

/-- The PC after an instruction: extension instructions are four bytes long, compressed ones two. -/
def nextPc (p : Site) : W64 := p.pc + (if p.insn.toNat % 4 = 3 then 4 else 2)

/-- x0 reads zero and is never written. -/
def setX (x : Grate) (rd : Nat) (v : W64) : Grate := if rd = 0 then x else { x with xregs := Tab.put 0 x.xregs rd v }

def unitsEmpty (x : Grate) : Bool := x.matQ.isEmpty && x.wlQ.isEmpty && x.vecQ.isEmpty && x.drain.isNone

/-- Whether a queued vector instruction is one of the transcendental unit. -/
def isTransc (v : VecInstr) : Bool := match v.work with | .op (.transc _ _ _) _ => true | _ => false

/-- Whether the units of a UNIT.WAIT mask are complete (R123, Table 4.8). -/
def unitsDone (x : Grate) (mask : BitVec 5) : Bool :=
  (!(mask.getLsbD 0) || (x.matQ.isEmpty && x.drain.isNone)) && (!(mask.getLsbD 1) || x.wlQ.isEmpty) &&
    (!(mask.getLsbD 2) || x.vecQ.all isTransc) && (!(mask.getLsbD 3) || x.vecQ.all (fun v => !(isTransc v))) &&
    (!(mask.getLsbD 4) || x.sb.isEmpty)

def allDone (x : Grate) : Bool := unitsEmpty x && x.sb.isEmpty

/-! ### The end of a program (R357) -/

/-- The pending LAUNCH of a grate completes with a status. -/
def endLaunch (s : State) (g status detail : Nat) : State :=
  let x := s.gr g
  match x.launch with
  | none => s
  | some (rn, n) =>
    let s := s.setGr g { x with launch := none }
    match (s.rq rn).started.find? (fun d => decide (d.serial = n) && !(descEnded s rn d)) with
    | some d => completeDesc s rn d { status := status, detail := detail }
    | none => s

/-! ### HALTED (R142, R604, R606) -/

/-- The record of an uncorrectable word in one of a grate's arrays (Tables 20.1, 20.5). -/
def arrayRec (s : State) (g arr pa : Nat) : Slot :=
  faultRec 0x17 3 (s.gr g).ctx.toNat (.tile g) false none s.tick.toNat pa [(256, 3, 0), (264, 8, arr)]

/-- A halting grate whose earlier work and store buffer are complete enters HALTED; its records are posted and its LAUNCH
ends (R142, R252, R357, R606, R569). -/
def settleHalt (s : State) (g : Nat) : State :=
  let x := s.gr g
  match x.stall with
  | .halting h =>
    if allDone x then
      let s := s.setGr g { x with st := .halted, stall := .none, haltCause := BitVec.ofNat 8 h.cause, lost := [] }
      let a := Agent.tile g
      let s := postLost s a x.lost
      let s := match (if h.matching.isNone && decide (h.cause = 4) then some (arrayRec s g 1 0) else h.matching) with
        | some rec => (postFring s (qFault (agentDie a)) x.ctx.toNat rec).logE
            { src := .grt, unit := g, kind := field rec.toNat 0 8, code := field rec.toNat 8 8, ctx := some x.ctx.toNat }
        | none => s
      let s := fault s 0x12 h.cause x.ctx.toNat a false none 0 ([(256, 64, h.pc.toNat), (320, 32, h.insn.toNat)] ++ h.extra)
      endLaunch s g 0x16 h.cause
    else s
  | _ => s

/-- Every grate that is halting settled: after commands of other agents that may have halted one. -/
def settleAll (s : State) : State := s.grates.foldl (fun s e => settleHalt s e.1) s

/-- An exception found at issue: earlier instructions complete, this one has no effect (R142). -/
def haltOn (s : State) (g : Nat) (pc : W64) (insn : W32) (cause : Nat) (extra : List (Nat × Nat × Nat) := [])
    (m : Option Slot := none) : State :=
  let s := s.modGr g (fun x => { x with pc := pc, stall := .none })
  settleHalt (beginHalt s g { cause := cause, pc := pc, insn := insn, extra := extra, matching := m }) g

def haltAt (s : State) (p : Site) (cause : Nat) (extra : List (Nat × Nat × Nat) := []) (m : Option Slot := none) : State :=
  haltOn s p.g p.pc p.insn cause extra m

/-- A unit's queue at an exception of the instruction numbered seq: the instructions before it stay, and of the later ones those
that have begun, the first n of them. -/
def begunOf {α : Type} (order : α → Nat) (seq n : Nat) (q : List α) : List α :=
  q.filter (fun o => decide (order o < seq)) ++ (q.filter (fun o => decide (seq < order o))).take n

/-- An exception found after issue (R604): later-issued instructions that have begun in their units complete, those still waiting
in a queue are discarded. Which have begun is a matter of timing: free values (log 15). -/
def haltLate (s : State) (g seq : Nat) (h : HaltInfo) : State :=
  let (v, s) := takeFree 16 s
  let s := s.modGr g (fun x => { x with
    matQ := begunOf MatOp.seq seq (field v.toNat 0 4) x.matQ, wlQ := begunOf WlOp.seq seq (field v.toNat 4 4) x.wlQ,
    vecQ := begunOf VecInstr.seq seq (field v.toNat 8 5) x.vecQ })
  settleHalt (beginHalt (dropXlat s (.tile g)) g h) g

/-- What the code finds in a scratchpad word that a grate reads: a correction is counted (R116). -/
def countFind (s : State) (g : Nat) (f : EccFind) : State :=
  match f with | .corrected => s.modGr g (fun x => { x with errCount := x.errCount + 1 }) | _ => s

/-! ### Slots -/

def slotAt (x : Grate) (i : Nat) : SlotEnt := Tab.get {} x.slots i
def setSlot (x : Grate) (i : Nat) (e : SlotEnt) : Grate := { x with slots := Tab.put {} x.slots i e }

def slotBytes (e : SlotEnt) : Nat := (e.len.toNat + 1) * 2048

/-- The scratchpad offset of an access within a slot; none where the slot is not valid or the access runs past it
(R119). -/
def slotSpan (x : Grate) (i off len : Nat) : Option Nat :=
  let e := slotAt x i
  if e.v && decide (off + len ≤ slotBytes e) then some (e.base.toNat * 2048 + off) else none

/-- What a role makes of an access in slot-guard mode: illegal, a breach, or fine (R131, R132). -/
inductive RoleCheck where
  | ok | illegal | breach
  deriving DecidableEq, Repr

def roleCheck (x : Grate) (slot role : Nat) (write : Bool) : RoleCheck :=
  let e := slotAt x slot
  if !x.guardMode then .ok
  else if role = 3 then .illegal
  else if !e.guard then .ok
  else if role = 0 then .illegal
  else if e.full = write then .breach
  else .ok

/-- STATE, EPOCH and REMAIN once a produce-final write completes, or at SLOT.PUBLISH (Table 4.12). -/
def slotFilled (e : SlotEnt) : SlotEnt := { e with full := true, epoch := e.epoch + 1, remain := e.cons }

/-- REMAIN and STATE once a final-consume read completes, or at SLOT.RETIRE (Table 4.12); from REMAIN 0, which a fill with CONS 0
leaves, it wraps (log 129). -/
def slotConsumed (e : SlotEnt) : SlotEnt :=
  let r := e.remain - 1
  { e with remain := r, full := decide (r ≠ 0) }

/-- DATA of the halt of an internal slot-guard breach (Table 20.5). -/
def breachFields (s : State) (g slot : Nat) : List (Nat × Nat × Nat) := guardFields slot (slotAt (s.gr g) slot) (.tile g)

/-- The transition of a guarded slot once an access of role 2 completes (Table 4.12). -/
def roleDone (x : Grate) (slot role : Nat) (write : Bool) : Grate :=
  let e := slotAt x slot
  if x.guardMode && e.guard && decide (role = 2) then setSlot x slot (if write then slotFilled e else slotConsumed e) else x

/-- Whether an access of role 2 comes to complete in a state that does not allow it: another one issued before it has changed the
slot since its own check at issue (Table 4.12). -/
def roleBroken (x : Grate) (slot role : Nat) (write : Bool) : Bool :=
  let e := slotAt x slot
  x.guardMode && e.guard && decide (role = 2) && decide (e.full = write)

/-- The slot-guard fault of an access found at its completion; the access is not performed (R132, R133). -/
def guardLate (s : State) (g seq : Nat) (pc : W64) (insn : W32) (slot : Nat) : State :=
  haltLate s g seq { cause := 5, pc := pc, insn := insn, extra := breachFields s g slot }

/-- The arithmetic-integrity record of a tile controller (Table 20.5, kind 0x13). -/
def integRec (s : State) (g : Nat) (pc : W64) (e : IntegErr) : Slot :=
  faultRec 0x13 e.code (s.gr g).ctx.toNat (.tile g) false none s.tick.toNat 0
    [(256, 7, e.held), (264, 7, e.fresh), (320, 64, pc.toNat)]

/-- The exception of an uncorrectable word that a queued instruction of a unit has read, with the array's code (R87, R116). -/
def wordHalt (s : State) (g seq : Nat) (pc : W64) (insn : W32) (arr : Nat) : State :=
  haltLate s g seq { cause := 4, pc := pc, insn := insn, matching := some (arrayRec s g arr 0) }

/-- Past words that no outstanding instruction can still see are forgotten. -/
def forgetPast (x : Grate) : Grate :=
  { x with past := x.past.filter (fun p => x.matQ.any (fun o => decide (o.seq < p.issued)) ||
      x.wlQ.any (fun o => decide (o.seq < p.issued)) || x.vecQ.any (fun o => decide (o.seq < p.issued))) }

/-! ### Scratchpad bytes of a grate -/

def spadRead (s : State) (g off n : Nat) : List Byte := s.bytes (spadKey g off) n

/-- Words of the scratchpad that an access issued as number seq may see in place of what stands there: a word of a read-out whose
drain is under way, and a word that was overwritten after the access issued (R121, R122, Table 4.9). -/
def otherWords (x : Grate) (seq : Nat) (drained : List (Nat × List Byte)) : List (Nat × List Byte) :=
  (match x.drain with | some d => if d.op.seq < seq then drained else [] | none => []) ++
    (x.past.filter (fun p => decide (seq < p.issued))).map (fun p => (p.word, p.bytes))

/-- The scratchpad as an access issued as number seq reads it: of each word that has other contents beside those it holds, free
bits say which are read (R115, R129, R130). -/
def spadView (s : State) (g seq : Nat) (drained : List (Nat × List Byte)) : Mem × State :=
  let ws := otherWords (s.gr g) seq drained
  if ws.isEmpty then (s.mem, s)
  else
    let (v, s) := takeFree ws.length s
    ((ws.zipIdx).foldl (fun m e => if v.getLsbD e.2 then Mem.write m (spadKey g (32 * e.1.1)) e.1.2 else m) s.mem, s)
def spadWrite (s : State) (g off : Nat) (bs : List Byte) : State := (notePast s g off bs.length).putBytes (spadKey g off) bs

/-! ### The clear of R141 and the start of a program (R113, R124, R135, R357) -/

/-- Everything a grate holds cleared, as IDLE has it (R118, R131, R135, R141, R586); the corrected-error count stays. -/
def clearGrate (s : State) (g : Nat) : State :=
  let x := s.gr g
  let x' : Grate := { errCount := x.errCount, ctlErr := x.ctlErr, cubeSteps := x.cubeSteps }
  (s.setGr g x').zeroBytes (spadKey g 0) 0x600000

/-- What every start loads: the CSRs of the launch record, all other CSRs and the event counters at reset (R113, R124,
R141). -/
def startGrate (x : Grate) (ctx : Ctx) (pc arg k0 k1 base limit : W64) (l : Option (Nat × Nat)) : Grate :=
  { x with st := .running, ctx := ctx, pc := pc, status := 0, keyLo := k0, keyHi := k1, srBase := base,
           waitLimit := BitVec.ofNat 48 limit.toNat, conflicts := [], events := [], haltCause := 0, launch := l,
           xregs := Tab.put 0 [] 10 arg, stall := .none, readBuf := [], icache := [] }

end Sys2Proof.Machine
end

