-- ==== Sys2Proof/Machine/RingCtl.lean ====
section
/-! DEFINITION. Ring set-up, ring commands, doorbells, descriptor fetch and waits (R334 to R349). -/

namespace Sys2Proof.Machine

/-! ### Set-up entry (Table 11.1, R335) -/

/-- The first word of an entry, as software reads it. -/
def ringWord0 (r : Ring) : Nat :=
  packFields [(0, 1, boolNat r.v), (1, 1, boolNat r.kind), (3, 2, r.role.toNat), (5, 2, r.die.toNat), (8, 3, r.sub.toNat),
    (11, 2, r.policy.toNat), (13, 1, boolNat r.inten), (16, 12, r.ctx.toNat), (28, 5, r.log2sz.toNat), (48, 16, r.cring.toNat)]
def ringWord1 (r : Ring) : Nat := packFields [(0, 16, r.ivec.toNat), (24, 40, r.base.toNat)]
def ringWord2 (r : Ring) : Nat := r.head.toNat + r.tail.toNat * 2 ^ 32
def rstateCode : RState → Nat | .off => 0 | .active => 1 | .paused => 2 | .hosthold => 3 | .error => 4
def ringWord3 (r : Ring) : Nat := packFields [(0, 3, rstateCode r.st), (8, 8, r.event.toNat), (16, 16, r.lost.toNat)]

def setRingWord0 (r : Ring) (v : Nat) : Ring :=
  { r with v := bitAt v 0, kind := bitAt v 1, role := BitVec.ofNat 2 (field v 3 2), die := BitVec.ofNat 2 (field v 5 2),
           sub := BitVec.ofNat 3 (field v 8 3), policy := BitVec.ofNat 2 (field v 11 2), inten := bitAt v 13,
           ctx := BitVec.ofNat 12 (field v 16 12), log2sz := BitVec.ofNat 5 (field v 28 5),
           cring := BitVec.ofNat 16 (field v 48 16) }

/-- A write of word w of an entry (R335): while OFF it sets the RW fields; otherwise only POLICY of a record ring. -/
def writeRingWord (s : State) (rn w v : Nat) : State :=
  let r := s.ring rn
  if r.st = .off then
    match w with
    | 0 => s.setRing rn (setRingWord0 r v)
    | 1 => s.setRing rn { r with ivec := BitVec.ofNat 16 (field v 0 16), base := BitVec.ofNat 40 (field v 24 40) }
    | _ => s
  else if w = 0 ∧ r.kind then s.setRing rn { r with policy := BitVec.ofNat 2 (field v 11 2) }
  else s.logTag .chm 0 335 rn

/-- RING_CFG_WRITE. -/
def execRingCfgWrite (r : RingNo) (word : Fin 4) (value : W64) (s : State) : Res :=
  .next (writeRingWord s r.toNat word.val value.toNat)

/-! ### Commands (R336 to R338, Table 11.3) -/

/-- Why ENABLE is refused (R337). -/
def enableBad (s : State) (r : Ring) : Bool :=
  let c := s.ring r.cring.toNat
  !r.v || decide (r.role = 3) || (r.kind && decide (r.role ≠ 0)) || decide (1 ≤ r.sub.toNat ∧ r.sub.toNat ≤ 3) ||
    decide (r.log2sz.toNat < 4) || decide (20 < r.log2sz.toNat) ||
    decide (r.base.toNat * 0x1000 % max 0x1000 (64 * ringSize r) ≠ 0) || decide (r.policy = 3) ||
    (!r.kind && !(c.v && c.kind && decide (c.ctx = r.ctx))) || (decide (r.role ≠ 0) && decide (r.sub ≠ 0))

def ringCmdErr (s : State) : State := { s with ringCmd := { s.ringCmd with err := true } }

def noteCmd (s : State) (rn cmd : Nat) : State :=
  { s with ringCmd := { s.ringCmd with ring := BitVec.ofNat 16 rn, cmd := BitVec.ofNat 3 cmd } }

def ringEnableOp (s : State) (rn : Nat) : State :=
  let r := s.ring rn
  if r.st ≠ .off ∨ enableBad s r then ringCmdErr s
  else (s.setRing rn { r with head := 0, tail := 0, st := .active }).setRq rn { (s.rq rn) with
    fetched := [], waitMet := false, stale := false, refetches := 0, returns := 0, written := [], launchRec := none, launchReq := none }

def ringPauseOp (s : State) (rn : Nat) : State :=
  let r := s.ring rn
  if r.st = .active then s.setRing rn { r with st := .paused } else ringCmdErr s

/-- RESUME: fetching starts again from HEAD, and waiting records are written (R343, R360). -/
def ringResumeOp (s : State) (rn : Nat) : State :=
  let r := s.ring rn
  if r.st = .paused then
    let s := s.setRing rn { r with st := .active }
    flushRing (s.setRq rn { (s.rq rn) with stale := false, refetches := 0, returns := 0 }) rn
  else ringCmdErr s

/-- DISABLE (R338): fetched descriptors that have not started complete with aborted status; a record ring's waiting
records are dropped and logged. -/
def ringDisableOp (s : State) (rn : Nat) : State :=
  let r := s.ring rn
  if r.st = .off then ringCmdErr s
  else
    let q := s.rq rn
    let s := s.setRing rn { r with st := .off }
    let s := s.setRq rn { q with fetched := [], waitMet := false, stale := false, refetches := 0, returns := 0, stalled := false,
                                 faulting := false, launchRec := none, launchReq := none }
    let s := if r.kind then flushRing s rn else s
    q.fetched.foldl (fun s d => completeDesc s rn d { status := 0x17 }) s

def execRingEnable (r : RingNo) (s : State) : Res := .next (ringEnableOp (noteCmd s r.toNat 1) r.toNat)
def execRingPause (r : RingNo) (s : State) : Res := .next (ringPauseOp (noteCmd s r.toNat 2) r.toNat)
def execRingResume (r : RingNo) (s : State) : Res := .next (ringResumeOp (noteCmd s r.toNat 3) r.toNat)
def execRingDisable (r : RingNo) (s : State) : Res := .next (ringDisableOp (noteCmd s r.toNat 4) r.toNat)

/-! ### Doorbells (R339 to R341) -/

/-- Whether a source is the ring's submitter (R341). -/
def isSubmitter (s : State) (r : Ring) (who : BellAgent) : Bool :=
  match who with
  | .core h => decide (r.sub = 0) && (decide ((s.ht h).dctx = 0) || decide ((s.ht h).dctx = r.ctx))
  | .tile p => decide (r.sub = 0) && decide ((s.gr p.g).st = .running) && decide ((s.gr p.g).ctx = r.ctx)
  | .host h => decide (r.sub.toNat = 4 + h.val)

/-- The number that the log gives a doorbell's source. -/
def bellSource : BellAgent → Nat | .core h => h | .tile p => 0x100 + p.g | .host h => 0x200 + h

/-- A submission-ring doorbell with count t (R340). -/
def submitBell (s : State) (rn : Nat) (r : Ring) (t : W32) : State :=
  if 2 ^ 31 ≤ (t - r.tail).toNat then s
  else if ringSize r < (t - r.head).toNat then
    ringEvent (s.setRing rn { r with st := .error }) rn 2 r.tail.toNat
  else s.setRing rn { r with tail := t }

/-- A record-ring doorbell with count t (R340): slots returned, and waiting records written. -/
def returnBell (s : State) (rn : Nat) (r : Ring) (t : W32) : State :=
  if (r.tail - r.head).toNat < (t - r.head).toNat then s.logTag .chm 0 340 rn
  else
    let q := s.rq rn
    flushRing ((s.setRing rn { r with head := t }).setRq rn { q with written := q.written.drop (t - r.head).toNat }) rn

/-- A doorbell write (R339, R341). -/
def bellWrite (s : State) (who : BellAgent) (rn : Nat) (v : W64) : State :=
  let r := s.ring rn
  if v.toNat / 2 ^ 32 ≠ 0 then s.logTag .chm (bellSource who) 339 rn
  else if !(isSubmitter s r who) then s.logTag .chm (bellSource who) 341 rn
  else match r.st with
  | .off => s
  | .error => s.logTag .chm (bellSource who) 341 rn
  | _ =>
    if r.kind then returnBell s rn r (BitVec.ofNat 32 v.toNat)
    else submitBell s rn r (BitVec.ofNat 32 v.toNat)

/-- Whether a hart issues: its cluster has been released with verified firmware (R3, R489), no barrier waits and no trap is being
entered. -/
def hartReady (s : State) (h : Nat) : Bool := readyClu s (h / 8) && (s.ht h).fence.isNone && (s.ht h).waitTrap.isNone

/-- The lost-store exception of a hart at a PC, with its records (R264). -/
def lostTrap (s : State) (h : Nat) (epc : W64) : State :=
  let x := s.ht h
  match x.lost with
  | [] => s
  | l :: _ =>
    let s := postLost (s.setHt h { x with lost := [], trap := some { code := 24, tval := l.va, epc := epc } }) (.core h) x.lost
    s.emit (.coreFault h 24 l.va)

/-- A lost-store exception of a hart whose device access or barrier has completed: before the instruction after it (R264), whose PC
the commands do not carry (log 134). -/
def deliverLost (s : State) (h : Nat) : State :=
  if (s.ht h).lost.isEmpty then s
  else
    let (epc, s) := takeFree 64 s
    lostTrap s h epc

/-- The end of a tile controller's access to device space: issue goes on, or the lost stores it waited for halt it (R264). -/
def tileDevice (s : State) (p : Site) : State :=
  if (s.gr p.g).lost.isEmpty then s.modGr p.g (fun x => { x with pc := nextPc p }) else haltAt s p 0x0B

/-- A doorbell command: a core's or tile controller's waits for its earlier stores (R241, R252); a host's needs a trained link and,
under REQIDE, a secure stream (R376, Table 12.1). -/
def bellCommand (s : State) (who : BellAgent) (rn : Nat) (v : W64) : Res :=
  match who with
  | .core h =>
    if !(hartReady s h) then .refused .agentNotReady
    else if (s.ht h).sb.isEmpty then .next (deliverLost (bellWrite s who rn v) h)
    else .next s
  | .tile p =>
    if !(canIssue (s.gr p.g)) then .refused .agentNotReady
    else if (s.gr p.g).sb.isEmpty then .next (tileDevice (bellWrite s who rn v) p)
    else .next s
  | .host h =>
    let l := s.host h
    if !l.dlup then .refused .agentNotReady
    else if ideHeld s h then .next (s.logTag .hlk h 376 rn)
    else .next (bellWrite s who rn v)

def execDoorbell (who : BellAgent) (r : RingNo) (value : W64) (s : State) : Res := bellCommand s who r.toNat value
def execRecordDoorbell (who : BellAgent) (r : RingNo) (value : W64) (s : State) : Res := bellCommand s who r.toNat value

/-! ### Fetch (R343, R344) -/

/-- What a read of one slot brings. -/
inductive SlotRead where
  | data (d : Slot)
  | wait
  | hostLost
  | bad
  deriving DecidableEq, Repr

/-- The slot at an index: read from the package's memory, or the i-th slot that the host's completion brought. -/
def readSlot (s : State) (r : Ring) (idx : Nat) (host : List Slot) (i : Nat) : SlotRead × State :=
  let a := slotAddr r idx
  match placeOf a with
  | .host h _ => if (s.host h).lost then (.hostLost, s) else if !(hostBacked s h) then (.bad, s) else
      match host[i]? with
      | some d => (.data d, s)
      | none => (.wait, s)
  | _ => match physRead s .ringUnit r.ctx.toNat a 64 with
    | (.ok, bs, s) => (.data (BitVec.ofNat 512 (ofBytes bs)), s)
    | (.wait, _, s) => (.wait, s)
    | (_, _, s) => (.bad, s)

/-- Continuation slots that follow a head slot (Table 11.5). -/
def contSlots (d : Slot) : Nat := if hdOp d = 2 then hdNcont d else 0

/-- Continuation slots read in order; where one does not come, what its read brings and its index. -/
def readCont : Nat → State → Ring → Nat → List Slot → Nat → Except (SlotRead × Nat) (List Slot) × State
  | 0, s, _, _, _, _ => (.ok [], s)
  | n + 1, s, r, idx, host, i => match readSlot s r idx host i with
    | (.data d, s) => match readCont n s r (idx + 1) host (i + 1) with
      | (.ok ds, s) => (.ok (d :: ds), s)
      | (.error e, s) => (.error e, s)
    | (x, s) => (.error (x, idx), s)

/-- A slot that does not come: a failed read puts the ring into ERROR with a fetch-error event, a lost host puts a host ring into HOSTHOLD
(R337, Table 11.14 scenario 3); a ring of package agents whose slots lie in a lost host's memory waits as it stands (log 143). -/
def fetchFail (s : State) (rn : Nat) (x : SlotRead) (idx : Nat) : State :=
  let r := s.ring rn
  match x with
  | .bad => ringEvent (s.setRing rn { r with st := .error }) rn 3 idx
  | .hostLost => if (subHost r).isSome then s.setRing rn { r with st := .hosthold } else s
  | _ => s

/-- Slots taken from HEAD on, up to 16 of them (R343); i counts the slots already taken. The first mismatching lap leaves
the ring to its re-fetches. -/
def fetchSlots : Nat → State → Nat → List Slot → Nat → State
  | 0, s, _, _, _ => s
  | n + 1, s, rn, host, i =>
    let r := s.ring rn
    let q := s.rq rn
    let left := (r.tail - r.head).toNat
    if left = 0 ∨ 16 ≤ i ∨ 16 ≤ q.fetched.length then s
    else match readSlot s r r.head.toNat host i with
    | (.data d, s) =>
      if hdLap d ≠ lapOf r r.head.toNat then s.setRq rn { q with stale := true, refetches := 0, returns := 0 }
      else
        let k := contSlots d
        if left < k + 1 then s
        else match readCont k s r (r.head.toNat + 1) host (i + 1) with
        | (.error (x, idx), s) => fetchFail s rn x idx
        | (.ok cs, s) =>
          let s := s.setRing rn { r with head := r.head + BitVec.ofNat 32 (k + 1) }
          let s := s.setRq rn { q with fetched := q.fetched ++ [{ idx := r.head, head := d, cont := cs, serial := q.count }],
                                       count := q.count + 1, stale := false, refetches := 0, returns := 0 }
          fetchSlots n s rn host (i + 1 + k)
    | (x, s) => fetchFail s rn x r.head.toNat

/-- The return of one re-fetch of a head slot (R343): a matching lap is taken, the 64th mismatch pauses the ring. -/
def refetchReturn (s : State) (rn : Nat) (host : List Slot) : State :=
  let r := s.ring rn
  let q := s.rq rn
  match readSlot s r r.head.toNat host 0 with
  | (.data d, s) =>
    if hdLap d = lapOf r r.head.toNat then fetchSlots 16 s rn host 0
    else if q.returns + 1 < 64 then s.setRq rn { q with returns := q.returns + 1 }
    else
      let s := s.setRq rn { q with stale := false, refetches := 0, returns := 0 }
      ringEvent (s.setRing rn { r with st := .paused }) rn 1 r.head.toNat
  | (x, s) => fetchFail s rn x r.head.toNat

def fetchable (r : Ring) : Bool := r.v && !r.kind && decide (r.st = .active) && decide (r.tail ≠ r.head)

/-- DESCRIPTOR_FETCH_RETURN: `host` holds the slots that a host ring's read brought. -/
def execDescriptorFetchReturn (r : RingNo) (host : List Slot) (s : State) : Res :=
  let q := s.rq r.toNat
  if !(fetchable (s.ring r.toNat)) then .refused .notPending
  else if q.stale then
    if q.returns < q.refetches then .next (refetchReturn s r.toNat host) else .refused .notPending
  else .next (fetchSlots 16 s r.toNat host 0)

/-- DESCRIPTOR_REFETCH: the next of at most 64 re-fetches is issued (R343). -/
def execDescriptorRefetch (r : RingNo) (s : State) : Res :=
  let q := s.rq r.toNat
  if fetchable (s.ring r.toNat) && q.stale && decide (q.refetches < 64) then
    .next (s.setRq r.toNat { q with refetches := q.refetches + 1 })
  else .refused .notPending

/-! ### Waits and starts (R347 to R349) -/

/-- Whether a descriptor's wait is met (R348, R349). -/
def waitMetNow (s : State) (rn : Nat) (d : Slot) : Bool :=
  match hdWait d with
  | 0 => true
  | 1 => (s.rq rn).started.isEmpty
  | w => decide (hdTarget d ≤ tallyRead s (hdTally d) (s.ring rn).ctx.toNat (decide (w = 3)))

/-- DESCRIPTOR_WAIT_MET. -/
def execDescriptorWaitMet (r : RingNo) (s : State) : Res :=
  let q := s.rq r.toNat
  match q.fetched with
  | [] => .refused .notPending
  | d :: _ =>
    if decide ((s.ring r.toNat).st = .active) && decide (hdWait d.head ≠ 0) && !q.waitMet && waitMetNow s r.toNat d.head then
      .next (s.setRq r.toNat { q with waitMet := true })
    else .refused .notPending

/-- The front descriptor of a ring if it may start now with an operation (R337, R347). -/
def startable (s : State) (rn op : Nat) : Option Desc :=
  let q := s.rq rn
  match q.fetched with
  | [] => none
  | d :: _ =>
    if decide ((s.ring rn).st = .active) && decide (hdOp d.head = op) && (decide (hdWait d.head = 0) || q.waitMet || (decide (op = 2) && decide (2 ≤ hdWait d.head))) &&
        decide (q.started.length < 16) && !q.stalled then some d
    else none

/-- The front descriptor taken as started. -/
def takeStart (s : State) (rn : Nat) (d : Desc) : State :=
  let q := s.rq rn
  s.setRq rn { q with fetched := q.fetched.drop 1, started := q.started ++ [d], waitMet := false }

/-- Operations by the role of their ring (Table 11.6). -/
def roleAccepts (r : Ring) (op : Nat) : Bool :=
  match op with
  | 0 => true
  | 5 => decide (r.role = 1)
  | 6 => decide (r.role = 2)
  | 7 => decide (r.role = 0) && decide (r.ctx = 0) && decide (r.sub = 0)
  | 1 | 2 | 3 | 4 | 8 => decide (r.role = 0)
  | _ => false

/-- Whether a descriptor is invalid whatever its body (R346). -/
def descBad (r : Ring) (d : Slot) : Bool := !(roleAccepts r (hdOp d)) || headerBad d

/-- A descriptor ended at its start, with no other effect. -/
def endAtStart (s : State) (rn : Nat) (d : Desc) (status : Nat) : State :=
  completeDesc (takeStart s rn d) rn d { status := status }

/-- NOP, and every descriptor of a reserved operation: the fetch unit completes it once its wait is met (R346). -/
def execNop (r : RingNo) (s : State) : Res :=
  let q := s.rq r.toNat
  match q.fetched with
  | [] => .refused .notPending
  | d :: _ =>
    if hdOp d.head = 0 ∨ 9 ≤ hdOp d.head then
      match startable s r.toNat (hdOp d.head) with
      | none => .refused .notPending
      | some d =>
        let bad := descBad (s.ring r.toNat) d.head || decide (body d.head ≠ 0)
        .next (endAtStart s r.toNat d (if bad then 3 else 0))
    else .refused .notPending

end Sys2Proof.Machine
end

