-- ==== Sys2Proof/Machine/Requests.lean ====
section
/-! DEFINITION. Requests that leave the module: flue packets (R420 to R422, R434) and reads of client-host memory
(R29, R382, R534), each with its request number until its answer comes. -/

namespace Sys2Proof.Machine

/-! ### Flue packets -/

/-- The stripe of an address (R406). -/
def stripeOf (addr : Nat) : Nat := field addr 7 6 ^^^ field addr 13 6

def linkUp (s : State) (f : Nat) : Bool := decide ((s.fl f).st = .up)

/-- The UP links that may carry the first hop toward a position (R422). -/
def routeLinks (s : State) (p : Nat) : List Nat :=
  (List.range 18).filter (fun f => (Tab.get 0 s.flue.route p).getLsbD f && linkUp s f)

/-- The link that carries a packet with an address toward a position; none where no UP link is listed (R422). -/
def pickLink (s : State) (p addr : Nat) : Option Nat :=
  let l := routeLinks s p
  l[stripeOf addr % l.length]?

/-- A data packet sent toward a position in a context, counted in the context's class (R155). -/
def sendPacket (s : State) (p addr ctx n : Nat) (m : FlueMsg) : Option State :=
  match pickLink s p addr with
  | some f =>
    some (flueSend (countFlue s f ctx n) f (.packet f p s.group.mypos.toNat ((s.memb p).epoch.toNat % 2 ^ 16) m))
  | none => none

/-- What asks another module or a host. -/
inductive Ask where
  | read (len : Nat)
  | write (bytes : List Byte)
  | merge (norm : Bool) (bytes : List Byte)
  | atomic (op : AOp) (size opnd cmp : Nat)
  deriving DecidableEq, Repr

def askKind : Ask → Acc3 | .read _ => .read | .write _ => .write | .merge _ _ => .write | .atomic _ _ _ _ => .atomic
/-- Whether a request merges norm words. -/
def askNorm : Ask → Bool | .merge nm _ => nm | _ => false
def askLen : Ask → Nat | .read n => n | .write b => b.length | .merge _ b => b.length | .atomic _ n _ _ => n

/-- The packet of a request at an offset within a position's window (R434). -/
def askPacket (id addr ctx : Nat) : Ask → FlueMsg
  | .read n => .read id addr ctx n
  | .write b => .write id addr ctx (2 ^ b.length - 1) b
  | .merge nm b => .merge id addr ctx nm b
  | .atomic op n x c => .atomic id addr ctx op n x c

/-- A request to another module (T4): its number once it is sent; none where the position is dead or has no route
(R422, R438). -/
def askRemote (s : State) (a : Agent) (ctx va p off : Nat) (q : Ask) : Option (Nat × State) :=
  if positionDead s p then none
  else
    let id := s.nextReq
    let link := pickLink s p off
    match sendPacket s p off ctx (askLen q) (askPacket id off ctx q) with
    | none => none
    | some s =>
      let r : OutReq := { id := id, agent := a, kind := askKind q, ctx := ctx, va := va, target := p, toHost := false,
                          addr := remoteBase + p * 0x4000000000 + off, len := askLen q, since := s.elapsed, norm := askNorm q, link := link }
      some (id, { s with nextReq := id + 1, reqs := s.reqs ++ [r] })

/-- A read of client-host memory (T5), held until the IDE stream is secure under REQIDE (R534). -/
def askHostRead (s : State) (a : Agent) (ctx va h off len : Nat) : Nat × State :=
  let id := s.nextReq
  let r : OutReq := { id := id, agent := a, kind := .read, ctx := ctx, va := va, target := h, toHost := true,
                      addr := hostBase + h * 0x40000000000 + off, len := len, since := s.elapsed }
  let s := countHost { s with nextReq := id + 1, reqs := s.reqs ++ [r] } h ctx len
  let l := s.host h
  if ideHeld s h then
    (id, s.setHost h { l with heldTlps := l.heldTlps ++ [.read id off len] })
  else (id, s.emit (.hostRead h id off len))

def reqOf (s : State) (id : Nat) : Option OutReq := s.reqs.find? (fun r => decide (r.id = id))
def dropReq (s : State) (id : Nat) : State := { s with reqs := s.reqs.filter (fun r => decide (r.id ≠ id)) }

/-- The requests of an agent that have no answer yet. -/
def reqsOf (s : State) (a : Agent) : List OutReq := s.reqs.filter (fun r => decide (r.agent = a))

end Sys2Proof.Machine
end

