-- ==== Sys2Proof/Machine/StoreBuf.lean ====
section
/-! DEFINITION. Store buffers: what a load sees of them (R239, R242), how stores to other modules leave them, lost stores
(R252 to R254, R263 to R265, R606), and the traps of chimney cores. -/

namespace Sys2Proof.Machine

/-! ### Forwarding -/

/-- The address by which an access is compared with others: one name for a location (R23). -/
def canonPa (pa : Nat) : Nat := (keyOf pa).getD pa

/-- A load's bytes under the younger stores of its own buffer, oldest first (R239). -/
def forward (sb : List SbEnt) (pa : Nat) (bs : List Byte) : List Byte :=
  sb.foldl (fun bs e =>
    bs.zipIdx.map (fun b =>
      match (List.range e.size).find? (fun i => decide (canonPa (e.pa + i) = canonPa (pa + b.2))) with
      | some i => BitVec.ofNat 8 (e.value.toNat / 2 ^ (8 * i))
      | none => b.1)) bs

/-- Whether two extents share a byte, under either name of it (R23). -/
def sharesByte (p n q k : Nat) : Bool :=
  (List.range n).any (fun i => (List.range k).any (fun j => decide (canonPa (p + i) = canonPa (q + j))))

/-- Whether a buffered store touches an extent. -/
def sbTouches (sb : List SbEnt) (pa n : Nat) : Bool := sb.any (fun e => sharesByte e.pa e.size pa n)

/-- A loaded value extended to 64 bits. -/
def extend (signed : Bool) (bs : List Byte) : W64 :=
  BitVec.ofNat 64 (if signed then ofInt 64 (toInt (8 * bs.length) (ofBytes bs)) else ofBytes bs)

/-! ### Holders -/

def holderSb (s : State) : Holder → List SbEnt | .core h => (s.ht h).sb | .tile g => (s.gr g).sb
def holderAgent : Holder → Agent | .core h => .core h.val | .tile g => .tile g.val
def holderLost (s : State) : Holder → List LostStore | .core h => (s.ht h).lost | .tile g => (s.gr g).lost

def setSb (s : State) (w : Holder) (sb : List SbEnt) : State :=
  match w with
  | .core h => s.setHt h { s.ht h with sb := sb }
  | .tile g => s.setGr g { s.gr g with sb := sb }

def setLost (s : State) (w : Holder) (l : List LostStore) : State :=
  match w with
  | .core h => s.setHt h { s.ht h with lost := l }
  | .tile g => s.setGr g { s.gr g with lost := l }

/-- The lost store of an entry (R264, R568): TT 0 for a position, 1 for a host link. -/
def lostOf (s : State) (e : SbEnt) : LostStore :=
  let t : Nat × Nat := match placeOf e.pa with
    | .remote p _ => (0, p)
    | .host h _ => (1, h)
    | _ => (0, 0)
  { tt := t.1, tgt := t.2, block := e.pa / 32, va := e.va, ctx := e.ctx, tick := s.tick.toNat }

/-- A store to another module sent once it stands in the buffer, one to a client host offered to its port: their response timers
start; a core's through CXL.cache is its cluster's and leaves no request here; one to a dead position or without a route, or to a lost host, receives its error response at once (R240, R263, R264,
R422). -/
def sendEnt (s : State) (w : Holder) (e : SbEnt) : State × SbEnt :=
  match placeOf e.pa, e.sent, e.lost with
  | .remote p off, none, none =>
    if !(remoteBacked s p) then (s, e)
    else match askRemote s (holderAgent w) e.ctx e.va.toNat p off (.write (toBytes e.size e.value.toNat)) with
    | some (id, s) => (s, { e with sent := some (s.elapsed, id) })
    | none => (s, { e with lost := some (lostOf s e) })
  | .host l _, none, none =>
    if (s.host l).lost then (s, { e with lost := some (lostOf s e) })
    else if decide (l = 0) && (s.host 0).cxlup && (match w with | .core _ => true | .tile _ => false) then (s, e)
    else if hostBacked s l then
      let (id, s) := s.newReq
      (s, { e with sent := some (s.elapsed, id) })
    else (s, e)
  | _, _, _ => (s, e)

def sendAll (s : State) (w : Holder) : List SbEnt → State × List SbEnt
  | [] => (s, [])
  | e :: rest =>
    let (s, e) := sendEnt s w e
    let (s, rest) := sendAll s w rest
    (s, e :: rest)

/-- The answered stores at the head of a buffer leave it, the lost ones into the holder's list (R240, R264). -/
def leaveSb (s : State) (w : Holder) : List SbEnt → State
  | [] => setSb s w []
  | e :: rest =>
    if e.ack then leaveSb s w rest
    else match e.lost with
      | some l => leaveSb (setLost s w (holderLost s w ++ [l])) w rest
      | none => setSb s w (e :: rest)

/-- What is to be sent is sent, and what is answered leaves in order. -/
def pumpSb (s : State) (w : Holder) : State :=
  let (s, l) := sendAll s w (holderSb s w)
  leaveSb s w l

/-! ### Traps of a core (R252, R264, R606) -/

/-- The trap a hart takes once its store buffer is empty; a lost store found there is taken in its place, at the same PC (R606). -/
def fireTrap (s : State) (h : Nat) (t : HartTrap) : State :=
  let x := s.ht h
  match x.lost with
  | [] => (s.setHt h { x with trap := some t, waitTrap := none }).emit (.coreFault h t.code t.tval)
  | _ => lostTrap (s.setHt h { x with waitTrap := none }) h t.epc

/-- A trap taken: its entry waits for the store buffer (R252). The commands of a core carry no PC: that of the trap is a free value
(log 134). -/
def takeTrap (s : State) (h : Nat) (code : Nat) (tval : W64) : State :=
  let (epc, s) := takeFree 64 s
  let t : HartTrap := { code := code, tval := tval, epc := epc }
  let x := s.ht h
  if x.sb.isEmpty then fireTrap s h t else s.setHt h { x with waitTrap := some t }

/-- The loads and atomics of a hart that have no data yet: those that wait for a line at its cluster, and those asked of another
module or a host; each as an extent of physical addresses. -/
def hartLoads (s : State) (h : Nat) : List (Nat × Nat) :=
  s.coh.agents.flatMap (fun e => e.2.waiting.filterMap (fun w =>
    match w with | .load h' _ pa n _ => if h' = h then some (pa, n) else none | .store _ => none)) ++
    (s.reqs.filter (fun r => decide (r.agent = .core h) && decide (r.kind ≠ .write))).map (fun r => (r.addr, r.len))

/-- The lines of an extent, each under one name (R23). -/
def extLines (pa n : Nat) : List Nat := (chunksOf pa n).map (fun c => canonPa c.1 / 128)

/-- Whether an access must stand behind an earlier load of its hart: accesses to one line are made in program order (R238; log
135). -/
def behindLoad (s : State) (h pa n : Nat) : Bool :=
  (hartLoads s h).any (fun e => (extLines e.1 e.2).any ((extLines pa n).contains ·))

/-- What a core takes for a failed access (Table 20.6, R292, R438): the trap, and the record of its kind. -/
def coreFail (s : State) (h : Nat) (r : Resp) (acc : Acc3) (va : W64) (pa : Nat) : State :=
  let ctx := (s.ht h).dctx.toNat
  let s := respFault s r ctx (.core h) acc (some va.toNat) pa
  let code := match r with
    | .lost _ _ _ => 25
    | _ => if acc = .read then 5 else 7
  takeTrap s h code va

/-- After a hart's buffer or its outstanding loads have moved: the trap it was entering is taken once the buffer is empty, and its
barrier completes once what it waits for is done (R238, R252, R264). -/
def hartDrained (s : State) (h : Nat) : State :=
  let x := s.ht h
  match x.waitTrap, x.fence with
  | some t, _ => if x.sb.isEmpty then fireTrap s h t else s
  | none, some b =>
    if (!b.stores || x.sb.isEmpty) && (!b.loads || (hartLoads s h).isEmpty) then
      let s := s.setHt h { x with fence := none }
      if b.stores then deliverLost s h else s
    else s
  | none, none => s

end Sys2Proof.Machine
end

