-- ==== Sys2Proof/Machine/Home.lean ====
section
/-! DEFINITION. The homes and the caching agents (chapter 9): how a home accepts, orders and closes a request, how an agent answers
a snoop (Table 9.4), and how a dead agent's lines are reclaimed (R288 to R290). -/

namespace Sys2Proof.Machine

/-! ### Lines, grants and answers -/

def lineData (s : State) (line : Nat) : LineData := BitVec.ofNat 1024 (s.word (line * 128) 128)

def putLine (s : State) (line : Nat) (d : LineData) : State := killResv (s.putWord (line * 128) 128 d.toNat) line

/-- Data with a grant sent to a caching agent, from the home or, for another agent's copy, from the chimney die. -/
def sendData (s : State) (line b : Nat) (g : Grant) (src : Nat := lineDie line) : State :=
  fabSend (s.setAl line b { s.al line b with incoming := some (g, lineData s line) }) .response src 4 line b

/-- What a home answers a retry agent; an older answer to it for the line is replaced. -/
def answer (s : State) (a : Agent) (line status : Nat) (d : LineData) : State :=
  let old := s.coh.answers.filter (fun x => !(decide (x.agent = a) && decide (x.line = line)))
  { s with coh := { s.coh with answers := old ++ [{ agent := a, line := line, status := status, data := d }] } }

def retryAgent : RetryAgent → Agent
  | .engine x => xagent x
  | .stream => .streamTable
  | .host h => .hostLink h.val
  | .flue f => .flueLink f.val
  | .rings => .ringUnit

/-- The agent that a request's records and log entries name; the last-level cache as a home of the chimney die. -/
def reqAgent : Requester → Agent
  | .caching b => if b = 13 then .hostLink 0 else if b = 12 then .home 4 else .cluster b
  | .retry a => a
  | .unit a => a
  | .home => .home 4

/-! ### A request refused by the home's checks -/

/-- The oldest store of a hart ends in the trap of its failed line. -/
def coreStoreFail (s : State) (h : Nat) (r : Resp) : State :=
  if hh : h < 96 then
    let w := Holder.core ⟨h, hh⟩
    match (s.ht h).sb with
    | [] => s
    | e :: rest => coreFail (hartDrained (pumpSb (setSb s w rest) w) h) h r .write e.va e.pa
  else s

/-- The waiting accesses of a line end with an error response (R292, R569). -/
def failWaiting (s : State) (line b : Nat) (r : Resp) : State :=
  let a := s.al line b
  a.waiting.foldl (fun s w => match w with
    | .load h va pa _ _ => coreFail s h r .read va pa
    | .store h => coreStoreFail s h r) (s.setAl line b { a with st := if a.st = .sma then .s else .i, ctx := none, waiting := [] })

/-- What the host gets on link 0: 3 data, 4 UR, 5 poison, 6 completion of a write. -/
def cxlAnswer (s : State) (what line : Nat) : State :=
  cxlSend s what (line * 128) (if what = 3 then s.bytes (line * 128) 128 else [])

def reqAcc : HomeReq → Acc3 | .rdS => .read | .readOnce => .read | .atomic => .atomic | _ => .write

/-- An error response to a request (R292, R327, R569). The last-level cache has no access waiting; a unit makes its access again and
meets the answer itself. -/
def refuseReq (s : State) (w : WaitReq) (r : Resp) : State :=
  match w.who with
  | .caching b =>
    if b = 13 then
      let s := respFault s r w.ctx (.hostLink 0) .read none (w.line * 128)
      let s := s.setAl w.line 13 { s.al w.line 13 with st := .i }
      cxlAnswer s (match r with | .uncorr _ _ => 5 | .lost _ _ _ => 5 | _ => 4) w.line
    else failWaiting s w.line b r
  | .retry a => answer (respFault s r w.ctx a (reqAcc w.req) none (w.line * 128)) a w.line (respStatus r) 0
  | .unit _ => s
  | .home => s

/-- The home's checks of a request, before it looks the line up (R327, R404, R490, R292, R294, R561). -/
def reqCheck (s : State) (w : WaitReq) : Option Resp × State :=
  let d := w.line * 128
  let a := reqAgent w.who
  match lineReach s a d with
  | some r => (some r, s)
  | none =>
    if !(mainAllows s d w.ctx) then
      (some (.decode 1), s.logE { src := .mem, unit := d / dieSize, tag := 328, ctx := some w.ctx, addr := d, data := agentKey a })
    else
      let r := lineAnswer s w.ctx w.line (decide (w.req = .writeFull))
      (r, logAnswer s w.line r)

/-! ### Closing a transaction (R282, R284, R285) -/

/-- A home's write of a line: DIRTY, no pending write-back, no ash entry where the whole line was written (R292, R298). -/
def homeWrote (s : State) (line : Nat) (full : Bool) : State :=
  let s := s.setDir line { s.dirE line with dst := 0, vec := 0, dirty := true }
  let s := if full then { ashRemove s line with badLines := Tab.put 0 s.badLines line 0 } else s
  { s with coh := { s.coh with evict := s.coh.evict.filter (fun l => decide (l ≠ line)) } }

/-- A line merged with the enabled bytes of a write. -/
def mergeLine (old new : LineData) (mask : BitVec 128) : LineData :=
  BitVec.ofNat 1024 (ofBytes ((List.range 128).map (fun i =>
    BitVec.ofNat 8 (field (if mask.getLsbD i then new else old).toNat (8 * i) 8))))

/-- The line as its sharer-bit agent gets it: S beside other copies and for the last-level cache, else E (R269, Table 9.4). -/
def grantShared (s : State) (line b : Nat) (replied : Bool) : State :=
  let e := s.dirE line
  if e.dst = 0 then
    if b = 12 then sendData (s.setDir line { e with dst := 1, vec := bitMask b }) line b .s
    else sendData (s.setDir line { e with dst := 2, vec := bitMask b }) line b .e
  else
    let s := s.setDir line { e with dst := 1, vec := e.vec ||| bitMask b }
    if replied then s else sendData s line b .s

/-- The reply that ends a transaction once every snoop has been answered; the line stays busy for a retry agent (R281), and for a unit
until it makes its access. -/
def homeReply (s : State) (line : Nat) (t : Txn) : State :=
  let e := s.dirE line
  match t.who with
  | .home => giveUpPlace (s.setTxn line none) line
  | .unit _ => s.setTxn line (some { t with ready := true })
  | .retry a =>
    let s := countMem s (line * 128) t.ctx 128
    let s := poolTouch s line
    let keep := fun (s : State) => s.setTxn line (some { t with awaitDone := true })
    match t.req with
    | .writeFull => keep (answer (homeWrote (dropStale (putLine s line t.payload.data) line) line true) a line 0 0)
    | .writePart =>
      let s := putLine s line (mergeLine (lineData s line) t.payload.data t.payload.mask)
      keep (answer (homeWrote s line false) a line 0 0)
    | .atomic =>
      let at_ := line * 128 + t.payload.offset
      let old := s.word at_ t.payload.size
      let v := atomicNew t.payload.op (8 * t.payload.size) old t.payload.opnd.toNat t.payload.cmp.toNat
      let s := killResv (s.putWord at_ t.payload.size v) line
      keep (answer (homeWrote s line false) a line 0 (BitVec.ofNat 1024 old))
    | _ => keep (if t.replied then s else answer s a line 0 (lineData s line))
  | .caching b =>
    let s := poolTouch (countMem s (line * 128) t.ctx 128) line
    if b = 12 then (grantShared s line b t.replied).setTxn line (some { t with awaitDone := true })
    else
      let s := s.setTxn line none
      let gone := s.coh.dead.getLsbD b
      match t.req with
      | .rdS => if gone then s else grantShared s line b t.replied
      | .upg =>
        if gone then s.setDir line { e with dst := 0, vec := 0 }
        else
          let s := (s.setDir line { e with dst := 2, vec := bitMask b }).setAl line b { s.al line b with ackDue := true }
          fabSend s .response (lineDie line) 4 line b
      | _ =>
        if gone then
          let s := s.setDir line { e with dst := 0, vec := 0 }
          if t.replied then ashList s line b else s
        else
          let s := s.setDir line { e with dst := 2, vec := bitMask b }
          if t.replied then s else sendData s line b .m

/-! ### WbM and EvE (R284, R298, R563) -/

/-- Lines that a caching agent can hold: 4 MiB of a cluster's L2, 128 MiB of the last-level cache (Table 1.1, Table 1.4). -/
def agentLines (b : Nat) : Nat := if b = 12 then 1048576 else 32768

/-- The lines at an agent. -/
def linesOf (s : State) (b : Nat) : List Nat :=
  (s.coh.agents.filter (fun e => decide (e.1 % 16 = b) && decide (e.2.st ≠ .i))).map (fun e => e.1 / 16)

/-- A place for one more line at an agent: a free one, or that of a line in S, dropped without notice (R273, Table 9.4 Replace; log
140); none where every line is held in E or M or under way. The host's cache is the host's affair. -/
def agentPlace (s : State) (b line : Nat) : Option State :=
  let held := linesOf s b
  if b = 13 ∨ held.length < agentLines b then some s
  else
    let c := held.filter (fun l => decide ((s.al l b).st = .s))
    match (c.drop (Config.victim line s.elapsed % c.length)).head? with
    | some l => some (s.setAl l b { s.al l b with st := .i })
    | none => none

/-- A write-back or a give-up at its home; Cmp follows in every case. A line written back is out of the eviction buffer, and enters
the last-level cache as a clean copy where it comes from a cluster (R269, R298). -/
def homeGiveUp (s : State) (w : WaitReq) (b : Nat) : State :=
  let e := s.dirE w.line
  if e.dst = 2 ∧ e.vec = bitMask b then
    if w.req = .evE then dropStale (s.setDir w.line { e with dst := 0, vec := 0 }) w.line
    else if w.payload.hasData then
      let owner := (Tab.get {} s.owners (regionOf (w.line * 128))).owner
      let s := poolTouch (countMem s (w.line * 128) owner.toNat 128) w.line
      let s := dropStale (putLine s w.line w.payload.data) w.line
      let s := { s with coh := { s.coh with evict := s.coh.evict.filter (fun l => decide (l ≠ w.line)) } }
      match if b < 12 then agentPlace s 12 w.line else none with
      | some s => (s.setDir w.line { e with dst := 1, vec := bitMask 12, dirty := true }).setAl w.line 12 { s.al w.line 12 with st := .s }
      | none => s.setDir w.line { e with dst := 0, vec := 0, dirty := true }
    else
      let s := match Tab.get none s.coh.stale w.line with
        | some old => dropStale (putLine s w.line old) w.line
        | none => s
      ashList (s.setDir w.line { e with dst := 0, vec := 0 }) w.line b
  else s

/-! ### Accepting a request (R278, R283 to R285) -/

/-- A request with an entry whose line is free: given up, refused, put aside for want of a place, snooped for, or answered. -/
def homeAccept (s : State) (w : WaitReq) : State :=
  let aside := fun (s : State) => s.setTxn w.line (some { req := w.req, who := w.who, ctx := w.ctx, payload := w.payload, owed := 0,
                                                          asked := none, room := true, since := s.elapsed })
  let go := fun (s : State) =>
    let e := s.dirE w.line
    let me : BitVec 14 := match w.who with | .caching b => bitMask b | _ => 0
    let req := if w.req = .upg ∧ (e.dst ≠ 1 ∨ e.vec &&& me = 0) then HomeReq.rdX else w.req
    let t : Txn := { req := req, who := w.who, ctx := w.ctx, payload := w.payload, owed := 0, asked := none, since := s.elapsed }
    match sendSnoops s w.line t me with
    | (true, s) => s
    | (false, s) => homeReply s w.line t
  let placed := fun (s : State) (k : State → State) => match findPlace s w.line with
    | (true, s) => k s
    | (false, s) => aside s
  match w.who, w.req with
  | .home, _ => go s
  | .caching b, .wbM =>
    let cmp := fun (s : State) => fabSend s .completion (lineDie w.line) 4 w.line b
    if (s.dirE w.line).dst = 2 ∧ (s.dirE w.line).vec = bitMask b then placed s (fun s => cmp (homeGiveUp s w b)) else cmp s
  | .caching b, .evE => fabSend (homeGiveUp s w b) .completion (lineDie w.line) 4 w.line b
  | _, _ => match reqCheck s w with
    | (some r, s) => refuseReq s w r
    | (none, s) => placed s go

/-- The waiting requests of privileged agents for a line, taken up while the line is free; by fuel (R278). -/
def homeNextF : Nat → State → Nat → State
  | 0, s, _ => s
  | n + 1, s, line =>
    if (s.txn line).isSome then s
    else match s.coh.waits.find? (fun w => decide (w.line = line) && !(w.who.retries)) with
    | none => s
    | some w => homeNextF n (homeAccept { s with coh := { s.coh with waits := s.coh.waits.erase w } } w) line

def homeNext (s : State) (line : Nat) : State := homeNextF (s.coh.waits.length + 1) s line

/-- The request that an open transaction stands for. -/
def txnReq (line : Nat) (t : Txn) : WaitReq :=
  { line := line, req := t.req, who := t.who, ctx := t.ctx, payload := t.payload, tick := t.since }

/-- After a home's places or lines have become free: the requests put aside for want of a place are looked at again, then the waiting
ones of privileged agents (R299). -/
def wakeHomes (s : State) : State :=
  let s := s.coh.txns.foldl (fun s (e : Nat × Option Txn) => match s.txn e.1 with
    | some t => if t.room then homeAccept (s.setTxn e.1 none) (txnReq e.1 t) else s
    | none => s) s
  s.coh.waits.foldl (fun s w => homeNext s w.line) s

/-- Entries of a home's tracker that a cluster or the CXL.cache agent holds, and how many are reserved for it (R278). -/
def entriesOf (s : State) (die b : Nat) : Nat :=
  let mine := fun (w : Requester) => match w with | .caching c => decide (c = b) | .unit (.core h) => decide (h / 8 = b) | _ => false
  (s.coh.waits.filter (fun w => decide (lineDie w.line = die) && mine w.who)).length +
    (s.coh.txns.filter (fun e => decide (lineDie e.1 = die) && (match e.2 with | some t => mine t.who | none => false))).length

def entriesFor (b : Nat) : Nat := if b = 13 then 64 else 32

/-- A request of a privileged agent arrives: it has a tracker entry and waits there for the line (R278). -/
def homeRequest (s : State) (line : Nat) (req : HomeReq) (b ctx : Nat) (p : Payload) : State :=
  homeNext (addWait s { line := line, req := req, who := .caching b, ctx := ctx, payload := p, tick := s.tick.toNat }) line

/-- A request of a retry agent arrives: accepted, or refused with a reservation where the line is busy or no entry is free (R279). -/
def retryRequest (s : State) (line : Nat) (req : HomeReq) (who : Requester) (ctx : Nat) (p : Payload) : State :=
  let w : WaitReq := { line := line, req := req, who := who, ctx := ctx, payload := p, tick := s.tick.toNat }
  if (s.txn line).isSome || trackerFull s line then addRetry s w else homeAccept s w

/-! ### Responses at the home -/

/-- A snooped agent's response (R282): when the last has come, the transaction is answered. -/
def homeResponse (s : State) (line b : Nat) (r : SnpRsp) : State :=
  match s.txn line with
  | none => s
  | some t =>
    let e := s.dirE line
    let homeTarget := match t.req with | .writePart => true | .atomic => true | .drop => true | _ => false
    let s := match r with
      | .rspS dirty =>
        let s := s.setDir line { e with dst := 1, dirty := e.dirty || dirty }
        if dirty then dropStale s line else s
      | .rspFwd =>
        let s := s.setDir line { e with dst := 0, vec := 0, dirty := e.dirty || homeTarget }
        if homeTarget then dropStale s line else s
      | .invAck =>
        let v := e.vec &&& ~~~(bitMask b)
        s.setDir line { e with dst := if e.dst = 2 ∨ v = 0 then 0 else e.dst, vec := v }
    let t := { t with owed := t.owed &&& ~~~(bitMask b), unsent := t.unsent &&& ~~~(bitMask b),
                      rsps := t.rsps.filter (fun x => decide (x.1 ≠ b)) }
    if t.owed = 0 then wakeHomes (homeReply s line t) else s.setTxn line (some t)

/-! ### An agent answers a snoop (Table 9.4) -/

/-- Data forwarded by a caching agent to the target of a snoop: the requester, or the home; the CXL.cache agent's reach the requester
through the home (R277). -/
def forwardTo (s : State) (line b : Nat) (g : Grant) : State :=
  match s.txn line with
  | none => s
  | some t => match t.who, t.req with
    | _, .writePart => s
    | _, .atomic => s
    | .caching c, _ => (sendData s line c g (if b = 13 then lineDie line else 4)).setTxn line (some { t with replied := true })
    | .retry a, _ => (answer s a line 0 (lineData s line)).setTxn line (some { t with replied := true })
    | .unit _, _ => s
    | .home, _ => s

/-- A response set on its way to the home. -/
def respond (s : State) (line b : Nat) (r : SnpRsp) : State :=
  match s.txn line with
  | none => s
  | some t => fabSend (s.setTxn line (some { t with rsps := t.rsps ++ [(b, r)] })) .response 4 (lineDie line) line b

/-- What a snoop does at an agent; none where Table 9.4 says that it cannot occur. -/
def snoopAt (s : State) (line b : Nat) (sn : Snoop) : Option State :=
  let a := s.al line b
  let go := fun (s : State) (st : CSt) => s.setAl line b { s.al line b with st := st }
  match a.st, sn with
  | .e, .snpS => some (respond (go (forwardTo s line b .s) .s) line b (.rspS false))
  | .m, .snpS => some (respond (go (forwardTo s line b .s) .s) line b (.rspS true))
  | .xia, .snpS => some (respond (go (forwardTo s line b .s) .iia) line b (.rspS true))
  | .e, .snpX => some (respond (go (forwardTo s line b .m) .i) line b .rspFwd)
  | .m, .snpX => some (respond (go (forwardTo s line b .m) .i) line b .rspFwd)
  | .xia, .snpX => some (respond (go (forwardTo s line b .m) .iia) line b .rspFwd)
  | .e, .snpXI => some (respond (go s .i) line b .invAck)
  | .m, .snpXI => some (respond (go s .i) line b .invAck)
  | .xia, .snpXI => some (respond (go s .iia) line b .invAck)
  | .i, .snpInv => some (respond s line b .invAck)
  | .s, .snpInv => some (respond (go s .i) line b .invAck)
  | .isd, .snpInv => some (respond (go s .isdi) line b .invAck)
  | .imd, .snpInv => some (respond s line b .invAck)
  | .sma, .snpInv => some (respond (go s .imd) line b .invAck)
  | .isd, sn => some (s.setAl line b { a with deferred := some sn })
  | .imd, sn => some (s.setAl line b { a with deferred := some sn })
  | .sma, sn => some (s.setAl line b { a with deferred := some sn })
  | _, _ => none

/-! ### Dead agents (R288 to R290) -/

/-- The home's own copy becomes current where the owner's is lost. -/
def restoreStale (s : State) (line : Nat) : State :=
  match Tab.get none s.coh.stale line with
  | some old => dropStale (putLine s line old) line
  | none => s

/-- One tag reclaimed from a dead agent (R290). -/
def reclaimTag (s : State) (line b : Nat) : State :=
  let e := s.dirE line
  if !(e.vec.getLsbD b) then s
  else if e.dst = 2 then ashList ((restoreStale s line).setDir line { e with dst := 0, vec := 0 }) line b
  else s.setDir line { e with vec := e.vec &&& ~~~(bitMask b) }

/-- A transaction that waited on a dead owner proceeds against the listed line (R290, R292). -/
def retryTxn (s : State) (line : Nat) (t : Txn) : State := homeAccept (s.setTxn line none) (txnReq line t)

/-- Whether a request is a cluster's or the CXL.cache agent's own. -/
def Requester.of (b : Nat) : Requester → Bool
  | .caching c => decide (c = b)
  | .unit (.core h) => decide (h / 8 = b)
  | _ => false

/-- An open transaction of a dead agent: its entry is freed, and the home waits on its own account for the snoops that others still
owe. -/
def orphanTxn (s : State) (line : Nat) (t : Txn) : State :=
  if t.owed = 0 then s.setTxn line none
  else s.setTxn line (some { t with who := .home, req := if t.asked = some .snpS then .clean else .drop, ctx := 0, payload := {} })

/-- A caching agent declared dead (Table 9.7): its requests and entries are dropped, the snoops it owes are answered, its tags are
reclaimed, and the walks of the homes begin (log 23). -/
def declareDead (s : State) (b : Nat) : State :=
  if s.coh.dead.getLsbD b then s
  else
    let m := bitMask b
    let back := s.coh.txns.foldl (fun (l : List (Nat × Nat × SnpRsp)) (e : Nat × Option Txn) => match e.2 with
      | some t => l ++ (t.rsps.filter (fun x => decide (x.1 = b) || t.who.of b)).map (fun x => (e.1, x.1, x.2))
      | none => l) []
    let s := { s with coh := { s.coh with dead := s.coh.dead ||| m, walking := s.coh.walking ||| m,
                                          waits := s.coh.waits.filter (fun w => !(w.who.of b)) } }
    let s := back.foldl (fun s (x : Nat × Nat × SnpRsp) => homeResponse s x.1 x.2.1 x.2.2) s
    let s := s.coh.txns.foldl (fun s (e : Nat × Option Txn) => match s.txn e.1 with
      | some t => if t.who.of b then orphanTxn s e.1 t else s
      | none => s) s
    let s := fabDrop s (fun x => decide (x.agent = b))
    let s := { s with coh := { s.coh with agents := s.coh.agents.filter (fun (e : Nat × ALine) => decide (e.1 % 16 ≠ b)),
                                          hostLines := s.coh.hostLines.filter (fun (e : Nat × LineData) => decide (e.1 % 16 ≠ b)) }
                      reqs := s.reqs.filter (fun (r : OutReq) => decide (r.agent ≠ Agent.cluster b)) }
    let owing := s.coh.txns.filter (fun (e : Nat × Option Txn) =>
      match e.2 with | some t => t.owed.getLsbD b | none => false)
    let lines := (s.coh.dir.filter (fun (e : Nat × DirEnt) => e.2.vec.getLsbD b)).map (·.1)
    let own := owing.filter (fun (e : Nat × Option Txn) => decide ((s.dirE e.1).dst = 2))
    let shr := owing.filter (fun (e : Nat × Option Txn) => decide ((s.dirE e.1).dst ≠ 2))
    let s := lines.foldl (fun s l => reclaimTag s l b) s
    let s := own.foldl (fun s (e : Nat × Option Txn) => match e.2 with | some t => retryTxn s e.1 t | none => s) s
    wakeHomes (shr.foldl (fun s (e : Nat × Option Txn) => homeResponse s e.1 b .invAck) s)

/-- An event that Table 9.4 says cannot occur: logged with the line, and the agent is dead (R283). -/
def protoFault (s : State) (line b : Nat) : State :=
  declareDead (s.logE { src := .hth, unit := b, tag := 283, addr := line * 128 }) b

end Sys2Proof.Machine
end

