-- ==== Sys2Proof/Machine/Cores.lean ====
section
/-! DEFINITION. Loads, stores, AMOs and cbo.zero of the chimney cores (R238 to R247, R292), and the access side of the line
states of their clusters (Table 9.4). -/

namespace Sys2Proof.Machine

/-- The cluster of a hart: its sharer bit (Table 9.1). -/
def clusterOf (h : Nat) : Nat := h / 8

/-! ### Lines of client-host memory in a cluster (T5: Table 5.1, R287) -/

/-- Whether a physical address is client-host memory that clusters reach through the CXL.cache agent of port 0. -/
def isHosted (s : State) (pa : Nat) : Bool := match placeOf pa with | .host h _ => decide (h = 0) && (s.host 0).cxlup | _ => false

/-- The number of the line of an address that a cluster may hold: main memory under its direct name, or a line of the CXL host. -/
def cacheLine (s : State) (pa : Nat) : Option Nat :=
  match placeOf pa with
  | .main _ d => some (lineOf d)
  | _ => if isHosted s pa then some (lineOf pa) else none

/-- A cluster's copy of a line of the host. -/
def hostedData (s : State) (line b : Nat) : LineData := Tab.get 0 s.coh.hostLines (line * 16 + b)
def setHosted (s : State) (line b : Nat) (d : LineData) : State :=
  { s with coh := { s.coh with hostLines := Tab.put 0 s.coh.hostLines (line * 16 + b) d } }

/-- The bytes of an extent as a cluster that holds its lines has them. -/
def coreBytes (s : State) (b pa n : Nat) : List Byte :=
  ((chunksOf pa n).map (fun c =>
    if isHosted s c.1 then ((toBytes 128 (hostedData s (lineOf c.1) b).toNat).drop (c.1 % 128)).take c.2
    else rawRead s c.1 c.2)).flatten

/-- Bytes stored to lines that a cluster holds in M. -/
def coreWrite (s : State) (b pa : Nat) (bs : List Byte) : State :=
  ((chunksOf pa bs.length).foldl (fun (p : State × List Byte) c =>
    ((if isHosted p.1 c.1 then
        let old := toBytes 128 (hostedData p.1 (lineOf c.1) b).toNat
        let o := c.1 % 128
        setHosted p.1 (lineOf c.1) b (BitVec.ofNat 1024 (ofBytes (old.take o ++ p.2.take c.2 ++ old.drop (o + c.2))))
      else rawWrite p.1 c.1 (p.2.take c.2)), p.2.drop c.2)) (s, bs)).1

/-! ### Loads and stores at a line (Table 9.4, first two columns) -/

/-- A load meets a line: true on a hit; otherwise it waits, and from I, once the cluster has a place for the line, the request RdS is
sent in its context. -/
def agentLoad (s : State) (line bit ctx : Nat) (w : WaitAcc) : Bool × State :=
  let a := s.al line bit
  let wait := fun (s : State) (a : ALine) => s.setAl line bit { a with waiting := a.waiting ++ [w] }
  match a.st with
  | .s | .e | .m | .sma => (true, s)
  | .i => match agentPlace s bit line with
    | some s => (false, wait s { a with st := .isd, ctx := some ctx })
    | none => (false, wait s a)
  | _ => (false, wait s a)

/-- A store meets a line: true once the line is M, with the home's copy set aside at the first write; otherwise it waits, and from I
or S RdX or Upg is sent in its context. -/
def agentStore (s : State) (line bit ctx : Nat) (w : WaitAcc) : Bool × State :=
  let a := s.al line bit
  let wait := fun (s : State) (a : ALine) =>
    s.setAl line bit { a with waiting := if a.waiting.contains w then a.waiting else a.waiting ++ [w] }
  let first := fun (s : State) => if line * 128 < mainSize then keepStale s line else s
  match a.st with
  | .m => (true, first s)
  | .e => (true, (first s).setAl line bit { a with st := .m })
  | .i => match agentPlace s bit line with
    | some s => (false, wait s { a with st := .imd, ctx := some ctx })
    | none => (false, wait s a)
  | .s => (false, wait s { a with st := .sma, ctx := some ctx })
  | _ => (false, wait s a)

/-! ### Loads -/

/-- A load's value delivered to its hart, under the hart's own buffered stores (R239). -/
def deliverLoad (s : State) (h pa : Nat) (signed : Bool) (bs : List Byte) : State :=
  let v := extend signed (forward (s.ht h).sb pa bs)
  (s.setHt h { s.ht h with loaded := v }).emit (.coreData h v)

/-- The first line of an extent on which the cluster's load does not hit. -/
def loadMiss (s : State) (bit : Nat) : List (Nat × Nat) → Option Nat
  | [] => none
  | c :: cs => match cacheLine s c.1 with
    | some line => match (s.al line bit).st with
      | .s | .e | .m | .sma => loadMiss s bit cs
      | _ => some line
    | none => loadMiss s bit cs

/-- Whether an access meets the overflow bit of its context at a line's home: every access to a line homed on the die, wherever the line
is held (R294, log 94). -/
def ovfMeets (s : State) (ctx pa n : Nat) : Bool :=
  (chunksOf pa n).any (fun c => match placeOf c.1 with
    | .main _ d => Tab.get false s.coh.ashOvf (lineDie (lineOf d) * 4096 + ctx)
    | _ => false)

/-- A core's load of cacheable memory: its value, or its first missing line asked for. -/
def loadCached (s : State) (h : Nat) (va : W64) (pa n : Nat) (signed : Bool) : State :=
  let ctx := (s.ht h).dctx.toNat
  if ovfMeets s ctx pa n then coreFail s h (.lost true 0 0) .read va pa
  else match loadMiss s (clusterOf h) (chunksOf pa n) with
  | none => deliverLoad s h pa signed (coreBytes s (clusterOf h) pa n)
  | some line => (agentLoad s line (clusterOf h) ctx (.load h va pa n signed)).2

/-- A request marked as a sign-extending load's. -/
def markSigned (s : State) (id : Nat) (signed : Bool) : State :=
  { s with reqs := s.reqs.map (fun r => if r.id = id then { r with signed := signed } else r) }

/-- One load (R146, R238, R29): of T5 through the cluster where the CXL.cache agent of port 0 serves it (Table 5.1). -/
def coreLoadAt (s : State) (h : Nat) (va : W64) (pa n : Nat) (signed : Bool) : State :=
  let ctx := (s.ht h).dctx.toNat
  match placeOf pa with
  | .main _ _ => loadCached s h va pa n signed
  | .remote p off =>
    if !(remoteBacked s p) then coreFail s h (.decode 1) .read va pa
    else match askRemote s (.core h) ctx va.toNat p off (.read n) with
    | some (id, s) => markSigned s id signed
    | none => coreFail s h .targetLost .read va pa
  | .host l off =>
    if isHosted s pa then loadCached s h va pa n signed
    else if hostBacked s l then
      let (id, s) := askHostRead s (.core h) ctx va.toNat l off n
      markSigned s id signed
    else coreFail s h (.decode 1) .read va pa
  | _ => match physRead s (.core h) ctx pa n with
    | (.ok, bs, s) => deliverLoad s h pa signed bs
    | (.wait, _, s) => s
    | (r, _, s) => coreFail s h r .read va pa

def isDevice (pa : Nat) : Bool := match placeOf pa with | .regs _ => true | .bell _ => true | _ => false

/-- CORE_LOAD. Register and doorbell space is DEVICE_SPACE_ACCESS's. It does not issue while an earlier load of its line waits, or
while its route is being changed: the sender offers it again. -/
def execCoreLoad (h : HartNo) (va : W64) (pa : BitVec 52) (lg : BitVec 2) (signed : Bool) (s : State) : Res :=
  if isDevice pa.toNat then .fault .illFormed
  else if !(hartReady s h) then .refused .agentNotReady
  else if behindLoad s h pa.toNat (2 ^ lg.toNat) then .next s
  else .next (settleAll (coreLoadAt s h va pa.toNat (2 ^ lg.toNat) signed))

/-! ### Stores -/

/-- CORE_STORE: into the store buffer, or stalled while it is full (R240). -/
def execCoreStore (h : HartNo) (va : W64) (pa : BitVec 52) (lg : BitVec 2) (value : W64) (s : State) : Res :=
  let x := s.ht h
  let e : SbEnt := { va := va, pa := pa.toNat, size := 2 ^ lg.toNat, value := value, ctx := x.dctx.toNat }
  if isDevice pa.toNat then .fault .illFormed
  else if !(hartReady s h) then .refused .agentNotReady
  else if 32 ≤ x.sb.length || behindLoad s h pa.toNat (2 ^ lg.toNat) then .next s
  else .next (pumpSb (s.setHt h { x with sb := x.sb ++ [e] }) (.core h))

/-- The lines a store needs in M: true when all are, otherwise the requests for the missing ones are sent. -/
def storeLines (s : State) (h ctx : Nat) : List (Nat × Nat) → Bool × State
  | [] => (true, s)
  | c :: cs => match cacheLine s c.1 with
    | some line =>
      let (hit, s) := agentStore s line (clusterOf h) ctx (.store h)
      let (rest, s) := storeLines s h ctx cs
      (hit && rest, s)
    | none => storeLines s h ctx cs

/-- The oldest store of a hart performed if it can be; a store that fails ends in its trap. Stores to other modules
leave on their acknowledgement (R253). -/
def coreStoreTry (s : State) (h : HartNo) : State :=
  let w := Holder.core h
  match (s.ht h).sb with
  | [] => s
  | e :: rest =>
    let gone := fun (s : State) => hartDrained (pumpSb (setSb s w rest) w) h
    let bs := toBytes e.size e.value.toNat
    let cached := fun (s : State) => match storeLines s h e.ctx (chunksOf e.pa e.size) with
      | (true, s) => gone (coreWrite s (clusterOf h) e.pa bs)
      | (false, s) => s
    match placeOf e.pa with
    | .main _ _ =>
      if ovfMeets s e.ctx e.pa e.size then coreFail (gone s) h (.lost true 0 0) .write e.va e.pa else cached s
    | .host l off =>
      if isHosted s e.pa then cached s
      else if (s.host l).lost then gone (setLost s w (holderLost s w ++ [lostOf s e]))
      else if hostBacked s l then gone (hostPosted s l off e.ctx bs)
      else coreFail (gone s) h (.decode 1) .write e.va e.pa
    | .remote p _ => if remoteBacked s p then hartDrained (pumpSb s w) h else coreFail (gone s) h (.decode 1) .write e.va e.pa
    | _ => match physWrite s (.core h) e.ctx e.pa bs with
      | (.ok, s) => gone s
      | (.wait, s) => s
      | (r, s) => coreFail (gone s) h r .write e.va e.pa

/-! ### AMO, LR, SC -/

/-- A reservation of an agent on a line (R247). -/
def setResv (s : State) (a : Agent) (line : Nat) : State := { s with resv := Tab.put 0 s.resv (agentKey a) (line + 1) }
def clearResv (s : State) (a : Agent) : State := { s with resv := Tab.put 0 s.resv (agentKey a) 0 }
def hasResv (s : State) (a : Agent) (line : Nat) : Bool := decide (Tab.get 0 s.resv (agentKey a) = line + 1)

/-- An AMO, LR or SC on package memory: the value for rd (R245 to R247). LR and SC need main memory. -/
def amoDo (s : State) (a : Agent) (ctx pa n : Nat) (op : AmoOp) (v : Nat) : Resp × Nat × State :=
  match op with
  | .amo o => physAtomic s a ctx pa n o v 0
  | .lr => match checkExtent s a ctx .read pa n with
    | (.ok, s) => (.ok, ofBytes (rawRead s pa n), setResv s a (lineOf (canonPa pa)))
    | (r, s) => (r, 0, s)
  | .sc =>
    if hasResv s a (lineOf (canonPa pa)) then
      match physAtomic (clearResv s a) a ctx pa n .swap v 0 with
      | (.ok, _, s) => (.ok, 0, s)
      | x => x
    else (.ok, 1, clearResv s a)

/-- Whether an operation may reach a tier (R247): LR and SC only main memory, none T5, none device space. -/
def amoTier (pa : Nat) (op : AmoOp) : Bool :=
  match placeOf pa with
  | .main _ _ => true
  | .near _ _ => (match op with | .amo _ => true | _ => false)
  | .spad _ _ => (match op with | .amo _ => true | _ => false)
  | .remote _ _ => (match op with | .amo _ => true | _ => false)
  | _ => false

def amoAcc : AmoOp → Acc3 | .lr => .read | _ => .atomic

/-- A hart whose aq bit orders later accesses behind an AMO that has no answer yet (R238, R250). -/
def acquireWait (s : State) (h : Nat) (aq : Bool) : State :=
  if aq && !(hartLoads s h).isEmpty then s.setHt h { s.ht h with fence := some { stores := false, loads := true } } else s

/-- A core's AMO, or the trap for one it may not make: LR code 5, SC and AMO code 7, in device space whatever its alignment (R31,
R247). -/
def coreAmoAt (s : State) (h : HartNo) (va : W64) (pa n : Nat) (op : AmoOp) (v : Nat) : State :=
  let ctx := (s.ht h).dctx.toNat
  if isDevice pa then coreFail s h (.decode 3) (amoAcc op) va pa
  else if pa % n ≠ 0 then takeTrap s h (if op = .lr then 4 else 6) va
  else if !(amoTier pa op) then coreFail s h (.decode 1) (amoAcc op) va pa
  else match placeOf pa, op with
  | .remote p off, .amo o =>
    if !(remoteBacked s p) then coreFail s h (.decode 1) .atomic va pa
    else match askRemote s (.core h) ctx va.toNat p off (.atomic o n v 0) with
    | some (_, s) => s
    | none => coreFail s h .targetLost .atomic va pa
  | _, _ => match amoDo s (.core h) ctx pa n op v with
    | (.ok, old, s) =>
      let r := extend (decide (op ≠ .sc)) (toBytes n old)
      (s.setHt h { s.ht h with loaded := r }).emit (.coreData h r)
    | (.wait, _, s) => s
    | (r, _, s) => coreFail s h r (amoAcc op) va pa

/-- CORE_AMO (R245 to R247). With rl it waits for the earlier stores and loads (R238, R252); a buffered store to its bytes leaves
first; a line that its home holds busy makes it wait. With aq nothing later issues before it is done. -/
def execCoreAmo (h : HartNo) (va : W64) (pa : BitVec 52) (wide : Bool) (op : AmoOp) (value : W64) (aq rl : Bool)
    (s : State) : Res :=
  let x := s.ht h
  let n := if wide then 8 else 4
  if op = .amo .cas then .fault .illFormed
  else if !(hartReady s h) then .refused .agentNotReady
  else if (rl || isDevice pa.toNat) && !x.sb.isEmpty then .next s
  else if rl && !(hartLoads s h).isEmpty then .next s
  else if sbTouches x.sb pa.toNat n || behindLoad s h pa.toNat n then .next s
  else
    let s := acquireWait (coreAmoAt s h va pa.toNat n op value.toNat) h aq
    .next (settleAll (wakeHomes (if rl || isDevice pa.toNat then deliverLost s h else s)))

/-- CBO_ZERO: a full line of zeros written at its home (R292). Lines of other modules and hosts and device space are not
cacheable: access fault (log 20). -/
def execCboZero (h : HartNo) (va : W64) (pa : BitVec 52) (s : State) : Res :=
  let x := s.ht h
  let a := pa.toNat / 128 * 128
  if !(hartReady s h) then .refused .agentNotReady
  else if sbTouches x.sb a 128 || behindLoad s h a 128 then .next s
  else if isDevice a && !x.sb.isEmpty then .next s
  else match physWrite s (.core h) x.dctx.toNat a (List.replicate 128 0) with
  | (.ok, s) => .next (settleAll (wakeHomes s))
  | (.wait, s) => .next s
  | (r, s) =>
    let s := coreFail s h r .write va pa.toNat
    .next (settleAll (if isDevice a then deliverLost s h else s))

/-- DEVICE_CONTEXT_WRITE: machine-mode firmware writes CSR 0x7C0 (R300). -/
def execDeviceContextWrite (h : HartNo) (ctx : Ctx) (s : State) : Res :=
  if !(hartReady s h) then .refused .agentNotReady
  else .next (s.setHt h { s.ht h with dctx := ctx })

end Sys2Proof.Machine
end

