-- ==== Sys2Proof/Machine/Caching.lean ====
section
/-! DEFINITION. Coherence messages as they arrive at homes and agents (chapter 9, Tables 9.3 and 9.4), the ash list's registers,
write-backs and the reclaim of dead agents. -/

namespace Sys2Proof.Machine

/-! ### Waiting accesses -/

def serveOne (s : State) (w : WaitAcc) : State :=
  match w with
  | .load h va pa n sg => loadCached s h va pa n sg
  | .store h => if hh : h < 96 then coreStoreTry s ⟨h, hh⟩ else s

/-- The barriers of the harts whose loads have waited, looked at again (R238, R250). -/
def barriers (s : State) (ws : List WaitAcc) : State :=
  ws.foldl (fun s w => match w with | .load h _ _ _ _ => hartDrained s h | .store _ => s) s

/-- The waiting accesses of a line tried again. -/
def serveWaiting (s : State) (line b : Nat) : State :=
  let a := s.al line b
  barriers (a.waiting.foldl serveOne (s.setAl line b { a with waiting := [] })) a.waiting

/-- The accesses that wait for a place in their cluster tried again (log 140). -/
def serveRoom (s : State) (b : Nat) : State :=
  s.coh.agents.foldl (fun s (e : Nat × ALine) =>
    let l := e.1 / 16
    if e.1 % 16 = b ∧ (s.al l b).st = .i ∧ (s.al l b).waiting ≠ [] then serveWaiting s l b else s) s

/-- The bytes of an extent, those of one line taken from data on its way. -/
def overlay (s : State) (line b : Nat) (d : LineData) (pa n : Nat) : List Byte :=
  (coreBytes s b pa n).zipIdx.map (fun x =>
    let k := canonPa (pa + x.2)
    if k / 128 = line then BitVec.ofNat 8 (field d.toNat (8 * (k % 128)) 8) else x.1)

/-- The waiting loads of a line that was invalidated on the way complete with the data that came; stores are reissued
(Table 9.4, IS_DI). -/
def serveStale (s : State) (line b : Nat) (d : LineData) : State :=
  let a := s.al line b
  let loads := a.waiting.filter (fun w => match w with | .load _ _ _ _ _ => true | _ => false)
  let stores := a.waiting.filter (fun w => match w with | .load _ _ _ _ _ => false | _ => true)
  let s := s.setAl line b { a with st := .s, waiting := [], incoming := none }
  let s := loads.foldl (fun s w => match w with
    | .load h va pa n sg =>
      (match loadMiss s b (chunksOf pa n) with
       | none => deliverLoad s h pa sg (overlay s line b d pa n)
       | some other => (agentLoad s other b (s.ht h).dctx.toNat (.load h va pa n sg)).2)
    | .store _ => s) s
  barriers (stores.foldl serveOne (s.setAl line b { s.al line b with st := .i, ctx := none })) loads

/-! ### Requests of caching agents -/

/-- Whether a request of an agent for a line is under way at its home or answered. -/
def requestOpen (s : State) (line b : Nat) : Bool :=
  let me := Requester.caching b
  isWaiting s line me || (match s.txn line with | some t => decide (t.who = me) | none => false) ||
    (s.al line b).incoming.isSome || (s.al line b).ackDue

/-- Whether a cluster's request carries the context of the access that sent it, or, sent ahead of any access, that of one of the
cluster's harts (R300); the host's carries that of its HDM range. -/
def requestCtx (s : State) (line b ctx : Nat) : Bool :=
  match (s.al line b).ctx with
  | some c => decide (c = ctx)
  | none => decide (12 ≤ b) || (List.range 8).any (fun i => decide ((s.ht (8 * b + i)).dctx.toNat = ctx))

/-- A request arrives: an agent in a stable state that can send it enters the request's transient state; a dead agent's is refused
(R289); one beyond the agent's entries at the home has not been sent yet (R278). -/
def requestArrives (s : State) (b line ctx : Nat) (req : HomeReq) (froms : List CSt) (st : CSt) (p : Payload) : Res :=
  let a := s.al line b
  if s.coh.dead.getLsbD b then .next s
  else if requestOpen s line b || !(froms.contains a.st) then .refused .notPending
  else if entriesFor b ≤ entriesOf s (lineDie line) b then .next s
  else
    let s := if st = .i then s else s.setAl line b { a with st := st }
    .next (settleAll (homeRequest s line req b ctx p))

/-- A read request of a cluster or the host for a line: from I, or from S where the copy has been dropped without notice (R273, Table 9.4
Replace); a cluster's needs a place for the line. -/
def readArrives (s : State) (b line ctx : Nat) (req : HomeReq) (froms : List CSt) (st : CSt) : Res :=
  let a := s.al line b
  if !(requestCtx s line b ctx) then .refused .notPending
  else if a.st = .i then
    match agentPlace s b line with
    | some s => requestArrives s b line ctx req froms st {}
    | none => .next s
  else requestArrives s b line ctx req froms st {}

/-- Both copies of a tag have failed on the read for a request: the set stops, the record goes to the FRING of context 0, a
fatal event to the log (R564). -/
def tagsFailed (s : State) (line : Nat) : State :=
  let s := { s with coh := { s.coh with stopped := Tab.put false s.coh.stopped (setKey line) true } }
  let a := Agent.home (lineDie line)
  let s := s.logE { src := .hth, sev := 3, unit := lineDie line, kind := 0x17, code := 3, addr := line * 128 }
  postFring s (qFault (lineDie line)) 0
    (faultRec 0x17 3 0 a false none s.tick.toNat (line * 128) [(256, 3, 0), (264, 8, 8)])

/-- SnpInv at one sharer (Table 9.4, last snoop column; the last-level cache drops its clean copy). -/
def invSharer (s : State) (line b : Nat) : State :=
  let a := s.al line b
  match a.st with
  | .s => s.setAl line b { a with st := .i }
  | .isd => s.setAl line b { a with st := .isdi }
  | .sma => s.setAl line b { a with st := .imd }
  | _ => s

def invSharers (s : State) (line : Nat) (v : BitVec 14) : State :=
  (List.range 14).foldl (fun s b => if v.getLsbD b then invSharer s line b else s) s

/-- The system cache's data of a line are beyond correction (Table 20.1): a dirty line is listed with AGENT 0xF and DST becomes
I; a clean one is fetched again. What the line then holds is free (log 53). -/
def cacheDataLost (s : State) (line : Nat) : State :=
  let e := s.dirE line
  if e.dst = 2 ∨ e.dirty = false then s
  else
    let (v, s) := takeFree 1024 s
    let s := (invSharers (putLine s line v) line e.vec).setDir line { e with dst := 0, vec := 0, dirty := false }
    ashList { s with coh := { s.coh with evict := s.coh.evict.filter (fun l => decide (l ≠ line)) } } line 15

/-- Whether a request's line is looked up as it arrives: its owner check passes, and no transaction is open (R327). -/
def looksUp (s : State) (who : Requester) (ctx line : Nat) : Bool :=
  (lineReach s (reqAgent who) (line * 128)).isNone && mainAllows s (line * 128) ctx && (s.txn line).isNone

/-- A request of a retry agent's arrives, once while it is under way. -/
def retryBusy (s : State) (line : Nat) (r : Requester) : Bool :=
  isWaiting s line r || (match s.txn line with | some t => decide (t.who = r) | none => false)

/-! ### Requests for lines of the CXL host (R287) -/

/-- A cluster's request for a line of the host, carried out by the CXL.cache agent as a D2H request: what 7 to read it shared, 8 to own
it. Its answer is a completion of the host's; the codes are the model's (log 141). -/
def d2hRequest (s : State) (b line ctx what : Nat) (st : CSt) : State :=
  let id := s.nextReq
  let r : OutReq := { id := id, agent := .cluster b, kind := .read, ctx := ctx, va := 0, target := 0, toHost := true, addr := line * 128,
                      len := 128, since := s.elapsed }
  let s := s.setAl line b { s.al line b with st := st }
  cxlSend (countHost { s with nextReq := id + 1, reqs := s.reqs ++ [r] } 0 ctx 128) what (line * 128) []

/-- A cluster's read request, or upgrade, for a line of the host. -/
def d2hArrives (s : State) (b line ctx what : Nat) (froms : List CSt) (st : CSt) : Res :=
  let a := s.al line b
  let asked := s.reqs.any (fun r => decide (r.agent = .cluster b) && decide (r.addr = line * 128))
  if 12 ≤ b then .fault .illFormed
  else if s.coh.dead.getLsbD b then .next s
  else if asked || a.incoming.isSome || a.ackDue || !(froms.contains a.st) || !(requestCtx s line b ctx) then .refused .notPending
  else if a.st = .i then
    match agentPlace s b line with
    | some s => .next (d2hRequest s b line ctx what st)
    | none => .next s
  else .next (d2hRequest s b line ctx what st)

/-- A cluster's line of the host given up: to the host with its data (what 10) or without (what 11); Cmp follows. -/
def d2hGiveUp (s : State) (b line : Nat) (from_ : CSt) (data : Option LineData) : Res :=
  if (s.al line b).st ≠ from_ then .refused .notPending
  else
    let s := setHosted (s.setAl line b { s.al line b with st := .xia }) line b 0
    let bs := match data with | some d => toBytes 128 d.toNat | none => []
    .next (cxlSend (countHost s 0 0 bs.length) (if data.isSome then 10 else 11) (line * 128) bs)

/-- What the host gets from a cluster for a snoop (Table 9.4): what 12 where it keeps S, 13 where it gives the line up, with the data of an
M line; nothing yet where the snoop is deferred. -/
def hostedAnswer (s : State) (line b : Nat) (sn : Snoop) : State :=
  let dirty := match (s.al line b).st with | .m => true | .xia => true | _ => false
  let bs := if dirty && decide (sn ≠ .snpXI) then toBytes 128 (hostedData s line b).toNat else []
  match (s.al line b).st, sn with
  | .isd, .snpInv | .imd, .snpInv | .sma, .snpInv => cxlSend s 13 (line * 128) []
  | .isd, _ | .imd, _ | .sma, _ => s
  | _, .snpS => cxlSend s 12 (line * 128) bs
  | _, _ => cxlSend s 13 (line * 128) bs

/-- A snoop of the host's at a cluster (R287), in the states of Table 9.4. -/
def hostedSnoop (s : State) (line b : Nat) (sn : Snoop) : Option State :=
  match snoopAt (hostedAnswer s line b sn) line b sn with
  | some s => some (match (s.al line b).st with | .i => setHosted s line b 0 | _ => s)
  | none => none

/-- RDS (R283, R284). The last-level cache's comes under the retry protocol (Table 9.1). -/
def execRds (bit : CacheBit) (ctx : Ctx) (line : BitVec 45) (find : CacheFind) (s : State) : Res :=
  let l := line.toNat
  let who := Requester.caching bit
  let st := (s.al l bit).st
  let s := if !(looksUp s who ctx.toNat l) then s else match find with
    | .clean => s | .dataLost => cacheDataLost s l | .tagsLost => tagsFailed s l
  if isHosted s (l * 128) then d2hArrives s bit l ctx.toNat 7 [.i, .s, .isd, .isdi] (if st = .isdi then .isdi else .isd)
  else if bit = 12 then
    if retryBusy s l who || (s.al l 12).incoming.isSome then .refused .notPending
    else match agentPlace s 12 l with
      | some s => .next (settleAll (retryRequest s l .rdS who ctx.toNat {}))
      | none => .next s
  else readArrives s bit l ctx.toNat .rdS [.i, .s, .isd, .isdi] (if st = .isdi then .isdi else .isd)

/-- RDX. The last-level cache, which holds I and S only, never sends it (Table 9.1). -/
def execRdx (bit : CacheBit) (ctx : Ctx) (line : BitVec 45) (s : State) : Res :=
  if bit = 12 then .fault .illFormed
  else if isHosted s (line.toNat * 128) then d2hArrives s bit line.toNat ctx.toNat 8 [.i, .s, .imd] .imd
  else readArrives s bit line.toNat ctx.toNat .rdX [.i, .s, .imd] .imd

/-- UPG: from S or SM_A, or from IM_D where an invalidation has overtaken it (R284). -/
def execUpg (bit : CacheBit) (ctx : Ctx) (line : BitVec 45) (s : State) : Res :=
  if bit = 12 then .fault .illFormed
  else
    let st := (s.al line.toNat bit).st
    if isHosted s (line.toNat * 128) then d2hArrives s bit line.toNat ctx.toNat 8 [.s, .sma, .imd] (if st = .imd then .imd else .sma)
    else if !(requestCtx s line.toNat bit ctx.toNat) then .refused .notPending
    else requestArrives s bit line.toNat ctx.toNat .upg [.s, .sma, .imd] (if st = .imd then .imd else .sma) {}

/-- WBM: an M line given up with its data, or with a lost indication and none (R284, R563 Table 20.1). -/
def execWbm (bit : CacheBit) (line : BitVec 45) (data : Option LineData) (s : State) : Res :=
  let p : Payload := { data := data.getD 0, hasData := data.isSome }
  if isHosted s (line.toNat * 128) then
    d2hGiveUp s bit line.toNat .m (some (data.getD (hostedData s line.toNat bit)))
  else requestArrives s bit line.toNat 0 .wbM (if bit = 13 then [.m, .e] else [.m]) .xia p

/-- EVE. -/
def execEve (bit : CacheBit) (line : BitVec 45) (s : State) : Res :=
  if isHosted s (line.toNat * 128) then d2hGiveUp s bit line.toNat .e none
  else requestArrives s bit line.toNat 0 .evE [.e] .xia {}

/-! ### Requests of agents that do not cache -/

/-- What the correcting code finds where a read is served from main memory: counted, and an uncorrectable line stays so
(R561, R562), or other contents of the line (R531); where the home serves it from its own cache, its data are lost (Table 20.1). -/
def eccFound (s : State) (line : Nat) (f : LineFind) : State :=
  let c := controllerOf (line * 128)
  let m := s.mctl c
  if !(fromMemory s line) then (if f = .uncorrectable then cacheDataLost s line else s)
  else match f with
  | .clean => s
  | .corrected => s.setMctl c { m with corr := satAdd m.corr 1 }
  | .altered cipher tag => alterLine s line cipher tag
  | .uncorrectable =>
    let s := s.setMctl c { m with uncorr := satAdd m.uncorr 1, addr := BitVec.ofNat 64 (line * 128) }
    let s := s.logE { src := .mem, unit := c, kind := 0x17, code := 1, addr := line * 128 }
    { s with badLines := Tab.put 0 s.badLines line 1 }

def retryArrives (s : State) (who : RetryAgent) (line ctx : Nat) (req : HomeReq) (p : Payload) : Res :=
  let r := Requester.retry (retryAgent who)
  if retryBusy s line r then .refused .notPending
  else .next (settleAll (retryRequest s line req r ctx p))

/-- READONCE (R285). -/
def execReadonce (who : RetryAgent) (ctx : Ctx) (line : BitVec 45) (find : LineFind) (s : State) : Res :=
  let l := line.toNat
  let s' := if looksUp s (.retry (retryAgent who)) ctx.toNat l then eccFound s l find else s
  retryArrives s' who l ctx.toNat .readOnce {}

/-- WRITEFULL (R285, R292). -/
def execWritefull (who : RetryAgent) (ctx : Ctx) (line : BitVec 45) (data : LineData) (s : State) : Res :=
  retryArrives s who line.toNat ctx.toNat .writeFull { data := data }

/-- WRITEPART (R285). -/
def execWritepart (who : RetryAgent) (ctx : Ctx) (line : BitVec 45) (mask : BitVec 128) (data : LineData) (s : State) : Res :=
  retryArrives s who line.toNat ctx.toNat .writePart { mask := mask, data := data }

/-- COH_ATOMIC (R245, R246, R285): a naturally aligned operand of 4 or 8 bytes. -/
def execCohAtomic (who : RetryAgent) (ctx : Ctx) (line : BitVec 45) (off : BitVec 7) (op : AOp) (wide : Bool)
    (opnd cmp : W64) (s : State) : Res :=
  let n := if wide then 8 else 4
  if off.toNat % n ≠ 0 then .fault .illFormed
  else retryArrives s who line.toNat ctx.toNat .atomic { op := op, offset := off.toNat, size := n, opnd := opnd, cmp := cmp }

/-! ### Snoops at an agent -/

/-- Whether the home has a snoop of a kind on its way to an agent. -/
def snoopDue (s : State) (line b : Nat) (sn : Snoop) : Bool :=
  match s.txn line with
  | some t => decide (t.asked = some sn) && t.unsent.getLsbD b
  | none => false

def snoopArrived (s : State) (line b : Nat) : State :=
  match s.txn line with
  | some t => s.setTxn line (some { t with unsent := t.unsent &&& ~~~(bitMask b) })
  | none => s

/-- A back-invalidation snoop sent to the CXL host for a line it owns, once (R286, R374). -/
def sendBiSnoop (s : State) (line : Nat) (inv : Bool) : State :=
  let h := s.host 0
  if h.snoops.any (fun e => decide (e.1 = line)) then s
  else cxlSend (s.setHost 0 { h with snoops := h.snoops ++ [(line, s.elapsed)] }) (if inv then 2 else 1) (line * 128) []

/-- A snoop at the CXL.cache agent that the host must answer (R286). -/
def snoopHost (s : State) (line : Nat) (sn : Snoop) : Option State :=
  match (s.al line 13).st, sn with
  | .e, .snpInv => none
  | .m, .snpInv => none
  | .e, _ => some (sendBiSnoop s line (decide (sn ≠ .snpS)))
  | .m, _ => some (sendBiSnoop s line (decide (sn ≠ .snpS)))
  | .s, .snpInv => some (sendBiSnoop s line true)
  | _, _ => snoopAt s line 13 sn

/-- A snoop arrives (Table 9.4); where the table says that it cannot occur, the agent is declared dead (R283). -/
def snoopCommand (s : State) (b line : Nat) (sn : Snoop) : Res :=
  if isHosted s (line * 128) then
    match if b < 12 then hostedSnoop s line b sn else none with
    | some s => .next (serveRoom s b)
    | none => if b < 12 then .next (protoFault s line b) else .fault .illFormed
  else
  let act := fun (s : State) => if b = 13 then snoopHost s line sn else snoopAt s line b sn
  match act (snoopArrived s line b) with
  | none => .next (protoFault s line b)
  | some _ =>
    match if snoopDue s line b sn then fabTake s .snoop 4 line b else none with
    | none => .refused .notPending
    | some s => match act (snoopArrived s line b) with
      | some s => .next (serveRoom s b)
      | none => .refused .notPending

def execSnps (bit : CacheBit) (line : BitVec 45) (s : State) : Res := snoopCommand s bit line.toNat .snpS
def execSnpx (bit : CacheBit) (line : BitVec 45) (s : State) : Res := snoopCommand s bit line.toNat .snpX
def execSnpxi (bit : CacheBit) (line : BitVec 45) (s : State) : Res := snoopCommand s bit line.toNat .snpXI
def execSnpinv (bit : CacheBit) (line : BitVec 45) (s : State) : Res := snoopCommand s bit line.toNat .snpInv

/-! ### Grants at a requester -/

/-- A deferred snoop applied in the stable state reached. -/
def applyDeferred (s : State) (line b : Nat) : State :=
  let a := s.al line b
  match a.deferred with
  | none => s
  | some sn =>
    let s := s.setAl line b { a with deferred := none }
    match if isHosted s (line * 128) then hostedSnoop s line b sn else if b = 13 then snoopHost s line sn else snoopAt s line b sn with
    | some s => s
    | none => protoFault s line b

/-- The agent's line in a stable state: its waiting accesses, then its deferred snoop. -/
def stableNow (s : State) (line b : Nat) (st : CSt) : State :=
  let s := match (s.al line b).incoming with | some (_, d) => if isHosted s (line * 128) then setHosted s line b d else s | none => s
  let s := s.setAl line b { s.al line b with st := st, ctx := none, incoming := none, ackDue := false }
  let s := if b = 13 then cxlAnswer s 3 line else serveWaiting s line b
  applyDeferred s line b

/-- COH_DATA (Table 9.4). -/
def execCohData (bit : CacheBit) (line : BitVec 45) (grant : Grant) (s : State) : Res :=
  let l := line.toNat
  let take := fun (k : State → State) => match fabTake s .response 4 l bit with | some s => Host.Outcome.next (k s) | none => .refused .notPending
  let a := s.al l bit
  let due : Bool := match a.incoming with
    | some (g, _) => if isHosted s (l * 128) then decide (g = .m) == decide (grant = .m) else decide (g = grant)
    | none => false
  if bit = 12 then
    if due then take (fun s => s.setAl l 12 { a with st := .s, incoming := none }) else .refused .notPending
  else match a.st, a.incoming with
  | .isd, _ =>
    if due then take (fun s => settleAll (stableNow s l bit (match grant with | .s => .s | .e => .e | .m => .m))) else .refused .notPending
  | .isdi, some (_, d) =>
    if due then take (fun s => settleAll (if bit = 13 then cxlAnswer (s.setAl l bit {}) 3 l else serveStale s l bit d))
    else .refused .notPending
  | .isdi, none => .refused .notPending
  | .imd, _ =>
    if grant ≠ .m then .next (protoFault s l bit)
    else if due then take (fun s => settleAll (stableNow s l bit .m)) else .refused .notPending
  | _, _ => .next (protoFault s l bit)

/-- ACKU (Table 9.4). -/
def execAcku (bit : CacheBit) (line : BitVec 45) (s : State) : Res :=
  let l := line.toNat
  let a := s.al l bit
  match a.st with
  | .sma => match if a.ackDue then fabTake s .response 4 l bit else none with
    | some s => .next (settleAll (stableNow s l bit .m))
    | none => .refused .notPending
  | _ => .next (protoFault s l bit)

/-- CMP (Table 9.4): the write-back or give-up is closed at the home. -/
def execCmp (bit : CacheBit) (line : BitVec 45) (s : State) : Res :=
  let l := line.toNat
  let a := s.al l bit
  if a.st = .xia ∨ a.st = .iia then
    match if requestOpen s l bit then none else fabTake s .completion 4 l bit with
    | none => .refused .notPending
    | some s =>
      let s := s.setAl l bit { a with st := .i }
      .next (settleAll (if bit = 13 then cxlAnswer s 6 l else serveRoom (serveWaiting s l bit) bit))
  else .next (protoFault s l bit)

/-- SNOOP_RESPONSE. -/
def execSnoopResponse (bit : CacheBit) (line : BitVec 45) (rsp : SnpRsp) (s : State) : Res :=
  match s.txn line.toNat with
  | some t =>
    match if t.rsps.contains (bit.val, rsp) then fabTake s .response (lineDie line.toNat) line.toNat bit else none with
    | some s => .next (settleAll (ringsGo (homeResponse s line.toNat bit rsp)))
    | none => .refused .notPending
  | none => .refused .notPending

/-! ### Retry agents (R279 to R281) -/

/-- The requesters that a receiver of Retry and Grant stands for: its request commands, and its unit's own accesses. -/
def retrierAs : Retrier → List Requester
  | .agent a => [.retry (retryAgent a), .unit (retryAgent a)]
  | .lastLevel => [.caching 12]

/-- The oldest reservation of a retry agent for a line. -/
def reserved (s : State) (line : Nat) (who : Retrier) : Option WaitReq :=
  s.coh.waits.find? (fun w => decide (w.line = line) && (retrierAs who).contains w.who)

/-- RETRY: the agent learns that its request is refused and reserved. -/
def execRetry (who : Retrier) (line : BitVec 45) (s : State) : Res :=
  match reserved s line.toNat who with
  | some w =>
    match if w.told then none else fabTake s .completion w.who.die line.toNat w.who.num with
    | none => .refused .notPending
    | some s => .next { s with coh := { s.coh with waits := s.coh.waits.map (fun v => if v = w then { w with told := true } else v) } }
  | none => .refused .notPending

/-- The reservations of a home whose line is free. -/
def readyReservations (s : State) (die : Nat) : List WaitReq :=
  s.coh.waits.filter (fun w => w.who.retries && decide (lineDie w.line = die) && (s.txn w.line).isNone)

/-- Whether one reservation is older than another: the timebase tick of the first attempt, then the agent number (R280). -/
def older (x y : WaitReq) : Bool :=
  decide (x.tick < y.tick) ||
    (decide (x.tick = y.tick) && decide (agentKey (reqAgent x.who) < agentKey (reqAgent y.who)))

/-- GRANT: the oldest reservation whose line is free; its agent resends, and the request is accepted. A Retry of the same channel and line
that is still on its way arrives first (R407). -/
def execGrant (who : Retrier) (line : BitVec 45) (s : State) : Res :=
  let l := line.toNat
  match reserved s l who with
  | none => .refused .notPending
  | some w =>
    let ready := readyReservations s (lineDie l)
    let retry := onWay s .completion w.who.die l w.who.num
    if ready.contains w && !(ready.any (fun x => older x w)) && !(trackerFull s l) && retry.isNone then
      .next (settleAll (ringsGo (homeAccept { s with coh := { s.coh with waits := s.coh.waits.erase w } } w)))
    else .refused .notPending

/-- The answer that a retry agent has had for a line, given up with its Done. -/
def takeAnswer (s : State) (line : Nat) (who : Retrier) : Option State :=
  match who with
  | .lastLevel => if (s.al line 12).incoming.isNone then some s else none
  | .agent a =>
    (s.coh.answers.find? (fun x => decide (x.agent = retryAgent a) && decide (x.line = line))).map (fun x =>
      { s with coh := { s.coh with answers := s.coh.answers.erase x } })

/-- A line whose transaction its agent has closed. A unit that gives up a full-line write, whose owner's copy has been discarded for it,
leaves the home's own copy (Table 9.3, SnpXI). -/
def closeTxn (s : State) (line : Nat) (t : Txn) : State :=
  let s := if t.ready && decide (t.req = .writeFull) then restoreStale s line else s
  settleAll (ringsGo (wakeHomes (s.setTxn line none)))

/-- DONE: the retry agent has its data, or its write is acknowledged, or its unit has no more use for the line; the line is free. -/
def execDone (who : Retrier) (line : BitVec 45) (s : State) : Res :=
  let l := line.toNat
  let mine := match s.txn l with | some t => if (retrierAs who).contains t.who then some t else none | none => none
  match mine with
  | some t =>
    if t.ready || (t.awaitDone && (match t.who with | .unit _ => true | _ => false)) then .next (closeTxn s l t)
    else if !t.awaitDone then .refused .notPending
    else match takeAnswer s l who with
      | some s => .next (closeTxn s l t)
      | none => .refused .notPending
  | none => match who, takeAnswer s l who with
    | .agent _, some s => .next s
    | _, _ => .refused .notPending

/-! ### The eviction buffer (R298) and dead agents -/

/-- EVICTION_WRITEBACK: the oldest line of a home's buffer is in memory, encrypted and tagged (R510), counted in the class of its region's owner (R155); the requests
that waited for its place go on (R299). -/
def execEvictionWriteback (d : DieNo) (s : State) : Res :=
  match s.coh.evict.find? (fun l => decide (lineDie l = d.val)) with
  | some l =>
    let owner := (Tab.get {} s.owners (regionOf (l * 128))).owner
    let s := storeLine (countMem s (l * 128) owner.toNat 128) l
    .next (settleAll (ringsGo (wakeHomes { s with coh := { s.coh with evict := s.coh.evict.erase l } })))
  | none => .refused .notPending

/-- SNOOP_TIMEOUT: a cluster has left a snoop unanswered for 225,000 ticks (R288). -/
def execSnoopTimeout (bit : CacheBit) (line : BitVec 45) (s : State) : Res :=
  match s.txn line.toNat with
  | some t =>
    if bit.val < 12 ∧ t.owed.getLsbD bit.val ∧ 225000 ≤ s.elapsed - t.since then .next (settleAll (declareDead s bit))
    else .refused .notPending
  | none => .refused .notPending

/-- RECLAIM_WALK_DONE: all four homes have walked their tags; the event goes to the log and, as a record whose layout the spec
does not give, to the runtime's fault ring (R289, log 24). -/
def execReclaimWalkDone (bit : CacheBit) (s : State) : Res :=
  if !(s.coh.walking.getLsbD bit.val) then .refused .notPending
  else
    let s := { s with coh := { s.coh with walking := s.coh.walking &&& ~~~(bitMask bit.val) } }
    let s := if bit.val = 13 && (s.host 0).cxlup then { s with coh := { s.coh with dead := s.coh.dead &&& ~~~(bitMask 13) } } else s
    let s := s.logTag .hth 0 289 bit.val
    let (rec, s) := takeFree 512 s
    .next (match fringOf s 0 with | some rn => post s (qFault 4) rn rec | none => s)

end Sys2Proof.Machine
end

