-- ==== Sys2Proof/Machine/Bodies.lean ====
section
/-! DEFINITION. Bodies of the copy engines' operations: fields, rules that make one invalid, and where its destination lies
(Tables 11.7, 11.8, 11.16; R350, R353, R355, R356). -/

namespace Sys2Proof.Machine

/-! ### COPY (Table 11.7) -/

def cpSaddr (d : Slot) : Nat := field (body d) 0 55
def cpDaddr (d : Slot) : Nat := field (body d) 64 55
def cpLen (d : Slot) : Nat := field (body d) 128 32 + 1
def cpMk (d : Slot) : Nat := field (body d) 173 2

def extentsMeet (a b n : Nat) : Bool := decide (a < b + n) && decide (b < a + n)

/-- A body that breaks a rule of COPY in itself (Table 11.7, R353). -/
def copyBad (_ : State) (d : Desc) : Bool :=
  let b := body d.head
  let meet := extentsMeet (cpSaddr d.head) (cpDaddr d.head) (cpLen d.head)
  decide (field b 55 9 ≠ 0) || decide (field b 119 9 ≠ 0) || decide (field b 175 209 ≠ 0) ||
  (match cpMk d.head with
   | 0 => false
   | 1 => decide (cpDaddr d.head % 32 ≠ 0) || decide (cpLen d.head % 32 ≠ 0) || meet
   | 2 => decide (cpDaddr d.head % 128 ≠ 0) || decide (cpLen d.head % 128 ≠ 0) || meet
   | _ => true)

/-! ### INLINE (R350) -/

def inDaddr (d : Slot) : Nat := field (hdTarget d) 0 55

/-- The payload of an INLINE. -/
def inPayload (d : Desc) : List Byte :=
  let head := (toBytes 64 d.head.toNat).drop 16
  (head ++ d.cont.flatMap (fun c => toBytes 64 c.toNat)).take (inlineBytes d.head)

def inlineBad (_ : State) (d : Desc) : Bool :=
  decide (240 < inlineBytes d.head) || decide (hdNcont d.head ≠ inlineSlots d.head)

/-! ### ATOMIC (Table 11.16) -/

def atAaddr (d : Slot) : Nat := field (body d) 0 55
def atRaddr (d : Slot) : Nat := field (body d) 64 55
def atOp (d : Slot) : Option AOp := aopOfCode (field (body d) 128 4)
def atSize (d : Slot) : Nat := if bitAt (body d) 132 then 8 else 4
def atOpnd (d : Slot) : Nat := field (body d) 192 64
def atCmp (d : Slot) : Nat := field (body d) 256 64

def atomicBad (_ : State) (d : Desc) : Bool :=
  let b := body d.head
  let n := atSize d.head
  decide (field b 55 9 ≠ 0) || decide (field b 119 9 ≠ 0) || decide (field b 146 46 ≠ 0) || decide (field b 320 64 ≠ 0) ||
    (atOp d.head).isNone || decide (atAaddr d.head % n ≠ 0) || decide (atRaddr d.head % n ≠ 0) ||
    (decide (n = 4) && (decide (2 ^ 32 ≤ atOpnd d.head) || decide (2 ^ 32 ≤ atCmp d.head))) ||
    (decide (atCmp d.head ≠ 0) && decide (atOp d.head ≠ some .cas))

/-! ### REDUCE (Table 11.8) -/

def rdSaddr (d : Slot) : Nat := field (body d) 0 55
def rdDaddr (d : Slot) : Nat := field (body d) 64 55
def rdStride (d : Slot) : Nat := field (body d) 128 32
def rdCount (d : Slot) : Nat := field (body d) 160 24 + 1
def rdSrcs (d : Slot) : Nat := field (body d) 184 4 + 1
def rdIfmt (d : Slot) : Nat := field (body d) 188 2
def rdTapk (d : Slot) : Nat := field (body d) 190 2
def rdOfmt (d : Slot) : Option OFmt := match field (body d) 192 4 with | 0 => some .fp32 | 1 => some .bf16 | 6 => some .accWord | _ => none
def rdMode (d : Slot) : Option RMode :=
  match field (body d) 196 3 with
  | 0 => some .rne | 1 => some .rtz | 2 => some .rdn | 3 => some .rup | 4 => some .rmm | _ => none
def rdSat (d : Slot) : Bool := bitAt (body d) 199
def rdT (d : Slot) : Int := toInt 8 (field (body d) 200 8)
def rdNaddr (d : Slot) : Nat := field (body d) 208 55
def rdFaddr (d : Slot) : Nat := field (body d) 320 55
def rdIsize (d : Slot) : Nat := if rdIfmt d = 0 then 32 else 4
def rdOsize (d : Slot) : Nat := OFmt_bytes ((rdOfmt d).getD .fp32)

def reduceBad (_ : State) (d : Desc) : Bool :=
  let h := d.head
  let b := body h
  let acc := decide (rdOfmt h = some .accWord)
  decide (field b 55 9 ≠ 0) || decide (field b 119 9 ≠ 0) || decide (field b 276 44 ≠ 0) || decide (field b 375 9 ≠ 0) ||
    decide (2 ≤ rdIfmt h) || decide (rdTapk h = 3) || (rdOfmt h).isNone || (rdMode h).isNone ||
    (acc && decide (rdIfmt h ≠ 0)) ||
    (decide (rdTapk h ≠ 0) && (acc || decide (rdNaddr h = 0) || decide (rdNaddr h % 128 ≠ 0))) || (decide (rdTapk h = 2) && decide (rdFaddr h = 0))

/-! ### Every operation of a copy engine (R351) -/

def isCopyOp (op : Nat) : Bool := decide (op = 1) || decide (op = 2) || decide (op = 3) || decide (op = 8)

/-- A body that breaks a rule of its operation. -/
def copyOpBad (s : State) (d : Desc) : Bool :=
  match hdOp d.head with | 1 => copyBad s d | 2 => inlineBad s d | 3 => reduceBad s d | _ => atomicBad s d

/-- The destination's address and the right that the dispatch's translation needs: an ATOMIC's destination is its target. -/
def copyOpDest (d : Slot) : Nat × Acc3 :=
  match hdOp d with | 1 => (cpDaddr d, .write) | 2 => (inDaddr d, .write) | 3 => (rdDaddr d, .write) | _ => (atAaddr d, .atomic)

end Sys2Proof.Machine
end

