-- ==== Sys2Proof/Machine/Matrix.lean ====
section
/-! DEFINITION. The matrix arrays, weight stores and drain registers (R74 to R93, R109 to R111, R610). -/

namespace Sys2Proof.Machine

/-! ### MATRIX.MAC at issue -/

/-- Whether a continuing instruction matches what each active array holds (R88). -/
def heldMatches (x : Grate) (c mode : Nat) : Bool :=
  (List.range 4).all (fun a => !(mcActive c a) ||
    decide (Tab.get none x.held a = some { shape := mcShape c, m := mcM c, n := mcN c a, mode := mode }))

/-- What the active arrays hold after an instruction, in issue order (R88). -/
def holdAfter (x : Grate) (c mode : Nat) : Tab (Option Held) :=
  (List.range 4).foldl (fun t a =>
    if mcActive c a then
      let h := if mcBegin c = 0 then Tab.get none t a
        else some { shape := mcShape c, m := mcM c, n := mcN c a, mode := mode }
      Tab.put none t a (if mcRo c then none else h)
    else t) x.held

/-- Bytes from the start of DSLOT to the end of the last element that an instruction writes or imports, n bytes an element: tile a
stands a tiles after the start, and of each tile the M × N elements are accessed (R81, R88, R93, R119; log 16, log 128). -/
def mcReach (c n : Nat) : Nat :=
  let s := shapeSide (mcShape c)
  (List.range 4).foldl (fun r a => if mcActive c a then max r (a * (s * s * n) + ((mcM c - 1) * s + mcN c a) * n) else r) 0

def mcDbytes (c : Nat) (o : OFmt) : Nat :=
  max (if mcRo c then mcReach c (OFmt_bytes o) else 0) (if 2 ≤ mcBegin c then mcReach c (mcImportBytes c) else 0)

def mcUsesD (c : Nat) : Bool := mcRo c || decide (2 ≤ mcBegin c)

/-- The read-out an instruction carries, with RM resolved and the rounding state captured (R61, R109); none where it is
illegal. -/
def mcReadOut (x : Grate) (c : Nat) : Option (Option ReadOut) :=
  if !mcRo c then some none
  else match mcOfmt c, rmDecode (mcRm c) x.status with
  | some o, some m => some (some { ofmt := o, rm := m, sat := mcSat c, t := mcT c, base := x.srBase,
                                   key := x.keyLo.toNat + x.keyHi.toNat * 2 ^ 64 })
  | _, _ => none

/-- The roles of an instruction checked: the activation read, the read of an import, the write of a read-out (R131; with a
read-out DROLE is the write's, an import's read is then a consume, log 16). -/
def mcRoles (x : Grate) (c : Nat) : RoleCheck :=
  let ra := roleCheck x (mcAslot c) (mcArole c) false
  let rd := if mcRo c then roleCheck x (mcDslot c) (mcDrole c) true else .ok
  let ri := if 2 ≤ mcBegin c then roleCheck x (mcDslot c) (if mcRo c then 1 else mcDrole c) false else .ok
  if ra = .illegal ∨ rd = .illegal ∨ ri = .illegal then .illegal
  else if ra = .breach ∨ rd = .breach ∨ ri = .breach then .breach
  else .ok

/-- MATRIX.MAC (R82, R104, R108, R109): queued, or stalled while the queue is full, or an exception. -/
def execMatrixMac (p : Site) (rs1 rs2 : W64) (s : State) : Res :=
  let x := s.gr p.g
  let c := rs1.toNat + rs2.toNat * 2 ^ 64
  if !(canIssue x) then .refused .agentNotReady
  else if 8 ≤ x.matQ.length then .next s
  else match mcAfmt c, mcReadOut x c with
  | some fa, some ro =>
    let mode := modeOf fa
    let o := (ro.map (·.ofmt)).getD .fp32
    let aspan := slotSpan x (mcAslot c) (mcAoff c) (mcAbytes c fa)
    let dspan := if mcUsesD c then slotSpan x (mcDslot c) 0 (mcDbytes c o) else some 0
    if mcMalformed c || (decide (mcBegin c = 0) && !(heldMatches x c mode)) || aspan.isNone || dspan.isNone ||
        decide (mcRoles x c = .illegal) then .next (haltAt s p 1)
    else if mcRoles x c = .breach then
      let bad := if roleCheck x (mcAslot c) (mcArole c) false = .breach then mcAslot c else mcDslot c
      .next (haltAt s p 5 (breachFields s p.g bad))
    else
      let op : MatOp := { seq := x.issued, pc := p.pc, insn := p.insn, cmd := c, abase := aspan.getD 0,
                          dbase := dspan.getD 0, ro := ro }
      .next (s.setGr p.g { x with matQ := x.matQ ++ [op], issued := x.issued + 1, held := holdAfter x c mode,
                                  pc := nextPc p })
  | _, _ => .next (haltAt s p 1)

/-! ### The weight store -/

/-- The key of a byte of a weight-store half; scales stand above the 32 KiB of elements (R84). -/
def wKey (a half off : Nat) : Nat := (a * 2 + half) * 0x10000 + off

/-- WEIGHT.LOAD (R104, R110, R111). -/
def execWeightLoad (p : Site) (rs1 rs2 : W64) (s : State) : Res :=
  let x := s.gr p.g
  let c := rs1.toNat
  let pstr := field rs2.toNat 0 18
  if !(canIssue x) then .refused .agentNotReady
  else if 4 ≤ x.wlQ.length then .next s
  else match wlFmt c with
  | none => .next (haltAt s p 1)
  | some f =>
    let parts := (wlArrays c).zipIdx.map (fun e => slotSpan x (wlSlot c) (wlOff c + wlPartOff c f pstr e.2) (wlPart c f))
    let role := roleCheck x (wlSlot c) (wlRole c) false
    match slotSpan x (wlSlot c) 0 0 with
    | none => .next (haltAt s p 1)
    | some base =>
      if wlMalformed c || parts.any (·.isNone) || decide (slotBytes (slotAt x (wlSlot c)) < wlOff c) ||
          decide (role = .illegal) then .next (haltAt s p 1)
      else if role = .breach then .next (haltAt s p 5 (breachFields s p.g (wlSlot c)))
      else
        let op : WlOp := { seq := x.issued, pc := p.pc, insn := p.insn, cmd := c, pstr := pstr, base := base + wlOff c }
        .next (s.setGr p.g { x with wlQ := x.wlQ ++ [op], issued := x.issued + 1, pc := nextPc p })

/-- One B tile written to an array's half: element (K i, column j) of tile t goes to row KROW + t S + i, column j; its
scales to the block of the tile's first row (R84, R111, R165; log 126). -/
def wlTile (w : Mem) (bs : List Byte) (a half krow : Nat) (f : Fmt) (side : Nat) : Mem :=
  let bits := Fmt_bits f
  -- each column of a tile is contiguous along K, each row of the half along the columns: rows are packed whole
  let rowBytes := side * bits / 8
  let w := (List.range side).foldl (fun w i =>
    let v := (List.range side).foldl (fun v j => v + packedGet bs bits (j * side + i) * 2 ^ (j * bits)) 0
    Mem.write w (wKey a half ((krow + i) * rowBytes)) (toBytes rowBytes v)) w
  if Fmt_windowed f then w
  else Mem.write w (wKey a half (32768 + krow / 32 * side)) ((bs.drop (tileElemBytes bits side)).take side)

/-- A part loaded tile by tile. -/
def wlPartLoad (w : Mem) (bs : List Byte) (c a : Nat) (f : Fmt) : Mem :=
  let side := wlSide c
  let tb := operandTileBytes f side
  (List.range (wlRows c / side)).foldl (fun w t =>
    wlTile w (bs.drop (t * tb)) a (wlHalf c) (wlKrow c + t * side) f side) w

/-- Whether an earlier matrix instruction still reads a load's half (R86). -/
def wlBlocked (x : Grate) (op : WlOp) : Bool :=
  x.matQ.any (fun m => decide (m.seq < op.seq) && decide (mcHalf m.cmd = wlHalf op.cmd) &&
    (List.range 4).any (fun a => mcActive m.cmd a && wlMask op.cmd a))


/-! ### The arithmetic of one matrix instruction -/

/-- A little-endian number in a grate's scratchpad as an instruction sees it. -/
def viewWord (v : Mem) (g off n : Nat) : Nat := ofBytes (Mem.read v (spadKey g off) n)

/-- Element (row i, K index k) of the activations and its scale (Table 5.4, R165); the A tiles follow one another along K
(log 127). -/
def actElem (v : Mem) (g : Nat) (op : MatOp) (f : Fmt) (i k : Nat) : Nat × Nat :=
  let side := shapeSide (mcShape op.cmd)
  let bits := Fmt_bits f
  let tile := op.abase + k / side * operandTileBytes f side
  let n := i * side + k % side
  let e := field (viewWord v g (tile + n * bits / 8) 4) (n * bits % 8) bits
  (e, if Fmt_windowed f then 127 else viewWord v g (tile + tileElemBytes bits side + i) 1)

/-- Element (K index k, column j) of an array's weights and its scale (R84). -/
def wtElem (w : Mem) (op : MatOp) (a : Nat) (f : Fmt) (k j : Nat) : Nat × Nat :=
  let side := shapeSide (mcShape op.cmd)
  let bits := Fmt_bits f
  let r := mcKrow op.cmd + k
  let n := r * side + j
  let v := field (ofBytes (Mem.read w (wKey a (mcHalf op.cmd) (n * bits / 8)) 4)) (n * bits % 8) bits
  (v, if Fmt_windowed f then 127 else ofBytes (Mem.read w (wKey a (mcHalf op.cmd) (32768 + r / 32 * side + j)) 1))

/-- The contribution of K index k to output (i, j) of array a (R45). -/
def leafAt (v : Mem) (g : Nat) (w : Mem) (op : MatOp) (fa fb : Fmt) (a i j k : Nat) : Acc :=
  let (x, sx) := actElem v g op fa i k
  let (y, sy) := wtElem w op a fb k j
  let scaled := !(Fmt_windowed fa)
  leafAcc (modeOf fa) (contribution (scaled && (decide (sx = 255) || decide (sy = 255))) (elemDecode fa x) (elemDecode fb y)
    (if scaled then (sx : Int) - 127 + ((sy : Int) - 127) else 0) (Fmt_p fa) (Fmt_p fb))

/-- The sum of an instruction's contributions to one output joined to the running accumulator (R47, R63). -/
def accumulate (mode : Nat) (p : Acc) (leaves : List Acc) : Acc :=
  if mode = 0 then leaves.foldl (accJoin 0) p else accNode p (accTree 1 14 leaves)

/-- Whether a node of that sum rounded, as WN reports it (R62, Table 2.8): a rounding of an earlier instruction that the running
accumulator carries is none of this one's. -/
def accumulateRounds (mode : Nat) (p : Acc) (leaves : List Acc) : Bool :=
  decide (mode ≠ 0) && ((accTree 1 14 leaves).wn || nodeRounds mode p (accTree 1 14 leaves))

/-- The accumulator an instruction begins from (R50, R88, R610). -/
def beginAcc (v : Mem) (g : Nat) (x : Grate) (op : MatOp) (mode a i j : Nat) : Except IntegErr Acc :=
  let side := shapeSide (mcShape op.cmd)
  let n := mcImportBytes op.cmd
  let w := viewWord v g (op.dbase + a * (side * side * n) + (i * side + j) * n) n
  match mcBegin op.cmd with
  | 0 => .ok (Tab.get accZero x.accs (a * 1024 + i * 32 + j))
  | 1 => .ok accZero
  | 2 =>
    let z := accDecode w
    match accCheck z with
    | some e => .error e
    | none => if accEmpty z then .ok accZero
      else if z.mode ≠ mode then .error ⟨2, z.res, resOf z.i z.a⟩
      else .ok z
  | _ => .ok (importAcc mode (mcImportFmt op.cmd) w)

/-- The outputs of an instruction: (array, row, column) of every active array within M × N (R78, R82). -/
def outCells (c : Nat) : List (Nat × Nat × Nat) :=
  ((List.range 4).filter (mcActive c)).flatMap (fun a =>
    (List.range (mcM c)).flatMap (fun i => (List.range (mcN c a)).map (fun j => (a, i, j))))

/-- All accumulators after an instruction and whether a tree node rounded, or the first import that fails its check. -/
def matCompute (v : Mem) (g : Nat) (x : Grate) (op : MatOp) (fa fb : Fmt) : Except IntegErr (Tab Acc × Bool) :=
  (outCells op.cmd).foldl (fun r cell =>
    match r with
    | .error e => .error e
    | .ok (t, wn) =>
      let (a, i, j) := cell
      match beginAcc v g x op (modeOf fa) a i j with
      | .error e => .error e
      | .ok p =>
        let leaves := (List.range (mcK op.cmd)).map (leafAt v g x.wstore op fa fb a i j)
        .ok (Tab.put accZero t (a * 1024 + i * 32 + j) (accumulate (modeOf fa) p leaves),
             wn || accumulateRounds (modeOf fa) p leaves)) (.ok (x.accs, false))

/-- K indices of one cube step (Table 3.1). -/
def cubeK (fa fb : Fmt) : Nat :=
  if Fmt_windowed fa then 1 else if Fmt_bits fa < 8 ∧ Fmt_bits fb < 8 then 8 else 4

/-- The cube steps of an instruction that are not gated: in either shape each of the ceil(M / 4) × ceil(N / 4) columns of cubes has work in
ceil(K / k_c) steps of one cube, and a cube without any adds nothing (R76, R79, R82). -/
def activeCubeSteps (c : Nat) (fa fb : Fmt) : Nat :=
  ((List.range 4).map (fun a =>
    if mcActive c a then (mcM c + 3) / 4 * ((mcN c a + 3) / 4) * ((mcK c + cubeK fa fb - 1) / cubeK fa fb) else 0)).sum

/-- Accumulators and held words of the active arrays returned to the zero accumulator (R89). -/
def resetArrays (t : Tab Acc) (c : Nat) : Tab Acc :=
  (List.range 4).foldl (fun t a => if mcActive c a then Tab.eraseRange t (a * 1024) 1024 else t) t

/-- Whether the oldest matrix instruction may read its last step: earlier loads into its half complete, and its drain
register free where it drains (R86, R91). -/
def matReady (x : Grate) (op : MatOp) : Bool :=
  !(x.wlQ.any (fun l => decide (l.seq < op.seq) && decide (wlHalf l.cmd = mcHalf op.cmd) &&
      (List.range 4).any (fun a => mcActive op.cmd a && wlMask l.cmd a))) &&
    (op.ro.isNone || x.drain.isNone)

/-! ### The drain -/

/-- The first word of a drain that fails its check (R70). -/
def drainError (d : Drain) : Option IntegErr :=
  (outCells d.op.cmd).foldl (fun r e => match r with
    | some x => some x
    | none => accCheck (Tab.get accZero d.words (e.1 * 1024 + e.2.1 * 32 + e.2.2))) none

/-- The SR counter of an element (R61). -/
def srCounter (c base : Nat) (e : Nat × Nat × Nat) : Nat :=
  let s := shapeSide (mcShape c)
  base + e.1 * (s * s) + e.2.1 * s + e.2.2

/-- The words of a drain register rounded once: the offset and the bytes of each element of its tile, and the flags (R81, R90,
R61). -/
def drainElems (d : Drain) : FlagSet × List (Nat × List Byte) :=
  let c := d.op.cmd
  let side := shapeSide (mcShape c)
  let n := OFmt_bytes d.ro.ofmt
  (outCells c).foldl (fun r e =>
    let u := if d.ro.rm = .sr then srBits d.ro.key (srCounter c d.ro.base.toNat e) else 0
    let (v, fl) := accRead d.ro.ofmt d.ro.rm u d.ro.sat d.ro.t (Tab.get accZero d.words (e.1 * 1024 + e.2.1 * 32 + e.2.2))
    (flagsOr r.1 fl, r.2 ++ [(d.op.dbase + e.1 * outTileBytes d.ro.ofmt side + (e.2.1 * side + e.2.2) * n, toBytes n v)])) ({}, [])

/-- The drained elements written to their tile; a word whose 32 bytes are all written is whole again (R116). -/
def drainWrite (s : State) (g : Nat) (d : Drain) : FlagSet × State :=
  let (fl, es) := drainElems d
  let whole := fun w => decide (((es.filter (fun e => decide (e.1 / 32 = w))).map (fun e => e.2.length)).sum = 32)
  (fl, mendWords (es.foldl (fun s e => spadWrite s g e.1 e.2) s) g whole)

/-- The words of a scratchpad as a drain under way will leave them (Table 4.9). -/
def drainedWords (s : State) (g : Nat) : List (Nat × List Byte) :=
  match (s.gr g).drain with
  | none => []
  | some d =>
    let es := (drainElems d).2
    let m := es.foldl (fun m e => Mem.write m (spadKey g e.1) e.2) s.mem
    (es.map (fun e => e.1 / 32)).eraseDups.map (fun w => (w, Mem.read m (spadKey g (32 * w)) 32))

/-- The scratchpad as an access issued as number seq reads it. -/
def unitView (s : State) (g seq : Nat) : Mem × State :=
  spadView s g seq (match (s.gr g).drain with | some d => if d.op.seq < seq then drainedWords s g else [] | none => [])

/-! ### The commands at which queued work is done (log 15) -/

/-- Whether an instruction reads a scratchpad word that the code cannot correct (R116). -/
def wlBad (x : Grate) (op : WlOp) : Bool :=
  match wlFmt op.cmd with
  | none => false
  | some f => (wlArrays op.cmd).zipIdx.any (fun e => spadBad x false (op.base + wlPartOff op.cmd f op.pstr e.2) (wlPart op.cmd f))

def matBad (x : Grate) (op : MatOp) : Bool :=
  (match mcAfmt op.cmd with | some f => spadBad x false op.abase (mcAbytes op.cmd f) | none => false) ||
    (decide (2 ≤ mcBegin op.cmd) && spadBad x false op.dbase (mcReach op.cmd (mcImportBytes op.cmd)))

/-- The oldest weight load writes its last row (R84, R86, R111, Table 4.8). -/
def execWeightLoadComplete (g : GrateNo) (find : EccFind) (s : State) : Res :=
  let x := s.gr g
  match x.wlQ with
  | [] => .refused .notPending
  | op :: rest =>
    let s' := s.setGr g { x with wlQ := rest }
    if wlBlocked x op then .refused .notPending
    else if find = .uncorrectable || wlBad x op then .next (wordHalt s' g op.seq op.pc op.insn 1)
    else if roleBroken x (wlSlot op.cmd) (wlRole op.cmd) false then
      .next (guardLate s' g op.seq op.pc op.insn (wlSlot op.cmd))
    else match wlFmt op.cmd with
    | none => .refused .notPending
    | some f =>
      let (v, s) := unitView s g op.seq
      let w := (wlArrays op.cmd).zipIdx.foldl (fun w e =>
        wlPartLoad w (Mem.read v (spadKey g (op.base + wlPartOff op.cmd f op.pstr e.2)) (wlPart op.cmd f)) op.cmd e.1 f) x.wstore
      let s := s.setGr g (forgetPast (roleDone { x with wlQ := rest, wstore := w } (wlSlot op.cmd) (wlRole op.cmd) false))
      .next (settleHalt (bankConflicts (countFind s g find) g 2) g)

/-- Whether an instruction's reads come to complete against the state of their slots (Table 4.12). -/
def matBroken (x : Grate) (op : MatOp) : Option Nat :=
  if roleBroken x (mcAslot op.cmd) (mcArole op.cmd) false then some (mcAslot op.cmd)
  else if 2 ≤ mcBegin op.cmd && !(mcRo op.cmd) && roleBroken x (mcDslot op.cmd) (mcDrole op.cmd) false then some (mcDslot op.cmd)
  else none

/-- The oldest matrix instruction reads its last step: its arithmetic is done here, and with a read-out its words move to
the drain register (R86, R88 to R90, R610; log 15). -/
def execMatrixLastStepRead (g : GrateNo) (find : MatFind) (s : State) : Res :=
  let x := s.gr g
  match x.matQ with
  | [] => .refused .notPending
  | op :: rest =>
    let s' := s.setGr g { x with matQ := rest }
    if !(matReady x op) then .refused .notPending
    else if find = .scratchpad || matBad x op then .next (wordHalt s' g op.seq op.pc op.insn 1)
    else if find = .weights then .next (wordHalt s' g op.seq op.pc op.insn 2)
    else match matBroken x op with
    | some slot => .next (guardLate s' g op.seq op.pc op.insn slot)
    | none => match mcAfmt op.cmd, mcBfmt op.cmd with
    | some fa, some fb =>
      let (v, s) := unitView s g op.seq
      match matCompute v g x op fa fb with
      | .error e =>
        let s' := s.setGr g { x with matQ := rest }
        .next (haltLate s' g op.seq { cause := 3, pc := op.pc, insn := op.insn, matching := some (integRec s g op.pc e) })
      | .ok (t, wn) =>
        let cells := (outCells op.cmd).map (fun e => e.1 * 1024 + e.2.1 * 32 + e.2.2)
        let x := { x with matQ := rest, status := raiseFlags x.status { wn := wn },
                          cubeSteps := x.cubeSteps + activeCubeSteps op.cmd fa fb }
        let x := match op.ro with
          | none => { x with accs := t }
          | some ro => { x with accs := resetArrays t op.cmd,
                                drain := some { op := op, ro := ro, words := t.filter (fun e => cells.contains e.1) } }
        let x := roleDone x (mcAslot op.cmd) (mcArole op.cmd) false
        let x := if 2 ≤ mcBegin op.cmd && !(mcRo op.cmd) then roleDone x (mcDslot op.cmd) (mcDrole op.cmd) false else x
        .next (settleHalt (bankConflicts (countFind (s.setGr g (forgetPast x)) g (if find = .corrected then .corrected else .clean)) g 1) g)
    | _, _ => .refused .notPending

/-- The drain register's work ends and it becomes free (R70, R71, R81, R90). -/
def execMatrixDrainComplete (g : GrateNo) (find : EccFind) (s : State) : Res :=
  let x := s.gr g
  match x.drain with
  | none => .refused .notPending
  | some d =>
    let s' := s.setGr g { x with drain := none }
    if find = .uncorrectable then .next (wordHalt s' g d.op.seq d.op.pc d.op.insn 2)
    else if roleBroken x (mcDslot d.op.cmd) (mcDrole d.op.cmd) true then
      .next (guardLate s' g d.op.seq d.op.pc d.op.insn (mcDslot d.op.cmd))
    else match drainError d with
    | some e =>
      .next (haltLate s' g d.op.seq { cause := 3, pc := d.op.pc, insn := d.op.insn, matching := some (integRec s g d.op.pc e) })
    | none =>
      let (fl, s) := drainWrite s g d
      let x := { s.gr g with drain := none, status := raiseFlags (s.gr g).status fl }
      .next (settleHalt (bankConflicts (s.setGr g (roleDone x (mcDslot d.op.cmd) (mcDrole d.op.cmd) true)) g 0) g)

end Sys2Proof.Machine
end

