-- ==== Sys2Proof/Machine/Vector.lean ====
section
/-! DEFINITION. The vector unit and the transcendental unit (R96 to R101, R103, R108). The spec gives VEC.OP's command
word no layout: the command carries the operation (log 17). -/

namespace Sys2Proof.Machine

/-! ### Vector registers -/

def vget (x : Grate) (r : Nat) : List Nat := (List.range 512).map (fun l => (Tab.get 0 x.vregs (r * 512 + l)).toNat)

def vput (x : Grate) (r : Nat) (ws : List Nat) : Grate :=
  { x with vregs := (ws.zipIdx).foldl (fun t e => Tab.put 0 t (r * 512 + e.2) (BitVec.ofNat 32 e.1)) x.vregs }

def vputLane (x : Grate) (r l v : Nat) : Grate := { x with vregs := Tab.put 0 x.vregs (r * 512 + l) (BitVec.ofNat 32 v) }

/-- The 2 KiB of a register as bytes. -/
def vbytes (x : Grate) (r : Nat) : List Byte := (vget x r).flatMap (toBytes 4)

/-- Bytes written from byte 0 of a register; the rest of the register stays (log 17). -/
def vputBytes (x : Grate) (r : Nat) (bs : List Byte) : Grate :=
  let all := bs ++ (vbytes x r).drop bs.length
  vput x r ((chunks 4 512 all).map ofBytes)

/-- Elements of `bits` bits packed in ascending order (R38), as bytes. -/
def packElems (bits : Nat) (es : List Nat) : List Byte :=
  toBytes (es.length * bits / 8) (es.zipIdx.foldl (fun v e => v + (e.1 % 2 ^ bits) * 2 ^ (e.2 * bits)) 0)

/-! ### Results and flags of a list of lanes -/

def lanes1 (f : Nat → Nat × FlagSet) (a : List Nat) : List Nat × FlagSet :=
  let rs := a.map f
  (rs.map (·.1), rs.foldl (fun fl r => flagsOr fl r.2) {})

def lanes2 (f : Nat → Nat → Nat × FlagSet) (a b : List Nat) : List Nat × FlagSet :=
  let rs := List.zipWith f a b
  (rs.map (·.1), rs.foldl (fun fl r => flagsOr fl r.2) {})

def lanes3 (f : Nat → Nat → Nat → Nat × FlagSet) (a b c : List Nat) : List Nat × FlagSet :=
  let rs := List.zipWith (fun x yz => f x yz.1 yz.2) a (List.zip b c)
  (rs.map (·.1), rs.foldl (fun fl r => flagsOr fl r.2) {})

/-- One level of a pairwise reduction (R98). -/
def reduceLevel (f : Nat → Nat → Nat × FlagSet) : List Nat → List Nat × FlagSet
  | x :: y :: rest =>
    let (z, fl) := f x y
    let (zs, fl') := reduceLevel f rest
    (z :: zs, flagsOr fl fl')
  | xs => (xs, {})

/-- A lane reduction in tree order, by fuel. -/
def reduceTree (f : Nat → Nat → Nat × FlagSet) : Nat → List Nat → Nat × FlagSet
  | _, [] => (0, {})
  | _, [x] => (x, {})
  | 0, x :: _ => (x, {})
  | n + 1, xs =>
    let (ys, fl) := reduceLevel f xs
    let (r, fl') := reduceTree f n ys
    (r, flagsOr fl fl')

/-- A lane reduction in linear order. -/
def reduceLinear (f : Nat → Nat → Nat × FlagSet) : List Nat → Nat × FlagSet
  | [] => (0, {})
  | x :: xs => xs.foldl (fun r y => let (z, fl) := f r.1 y; (z, flagsOr r.2 fl)) (x, {})

/-! ### One operation -/

/-- What a vector operation does to its grate: an integrity error, or the registers and flags after it. -/
inductive VecRes where
  | integ (e : IntegErr)
  | done (x : Grate) (fl : FlagSet)
  deriving DecidableEq, Repr

/-- The random bits of element i of an instruction with a counter base, under the key it was issued with (R97, R61). -/
def vrand (key : Nat) (m : RMode) (base : W64) (i : Nat) : Nat := if m = .sr then srBits key (base.toNat + i) else 0

/-- FP32 lanes converted to a format (Table 3.7). -/
def vconvert (key : Nat) (o : OFmt) (m : RMode) (sat : Bool) (base : W64) (a : List Nat) : List Nat × FlagSet :=
  let rs := a.zipIdx.map (fun e => deliver o m (vrand key m base e.2) sat (fpDecode e.1))
  (rs.map (·.1), rs.foldl (fun fl r => flagsOr fl r.2) {})

/-- The value an element of an output format holds. -/
def outDecode (o : OFmt) (v : Nat) : Num := match o with | .int32 => intNum (toInt 32 v) 0 | _ => floatDecode (floatOfO o) v

/-- Whether a conversion's narrow side is one of Table 3.7's. -/
def convFormat (o : OFmt) : Bool := match o with | .fp32 => false | .accWord => false | _ => true

/-- MX element formats of a quantise (R39, R99). -/
def mxFormat (f : Fmt) : Bool := match f with | .e4m3 | .e5m2 | .e3m2 | .e2m3 | .e2m1 | .mxint8 => true | _ => false

/-- One block quantised: its elements, its scale, flags (R99); the pairs are (FP32 pattern, element index). -/
def quantBlock (key : Nat) (f : Fmt) (m : RMode) (base : W64) (blk : List (Nat × Nat)) : List Nat × Nat × FlagSet :=
  let sc := blockScale f (blk.map (fun e => fpDecode e.1))
  let es : List (Nat × FlagSet) := blk.map (fun (e : Nat × Nat) =>
    if sc.1 = 255 then ((Config.quantUnderNan f (BitVec.ofNat 32 e.1)).toNat, {})
    else quantElem f m (vrand key m base e.2) sc.1 (fpDecode e.1))
  (es.map (·.1), sc.1, es.foldl (fun fl r => flagsOr fl r.2) sc.2)

/-- Quantisation in blocks of 32: elements, scales, flags (R99). -/
def vquantise (key : Nat) (f : Fmt) (m : RMode) (base : W64) (a : List Nat) : List Nat × List Nat × FlagSet :=
  let blocks := (chunks 32 16 (a.zipIdx)).map (quantBlock key f m base)
  (blocks.flatMap (·.1), blocks.map (·.2.1), blocks.foldl (fun fl b => flagsOr fl b.2.2) {})

/-- The 64 accumulator words of a register. -/
def vwords (x : Grate) (r : Nat) : List Acc := (chunks 32 64 (vbytes x r)).map (fun b => accDecode (ofBytes b))

/-- Words of two registers merged in pairs (R51, R64, R70). -/
def vmerge : List Acc → List Acc → Except IntegErr (List Acc)
  | a :: as, b :: bs => match accMerge a b with
    | .error e => .error e
    | .ok z => match vmerge as bs with
      | .error e => .error e
      | .ok zs => .ok (z :: zs)
  | _, _ => .ok []

def checkAll : List Acc → Option IntegErr
  | [] => none
  | x :: xs => match accCheck x with | some e => some e | none => checkAll xs

/-- Whether a mask word selects the first operand: the words a compare writes do as it found; any other word is open
(log 6). -/
def selects (m : W32) : Bool :=
  if m = Config.maskWord true then true else if m = Config.maskWord false then false else Config.maskChoice m

/-- Which use an operation makes of its RM field: it rounds under it, SR among its modes or not; or it rounds nothing; or it has no
such field (R96, R97, Table 3.7; a maximum reduction rounds nothing). -/
inductive RmUse where
  | sr | plain | unused | absent
  deriving DecidableEq, Repr

def rmUse : VecOp → RmUse
  | .convert _ _ _ _ _ => .sr
  | .unconvert _ _ _ _ => .sr
  | .quantise _ _ _ _ _ => .sr
  | .accRead _ _ _ _ _ _ => .sr
  | .add _ _ _ => .plain
  | .sub _ _ _ => .plain
  | .mul _ _ _ => .plain
  | .fma _ _ _ _ => .plain
  | .div _ _ _ => .plain
  | .sqrt _ _ => .plain
  | .reduceSum _ _ _ _ => .plain
  | .transc _ _ _ => .absent
  | .minimum _ _ _ => .unused
  | .maximum _ _ _ => .unused
  | .compare _ _ _ _ => .unused
  | .select _ _ _ _ => .unused
  | .negate _ _ => .unused
  | .absolute _ _ => .unused
  | .copySign _ _ _ => .unused
  | .reduceMax _ _ _ _ => .unused
  | .accMerge _ _ _ => .unused

/-- The rounding mode with which an operation is queued, DYN resolved; none where its RM field makes it illegal: 0b101 on an operation
that does not permit SR, a reserved encoding on one that rounds (R62, R97; log 132). -/
def vecMode (op : VecOp) (rm : BitVec 3) (status : W32) : Option RMode :=
  match rmUse op with
  | .sr => rmDecode rm.toNat status
  | .plain => if rm = 5 then none else match rmDecode rm.toNat status with | some .sr => none | m => m
  | .unused => if rm = 5 then none else some .rne
  | .absent => some .rne

/-- Whether an operation names formats of Table 3.7. -/
def vecFormatOk : VecOp → Bool
  | .convert o _ _ _ _ => convFormat o
  | .unconvert o _ _ _ => convFormat o
  | .quantise f _ _ _ _ => mxFormat f
  | _ => true

/-- The flags that the merges of a VEC.OP raise: SP where an input word has it, WN where a node rounds (Table 2.8). -/
def mergeFlags (as bs : List Acc) : FlagSet :=
  { sp := as.any (·.sp) || bs.any (·.sp),
    wn := (List.zipWith (fun a b => nodeRounds a.mode a b) as bs).any id }

/-- One operation of Table 3.7 or 3.8, under its rounding mode and the rounding key of its issue. -/
def vecEval (x : Grate) (op : VecOp) (m : RMode) (key : Nat) : VecRes :=
  let fin2 := fun (vd : Fin 32) (r : List Nat × FlagSet) => VecRes.done (vput x vd r.1) r.2
  match op with
  | .add vd va vb => fin2 vd (lanes2 (fpAdd m) (vget x va) (vget x vb))
  | .sub vd va vb => fin2 vd (lanes2 (fpSub m) (vget x va) (vget x vb))
  | .mul vd va vb => fin2 vd (lanes2 (fpMul m) (vget x va) (vget x vb))
  | .fma vd va vb vc => fin2 vd (lanes3 (fpFma m) (vget x va) (vget x vb) (vget x vc))
  | .div vd va vb => fin2 vd (lanes2 (fpDiv m) (vget x va) (vget x vb))
  | .sqrt vd va => fin2 vd (lanes1 (fpSqrt m) (vget x va))
  | .minimum vd va vb => fin2 vd (lanes2 (fpMinMax false) (vget x va) (vget x vb))
  | .maximum vd va vb => fin2 vd (lanes2 (fpMinMax true) (vget x va) (vget x vb))
  | .compare c vd va vb =>
    fin2 vd (lanes2 (fun a b => let (r, fl) := fpCompare c a b; ((Config.maskWord r).toNat, fl)) (vget x va) (vget x vb))
  | .select vd vm va vb =>
    fin2 vd (lanes3 (fun m a b => (if selects (BitVec.ofNat 32 m) then a else b, {})) (vget x vm) (vget x va)
      (vget x vb))
  | .negate vd va => fin2 vd (lanes1 (fun a => (a ^^^ 0x80000000, {})) (vget x va))
  | .absolute vd va => fin2 vd (lanes1 (fun a => (a % 2 ^ 31, {})) (vget x va))
  | .copySign vd va vb => fin2 vd (lanes2 (fun a b => (a % 2 ^ 31 + b / 2 ^ 31 * 2 ^ 31, {})) (vget x va) (vget x vb))
  | .convert o sat base vd va =>
    let (vs, fl) := vconvert key o m sat base (vget x va)
    .done (vputBytes x vd (vs.flatMap (toBytes (OFmt_bytes o)))) fl
  | .unconvert o base vd va =>
    let es := (chunks (OFmt_bytes o) 512 ((vbytes x va).take (512 * OFmt_bytes o))).map ofBytes
    let rs := es.zipIdx.map (fun e => deliver .fp32 m (vrand key m base e.2) false (outDecode o e.1))
    .done (vput x vd (rs.map (·.1))) (rs.foldl (fun fl r => flagsOr fl r.2) {})
  | .quantise f base vd vs va =>
    let (es, sc, fl) := vquantise key f m base (vget x va)
    .done (vputBytes (vputBytes x vd (packElems (Fmt_bits f) es)) vs (packElems 8 sc)) fl
  | .reduceSum tree vd va lane =>
    let (r, fl) := if tree then reduceTree (fpAdd m) 9 (vget x va) else reduceLinear (fpAdd m) (vget x va)
    .done (vputLane x vd lane r) fl
  | .reduceMax tree vd va lane =>
    let (r, fl) := if tree then reduceTree (fpMinMax true) 9 (vget x va) else reduceLinear (fpMinMax true) (vget x va)
    .done (vputLane x vd lane r) fl
  | .accMerge vd va vb =>
    match vmerge (vwords x va) (vwords x vb) with
    | .error e => .integ e
    | .ok zs => .done (vputBytes x vd (zs.flatMap (fun z => toBytes 32 (accEncode z)))) (mergeFlags (vwords x va) (vwords x vb))
  | .accRead o sat t base vd va =>
    let ws := vwords x va
    match checkAll ws with
    | some e => .integ e
    | none =>
      let rs := ws.zipIdx.map (fun e => accRead o m (vrand key m base e.2) sat (toInt 8 t.toNat) e.1)
      .done (vputBytes x vd (rs.flatMap (fun r => toBytes (OFmt_bytes o) r.1))) (rs.foldl (fun fl r => flagsOr fl r.2) {})
  | .transc f vd va => fin2 vd (lanes1 (transcEval f) (vget x va))

/-! ### The vector queue at issue (R104, R108) -/

def vkey (x : Grate) : Nat := x.keyLo.toNat + x.keyHi.toNat * 2 ^ 64

/-- A vector or transcendental instruction enters the queue of 16. -/
def vecQueue (s : State) (p : Site) (w : VecWork) (find : EccFind) : State :=
  let x := s.gr p.g
  let v : VecInstr := { seq := x.issued, pc := p.pc, insn := p.insn, work := w, key := vkey x, find := find }
  s.setGr p.g { x with vecQ := x.vecQ ++ [v], issued := x.issued + 1, pc := nextPc p }

def vecFull (x : Grate) : Bool := decide (16 ≤ x.vecQ.length)

/-- VEC.OP (R96 to R101, R104, R108): queued, or stalled while the queue is full, or illegal. -/
def execVecOp (p : Site) (i : VecInsn) (find : EccFind) (s : State) : Res :=
  let x := s.gr p.g
  if !(canIssue x) then .refused .agentNotReady
  else if vecFull x then .next s
  else match vecFormatOk i.op, vecMode i.op i.rm x.status with
  | true, some m => .next (vecQueue s p (.op i.op m) find)
  | _, _ => .next (haltAt s p 1)

def vecSlot (rs1 : W64) : Nat := field rs1.toNat 0 8
def vecOff (rs1 : W64) : Nat := field rs1.toNat 8 18 * 32

/-- The checks of a vector load or store at issue: an offset, or the exception (R119, R131, R133). -/
def vecSpan (s : State) (p : Site) (rs1 : W64) (role : Nat) (write : Bool) : Except State Nat :=
  let x := s.gr p.g
  match slotSpan x (vecSlot rs1) (vecOff rs1) 2048, roleCheck x (vecSlot rs1) role write with
  | none, _ => .error (haltAt s p 1)
  | _, .illegal => .error (haltAt s p 1)
  | _, .breach => .error (haltAt s p 5 (breachFields s p.g (vecSlot rs1)))
  | some off, .ok => .ok off

/-- VEC.LOAD (R108): 2 KiB of a slot into a vector register. The instruction's layout gives no role field: the command
carries the role (log 17). -/
def execVecLoad (p : Site) (rd : Fin 32) (rs1 : W64) (role : BitVec 2) (find : EccFind) (s : State) : Res :=
  if !(canIssue (s.gr p.g)) then .refused .agentNotReady
  else if vecFull (s.gr p.g) then .next s
  else match vecSpan s p rs1 role.toNat false with
  | .error s => .next s
  | .ok off => .next (vecQueue s p (.load rd off (vecSlot rs1) role.toNat) find)

/-- VEC.STORE (R108): 2 KiB of a vector register into a slot. -/
def execVecStore (p : Site) (rs2 : Fin 32) (rs1 : W64) (role : BitVec 2) (find : EccFind) (s : State) : Res :=
  if !(canIssue (s.gr p.g)) then .refused .agentNotReady
  else if vecFull (s.gr p.g) then .next s
  else match vecSpan s p rs1 role.toNat true with
  | .error s => .next s
  | .ok off => .next (vecQueue s p (.store rs2 off (vecSlot rs1) role.toNat) find)

/-! ### The units at work (R103, R604; log 15) -/

/-- The array that an instruction's reads concern (Table 20.1): the scratchpad for a load, the vector registers otherwise. -/
def vecArray : VecWork → Nat
  | .load _ _ _ _ => 1
  | .store _ _ _ _ => 3
  | .op _ _ => 3

/-- Whether a load reads a scratchpad word that the code cannot correct (R116). -/
def vecBad (x : Grate) : VecWork → Bool
  | .load _ off _ _ => spadBad x false off 2048
  | _ => false

/-- The slot whose state an instruction that completes would break, if any. -/
def vecBroken (x : Grate) : VecWork → Option Nat
  | .load _ _ slot role => if roleBroken x slot role false then some slot else none
  | .store _ _ slot role => if roleBroken x slot role true then some slot else none
  | .op _ _ => none

/-- The oldest instruction of the vector queue is carried out, or fails (R71, R103, R116, R142, R604). -/
def vecStep (s : State) (g : Nat) : State :=
  let x := s.gr g
  match x.vecQ with
  | [] => s
  | v :: rest =>
    let s := s.setGr g { x with vecQ := rest }
    if decide (v.find = .uncorrectable) || vecBad x v.work then wordHalt s g v.seq v.pc v.insn (vecArray v.work)
    else match vecBroken x v.work with
    | some slot => guardLate s g v.seq v.pc v.insn slot
    | none =>
      let s := countFind s g v.find
      match v.work with
      | .op op m => match vecEval (s.gr g) op m v.key with
        | .integ e => haltLate s g v.seq { cause := 3, pc := v.pc, insn := v.insn, matching := some (integRec s g v.pc e) }
        | .done x fl => s.setGr g (forgetPast { x with status := raiseFlags x.status fl })
      | .load rd off slot role =>
        let (m, s) := unitView s g v.seq
        let x := vput (s.gr g) rd ((chunks 4 512 (Mem.read m (spadKey g off) 2048)).map ofBytes)
        bankConflicts (s.setGr g (forgetPast (roleDone x slot role false))) g 3
      | .store rs2 off slot role =>
        let s := spadWrite s g off (vbytes (s.gr g) rs2)
        bankConflicts (s.modGr g (fun x => forgetPast (roleDone x slot role true))) g 3

/-- The queue worked off, by fuel. -/
def vecSteps : Nat → State → Nat → State
  | 0, s, _ => s
  | n + 1, s, g => vecSteps n (vecStep s g) g

/-- The vector and transcendental units of a grate complete what is queued, and an exception that waited for them is entered. -/
def vecRun (s : State) (g : Nat) : State :=
  if (s.gr g).vecQ.isEmpty then s else settleHalt (vecSteps (s.gr g).vecQ.length s g) g

/-- The same of every grate. -/
def vecRunAll (s : State) : State := s.grates.foldl (fun s e => vecRun s e.1) s

end Sys2Proof.Machine
end

