-- ==== Sys2Proof/Machine/Waits.lean ====
section
/-! DEFINITION. UNIT.WAIT, event and tally waits, signals, schedule boundaries, ECALL and EBREAK (R123 to R128, R142,
R605, R264). -/

namespace Sys2Proof.Machine

/-- The end of a wait that drained the store buffer: a lost store halts with cause 0x0B (R264), otherwise issue goes
on as `k` says. -/
def afterDrain (s : State) (g : Nat) (pc : W64) (insn : W32) (k : State) : State :=
  if (s.gr g).lost.isEmpty then k else haltOn s g pc insn 0x0B

def stallAt (s : State) (p : Site) (w : Stall) : State := s.setGr p.g { s.gr p.g with stall := w, pc := nextPc p }
def resumeIssue (s : State) (g : Nat) : State := s.modGr g (fun x => { x with stall := .none })

/-- UNIT.WAIT (R123). -/
def execUnitWait (p : Site) (rs1 : W64) (s : State) : Res :=
  if !(canIssue (s.gr p.g)) then .refused .agentNotReady
  else .next (stallAt s p (.unitWait (BitVec.ofNat 5 rs1.toNat) p.pc p.insn))

/-- What a wait for work of every unit finds: the vector and transcendental units complete what is queued (log 15); an exception
they find is entered in place of the wait's end. -/
def afterUnits (s : State) (g : Nat) (k : State → Res) : Res :=
  let t := vecRun s g
  if (t.gr g).stall ≠ (s.gr g).stall then .next t
  else if allDone (t.gr g) then k t
  else .refused .notPending

/-- The awaited units are complete. -/
def execUnitWaitMet (g : GrateNo) (s : State) : Res :=
  match (s.gr g).stall with
  | .unitWait m pc insn =>
    let t := if m.getLsbD 2 || m.getLsbD 3 then vecRun s g else s
    if (t.gr g).stall ≠ (s.gr g).stall then .next t
    else if unitsDone (t.gr g) m then
      .next (if m.getLsbD 4 then afterDrain t g pc insn (resumeIssue t g) else resumeIssue t g)
    else .refused .notPending
  | _ => .refused .notPending

/-- EVENT.SIGNAL: rs1 names grate [6:0] and counter [12:8], rs2 the increment (R125). -/
def execEventSignal (p : Site) (rs1 rs2 : W64) (s : State) : Res :=
  if !(canIssue (s.gr p.g)) then .refused .agentNotReady
  else .next (stallAt s p (.signal (field rs1.toNat 0 7) (field rs1.toNat 8 5) rs2 p.pc p.insn))

/-- The signal takes effect, or halts the signaller with cause 0x0C (R125). -/
def execEventSignalEffect (g : GrateNo) (s : State) : Res :=
  let x := s.gr g
  match x.stall with
  | .signal tg ctr inc pc insn =>
    afterUnits s g (fun s => .next (afterDrain s g pc insn
      (if signalOk s tg x.ctx.toNat then addEvent (resumeIssue s g) tg ctr inc else haltOn s g pc insn 0x0C)))
  | _ => .refused .notPending

/-- EVENT.WAIT (R126). -/
def execEventWait (p : Site) (rs1 rs2 : W64) (s : State) : Res :=
  if !(canIssue (s.gr p.g)) then .refused .agentNotReady
  else .next (stallAt s p (.eventWait (field rs1.toNat 0 5) rs2 s.elapsed p.pc p.insn))

/-- The counter has reached its target: an acquire (R126, R249). -/
def execEventWaitMet (g : GrateNo) (s : State) : Res :=
  let x := s.gr g
  match x.stall with
  | .eventWait ctr target _ _ _ =>
    if target.toNat ≤ (Tab.get 0 x.events ctr).toNat then .next (s.setGr g { x with stall := .none, readBuf := [] })
    else .refused .notPending
  | _ => .refused .notPending

/-- TALLY.WAIT: rs1 names the counter [11:0] and the kind [12] (R126). -/
def execTallyWait (p : Site) (rs1 rs2 : W64) (s : State) : Res :=
  if !(canIssue (s.gr p.g)) then .refused .agentNotReady
  else .next (stallAt s p (.tallyWait (field rs1.toNat 0 12) (bitAt rs1.toNat 12) rs2 s.elapsed p.pc p.insn))

/-- The tally counter, read for the program's context, has reached its target (R259, R260). -/
def execTallyWaitMet (g : GrateNo) (s : State) : Res :=
  let x := s.gr g
  match x.stall with
  | .tallyWait ctr pkts target _ _ _ =>
    if target.toNat ≤ tallyRead s ctr x.ctx.toNat pkts then .next (s.setGr g { x with stall := .none, readBuf := [] })
    else .refused .notPending
  | _ => .refused .notPending

/-- Whether a wait begun at a tick has outlasted CSR 0x804 (R127). -/
def waitedOut (s : State) (x : Grate) (since : Nat) : Bool :=
  decide (x.waitLimit ≠ 0) && decide (x.waitLimit.toNat < s.elapsed - since)

/-- A wait outlasts its limit: cause 0x06 with its target and counter (R127, Table 20.5). -/
def execWaitTimeout (g : GrateNo) (s : State) : Res :=
  let x := s.gr g
  match x.stall with
  | .eventWait ctr target since pc insn =>
    if waitedOut s x since then .next (haltOn s g pc insn 6 [(352, 64, target.toNat), (416, 12, ctr), (428, 1, 0)])
    else .refused .notPending
  | .tallyWait ctr _ target since pc insn =>
    if waitedOut s x since then .next (haltOn s g pc insn 6 [(352, 64, target.toNat), (416, 12, ctr), (428, 1, 1)])
    else .refused .notPending
  | _ => .refused .notPending

/-- EVENT.READ: no acquire (R108, R250). -/
def execEventRead (p : Site) (rd : Fin 32) (rs1 : W64) (s : State) : Res :=
  let x := s.gr p.g
  if !(canIssue x) then .refused .agentNotReady
  else .next (s.setGr p.g { setX x rd (Tab.get 0 x.events (field rs1.toNat 0 5)) with pc := nextPc p })

/-- SCHED.BOUNDARY waits for everything (R128). -/
def execSchedBoundary (p : Site) (s : State) : Res :=
  if !(canIssue (s.gr p.g)) then .refused .agentNotReady
  else .next (stallAt s p (.boundary p.pc p.insn))

/-- STOPPED at a boundary or after ECALL: STOPREQ clears itself (R586). -/
def stopGrate (s : State) (g : Nat) : State := s.modGr g (fun x => { x with st := .stopped, stall := .none, stopreq := false })

/-- The boundary is reached: STOPPED where a stop is requested, otherwise on (R128). -/
def execBoundaryReached (g : GrateNo) (s : State) : Res :=
  let x := s.gr g
  match x.stall with
  | .boundary pc insn =>
    afterUnits s g (fun s => .next (afterDrain s g pc insn (if x.stopreq then stopGrate s g else resumeIssue s g)))
  | _ => .refused .notPending

/-- ECALL waits as a boundary does (R605); its PC is then past it (log 130). -/
def execEcall (p : Site) (s : State) : Res :=
  if !(canIssue (s.gr p.g)) then .refused .agentNotReady
  else .next (stallAt s p (.ecall p.pc p.insn))

/-- The program has ended: STOPPED, and its LAUNCH completes with success (R357, R605). -/
def execEcallStop (g : GrateNo) (s : State) : Res :=
  let x := s.gr g
  match x.stall with
  | .ecall pc insn =>
    afterUnits s g (fun s => .next (afterDrain s g pc insn (endLaunch (stopGrate s g) g 0 0)))
  | _ => .refused .notPending

/-- EBREAK: cause 0x08, or debug halt under invasive debug (Table 4.15, R541). -/
def execEbreak (p : Site) (s : State) : Res :=
  let x := s.gr p.g
  if !(canIssue x) then .refused .agentNotReady
  else if s.trust.level = 2 then .next (s.setGr p.g { x with pc := p.pc, debugHalt := true })
  else .next (haltAt s p 8)

end Sys2Proof.Machine
end

