-- ==== Sys2Proof/Machine/Scalar.lean ====
section
/-! DEFINITION. Scalar accesses, CSR writes and fences of the tile controllers (R104 to R113, R142, R239 to R252), fences of the
cores, and the events of store buffers (R253, R263 to R265, R604). -/

namespace Sys2Proof.Machine

/-! ### Answers to a tile controller -/

/-- The PC after a scalar access; a fetch does not advance it. -/
def accNext (a : TcAccess) : W64 :=
  match a.kind with | .fetch => a.pc | _ => a.pc + (if a.insn.toNat % 4 = 3 then 4 else 2)

/-- The right an access needs and the ACC of its records; LR needs the atomic right (Table 10.5). -/
def tcAcc : TcKind → Acc3
  | .load _ _ _ => .read | .store _ _ => .write | .amo _ _ _ _ => .atomic | .lr _ _ => .atomic | .sc _ _ _ => .atomic
  | .fetch => .fetch

def tcSize : TcKind → Nat
  | .load n _ _ => n | .store n _ => n | .amo _ n _ _ => n | .lr n _ => n | .sc n _ _ => n | .fetch => 1

/-- The cause with which a failed access halts (Table 20.6, Table 4.15). -/
def tileCause : Resp → Nat
  | .uncorr _ _ => 4 | .lost _ _ _ => 0x0B | _ => 0x0A

/-- The record of the matching kind (Table 20.6, R567). -/
def tileRec (s : State) (g ctx : Nat) (r : Resp) (acc : Acc3) (va pa : Nat) : Option Slot :=
  let ac : Nat × Nat × Nat := (256, 3, accCode acc)
  let mk := fun (kind code : Nat) (ovf : Bool) (d : List (Nat × Nat × Nat)) =>
    some (faultRec kind code ctx (.tile g) ovf (some va) s.tick.toNat pa (ac :: d))
  match r with
  | .decode c => mk 0x14 c false []
  | .remoteErr => mk 0x14 4 false []
  | .lost ovf ag t => mk 0x15 (if ovf then 2 else 1) ovf [(260, 4, ag), (320, 64, t)]
  | .uncorr c arr => mk 0x17 c false [(264, 8, arr)]
  | .targetLost => mk 0x17 4 false []
  | _ => none

/-- An access that fails at issue. -/
def tileFail (s : State) (g : Nat) (a : TcAccess) (r : Resp) (pa : Nat) : State :=
  haltOn s g a.pc a.insn (tileCause r) [] (tileRec s g (s.gr g).ctx.toNat r (tcAcc a.kind) a.va.toNat pa)

/-- The access stands still; it is tried again once what it waits for has happened. -/
def tileHold (s : State) (g : Nat) (a : TcAccess) : State := s.modGr g (fun x => { x with pc := a.pc, stall := .access a })

/-- The access is complete. -/
def tileDone (s : State) (g : Nat) (a : TcAccess) (rd : Nat) (v : W64) : State :=
  s.modGr g (fun x => { setX x rd v with pc := accNext a, stall := .none })

/-- A loaded value from the bytes of its line, under the store buffer (R239, R242). -/
def tileValue (s : State) (g : Nat) (pa n : Nat) (signed : Bool) (line : List Byte) : W64 :=
  extend signed (forward (s.gr g).sb pa ((line.drop (pa % 128)).take n))

/-! ### The read buffer (R249) -/

/-- The line of an address under one name. -/
def rbKey (pa : Nat) : Nat := canonPa pa / 128

def rbAdd (s : State) (g pa : Nat) (bs : List Byte) : State :=
  s.modGr g (fun x =>
    let l := x.readBuf.filter (fun e => decide (e.1 ≠ rbKey pa)) ++ [(rbKey pa, bs)]
    { x with readBuf := l.drop (l.length - 8) })

/-- A grate's own write drops the line from its read buffer, so that its own later load sees it (R242, log 21). -/
def rbDrop (s : State) (g pa : Nat) : State :=
  s.modGr g (fun x => { x with readBuf := x.readBuf.filter (fun e => decide (e.1 ≠ rbKey pa)) })

/-! ### Loads and fetches -/

def ownSpad (g pa : Nat) : Bool := match placeOf pa with | .spad g' _ => decide (g' = g) | _ => false

/-- How many funct3 values Table 4.1 lists, from 0 upward, in the opcode space of a word: custom-0 to custom-3; none for another
word (R108; the opcodes of the four spaces are RISC-V's, log 136). -/
def listedFunct3 (w : Nat) : Option Nat :=
  match field w 0 7 with | 0x0B => some 2 | 0x2B => some 3 | 0x5B => some 5 | 0x7B => some 6 | _ => none

/-- Whether a fetched word is an extension instruction that Table 4.1 does not list (R108). -/
def unlisted (w : Nat) : Bool := match listedFunct3 w with | some n => decide (n ≤ field w 12 3) | none => false

/-- A fetched line enters the instruction cache of 64 KiB, the oldest line giving place (R106, log 136). -/
def icAdd (s : State) (g pa : Nat) (line : List Byte) : State :=
  s.modGr g (fun x =>
    let l := x.icache.filter (fun e => decide (e.1 ≠ rbKey pa)) ++ [(rbKey pa, line)]
    { x with icache := l.drop (l.length - 512) })

/-- The instruction at a fetched address: its word is held, and an unlisted extension instruction is illegal (R108, R142). -/
def fetchDone (s : State) (g : Nat) (a : TcAccess) (pa : Nat) (line : List Byte) : State :=
  let w := ofBytes ((line.drop (pa % 128)).take 4)
  let s := tileDone s g a 0 0
  if unlisted w then haltOn s g a.va (BitVec.ofNat 32 w) 1 else s.modGr g (fun x => { x with ir := BitVec.ofNat 32 w })

/-- What the bytes of the line bring: the load's value, or the instruction fetched. -/
def tileGot (s : State) (g : Nat) (a : TcAccess) (pa : Nat) (line : List Byte) : State :=
  match a.kind with
  | .load n signed rd => tileDone s g a rd (tileValue s g pa n signed line)
  | .fetch => fetchDone (icAdd s g pa line) g a pa line
  | _ => tileDone s g a 0 0

/-- The line of an address as a grate's buffers hold it: the read buffer for a load, the instruction cache for a fetch (R106,
R249). -/
def heldLine (x : Grate) (a : TcAccess) (pa : Nat) : Option (List Byte) :=
  ((if a.kind = .fetch then x.icache else x.readBuf).find? (fun e => decide (e.1 = rbKey pa))).map (·.2)

/-- A read of the line of an address: from the read buffer or the instruction cache, from the package, or asked of another module
or a host (R106, R242, R249, R28, R29). -/
def tileRead (s : State) (g : Nat) (a : TcAccess) (pa : Nat) : State :=
  let x := s.gr g
  let ctx := x.ctx.toNat
  let base := pa / 128 * 128
  let load := decide (a.kind ≠ .fetch)
  match heldLine x a pa with
  | some line => tileGot s g a pa line
  | none => match placeOf pa with
    | .remote p off =>
      if !(remoteBacked s p) then tileFail s g a (.decode 1) pa
      else match askRemote s (.tile g) ctx a.va.toNat p (off / 128 * 128) (.read 128) with
      | some (id, s) => s.modGr g (fun x => { x with pc := a.pc, stall := .remote a id })
      | none => tileFail s g a .targetLost pa
    | .host h off =>
      if !(hostBacked s h) then tileFail s g a (.decode 1) pa
      else
        let (id, s) := askHostRead s (.tile g) ctx a.va.toNat h (off / 128 * 128) 128
        s.modGr g (fun x => { x with pc := a.pc, stall := .remote a id })
    | _ =>
      let own : Bool := ownSpad g pa
      if own && decide (a.find = .uncorrectable) then tileFail s g a (.uncorr 3 1) pa else
      let (v, s) := if own then unitView (countFind s g a.find) g x.issued else (s.mem, s)
      match physRead s (.tile g) ctx base 128 with
      | (.ok, bs, s) =>
        let bs := if own then Mem.read v base 128 else bs
        tileGot (if own || !load then s else rbAdd s g pa bs) g a pa bs
      | (.wait, _, s) => tileHold s g a
      | (r, _, s) => tileFail s g a r pa

/-! ### AMO, LR, SC -/


def tileAmo (s : State) (g : Nat) (a : TcAccess) (pa n : Nat) (op : AmoOp) (rd : Nat) (v : W64) : State :=
  let ctx := (s.gr g).ctx.toNat
  if !(amoTier pa op) then tileFail s g a (.decode (if isDevice pa then 3 else 1)) pa
  else if sbTouches (s.gr g).sb pa n then tileHold s g a
  else if ownSpad g pa && decide (a.find = .uncorrectable) then tileFail s g a (.uncorr 3 1) pa
  else match placeOf pa, op with
  | .remote p off, .amo o =>
    if !(remoteBacked s p) then tileFail s g a (.decode 1) pa
    else match askRemote s (.tile g) ctx a.va.toNat p off (.atomic o n v.toNat 0) with
    | some (id, s) => s.modGr g (fun x => { x with pc := a.pc, stall := .remote a id })
    | none => tileFail s g a .targetLost pa
  | _, _ => match amoDo s (.tile g) ctx pa n op v.toNat with
    | (.ok, old, s) => tileDone (if ownSpad g pa then countFind s g a.find else rbDrop s g pa) g a rd (extend (decide (op ≠ .sc)) (toBytes n old))
    | (.wait, _, s) => tileHold s g a
    | (r, _, s) => tileFail s g a r pa

/-! ### One access -/

/-- A store to device space: a doorbell rings once the store buffer has drained (R31, R241); register space decodes to nothing
(R33). -/
def tileBell (s : State) (g : Nat) (a : TcAccess) (pa n : Nat) (v : W64) : State :=
  match placeOf pa with
  | .bell off =>
    if n ≠ 8 ∨ off % 8 ≠ 0 then tileFail s g a (.decode 3) pa
    else if !(s.gr g).sb.isEmpty then tileHold s g a
    else if h : g < 96 then
      let p : Site := { g := ⟨g, h⟩, pc := a.pc, insn := a.insn }
      tileDevice ((bellWrite s (.tile p) (off / 8) v).modGr g (fun x => { x with stall := .none })) p
    else s
  | _ => tileFail s g a (.decode 2) pa

/-- A translated access. -/
def tileAt (s : State) (g : Nat) (a : TcAccess) (pa : Nat) : State :=
  match a.kind with
  | .load _ _ _ => tileRead s g a pa
  | .fetch => tileRead s g a pa
  | .store n v =>
    let x := s.gr g
    if isDevice pa then tileBell s g a pa n v
    else if 8 ≤ x.sb.length then tileHold s g a
    else
      let e : SbEnt := { seq := x.issued, pc := a.pc, insn := a.insn, va := a.va, pa := pa, size := n, value := v, ctx := x.ctx.toNat }
      let s := s.setGr g { x with sb := x.sb ++ [e], pc := accNext a, stall := .none }
      if h : g < 96 then pumpSb s (.tile ⟨g, h⟩) else s
  | .amo op n rd v => tileAmo s g a pa n (.amo op) rd v
  | .lr n rd => tileAmo s g a pa n .lr rd 0
  | .sc n rd v => tileAmo s g a pa n .sc rd v

/-- A scalar access tried: alignment (R243; a misaligned access that its translation leads to device space meets the decode error of
R31 in place of the misalignment, log 133), translation (R301, R313), then the access itself. An access refused for want of
a context halts with cause 0x02 (R314, R317). -/
def tileTry (s : State) (g : Nat) (a : TcAccess) : State :=
  if a.va.toNat % tcSize a.kind ≠ 0 then
    (match xlate s (.tile g) (s.gr g).ctx.toNat a.va.toNat (tcAcc a.kind) with
     | (.ok pa, _) => if isDevice pa then tileFail s g a (.decode (match placeOf pa with | .bell _ => 3 | _ => 2)) pa
                      else haltOn s g a.pc a.insn 9
     | _ => haltOn s g a.pc a.insn 9)
  else if inScope s (s.gr g).ctx.toNat a.va.toNat then tileHold s g a
  else match xlate s (.tile g) (s.gr g).ctx.toNat a.va.toNat (tcAcc a.kind) with
  | (.ok pa, s) => tileAt s g a pa
  | (.blocked, s) => tileHold s g a
  | (.refused, s) => haltOn s g a.pc a.insn 2

/-- A stalled access tried again, where no walk and no fault holds it. -/
def tileRetry (s : State) (g : Nat) : State :=
  match (s.gr g).stall with
  | .access a => if xlatBusy s (.tile g) then s else tileTry s g a
  | _ => s

/-- Whether a grate may send an access: it issues, or the same access stands still and nothing under way will end that. -/
def accReady (s : State) (g : Nat) (a : TcAccess) : Bool :=
  canIssue (s.gr g) || (decide ((s.gr g).stall = .access a) && !xlatBusy s (.tile g))

/-- TC_LOAD; `fetch` marks an instruction fetch (Table 10.7 ACC 3). -/
def execTcLoad (p : Site) (va : W64) (lg : BitVec 2) (signed : Bool) (rd : Fin 32) (fetch : Bool) (find : EccFind) (s : State) : Res :=
  let a : TcAccess := { pc := p.pc, insn := p.insn, va := va, kind := if fetch then .fetch else .load (2 ^ lg.toNat) signed rd, find := find }
  if !(accReady s p.g a) then .refused .agentNotReady
  else .next (settleAll (tileTry s p.g a))

/-- TC_STORE: into the store buffer of 8, or stalled while it is full (R107, R240). -/
def execTcStore (p : Site) (va : W64) (lg : BitVec 2) (value : W64) (s : State) : Res :=
  let a : TcAccess := { pc := p.pc, insn := p.insn, va := va, kind := .store (2 ^ lg.toNat) value }
  if !(accReady s p.g a) then .refused .agentNotReady
  else .next (settleAll (tileTry s p.g a))

def tcAmoKind (wide : Bool) (op : AmoOp) (value : W64) (rd : Nat) : TcKind :=
  let n := if wide then 8 else 4
  match op with
  | .amo o => .amo o n rd value
  | .lr => .lr n rd
  | .sc => .sc n rd value

/-- TC_AMO (R242, R245 to R247). With rl it waits for the store buffer; with aq the read buffer is emptied. -/
def execTcAmo (p : Site) (va : W64) (wide : Bool) (op : AmoOp) (value : W64) (rd : Fin 32) (order : AmoOrder) (find : EccFind)
    (s : State) : Res :=
  let a : TcAccess := { pc := p.pc, insn := p.insn, va := va, kind := tcAmoKind wide op value rd, find := find }
  if op = .amo .cas then .fault .illFormed
  else if !(accReady s p.g a) then .refused .agentNotReady
  else if order.rl && !(s.gr p.g).sb.isEmpty then .next s
  else
    let s := if order.aq then s.modGr p.g (fun x => { x with readBuf := [] }) else s
    .next (settleAll (tileTry s p.g a))

/-! ### CSR writes (Table 4.5) -/

/-- A write of a custom CSR; none for a read-only CSR or a number the table does not list, which is an illegal instruction
(log 22). -/
def csrWrite (x : Grate) (csr : Nat) (v : W64) : Option Grate :=
  match csr with
  | 0x800 => some { x with status := BitVec.ofNat 32 v.toNat &&& statusWriteMask }
  | 0x801 => some { x with keyLo := v }
  | 0x802 => some { x with keyHi := v }
  | 0x803 => some { x with srBase := v }
  | 0x804 => some { x with waitLimit := BitVec.ofNat 48 v.toNat }
  | 0x805 => some (if v.getLsbD 0 then { x with conflicts := [] } else x)
  | _ => none

/-- What a read of a custom CSR of grate g brings; none for a number the table does not list. -/
def csrRead (x : Grate) (g csr : Nat) : Option W64 :=
  match csr with
  | 0x800 => some (BitVec.ofNat 64 x.status.toNat)
  | 0x801 => some x.keyLo
  | 0x802 => some x.keyHi
  | 0x803 => some x.srBase
  | 0x804 => some (BitVec.ofNat 64 x.waitLimit.toNat)
  | 0x805 => some 0
  | 0xCCC => some (BitVec.ofNat 64 g)
  | 0xCCD => some (BitVec.ofNat 64 x.ctx.toNat)
  | 0xCCE => some (BitVec.ofNat 64 (boolNat x.guardMode))
  | n => if 0xCC0 ≤ n ∧ n ≤ 0xCCB then some (BitVec.ofNat 64 (Tab.get 0 x.conflicts (n - 0xCC0)).toNat) else none

/-- The value that a CSR instruction writes over an old value. -/
def csrNew (op : CsrOp) (old v : W64) : W64 := match op with | .swap => v | .set => old ||| v | .clear => old &&& ~~~v

/-- TILE_CONTROLLER_CSR_WRITE (R62, R113): a CSR instruction reads its CSR into rd, and writes it unless it is a set or clear without
a source register (`writes` clear, as Zicsr has it); a number the table does not list or a write to a read-only CSR is an illegal
instruction (log 22). -/
def execTileControllerCsrWrite (p : Site) (i : CsrInsn) (value : W64) (s : State) : Res :=
  let x := s.gr p.g
  if !(canIssue x) then .refused .agentNotReady
  else match csrRead x p.g i.csr.toNat with
  | none => .next (haltAt s p 1)
  | some old =>
    if !i.writes && decide (i.op ≠ .swap) then .next (s.setGr p.g { setX x i.rd old with pc := nextPc p })
    else match csrWrite x i.csr.toNat (csrNew i.op old value) with
    | some x => .next (s.setGr p.g { setX x i.rd old with pc := nextPc p })
    | none => .next (haltAt s p 1)

/-! ### FENCE -/

/-- The end of a tile controller's FENCE; `read` where R is in the successor set (Table 8.2). -/
def fenceDone (s : State) (g : Nat) (read : Bool) : State :=
  s.modGr g (fun x => { x with stall := .none, readBuf := if read then [] else x.readBuf })

/-- FENCE (R238, R250, R252): of a core, W in the predecessor set (bit 0) waits for the store buffer and R (bit 1) for the earlier
loads; of a tile controller, whose loads are done when it goes on, W waits for the store buffer and R in the successor set empties
the read buffer. -/
def execFence (who : Actor) (pred succ : BitVec 4) (s : State) : Res :=
  match who with
  | .core h =>
    let x := s.ht h
    if !(hartReady s h) then .refused .agentNotReady
    else .next (hartDrained (s.setHt h { x with fence := some { stores := pred.getLsbD 0, loads := pred.getLsbD 1 } }) h)
  | .tile p =>
    let x := s.gr p.g
    let read := succ.getLsbD 1
    if !(canIssue x) then .refused .agentNotReady
    else if !(pred.getLsbD 0) then .next (fenceDone (s.setGr p.g { x with pc := nextPc p }) p.g read)
    else
      let s' := stallAt s p (.fence read p.pc p.insn)
      .next (if x.sb.isEmpty then afterDrain s' p.g p.pc p.insn (fenceDone s' p.g read) else s')

/-! ### A store leaves its buffer -/

/-- What a tile controller does once its store buffer has moved: a FENCE completes, a stalled access is tried again, an
exception is entered. -/
def tileSbMoved (s : State) (g : Nat) : State :=
  let x := s.gr g
  match x.stall with
  | .fence read pc insn => if x.sb.isEmpty then afterDrain s g pc insn (fenceDone s g read) else s
  | .access _ => tileRetry s g
  | .halting _ => settleHalt s g
  | _ => s

/-- The oldest store has left: the next one to another module is sent, and what waited for the buffer goes on. -/
def sbMoved (s : State) (w : Holder) : State :=
  let s := pumpSb s w
  match w with
  | .core h => hartDrained s h
  | .tile g => tileSbMoved s g

/-- The oldest store removed as a lost store (R263, R264). -/
def headLost (s : State) (w : Holder) : State :=
  match holderSb s w with
  | [] => s
  | e :: rest => sbMoved (setLost (setSb s w rest) w (holderLost s w ++ [lostOf s e])) w

def sentAs (id : Nat) (e : SbEnt) : Bool := match e.sent with | some (_, n) => decide (n = id) | none => false

/-- The error answer of a sent store (R263, R264). -/
def storeLost (s : State) (w : Holder) (id : Nat) : State :=
  sbMoved (setSb (dropReq s id) w ((holderSb s w).map (fun e => if sentAs id e then { e with lost := some (lostOf s e) } else e))) w

/-- A sent store acknowledged by its module (R253, R263). -/
def storeAcked (s : State) (w : Holder) (id : Nat) : State :=
  let t := setSb (dropReq s id) w ((holderSb s w).map (fun e => if sentAs id e then { e with ack := true } else e))
  sbMoved (match w with
    | .tile g => ((holderSb s w).filter (sentAs id)).foldl (fun s e => rbDrop s g e.pa) t
    | _ => t) w

/-- A tile controller's store that fails after it has left issue (R604). -/
def storeFailedLate (s : State) (g : Nat) (e : SbEnt) (r : Resp) : State :=
  haltLate s g e.seq { cause := tileCause r, pc := e.pc, insn := e.insn,
                       matching := tileRec s g e.ctx r .write e.va.toNat e.pa }

/-- The oldest store of a tile controller performed if it can be. -/
def tileStoreTry (s : State) (g : GrateNo) : State :=
  let w := Holder.tile g
  match (s.gr g).sb with
  | [] => s
  | e :: rest =>
    let left := fun (s : State) => setSb s w rest
    let bs := toBytes e.size e.value.toNat
    match placeOf e.pa with
    | .remote p _ => if remoteBacked s p then sbMoved s w else sbMoved (storeFailedLate (left s) g e (.decode 1)) w
    | .host l off =>
      if (s.host l).lost then headLost s w
      else if hostBacked s l then sbMoved (rbDrop (left (hostPosted s l off e.ctx bs)) g e.pa) w
      else sbMoved (storeFailedLate (left s) g e (.decode 1)) w
    | _ => match physWrite s (.tile g) e.ctx e.pa bs with
      | (.ok, s) => sbMoved (rbDrop (left s) g e.pa) w
      | (.wait, s) => s
      | (r, s) => sbMoved (storeFailedLate (left s) g e r) w

/-- The oldest store sent and not answered: when it was sent, and its request number. -/
def sentOf (s : State) (w : Holder) : Option (Nat × Nat) :=
  match (holderSb s w).find? (fun e => e.sent.isSome && !e.ack && e.lost.isNone) with | some e => e.sent | none => none

/-- STORE_PERFORMED: the oldest store is performed where its place allows it, its module acknowledges it, or its host port accepts it
(R253, R263). -/
def execStorePerformed (who : Holder) (s : State) : Res :=
  match holderSb s who with
  | [] => .refused .notPending
  | e :: _ => match e.sent, isRemote e.pa with
    | some (_, id), true => .next (settleAll (storeAcked s who id))
    | _, _ => match who with
      | .core h => .next (settleAll (coreStoreTry s h))
      | .tile g => .next (settleAll (tileStoreTry s g))

/-- Whether a store goes to a host that is lost or whose link is down. -/
def hostGone (s : State) (e : SbEnt) : Bool := match placeOf e.pa with | .host h _ => (s.host h).lost || !(s.host h).dlup | _ => false

/-- The oldest store that may receive an error response: one sent to another module, or to a host that is gone (R263). -/
def refusable (s : State) (w : Holder) : Option (Nat × Nat) :=
  match (holderSb s w).find? (fun e => e.sent.isSome && !e.ack && e.lost.isNone && (isRemote e.pa || hostGone s e)) with
  | some e => e.sent
  | none => none

/-- STORE_ERROR_RESPONSE: of the oldest such store that was sent and is not answered, or of an oldest store to a lost host
(R263). -/
def execStoreErrorResponse (who : Holder) (s : State) : Res :=
  match refusable s who, holderSb s who with
  | some (_, id), _ => .next (settleAll (storeLost s who id))
  | none, e :: _ => if hostGone s e then .next (settleAll (headLost s who)) else .refused .notPending
  | none, [] => .refused .notPending

/-- STORE_RESPONSE_TIMEOUT: 225,000 ticks after the store was sent (R263). -/
def execStoreResponseTimeout (who : Holder) (s : State) : Res :=
  match sentOf s who with
  | some (t, id) => if 225000 ≤ s.elapsed - t then .next (settleAll (storeLost s who id)) else .refused .notPending
  | none => .refused .notPending

end Sys2Proof.Machine
end

