-- ==== Sys2Proof/Machine/Engine.lean ====
section
/-! DEFINITION. What every engine does alike: translated reads and writes of its descriptor's extents, pieces, stalls, requests to
other modules and hosts, and the end of a descriptor (R248, R301, R313, R346 to R352, R361 to R367). -/

namespace Sys2Proof.Machine

/-! ### Engines and their jobs: key die × 64 + kind × 16 + index, kinds 0 inbound, 1 outbound, 2 mover, 3 Fuller -/

def jobKey (die kind idx : Nat) : Nat := die * 64 + kind * 16 + idx

def jobAgent (k : Nat) : Agent :=
  match k % 64 / 16 with
  | 0 => .copyIn (k / 64) (k % 16)
  | 1 => .copyOut (k / 64) (k % 16)
  | 2 => .mover (k / 64) (k % 16)
  | _ => .fuller (k / 64) (k % 16)

def agentJob : Agent → Option Nat
  | .copyIn d i => some (jobKey d 0 i)
  | .copyOut d i => some (jobKey d 1 i)
  | .mover d i => some (jobKey d 2 i)
  | .fuller d _ => some (jobKey d 3 0)
  | _ => none

/-- The lowest free engine of a kind on a die (R351). -/
def freeEngine (s : State) (die kind : Nat) : Option Nat :=
  ((List.range 8).find? (fun i => (s.job (jobKey die kind i)).isNone)).map (jobKey die kind)

/-- What an engine's part of its work brings: a value, a stall, or a failure with its status. -/
inductive AR (α : Type) where
  | ok (v : α) (s : State) (j : Job)
  | stall (s : State) (j : Job)
  | fail (status : Nat) (s : State) (j : Job)
  deriving DecidableEq, Repr

def AR.bind {α β : Type} (x : AR α) (f : α → State → Job → AR β) : AR β :=
  match x with
  | .ok v s j => f v s j
  | .stall s j => .stall s j
  | .fail st s j => .fail st s j

/-- What an attempt leaves in the job, whether it succeeds or fails. -/
def AR.note {α : Type} (x : AR α) (f : Job → Job) : AR α :=
  match x with
  | .ok v s j => .ok v s (f j)
  | .stall s j => .stall s j
  | .fail st s j => .fail st s (f j)

/-- A failed access of an engine, with its record (R569). -/
def engineFail {α : Type} (s : State) (k : Nat) (j : Job) (r : Resp) (acc : Acc3) (va pa : Nat) : AR α :=
  .fail (respStatus r) (respFault s r j.ctx (jobAgent k) acc (some va) pa) j

/-- A write that its target's module or host has lost, with its lost-store record (R264, Table 20.6). -/
def engineLost {α : Type} (s : State) (k : Nat) (j : Job) (status tt tgt va pa : Nat) : AR α :=
  .fail status (postLost s (jobAgent k) [{ tt := tt, tgt := tgt, block := pa / 32, va := BitVec.ofNat 64 va, ctx := j.ctx,
                                           tick := s.tick.toNat }]) j

/-! ### Translation of an extent -/

/-- One translation: a stall where a walk or a reply must come first (R313, R322). -/
def jobTrans (s : State) (k : Nat) (j : Job) (va : Nat) (acc : Acc3) : AR Nat :=
  let a := jobAgent k
  if inScope s j.ctx va then .stall s { j with wait := .walk }
  else match xlate s a j.ctx va acc with
  | (.ok pa, s) => .ok pa s j
  | (.blocked, s) =>
    .stall s { j with wait := match faultOf s a with | some f => .fault f.token | none => .walk }
  | (.refused, s) => .fail 0x0E s j

/-- The physical places of the line pieces of an extent: (virtual, physical, length). -/
def transChunks (k : Nat) (acc : Acc3) : List (Nat × Nat) → State → Job → AR (List (Nat × Nat × Nat))
  | [], s, j => .ok [] s j
  | (va, n) :: cs, s, j =>
    (jobTrans s k j va acc).bind (fun pa s j =>
      (transChunks k acc cs s j).bind (fun l s j => .ok ((va, pa, n) :: l) s j))

/-! ### Reads -/

/-- Data that has come back for a physical address. -/
def gatheredAt (j : Job) (pa n : Nat) : Option (List Byte) :=
  (j.gathered.find? (fun e => decide (e.1 = pa) && decide (n ≤ e.2.length))).map (fun e => e.2.take n)

/-- Whether a read of an address is on its way for the job. -/
def askedAt (s : State) (j : Job) (pa : Nat) : Bool :=
  s.reqs.any (fun r => decide (r.addr = pa) && decide (r.kind = .read) && j.reqs.contains r.id)

/-- A read of a piece in the package. A tile mover reads whole source lines through its staging buffer: of a line that it has read
for its descriptor, free bits say whether it is read again (R249, R250; log 138). -/
def localRead (s : State) (k : Nat) (acc : Acc3) (j : Job) (pa n : Nat) : Resp × List Byte × State × Job :=
  if k % 64 / 16 = 2 ∧ acc = .read then
    let line := canonPa pa / 128
    let part := fun (bs : List Byte) => (bs.drop (pa % 128)).take n
    let (v, s) := takeFree 1 s
    match j.staged.find? (fun e => decide (e.1 = line) && decide (v = 1)) with
    | some e => (.ok, part e.2, s, j)
    | none => match physRead s (jobAgent k) j.ctx (pa / 128 * 128) 128 with
      | (r, bs, s) => (r, part bs, s, { j with staged := j.staged.filter (fun e => decide (e.1 ≠ line)) ++ [(line, bs)] })
  else match physRead s (jobAgent k) j.ctx pa n with | (r, bs, s) => (r, bs, s, j)

/-- The pieces of an extent read under a right; those in other modules and hosts are asked for first, all of them, and the
engine stands still until they have come. -/
def readChunks (k : Nat) (acc : Acc3) : List (Nat × Nat) → State → Job → Bool → AR (List Byte)
  | [], s, j, wait => if wait then .stall s { j with wait := .remote } else .ok [] s j
  | (va, n) :: cs, s, j, wait =>
    (jobTrans s k j va acc).bind (fun pa s j =>
      let more := fun (s : State) (j : Job) (bs : List Byte) (w : Bool) =>
        (readChunks k acc cs s j w).bind (fun rest s j => .ok (bs ++ rest) s j)
      let asked := fun (x : Nat × State) => more x.2 { j with reqs := j.reqs ++ [x.1] } [] true
      match placeOf pa with
      | .remote p off =>
        match gatheredAt j pa n with
        | some bs => more s j bs wait
        | none =>
          if askedAt s j pa then more s j [] true
          else if !(remoteBacked s p) then engineFail s k j (.decode 1) .read va pa
          else match askRemote s (jobAgent k) j.ctx va p off (.read n) with
          | some x => asked x
          | none => engineFail s k j .targetLost .read va pa
      | .host h off =>
        match gatheredAt j pa n with
        | some bs => more s j bs wait
        | none =>
          if askedAt s j pa then more s j [] true
          else if (s.host h).lost then engineFail s k j .hostLost .read va pa
          else if !(hostBacked s h) then engineFail s k j (.decode 1) .read va pa
          else asked (askHostRead s (jobAgent k) j.ctx va h off n)
      | _ => match localRead s k acc j pa n with
        | (.ok, bs, s, j) => more s j bs wait
        | (.wait, _, s, _) => .stall s { j with wait := .run }
        | (r, _, s, _) => engineFail s k j r .read va pa)

def jobRead (s : State) (k : Nat) (j : Job) (va n : Nat) : AR (List Byte) := readChunks k .read (chunksOf va n) s j false

/-! ### Writes -/

/-- The first piece of a write that cannot be performed, with its answer; `wait` where a home holds a line. -/
def checkTargets (k : Nat) (j : Job) : List (Nat × Nat × Nat) → State → Option (Resp × Nat × Nat) × State
  | [], s => (none, s)
  | (va, pa, n) :: cs, s =>
    match placeOf pa with
    | .remote p off =>
      if !(remoteBacked s p) then (some (.decode 1, va, pa), s)
      else if positionDead s p || (pickLink s p off).isNone then (some (.targetLost, va, pa), s)
      else checkTargets k j cs s
    | .host h _ =>
      if (s.host h).lost then (some (.hostLost, va, pa), s)
      else if !(hostBacked s h) then (some (.decode 1, va, pa), s)
      else checkTargets k j cs s
    | _ => match chunkCheck s (jobAgent k) j.ctx .write pa n with
      | (.ok, s) => checkTargets k j cs s
      | (r, s) => (some (r, va, pa), s)

/-- One piece of bytes that has passed its checks performed or sent; `mk` none for a plain write, else the kind of a
merge (true: norm words). -/
def putTarget (k : Nat) (mk : Option Bool) (s : State) (j : Job) (va pa : Nat) (bs : List Byte) : State × Job :=
  match placeOf pa with
  | .remote p off =>
    match askRemote s (jobAgent k) j.ctx va p off (match mk with | none => .write bs | some n => .merge n bs) with
    | some (id, s) => (s, { j with reqs := j.reqs ++ [id] })
    | none => (s, j)
  | .host h off => (hostPosted s h off j.ctx bs true, { j with hostMask := j.hostMask ||| BitVec.ofNat 4 (2 ^ h) })
  | _ => (rawWrite (chunkDone s (jobAgent k) j.ctx .write pa bs.length) pa bs, j)

def putTargets (k : Nat) (mk : Option Bool) : List (Nat × Nat × Nat) → List Byte → State → Job → State × Job
  | [], _, s, j => (s, j)
  | (va, pa, n) :: cs, bs, s, j =>
    let (s, j) := putTarget k mk s j va pa (bs.take n)
    putTargets k mk cs (bs.drop n) s j

/-- The pieces of a failed write that may still have been performed, as free bits decide (R352, log 13); which were is noted. -/
def putSome (k : Nat) : List (Nat × Nat × Nat) → List Byte → State → Job → State × Job
  | [], _, s, j => (s, j)
  | (va, pa, n) :: cs, bs, s, j =>
    let (done, s) := match placeOf pa with
      | .remote _ _ => (false, s)
      | .host _ _ => (false, s)
      | _ => physWriteSome s (jobAgent k) j.ctx pa (bs.take n)
    putSome k cs (bs.drop n) s (if done then { j with wrote := j.wrote ++ [(va, pa, n)] } else j)

/-- The bytes of one piece written to their places, all or, where one of them fails, any of them. Writes to other modules
are answered later: the piece is then sent. `partly` says whether a failing piece may be partly written. -/
def jobPut (s : State) (k : Nat) (j : Job) (mk : Option Bool) (partly : Bool) (ts : List (Nat × Nat × Nat)) (bs : List Byte) :
    AR Unit :=
  let back := fun (s : State) => unitEnds s (jobAgent k) (ts.map (·.2))
  match checkTargets k j ts s with
  | (none, s) =>
    let (s, j) := putTargets k mk ts bs s j
    .ok () s { j with wrote := ts }
  | (some (.wait, _, _), s) => .stall (back s) { j with wait := .run }
  | (some (r, va, pa), s) =>
    let s := back s
    let (s, j) := if partly then putSome k ts bs s { j with wrote := [] } else (s, { j with wrote := [] })
    match r, placeOf pa with
    | .targetLost, .remote p _ => engineLost s k j 0x14 0 p va pa
    | .hostLost, .host h _ => engineLost s k j 0x15 1 h va pa
    | r, _ => engineFail s k j r .write va pa

def jobWrite (s : State) (k : Nat) (j : Job) (va : Nat) (bs : List Byte) (partly : Bool) : AR Unit :=
  (transChunks k .write (chunksOf va bs.length) s j).bind (fun ts s j => jobPut s k j none partly ts bs)

/-! ### The end of a descriptor on an engine -/

/-- The requests of a job that ends are given up: their late answers are discarded. -/
def dropJobReqs (s : State) (j : Job) : State :=
  { s with reqs := s.reqs.filter (fun r => !(j.reqs.contains r.id)) }

/-- A zero-length read of a host for a job (R365): a non-posted request with its own number, held under REQIDE as the writes
before it are (R534). -/
def askFlush (s : State) (k : Nat) (j : Job) (h : Nat) : Nat × State :=
  let id := s.nextReq
  let r : OutReq := { id := id, agent := jobAgent k, kind := .read, ctx := j.ctx, va := 0, target := h, toHost := true, addr := 0,
                      len := 0, since := s.elapsed }
  let s := { s with nextReq := id + 1, reqs := s.reqs ++ [r] }
  let l := s.host h
  if ideHeld s h then
    (id, s.setHost h { l with heldTlps := l.heldTlps ++ [.flush id j.ring j.desc.idx.toNat] })
  else (id, s.emit (.hostFlushRead h j.ring j.desc.idx.toNat))

/-- A job that has reached its ending; a success that wrote to hosts first reads from each of them (R365). -/
def endJob (s : State) (k : Nat) (j : Job) (e : Ending) : State :=
  let s := dropXlat (dropJobReqs s j) (jobAgent k)
  let flush := decide (e.status = 0) && decide (j.hostMask ≠ 0)
  let j' := { j with ending := some e, reqs := [], gathered := [], wait := if flush then EWait.flush else .run }
  if flush then
    let (s, ids) := ((List.range 4).filter (fun h => j.hostMask.getLsbD h)).foldl (fun (x : State × List Nat) h =>
      let (id, s) := askFlush x.1 k j h
      (s, x.2 ++ [id])) (s, [])
    s.setJob k (some { j' with reqs := ids })
  else s.setJob k (some j')

/-- What a step of a job leads to. -/
inductive Prog where
  | again (s : State) (j : Job)
  | stop (s : State)
  deriving DecidableEq, Repr

/-- The step of a job whose work has stalled, failed or gone on. -/
def progOf {α : Type} (k : Nat) (x : AR α) (f : α → State → Job → Prog) : Prog :=
  match x with
  | .ok v s j => f v s j
  | .stall s j => .stop (s.setJob k (some j))
  | .fail st s j => .stop (endJob s k j { status := st, done := j.done })

/-- After the writes of a piece: where answers are awaited the engine stands still, otherwise the piece is done and adds
n to DONE. -/
def pieceSent (k n : Nat) (s : State) (j : Job) : Prog :=
  if j.reqs.isEmpty then .again s { j with pos := j.pos + 1, done := j.done + n, gathered := [], sent := false, wait := .run }
  else .stop (s.setJob k (some { j with sent := true, wait := .remote }))

/-- Steps repeated while they go on; the fuel is at least the number of pieces. -/
def runSteps (step : State → Job → Prog) (k : Nat) : Nat → State → Job → State
  | 0, s, j => s.setJob k (some j)
  | n + 1, s, j => match step s j with
    | .again s j => runSteps step k n s j
    | .stop s => s

/-! ### The start of a descriptor -/

/-- The engine that runs a descriptor of a ring whose destination lies at an address: inbound for T0, T1 and T2 of its
die (R351, R143). -/
def inboundPlace (die pa : Nat) : Bool :=
  match placeOf pa with
  | .main d _ => decide (d = die) && decide (pa < mainSize)
  | .near d _ => decide (d = die)
  | .spad g _ => decide (g / 24 = die)
  | _ => false

/-- What the dispatch's translation of a destination brings (R351, R612): an engine kind, a stall of the ring, or a
refusal. -/
inductive Dispatch where
  | kind (inbound : Bool) (s : State)
  | stall (s : State)
  | refused (s : State)
  deriving DecidableEq, Repr

/-- A ring that starts nothing further until an invalidation is over, or until the walk or the reply that its own dispatch waits for has
come (R322, R612). -/
def stallRing (s : State) (rn : Nat) : State := s.setRq rn { s.rq rn with stalled := true }
def faultRing (s : State) (rn : Nat) : State := s.setRq rn { s.rq rn with stalled := true, faulting := true }

def dispatchKind (s : State) (rn va : Nat) (acc : Acc3) : Dispatch :=
  let r := s.ring rn
  let die := r.die.toNat
  if xlatBusy s (.dispatch die 0) then .stall s
  else if inScope s r.ctx.toNat va then .stall (stallRing s rn)
  else match xlate s (.dispatch die 0) r.ctx.toNat va acc with
  | (.ok pa, s) => .kind (inboundPlace die pa) s
  | (.blocked, s) => .stall (faultRing s rn)
  | (.refused, s) => .refused s

/-- A descriptor given to an engine of a kind, with its first steps; where none is free it waits (R351). -/
def startJob (s : State) (rn : Nat) (d : Desc) (kind : Nat) (run : State → Nat → Job → State) : Res :=
  let r := s.ring rn
  match freeEngine s r.die.toNat kind with
  | none => .next s
  | some k => .next (settleAll (run (takeStart s rn d) k { ring := rn, desc := d, ctx := r.ctx.toNat }))

/-! ### Whose turn it is (R351, R205) -/

/-- The ring that round-robin order of ring number takes next among some: the lowest from `from_` on, else the lowest. -/
def nextInTurn (from_ : Nat) (rs : List Nat) : Option Nat :=
  match (rs.filter (fun r => decide (from_ ≤ r))).min? with
  | some r => some r
  | none => rs.min?

/-- The rings of a die with a role. -/
def dieRings (s : State) (die role : Nat) : List Nat :=
  (s.rings.filter (fun e => e.2.v && !e.2.kind && decide (e.2.die.toNat = die) && decide (e.2.role.toNat = role))).map (·.1)

/-- The ring that a kind of a die's engines serves next: `served` holds one past the last one served. -/
def turnOf (s : State) (die kind : Nat) (rs : List Nat) : Option Nat := nextInTurn (Tab.get 0 s.served (4 * die + kind)) rs

def setServed (s : State) (die kind rn : Nat) : State := { s with served := Tab.put 0 s.served (4 * die + kind) (rn + 1) }

/-- The direction in which an engine ring's front descriptor could start now: it is startable and valid, and its destination's
translation is at hand. -/
def frontDir (s : State) (rn : Nat) : Option Bool :=
  match (s.rq rn).fetched.head? with
  | none => none
  | some d =>
    if isCopyOp (hdOp d.head) && (startable s rn (hdOp d.head)).isSome && !(descBad (s.ring rn) d.head || copyOpBad s d) then
      match dispatchKind s rn (copyOpDest d.head).1 (copyOpDest d.head).2 with
      | .kind inbound _ => some inbound
      | _ => none
    else none

/-- The ring from which a die's free engine of a direction takes its next descriptor (R351, log 144). -/
def copyTurn (s : State) (die : Nat) (inbound : Bool) : Option Nat :=
  turnOf s die (if inbound then 0 else 1) ((dieRings s die 0).filter (fun rn => decide (frontDir s rn = some inbound)))

/-- A descriptor of a copy-engine operation started: invalid ones end at once; the destination chooses the direction; it waits while no
engine is free or another ring has its turn. -/
def startCopyOp (s : State) (rn op : Nat) (run : State → Nat → Job → State) : Res :=
  match startable s rn op with
  | none => .refused .notPending
  | some d =>
    if descBad (s.ring rn) d.head || copyOpBad s d then .next (endAtStart s rn d 3)
    else
      let die := (s.ring rn).die.toNat
      match dispatchKind s rn (copyOpDest d.head).1 (copyOpDest d.head).2 with
      | .stall s => .next s
      | .refused s => .next (endAtStart s rn d 0x0E)
      | .kind inbound s' =>
        let kind := if inbound then 0 else 1
        if copyTurn s die inbound = some rn ∧ (freeEngine s die kind).isSome then startJob (setServed s' die kind rn) rn d kind run
        else .next s'

end Sys2Proof.Machine
end

