-- ==== Sys2Proof/Machine/CopyOps.lean ====
section
/-! DEFINITION. COPY, INLINE and ATOMIC on the copy engines (R350 to R353, R356, R174). -/

namespace Sys2Proof.Machine

/-! ### COPY -/

/-- The destination extent of piece p: 4 KiB pieces of the destination in ascending order (R352, log 26). -/
def pieceStart (daddr p : Nat) : Nat := if p = 0 then daddr else (daddr / 4096 + p) * 4096
def pieceEnd (daddr len p : Nat) : Nat := min (daddr + len) ((daddr / 4096 + p + 1) * 4096)
def pieceCount (daddr len : Nat) : Nat := (daddr + len - 1) / 4096 - daddr / 4096 + 1

/-- An extent cut at 64 KiB page boundaries, by fuel. -/
def pageChunks : Nat → Nat → Nat → List (Nat × Nat)
  | 0, _, _ => []
  | f + 1, a, n => if n = 0 then [] else
      let k := min n (0x10000 - a % 0x10000)
      (a, k) :: pageChunks f (a + k) (n - k)

/-- The bytes of source places as memory stood at the start of the descriptor. -/
def beforeBytes (m : Mem) (cur : List Byte) : List (Nat × Nat × Nat) → List Byte
  | [] => []
  | (_, pa, n) :: cs =>
    (match keyOf pa with | some k => Mem.read m k n | none => cur.take n) ++ beforeBytes m (cur.drop n) cs

/-- Each word of 32 bytes, counted at the given offset, is taken as it stood before or after the engine's own writes, as a free
bit decides (R174). -/
def pickWords (fr : Nat) (off : Nat) (cur old : List Byte) : List Byte :=
  (List.zip cur old).zipIdx.map (fun (x : (Byte × Byte) × Nat) =>
    if bitAt fr ((off % 32 + x.2) / 32) then x.1.1 else x.1.2)

/-- The bytes a piece moves: what the source holds, with the choice of R174 where the extents overlap, word by word as `off` counts
them: by the source's words for a tile mover, by the destination's for a copy. -/
def overlapped (s : State) (k : Nat) (j : Job) (src off : Nat) (bs : List Byte) : AR (List Byte) :=
  match j.before with
  | none => .ok bs s j
  | some m => (transChunks k .read (chunksOf src bs.length) s j).bind (fun ts s j =>
      let old := beforeBytes m bs ts
      if old = bs then .ok bs s j
      else
        let (fr, s) := takeFree ((off % 32 + bs.length + 31) / 32) s
        .ok (pickWords fr.toNat off bs old) s j)

/-- The pages of a merge copy's destination looked at one after another; a stall goes on where it stopped. -/
def mergeScan (k : Nat) : List (Nat × Nat) → State → Job → AR Unit
  | [], s, j => .ok () s j
  | (va, _) :: cs, s, j => (jobTrans s k j va .write).bind (fun pa s j =>
      if isRemote pa then mergeScan k cs s { j with checked := j.checked + 1 } else .fail 3 s j)

/-- A merge copy whose destination does not lie in other modules is invalid and moves nothing (R353). -/
def mergeCheck (s : State) (k : Nat) (j : Job) : AR Unit :=
  let d := j.desc.head
  if cpMk d = 0 ∨ j.pos ≠ 0 then .ok () s j
  else mergeScan k ((pageChunks (cpLen d / 0x10000 + 2) (cpDaddr d) (cpLen d)).drop j.checked) s j

/-- One piece of a COPY. -/
def copyStep (k : Nat) (s : State) (j : Job) : Prog :=
  let d := j.desc.head
  let a := pieceStart (cpDaddr d) j.pos
  let e := pieceEnd (cpDaddr d) (cpLen d) j.pos
  let src := cpSaddr d + (a - cpDaddr d)
  let mk := match cpMk d with | 1 => some false | 2 => some true | _ => none
  if pieceCount (cpDaddr d) (cpLen d) ≤ j.pos then .stop (endJob s k j { status := 0, done := cpLen d })
  else if j.sent then pieceSent k (e - a) s j
  else
    let moved := (mergeCheck s k j).bind (fun _ s j =>
      (jobRead s k j src (e - a)).bind (fun bs s j => overlapped s k j src a bs))
    progOf k moved (fun bs s j =>
      progOf k ((transChunks k .write (chunksOf a bs.length) s j).bind (fun ts s j => jobPut s k j mk true ts bs))
        (fun _ s j => pieceSent k (e - a) s j))

def copyRun (s : State) (k : Nat) (j : Job) : State :=
  let d := j.desc.head
  let meet := extentsMeet (cpSaddr d) (cpDaddr d) (cpLen d)
  let j := if meet && j.before.isNone && decide (j.pos = 0) then { j with before := some s.mem } else j
  runSteps (copyStep k) k (pieceCount (cpDaddr d) (cpLen d) + 2) s j

/-- COPY (R351 to R353). -/
def execCopy (r : RingNo) (s : State) : Res := startCopyOp s r.toNat 1 copyRun

/-! ### INLINE (R350) -/

def inlineStep (k : Nat) (s : State) (j : Job) : Prog :=
  let d := j.desc
  let cs := chunksOf (inDaddr d.head) (inlineBytes d.head)
  match cs[j.pos]? with
  | none => .stop (endJob s k j { status := 0, done := j.done })
  | some (a, n) =>
    if j.sent then pieceSent k n s j
    else progOf k (jobWrite s k j a (((inPayload d).drop (a - inDaddr d.head)).take n) false) (fun _ s j => pieceSent k n s j)

def inlineRun (s : State) (k : Nat) (j : Job) : State := runSteps (inlineStep k) k 6 s j

/-- INLINE (R350, R351). -/
def execInlineOp (r : RingNo) (s : State) : Res := startCopyOp s r.toNat 2 inlineRun

/-! ### ATOMIC (R356) -/

/-- The operation itself, once both addresses are translated: the old value, or a wait for another module's answer. -/
def atomicDo (s : State) (k : Nat) (j : Job) (pa : Nat) : AR Nat :=
  let d := j.desc.head
  let op := (atOp d).getD .add
  let n := atSize d
  match placeOf pa with
  | .remote p off =>
    if !j.reqs.isEmpty then .stall s { j with wait := .remote }
    else if !(remoteBacked s p) then engineFail s k j (.decode 1) .atomic (atAaddr d) pa
    else match askRemote s (jobAgent k) j.ctx (atAaddr d) p off (.atomic op n (atOpnd d) (atCmp d)) with
    | some (id, s) => .stall s { j with reqs := [id], wait := .remote }
    | none => engineFail s k j .targetLost .atomic (atAaddr d) pa
  | .host _ _ => engineFail s k j (.decode 1) .atomic (atAaddr d) pa
  | _ => match physAtomic s (jobAgent k) j.ctx pa n op (atOpnd d) (atCmp d) with
    | (.ok, old, s) => .ok old s { j with oldVal := some old }
    | (.wait, _, s) => .stall s { j with wait := .run }
    | (r, _, s) => engineFail s k j r .atomic (atAaddr d) pa

/-- A failure after the operation has been performed: DONE 0 and DETAIL [88] set. -/
def atomicLate (k : Nat) (x : AR Unit) (f : State → Job → Prog) : Prog :=
  match x with
  | .ok _ s j => f s j
  | .stall s j => .stop (s.setJob k (some j))
  | .fail st s j => .stop (endJob s k j { status := st, detail := 1, done := 0 })

/-- ATOMIC's two steps: the operation, then the old value to RADDR. -/
def atomicStep (k : Nat) (s : State) (j : Job) : Prog :=
  let d := j.desc.head
  let n := atSize d
  let fin := fun (s : State) (j : Job) => Prog.stop (endJob s k j { status := 0, done := n })
  match j.oldVal with
  | none =>
    let go := (jobTrans s k j (atAaddr d) .atomic).bind (fun pa s j =>
      if atRaddr d = 0 then .ok pa s j
      else (jobTrans s k j (atRaddr d) .write).bind (fun _ s j => .ok pa s j))
    progOf k (go.bind (fun pa s j => atomicDo s k j pa)) (fun _ s j => .again s j)
  | some old =>
    if atRaddr d = 0 then fin s j
    else if j.sent then (if j.reqs.isEmpty then fin s j else .stop (s.setJob k (some { j with wait := .remote })))
    else atomicLate k (jobWrite s k j (atRaddr d) (toBytes n old) false) (fun s j =>
      if j.reqs.isEmpty then fin s j else .stop (s.setJob k (some { j with sent := true, wait := .remote })))

def atomicRun (s : State) (k : Nat) (j : Job) : State := runSteps (atomicStep k) k 4 s j

/-- ATOMIC (R356, R245 to R247). -/
def execAtomic (r : RingNo) (s : State) : Res := startCopyOp s r.toNat 8 atomicRun

end Sys2Proof.Machine
end

