-- ==== Sys2Proof/Machine/Dev.lean ====
section
/-! DEFINITION. Who may reach device space (R33, R578, Table 21.18), and what an access outside these rights meets. -/

namespace Sys2Proof.Machine

/-- Runtime firmware: a hart in machine or supervisor mode (R578). -/
def isRuntime : DevAgent → Bool | .core _ user => !user | _ => false

def isStoker : DevAgent → Bool | .stoker => true | _ => false
def isThirun : DevAgent → Bool | .thirun => true | _ => false

/-- The source of an access as Stoker's log holds it. -/
def devSource : DevAgent → Nat | .core h _ => h | .tile p => 0x100 + p.g | .stoker => 0x300 | .thirun => 0x301

/-- A device access that decodes to nothing: logged with its source; a core takes an access fault, a tile controller halts
(R577, R578, Table 20.6). -/
def devFail (s : State) (who : DevAgent) (va : W64) (pa : Nat) (write : Bool) (code : Nat) : State :=
  let s := s.logE { src := .chm, tag := 578, addr := pa, data := devSource who }
  match who with
  | .core h _ => coreFail s h (.decode code) (if write then .write else .read) va pa
  | .tile p =>
    tileFail s p.g { pc := p.pc, insn := p.insn, va := va, kind := if write then .store 8 0 else .load 8 false 0 } (.decode code) pa
  | _ => s

/-- A command on a register by an agent without the right: the virtual address that the agent used does not come with the
command and is a free value. -/
def devRefused (s : State) (who : DevAgent) (off : Nat) : State :=
  let (va, s) := takeFree 64 s
  devFail s who va (regBase + off) true 2

/-- Whether the agent can issue a device access now; a tile controller's and a core's wait for their earlier stores (R241). -/
def devReady (s : State) : DevAgent → Bool
  | .core h _ => hartReady s h
  | .tile p => canIssue (s.gr p.g)
  | _ => true

def devDrained (s : State) : DevAgent → Bool
  | .core h _ => (s.ht h).sb.isEmpty
  | .tile p => (s.gr p.g).sb.isEmpty
  | _ => true

/-- A command that a device access carries out. -/
def devCommand (who : DevAgent) (s : State) (run : State) : Res :=
  if !(devReady s who) then .refused .agentNotReady
  else if !(devDrained s who) then .next s
  else match who with
  | .core h _ => .next (deliverLost run h)
  | .tile p => .next (settleAll (if (s.gr p.g).lost.isEmpty then run else haltAt run p 0x0B))
  | _ => .next (settleAll run)

end Sys2Proof.Machine
end

