-- ==== Sys2Proof/Machine/Reduce.lean ====
section
/-! DEFINITION. REDUCE on the copy engines, and the norm words that taps fill (R212 to R214, R223, R354, R355). -/

namespace Sys2Proof.Machine

/-! ### One element (R354) -/

/-- Padding leaves pass their partner through (R63). -/
def fpTree (xs : List Nat) : Nat := (reduceTree (fpAdd .rne) 5 xs).1

/-- The words of an element combined: the checks of every input first (R70). -/
def reduceWords (d : Slot) (ws : List Acc) : Except IntegErr Nat :=
  match checkAll ws with
  | some e => .error e
  | none => match mergeTree 5 ws with
    | .error e => .error e
    | .ok x => .ok (accRead ((rdOfmt d).getD .fp32) ((rdMode d).getD .rne) 0 (rdSat d) (rdT d) x).1

/-- A value scaled by 2^T. -/
def numScale (t : Int) (x : Num) : Num := match x with | .fin n m e => .fin n m (e + t) | y => y

/-- A zero takes the sign R59 gives it at read-out, whatever zero the sources held (log 52). -/
def readZero (rm : RMode) (x : Num) : Num := match x with | .fin n m e => .fin (if m = 0 then decide (rm = .rdn) else n) m e | y => y

/-- FP32 values summed by the tree and read out under R54 to R60. -/
def reduceFloats (d : Slot) (vs : List Nat) : Nat :=
  let rm := (rdMode d).getD .rne
  (deliver ((rdOfmt d).getD .fp32) rm 0 (rdSat d) (readZero rm (numScale (rdT d) (fpDecode (fpTree vs))))).1

/-- The result of one element from its bytes in each source. -/
def reduceElem (d : Slot) (parts : List (List Byte)) : Except IntegErr Nat :=
  if rdIfmt d = 0 then reduceWords d (parts.map (fun b => accDecode (ofBytes b)))
  else .ok (reduceFloats d (parts.map ofBytes))

def reduceElems (d : Slot) : List (List (List Byte)) → Except IntegErr (List Nat)
  | [] => .ok []
  | p :: ps => match reduceElem d p with
    | .error e => .error e
    | .ok v => match reduceElems d ps with
      | .error e => .error e
      | .ok vs => .ok (v :: vs)

/-! ### Taps (R213, R223) -/

def outNum (o : OFmt) (v : Nat) : Num := floatDecode (floatOfO o) v

/-- A value squared into a controller's partial of one word, which takes a place of its tap buffer where it has none yet (R213). -/
def tapAdd (ts : List TapPart) (ctrl key : Nat) (x : Num) : List TapPart :=
  match ts.find? (fun t => decide (t.ctrl = ctrl) && decide (t.key = key)) with
  | some _ => ts.map (fun t => if t.ctrl = ctrl ∧ t.key = key then { t with part := normTap t.part x } else t)
  | none => ts ++ [⟨ctrl, key, normTap {} x⟩]

/-- The memory controller of a main-memory address, numbered over the package (R16, R491). -/
def ctrlOf (pa : Nat) : Nat := match placeOf pa with | .main n d => 8 * n + channelOf d / 4 | _ => 0

/-- The controller that has written the bytes of a value at a virtual address: that of its first byte, where all of them lie in places
that the job's last write has written. -/
def wroteCtrl (j : Job) (va n : Nat) : Option Nat :=
  let at_ := fun (a : Nat) => j.wrote.find? (fun w => decide (w.1 ≤ a) && decide (a < w.1 + w.2.2))
  if (at_ (va + n - 1)).isNone then none else (at_ va).map (fun w => ctrlOf (w.2.1 + (va - w.1)))

/-- One written value squared into the partial words of its tap: the layer's, and with a factored tap its row's and column's. -/
def tapOne (d : Slot) (cols : Nat) (j : Job) (e v : Nat) : Job :=
  let x := outNum ((rdOfmt d).getD .fp32) v
  match wroteCtrl j (rdDaddr d + e * rdOsize d) (rdOsize d) with
  | none => j
  | some c =>
    let ts := if rdTapk d = 0 then j.taps else tapAdd j.taps c 0 x
    { j with taps := if rdTapk d = 2 then tapAdd (tapAdd ts c (1 + 2 * (e / cols)) x) c (2 + 2 * (e % cols)) x else ts }

def tapAll (d : Slot) (cols e : Nat) (j : Job) (vs : List Nat) : Job :=
  vs.zipIdx.foldl (fun j x => tapOne d cols j (e + x.2) x.1) j

/-- The partials of other jobs in a controller's tap buffer. -/
def otherTaps (s : State) (k ctrl : Nat) : Nat :=
  s.jobs.foldl (fun n e => match e.2 with
    | some j => if e.1 = k then n else n + (j.taps.filter (fun t => decide (t.ctrl = ctrl))).length
    | none => n) 0

/-- The oldest partial of a job in a tap buffer whose 32 places do not hold all that stand in it: the buffer needs its place (R213,
log 145). -/
def tapOver (s : State) (k : Nat) (j : Job) : Option TapPart :=
  j.taps.find? (fun t => decide (32 < otherTaps s k t.ctrl + (j.taps.filter (fun u => decide (u.ctrl = t.ctrl))).length))

/-- The arithmetic-integrity record of an engine (R71, Table 20.5). -/
def engineInteg (s : State) (k : Nat) (j : Job) (e : IntegErr) (va pa : Nat) : State :=
  fault s 0x13 e.code j.ctx (jobAgent k) false (some va) pa [(256, 7, e.held), (264, 7, e.fresh)]

/-- A partial norm word merged into the word at an address (R213, R214); a word that fails its check is not written. -/
def mergeNorm (s : State) (k : Nat) (j : Job) (va : Nat) (part : Norm) : AR Unit :=
  (jobRead s k j va 128).bind (fun bs s j =>
    match normMerge (normDecode (ofBytes bs)) part with
    | .error e => .fail 0x0D (engineInteg s k j e va 0) j
    | .ok n => jobWrite s k j va (toBytes 128 (normEncode n)) false)

/-- ROWS and COLS of a factor block (R223). -/
def facHead (s : State) (k : Nat) (j : Job) (fa : Nat) : AR (Nat × Nat) :=
  (jobRead s k j fa 128).bind (fun bs s j => .ok (field (ofBytes bs) 0 32, field (ofBytes bs) 32 32) s j)

/-- The address of a row's (odd key) or column's (even key) norm word in a factor block (R223). -/
def facWord (fa rows key : Nat) : Nat := fa + 128 + 128 * (if key % 2 = 1 then key / 2 else rows + (key / 2 - 1))

/-- A partial merged into its word: the norm word named by the descriptor, or a row's or column's of its factor block. -/
def mergePart (s : State) (k : Nat) (j : Job) (na fa : Nat) (t : TapPart) : AR Unit :=
  if t.key = 0 then mergeNorm s k j na t.part
  else (facHead s k j fa).bind (fun h s j => mergeNorm s k j (facWord fa h.1 t.key) t.part)

/-- The merge of a partial that has left its buffer, `u` the key of the unit that makes it. A failed one is given up, and `failed` notes
its status; the others are still merged. -/
def mergeStep (k u : Nat) (s : State) (j : Job) (na fa : Nat) (t : TapPart) (failed : Job → Nat → Job) : Prog :=
  match mergePart s u { j with taps := j.taps.filter (· ≠ t), merging := some t } na fa t with
  | .ok _ s j =>
    let j := { j with merging := none, gathered := [], sent := false }
    if j.reqs.isEmpty then .again s { j with wait := .run } else .stop (s.setJob k (some { j with wait := .remote }))
  | .stall s j => .stop (s.setJob k (some j))
  | .fail st s j => .again (dropJobReqs s j) (failed { j with merging := none, reqs := [], gathered := [], sent := false } st)

/-- The first failure of a reduction is the one it ends with; `scal` holds its status once its pieces are over. -/
def reduceFailed (j : Job) (st : Nat) : Job := { j with scal := [if j.scal.headD 0 = 0 then st else j.scal.headD 0] }

/-! ### Pieces (R352, R355) -/

/-- The first element past the piece in which element e begins (log 26). -/
def elemsEnd (daddr osz count e : Nat) : Nat :=
  min count (ceilDiv (((daddr + e * osz) / 4096 + 1) * 4096 - daddr) osz)

/-- The bytes of each source for elements e to e' . -/
def readSources (k : Nat) (d : Slot) (e n : Nat) : Nat → State → Job → AR (List (List Byte))
  | 0, s, j => .ok [] s j
  | m + 1, s, j =>
    let i := rdSrcs d - (m + 1)
    (jobRead s k j (rdSaddr d + i * rdStride d + e * rdIsize d) (n * rdIsize d)).bind (fun bs s j =>
      (readSources k d e n m s j).bind (fun rest s j => .ok (bs :: rest) s j))

def isMain (pa : Nat) : Bool := match placeOf pa with | .main _ _ => true | _ => false

/-- The partial that a reduction merges next: the one under way, one whose place is needed, and once its pieces are done or have failed
every one (R213). -/
def nextPart (s : State) (k : Nat) (j : Job) : Option TapPart :=
  match j.merging with
  | some t => some t
  | none => if j.scal.isEmpty then (if j.sent then none else tapOver s k j) else j.taps.head?

/-- A failure in a piece: the partials gathered so far are merged before the descriptor ends. -/
def reduceProg {α : Type} (k : Nat) (x : AR α) (f : α → State → Job → Prog) : Prog :=
  match x with
  | .ok v s j => f v s j
  | .stall s j => .stop (s.setJob k (some j))
  | .fail st s j => .again (dropJobReqs s j) { j with scal := [st], reqs := [], gathered := [], sent := false }

def reduceStep (k : Nat) (s : State) (j : Job) : Prog :=
  let d := j.desc.head
  let e := j.done
  let e' := elemsEnd (rdDaddr d) (rdOsize d) (rdCount d) e
  if !j.reqs.isEmpty && !j.sent then .stop (s.setJob k (some { j with wait := .remote }))
  else match nextPart s k j with
  | some t => mergeStep k k s j (rdNaddr d) (rdFaddr d) t reduceFailed
  | none =>
  if !j.scal.isEmpty then .stop (endJob s k j { status := j.scal.headD 0, done := j.done })
  else if rdCount d ≤ e then .again s { j with scal := [0] }
  else if j.sent then pieceSent k (e' - e) s j
  else
    let head : AR Nat :=
      if rdTapk d = 2 then
        (facHead s k j (rdFaddr d)).bind (fun h s j => if h.2 = 0 then .fail 3 s j else .ok h.2 s j)
      else .ok 1 s j
    let work := head.bind (fun cols s j => (readSources k d e (e' - e) (rdSrcs d) s j).bind (fun srcs s j =>
      let cuts := srcs.map (fun b => chunks (rdIsize d) (e' - e + 1) b)
      let parts := (List.range (e' - e)).map (fun i => cuts.map (fun c => nth [] c i))
      match reduceElems d parts with
      | .error err => .fail 0x0D (engineInteg s k j err (rdDaddr d + e * rdOsize d) 0) j
      | .ok vs =>
        let va := rdDaddr d + e * rdOsize d
        let bs := vs.flatMap (toBytes (rdOsize d))
        (transChunks k .write (chunksOf va bs.length) s j).bind (fun ts s j =>
          if decide (rdTapk d ≠ 0) && !(ts.all (fun t => isMain t.2.1)) then .fail 3 s j
          else (jobPut s k j none true ts bs).note (fun j => tapAll d cols e j vs))))
    reduceProg k work (fun _ s j => pieceSent k (e' - e) s j)

def reduceRun (s : State) (k : Nat) (j : Job) : State :=
  runSteps (reduceStep k) k (rdCount j.desc.head * 4 + j.taps.length + 8) s j

/-- REDUCE (R354, R355). -/
def execReduce (r : RingNo) (s : State) : Res := startCopyOp s r.toNat 3 reduceRun

end Sys2Proof.Machine
end

