-- ==== Sys2Proof/Machine/Fuller.lean ====
section
/-! DEFINITION. Fuller, the parameter update engine (chapter 7). A die's eight units are one job: groups are taken in
ascending order, each by the unit of R608 (R222, log 29). -/

namespace Sys2Proof.Machine

/-! ### Body (Table 7.1) and layouts (Table 7.2) -/

def fuRaddr (d : Slot) : Nat := field (body d) 0 48 * 128
def fuGaddr (d : Slot) : Nat := field (body d) 48 48 * 128
def fuNaddr (d : Slot) : Nat := field (body d) 96 48 * 128
def fuPaddr (d : Slot) : Nat := field (body d) 144 48 * 128
def fuFaddr (d : Slot) : Nat := field (body d) 192 48 * 128
def fuNgrp (d : Slot) : Nat := field (body d) 240 24 + 1
def fuTable (d : Slot) : Nat := field (body d) 264 6
def fuLayout (d : Slot) : Nat := field (body d) 270 2
def fuGsize (d : Slot) : Nat := if bitAt (body d) 272 then 2 else 4
def fuLrm (d : Slot) : Nat := field (body d) 288 32
def fuBc1 (d : Slot) : Nat := field (body d) 320 32
def fuBc2 (d : Slot) : Nat := field (body d) 352 32
/-- PADDR xor 0x80 (R216). -/
def fuPnext (d : Slot) : Nat := fuPaddr d ^^^ 0x80

/-- Group size S. -/
def layoutSize (l : Nat) : Nat := match l with | 0 => 128 | 1 => 256 | 2 => 256 | _ => 384

/-! ### Coefficient table (Table 7.4) -/

/-- Entry i of a table copy. -/
def coef (t : List W32) (i : Nat) : Nat := (nth 0 t i).toNat
def tDen (t : List W32) : Nat := field (coef t 15) 0 2
def tTrust (t : List W32) : Bool := bitAt (coef t 15) 2
def tFact (t : List W32) : Bool := bitAt (coef t 15) 3
def tSkip (t : List W32) : Bool := bitAt (coef t 15) 4
def tBiasc (t : List W32) : Bool := bitAt (coef t 15) 5
def tCtx (t : List W32) : Nat := field (coef t 15) 8 12

def isZeroF (v : Nat) : Bool := match fpDecode v with | .fin _ m _ => decide (m = 0) | _ => false
def isFiniteF (v : Nat) : Bool := match fpDecode v with | .fin _ _ _ => true | _ => false
def isNanF (v : Nat) : Bool := decide (fpDecode v = .nan)
def posF (v : Nat) : Bool := match fpDecode v with | .nan => false | .inf n => !n | .fin n m _ => !n && decide (m ≠ 0)

/-- The table as the descriptor's acceptance copies it (R225). -/
def copyTable (s : State) (n : Nat) : List W32 := (List.range 16).map (fun i => Tab.get 0 s.coefs (16 * n + i))

/-- What R226 refuses without reading memory. -/
def fullerBad (d : Slot) (t : List W32) (ctx : Nat) : Bool :=
  let b := body d
  let c := coef t 15
  decide (field b 273 15 ≠ 0) || !(bitAt c 31) || decide (tCtx t ≠ ctx) || decide (tDen t = 3) ||
    decide (field c 6 2 ≠ 0) || decide (field c 20 11 ≠ 0) ||
    (List.range 15).any (fun i => !(isFiniteF (coef t i))) ||
    (decide (tDen t = 1) && !(posF (coef t 5))) ||
    (decide (tDen t = 1) && !(tFact t) && decide (fuLayout d < 2)) ||
    (tFact t && (decide (tDen t ≠ 1) || decide (fuFaddr d = 0) || decide (fuLayout d ≠ 1))) ||
    (tTrust t && decide (fuPaddr d = 0))

/-! ### Layer scalars (R219) -/

/-- min, with an open value where the second operand is a NaN: the same for the same operands, since a record depends on nothing else
(R222, log 29). -/
def minOpen (a b : Nat) : Nat :=
  if isNanF b then (Config.trustMin (BitVec.ofNat 32 a) (BitVec.ofNat 32 b)).toNat else (fpMinMax false a b).1

def fadd (a b : Nat) : Nat := (fpAdd .rne a b).1
def fmul (a b : Nat) : Nat := (fpMul .rne a b).1
def ffma (a b c : Nat) : Nat := (fpFma .rne a b c).1
def fdiv (a b : Nat) : Nat := (fpDiv .rne a b).1
def fgt (a b : Nat) : Bool := numLt (fpDecode b) (fpDecode a)

/-- The scalars of a layer. -/
structure Scal where
  s : Nat
  lr : Nat
  bc2 : Nat
  dmn : Nat
  deriving DecidableEq, Repr

def layerScalars (t : List W32) (d : Slot) (g p : Nat) : Scal :=
  let gs := fmul (coef t 14) g
  let clip := if posF (coef t 11) && fgt gs (coef t 11) then fdiv (coef t 11) gs else fpOne
  let s := fmul (coef t 14) clip
  let den := ffma (coef t 6) p (fmul s g)
  let r := if tTrust t && posF p && posF den then minOpen (coef t 13) (fdiv (fmul (coef t 12) p) den) else fpOne
  let bc1 := if tBiasc t then fuBc1 d else fpOne
  { s := s, lr := fmul (fmul (coef t 0) (fuLrm d)) r, bc2 := if tBiasc t then fuBc2 d else fpOne, dmn := fmul (coef t 10) bc1 }

/-! ### One element (R220, R221) -/

def signF (v : Nat) : Nat :=
  match fpDecode v with
  | .nan => canonNan ffFp32
  | .inf n => fpOne + signBit ffFp32 n
  | .fin n m _ => if m = 0 then signBit ffFp32 n else fpOne + signBit ffFp32 n

/-- fuller_element: w1, m1, v1; `fv` is the factored second moment where FACT is set. -/
def fullerElement (t : List W32) (k : Scal) (w m v g : Nat) (fv : Option Nat) : Nat × Nat × Nat :=
  let gh := ffma (coef t 7) w (fmul g k.s)
  let m1 := ffma (coef t 1) m (fmul (coef t 2) gh)
  let v1 := match fv with
    | some x => x
    | none => ffma (coef t 3) v (fmul (coef t 4) (fmul gh gh))
  let n := ffma k.dmn m1 (ffma (coef t 9) gh (fmul (coef t 8) m))
  let u := match tDen t with
    | 1 => fdiv n (fadd (fpSqrt .rne (fmul v1 k.bc2)).1 (coef t 5))
    | 2 => signF n
    | _ => n
  let u := ffma (coef t 6) w u
  (ffma (k.lr ^^^ 0x80000000) u w, m1, v1)

/-- FP32 rounded to BF16 for storage (R221). -/
def toBf16 (v : Nat) : Nat := (deliver .bf16 .rne 0 false (fpDecode v)).1

def half (bs : List Byte) (off : Nat) : Nat := ofBytes ((bs.drop off).take 2)
def word4 (bs : List Byte) (off : Nat) : Nat := ofBytes ((bs.drop off).take 4)

/-- The old w, m and v of element j of a record group (Table 7.2). -/
def recGet (l : Nat) (bs : List Byte) (j : Nat) : Nat × Nat × Nat :=
  match l with
  | 0 => (word4 bs (4 * j), 0, 0)
  | 1 => (word4 bs (4 * j), word4 bs (128 + 4 * j), 0)
  | 2 => (word4 bs (4 * j), half bs (128 + 2 * j) * 65536, half bs (192 + 2 * j) * 65536)
  | _ => (word4 bs (4 * j), word4 bs (128 + 4 * j), word4 bs (256 + 4 * j))

/-- The new group's bytes. -/
def recPut (l : Nat) (xs : List (Nat × Nat × Nat)) : List Byte :=
  let ws := xs.flatMap (fun x => toBytes 4 x.1)
  let m4 := xs.flatMap (fun x => toBytes 4 x.2.1)
  match l with
  | 0 => ws
  | 1 => ws ++ m4
  | 2 => ws ++ xs.flatMap (fun x => toBytes 2 (toBf16 x.2.1)) ++ xs.flatMap (fun x => toBytes 2 (toBf16 x.2.2))
  | _ => ws ++ m4 ++ xs.flatMap (fun x => toBytes 4 x.2.2)

/-- The new w1, m1 and v1 of an element as FP32 patterns, and the moments as P3H rounds them for storage (R220, R221). -/
def produced (l : Nat) (x : Nat × Nat × Nat) : List Nat :=
  let all := [x.1, x.2.1, x.2.2]
  if l = 2 then all ++ [toBf16 x.2.1 * 65536, toBf16 x.2.2 * 65536] else all

/-- Gradient j of a group. -/
def gradGet (gsize : Nat) (bs : List Byte) (j : Nat) : Nat :=
  if gsize = 2 then half bs (2 * j) * 65536 else word4 bs (4 * j)

/-! ### Units -/

/-- The unit that takes what lies at a physical address (R608, R491). -/
def unitOf (pa : Nat) : Nat := match placeOf pa with | .main _ d => channelOf d / 4 | _ => 0

/-- The key under which unit u of job k makes its accesses. -/
def unitKey (k u : Nat) : Nat := k / 64 * 64 + 48 + u

/-- FUL_STAT of the units of a die at acceptance and at completion (Table 21.17). -/
def fulStatAll (s : State) (die : Nat) (f : Nat → Nat) : State :=
  { s with fulStat := (List.range 8).foldl (fun t u => Tab.modify 0 t (8 * die + u) f) s.fulStat }

def fulAccept (table ctx w : Nat) : Nat := packFields [(0, 1, 1), (1, 6, table), (8, 12, ctx), (20, 44, w / 2 ^ 20)]
def fulDone (w : Nat) : Nat := w - w % 2
def fulGroup (w : Nat) : Nat := w % 2 ^ 20 + satNat 44 (w / 2 ^ 20 + 1) * 2 ^ 20

/-- The end of a Fuller descriptor: what its units still translate is given up. -/
def fulEnd (s : State) (k : Nat) (j : Job) (status : Nat) : State :=
  let s := (List.range 8).foldl (fun s u => dropXlat s (jobAgent (unitKey k u))) (dropXlat s (.dispatch (k / 64) 1))
  endJob s k j { status := status, detail := boolNat j.nv + 2 * boolNat j.of, done := j.done, gval := nth 0 j.scal 4,
                 pval := nth 0 j.scal 5 }

/-! ### Norms and the factor pass (R215 to R217, R223) -/

/-- A norm word read and checked: none where the address names none. -/
def readNorm (s : State) (k : Nat) (j : Job) (va : Nat) : AR (Option Norm) :=
  if va = 0 then .ok none s j
  else (jobRead s k j va 128).bind (fun bs s j =>
    let n := normDecode (ofBytes bs)
    match normCheck n with
    | some e => .fail 0x0D (engineInteg s k j e va 0) j
    | none => .ok (some n) s j)

/-- Whether a needed norm is missing (R217). -/
def normMissing (n : Option Norm) : Bool := match n with | some x => decide (x.cnt = 0) | none => true

def normVal (n : Option Norm) : Nat := match n with | some x => normRoot x | none => 0

/-- Words of four bytes from an address, n of them. -/
def readWords (s : State) (k : Nat) (j : Job) (va n : Nat) : AR (List Nat) :=
  (jobRead s k j va (4 * n)).bind (fun bs s j => .ok ((chunks 4 (n + 1) bs).map ofBytes) s j)

/-- The sum forms of n norm words from an address. -/
def readSums (k va : Nat) : Nat → State → Job → AR (List Nat)
  | 0, s, j => .ok [] s j
  | n + 1, s, j => (readNorm s k j va).bind (fun x s j =>
      (readSums k (va + 128) n s j).bind (fun l s j => .ok ((match x with | some y => normSum y | none => 0) :: l) s j))

/-- The byte offset of the R and C arrays of a factor block (R223). -/
def facR (rows cols : Nat) : Nat := 128 + 128 * (rows + cols)
def facC (rows cols : Nat) : Nat := facR rows cols + (4 * rows + 127) / 128 * 128

/-- A new factor from its old value and its word's sum. -/
def newFactor (t : List W32) (s old q : Nat) : Nat := ffma (coef t 3) old (fmul (coef t 4) (fmul (fmul s s) q))

/-- The factor pass: ROWS, COLS, rinv, then every R and C. -/
def factorPass (k : Nat) (t : List W32) (sc : Nat) (fa : Nat) (s : State) (j : Job) : AR (List Nat) :=
  (facHead s k j fa).bind (fun h s j =>
  (readSums k (fa + 128) (h.1 + h.2) s j).bind (fun qs s j =>
  (readWords s k j (fa + facR h.1 h.2) h.1).bind (fun rs s j =>
  (readWords s k j (fa + facC h.1 h.2) h.2).bind (fun cs s j =>
    let r1 := (List.zip rs qs).map (fun (x : Nat × Nat) => newFactor t sc x.1 x.2)
    let c1 := (List.zip cs (qs.drop h.1)).map (fun (x : Nat × Nat) => newFactor t sc x.1 x.2)
    let sum := r1.foldl fadd 0
    let rinv := if isZeroF sum then 0 else fdiv fpOne sum
    .ok ([h.1, h.2, rinv] ++ r1 ++ c1) s j))))

/-- FACT needs NGRP + 1 = ceil(ROWS × COLS / 32) (R226). -/
def factorShape (s : State) (k : Nat) (j : Job) : AR Unit :=
  let d := j.desc.head
  if tFact j.table then
    (facHead s k j (fuFaddr d)).bind (fun h s j =>
      if fuNgrp d = ceilDiv (h.1 * h.2) 32 then .ok () s j else .fail 3 s j)
  else .ok () s j

/-- Everything before the first group: the norms read and checked, the layer scalars and factors formed. `scal` holds s,
lr, bc2, dmn, G, P, then the factor pass's results. -/
def fullerPrep (k : Nat) (s : State) (j : Job) : AR (List Nat) :=
  let d := j.desc.head
  let t := j.table
  let u := unitKey k 0
  (factorShape s u j).bind (fun _ s j =>
  (readNorm s u j (fuNaddr d)).bind (fun gn s j =>
  (readNorm s u { j with scal := [0, 0, 0, 0, normVal gn, 0] } (fuPaddr d)).bind (fun pn s j =>
  (readNorm s u { j with scal := [0, 0, 0, 0, normVal gn, normVal pn] } (if fuPaddr d = 0 then 0 else fuPnext d)).bind (fun _ s j =>
    let g := normVal gn
    let p := normVal pn
    if (!(isZeroF (coef t 11)) || tTrust t) && normMissing gn then .fail 0x0A s j
    else if tTrust t && normMissing pn then .fail 0x0A s j
    else if tSkip t && isNanF g then .fail 0x0B s j
    else
      let c := layerScalars t d g p
      let base := [c.s, c.lr, c.bc2, c.dmn, g, p]
      if tFact t then (factorPass u t c.s (fuFaddr d) s j).bind (fun f s j => .ok (base ++ f) s j)
      else .ok base s j))))

/-- The status of a pass that meets another failure: its first one, but a failure stands over non-finite (Table 7.8). -/
def fulFailed (j : Job) (st : Nat) : Job := { j with status := if j.status ≠ 0 ∧ j.status ≠ 0x0C then j.status else st }

/-- Where a failure leads: before the first group the descriptor ends; later the taps already made are merged first. -/
def fulProg {α : Type} (k : Nat) (x : AR α) (f : α → State → Job → Prog) : Prog :=
  match x with
  | .ok v s j => f v s j
  | .stall s j => .stop (s.setJob k (some j))
  | .fail st s j =>
    if j.phase = 2 then
      .again (dropJobReqs s j) (fulFailed { j with phase := 3, reqs := [], gathered := [], sent := false } st)
    else .stop (fulEnd s k j st)

/-- The new factors written back by the unit that holds the factor block (R223). -/
def factorBack (k : Nat) (s : State) (j : Job) : AR Unit :=
  let fa := fuFaddr j.desc.head
  let rows := nth 0 j.scal 6
  let cols := nth 0 j.scal 7
  let bytes := fun (l : List Nat) => l.flatMap (toBytes 4)
  let rs := bytes ((j.scal.drop 9).take rows)
  let cs := bytes (j.scal.drop (9 + rows))
  (jobTrans s (unitKey k 0) j fa .read).bind (fun pa s j =>
    let u := unitKey k (unitOf pa)
    (transChunks u .write (chunksOf (fa + facR rows cols) rs.length ++ chunksOf (fa + facC rows cols) cs.length) s j).bind
      (fun ts s j => jobPut s u j none true ts (rs ++ cs)))

/-! ### A record group (R209, R210, R216, R222, R233) -/

/-- The translation of a group's first line that chooses its unit (R608, R612). -/
def groupUnit (s : State) (k : Nat) (j : Job) (va : Nat) : AR Nat :=
  let a := Agent.dispatch (k / 64) 1
  if inScope s j.ctx va then .stall (stallRing s j.ring) { j with wait := .walk }
  else match xlate s a j.ctx va .read with
  | (.ok pa, s) => .ok (unitOf pa) s j
  | (.blocked, s) =>
    .stall (faultRing s j.ring) { j with wait := match faultOf s a with | some f => .fault f.token | none => .walk }
  | (.refused, s) => .fail 0x0E s j

/-- The second moment of an element of a factored layer. -/
def factored (j : Job) (e : Nat) : Option Nat :=
  if tFact j.table then
    let rows := nth 0 j.scal 6
    let cols := nth 0 j.scal 7
    some (fmul (fmul (nth 0 j.scal (9 + e / cols)) (nth 0 j.scal (9 + rows + e % cols))) (nth 0 j.scal 8))
  else none

/-- The new elements of group i. -/
def groupElems (j : Job) (i : Nat) (rec grad : List Byte) : List (Nat × Nat × Nat) :=
  let d := j.desc.head
  let k : Scal := { s := nth 0 j.scal 0, lr := nth 0 j.scal 1, bc2 := nth 0 j.scal 2, dmn := nth 0 j.scal 3 }
  (List.range 32).map (fun e =>
    let x := recGet (fuLayout d) rec e
    fullerElement j.table k x.1 x.2.1 x.2.2 (gradGet (fuGsize d) grad e) (factored j (32 * i + e)))

/-- What a group's new values leave in the job (R232, R234): NV and OF, and the tap of every w1 that has been written, in the buffer of its
unit's controller (R213, R216). -/
def groupNote (ctrl ra : Nat) (xs : List (Nat × Nat × Nat)) (j : Job) : Job :=
  let vs := xs.flatMap (produced (fuLayout j.desc.head))
  let j := { j with nv := j.nv || vs.any isNanF, of := j.of || vs.any (fun v => !(isNanF v) && !(isFiniteF v)) }
  if fuPaddr j.desc.head = 0 then j
  else xs.zipIdx.foldl (fun j x =>
    if (wroteCtrl j (ra + 4 * x.2) 4).isSome then { j with taps := tapAdd j.taps ctrl 0 (fpDecode x.1.1) } else j) j

/-- One group by its unit. -/
def fullerGroup (k : Nat) (s : State) (j : Job) : Prog :=
  let d := j.desc.head
  let i := j.pos
  let size := layoutSize (fuLayout d)
  let ra := fuRaddr d + i * size
  let ga := fuGaddr d + i * (32 * fuGsize d)
  let x := (groupUnit s k j ra).bind (fun u s j =>
    let uk := unitKey k u
    (jobRead s uk j ra size).bind (fun rec s j =>
      (jobRead s uk j ga (32 * fuGsize d)).bind (fun grad s j =>
        let xs := groupElems j i rec grad
        ((jobWrite s uk { j with wrote := [] } ra (recPut (fuLayout d) xs) true).note (groupNote (8 * (k / 64) + u) ra xs)).bind
          (fun _ s j => .ok () { s with fulStat := Tab.modify 0 s.fulStat (8 * (k / 64) + u) fulGroup } j))))
  fulProg k x (fun _ s j => pieceSent k 1 s j)

/-- One step of a Fuller pass: phase 0 before the first group, 1 the factors' write-back, 2 the groups, 3 the last merge. -/
def fullerStep (k : Nat) (s : State) (j : Job) : Prog :=
  let d := j.desc.head
  let sent := fun (s : State) (j : Job) (p : Nat) =>
    if j.reqs.isEmpty then Prog.again s { j with phase := p, sent := false, gathered := [], wait := .run }
    else Prog.stop (s.setJob k (some { j with sent := true, wait := .remote }))
  match j.phase with
  | 0 => fulProg k (fullerPrep k s j) (fun l s j => .again s { j with scal := l, phase := if tFact j.table then 1 else 2,
                                                                      gathered := [] })
  | 1 => if j.sent then sent s j 2 else fulProg k (factorBack k s j) (fun _ s j => sent s j 2)
  | _ =>
    let next := match j.merging with
      | some t => some t
      | none => if j.phase = 2 then (if j.sent then none else tapOver s k j) else j.taps.head?
    if !j.reqs.isEmpty && !j.sent then .stop (s.setJob k (some { j with wait := .remote }))
    else match next with
    | some t => mergeStep k (unitKey k (t.ctrl % 8)) s j (fuPnext d) 0 t fulFailed
    | none =>
      if j.phase ≠ 2 then .stop (fulEnd s k j j.status)
      else if fuNgrp d ≤ j.pos then
        let bad := j.nv || j.of || isNanF (nth 0 j.scal 4)
        .again s { j with phase := 3, status := if j.status = 0 ∧ bad then 0x0C else j.status }
      else if j.sent then pieceSent k 1 s j
      else fullerGroup k s j

def fullerRun (s : State) (k : Nat) (j : Job) : State := runSteps (fullerStep k) k (2 * fuNgrp j.desc.head + 16) s j

/-- The Fuller ring from which a die's units take their next descriptor (R205). -/
def fullerTurn (s : State) (die : Nat) : Option Nat :=
  turnOf s die 3 ((dieRings s die 2).filter (fun rn => match startable s rn 6 with
    | some d => !(descBad (s.ring rn) d.head)
    | none => false))

/-- FULLER: a die's units take it when the one before has completed and its ring has its turn (R205, R225, R226). -/
def execFuller (r : RingNo) (s : State) : Res :=
  let rn := r.toNat
  let x := s.ring rn
  let k := jobKey x.die.toNat 3 0
  match startable s rn 6 with
  | none => .refused .notPending
  | some d =>
    let t := copyTable s (fuTable d.head)
    if descBad x d.head then .next (endAtStart s rn d 3)
    else if (s.job k).isSome || decide (fullerTurn s x.die.toNat ≠ some rn) then .next s
    else if fullerBad d.head t x.ctx.toNat then .next (endAtStart (setServed s x.die.toNat 3 rn) rn d 3)
    else
      let s := fulStatAll (takeStart (setServed s x.die.toNat 3 rn) rn d) x.die.toNat (fulAccept (fuTable d.head) x.ctx.toNat)
      .next (settleAll (fullerRun s k { ring := rn, desc := d, ctx := x.ctx.toNat, table := t }))

end Sys2Proof.Machine
end

