-- ==== Sys2Proof/Machine/Launch.lean ====
section
/-! DEFINITION. LAUNCH (R357, R358, R612, R141, R586). -/

namespace Sys2Proof.Machine

def laGrate (d : Slot) : Nat := field (body d) 0 7
def laAddr (d : Slot) : Nat := field (body d) 64 55
def laArg (d : Slot) : Nat := field (body d) 128 64

/-- A LAUNCH body that breaks Table 11.9. -/
def launchBad (d : Slot) : Bool :=
  let b := body d
  decide (field b 7 57 ≠ 0) || decide (field b 119 9 ≠ 0) || decide (field b 192 192 ≠ 0) || decide (96 ≤ laGrate d) ||
    decide (laAddr d % 64 ≠ 0)

/-- What the read of a launch record brings: the record, a wait, or a failure with its status. -/
inductive LRead where
  | got (bs : List Byte) (s : State)
  | wait (s : State)
  | failed (status : Nat) (s : State)
  deriving DecidableEq, Repr

/-- The read fails with its record (R569). -/
def launchFail (s : State) (die : Nat) (r : Resp) (va pa : Nat) : LRead :=
  .failed (respStatus r) (respFault s r 0 (.dispatch die 0) .read (some va) pa)

/-- The record read at a physical address; one in another module or a host is asked for, and the ring stands still until it
has come. -/
def launchReadAt (s : State) (rn die va pa : Nat) : LRead :=
  let a := Agent.dispatch die 0
  let asked := fun (x : Nat × State) =>
    LRead.wait (x.2.setRq rn { x.2.rq rn with stalled := true, launchReq := some x.1 })
  match (s.rq rn).launchRec with
  | some bs => .got bs s
  | none => match placeOf pa with
    | .remote p off =>
      if !(remoteBacked s p) then launchFail s die (.decode 1) va pa
      else match askRemote s a 0 va p off (.read 64) with
        | some x => asked x
        | none => launchFail s die .targetLost va pa
    | .host h off =>
      if (s.host h).lost then launchFail s die .hostLost va pa
      else if !(hostBacked s h) then launchFail s die (.decode 1) va pa
      else asked (askHostRead s a 0 va h off 64)
    | _ => match physRead s a 0 pa 64 with
      | (.ok, bs, s) => .got bs s
      | (.wait, _, s) => .wait s
      | (r, _, s) => launchFail s die r va pa

/-- The launch record, through the translation that the die's dispatch makes in context 0 (R612). -/
def launchRead (s : State) (rn die va : Nat) : LRead :=
  if xlatBusy s (.dispatch die 0) then .wait s
  else if inScope s 0 va then .wait (stallRing s rn)
  else match xlate s (.dispatch die 0) 0 va .read with
  | (.ok pa, s) => launchReadAt s rn die va pa
  | (.blocked, s) => .wait (faultRing s rn)
  | (.refused, s) => .failed 0x0E s

/-- A launch record that R358 refuses. -/
def recordBad (s : State) (r : Nat) : Bool :=
  decide (field r 332 4 ≠ 0) || decide (field r 336 176 ≠ 0) || !(s.ctxE (field r 320 12)).v ||
    decide (field r 55 9 ≠ 0) || bitAt r 0

/-- The program starts: everything a start loads comes from the record and ARG (R113, R357). -/
def launchStart (s : State) (rn : Nat) (d : Desc) (r : Nat) : State :=
  let g := laGrate d.head
  let w := fun (i : Nat) => BitVec.ofNat 64 (field r (64 * i) 64)
  let s := takeStart s rn d
  s.setGr g (startGrate (s.gr g) (BitVec.ofNat 12 (field r 320 12)) (w 0) (BitVec.ofNat 64 (laArg d.head)) (w 1) (w 2)
    (w 3) (w 4) (some (rn, d.serial)))

/-- A LAUNCH whose record is good meets its grate (R357, R141, R586). A clear that it finds or starts makes it wait. -/
def launchMeet (s : State) (rn : Nat) (d : Desc) (r : Nat) : State :=
  let g := laGrate d.head
  let x := s.gr g
  if x.clearing then s
  else match x.st with
  | .running | .halted => endAtStart s rn d 4
  | .idle => launchStart s rn d r
  | .stopped =>
    let s := endLaunch s g 0x17 0
    if x.ctx.toNat = field r 320 12 then launchStart s rn d r
    else s.modGr g (fun x => { x with clearing := true })

def forgetRec (s : State) (rn : Nat) : State :=
  s.setRq rn { s.rq rn with launchRec := none, launchReq := none }

/-- LAUNCH. -/
def execLaunch (r : RingNo) (s : State) : Res :=
  let rn := r.toNat
  match startable s rn 7 with
  | none => .refused .notPending
  | some d =>
    if descBad (s.ring rn) d.head || launchBad d.head then .next (endAtStart s rn d 3)
    else match launchRead s rn (s.ring rn).die.toNat (laAddr d.head) with
    | .wait s => .next s
    | .failed st s => .next (endAtStart (forgetRec s rn) rn d st)
    | .got bs s =>
      let w := ofBytes bs
      if recordBad s w then .next (endAtStart (forgetRec s rn) rn d 3)
      else .next (launchMeet (forgetRec s rn) rn d w)

end Sys2Proof.Machine
end

