-- ==== Sys2Proof/Machine/Mover.lean ====
section
/-! DEFINITION. TILEMOVE on the tile movers (R164 to R175). -/

namespace Sys2Proof.Machine

/-! ### Body (Table 5.6) -/

def tmPaddr (d : Slot) : Nat := field (body d) 0 55
def tmTaddr (d : Slot) : Nat := field (body d) 64 55
def tmSaddr (d : Slot) : Nat := field (body d) 128 55
def tmPstride (d : Slot) : Nat := field (body d) 192 32
def tmTstride (d : Slot) : Nat := field (body d) 224 32
def tmRows (d : Slot) : Nat := field (body d) 256 16 + 1
def tmCols (d : Slot) : Nat := field (body d) 272 16 + 1
def tmFmt (d : Slot) : Nat := field (body d) 288 4
def tmSide (d : Slot) : Nat := if bitAt (body d) 292 then 16 else 32
def tmRole (d : Slot) : Nat := field (body d) 293 2
def tmUnpack (d : Slot) : Bool := bitAt (body d) 295
def tmTrans (d : Slot) : Bool := bitAt (body d) 296
def tmSstride (d : Slot) : Nat := field (body d) 320 32

/-- Bits of an element by its code (Table 5.6 FMT). -/
def tmBits (code : Nat) : Nat :=
  match code with
  | 0xA => 256 | 0xB => 32 | 0xC => 32
  | c => (fmtOfCode c).elim 8 Fmt_bits

/-- Whether FMT matches ROLE (R172). -/
def tmFmtOk (role code : Nat) : Bool :=
  match role with
  | 2 => [0, 1, 8, 9, 0xB, 0xC].contains code
  | 3 => decide (code = 0xA)
  | _ => decide (code ≤ 9)

/-- Whether the tiles carry scales (R165, R166). -/
def tmScaled (d : Slot) : Bool := decide (tmRole d < 2) && decide (tmFmt d ≤ 7)

def tmTileBytes (d : Slot) : Nat := tileElemBytes (tmBits (tmFmt d)) (tmSide d) + (if tmScaled d then 32 else 0)

/-- Whether the plain tensor's stored rows run along the logical columns: K for A, columns for C, and the other way round
for B, whose contiguous dimension K is its rows; TRANS turns it. -/
def tmByCol (d : Slot) : Bool := (decide (tmRole d ≠ 1)) != tmTrans d

/-- Stored rows of the plain tensor. -/
def tmStored (d : Slot) : Nat := if tmByCol d then tmRows d else tmCols d

/-- A body that R172 refuses; a stored FP6 row starts on a 3-byte group where PSTRIDE is a multiple of 3 (R171, log 28). -/
def tileBad (_ : State) (d : Desc) : Bool :=
  let h := d.head
  let b := body h
  decide (field b 55 9 ≠ 0) || decide (field b 119 9 ≠ 0) || decide (field b 183 9 ≠ 0) || decide (field b 310 10 ≠ 0) ||
    decide (field b 352 32 ≠ 0) || !(tmFmtOk (tmRole h) (tmFmt h)) || decide (tmTaddr h % 32 ≠ 0) ||
    decide (tmTstride h % 32 ≠ 0) || decide (tmTstride h < tmTileBytes h) ||
    (decide (tmBits (tmFmt h) = 6) && decide (1 < tmStored h) && decide (tmPstride h % 3 ≠ 0))

/-! ### Tiles in order (R169) -/

def tmBands (d : Slot) : Nat := ceilDiv (if tmRole d = 1 then tmCols d else tmRows d) (tmSide d)
def tmInner (d : Slot) : Nat := ceilDiv (if tmRole d = 1 then tmRows d else tmCols d) (tmSide d)
def tmTiles (d : Slot) : Nat := tmBands d * tmInner d

/-- The logical row and column at which tile t begins. -/
def tmOrigin (d : Slot) (t : Nat) : Nat × Nat :=
  let band := t / tmInner d * tmSide d
  let inner := t % tmInner d * tmSide d
  if tmRole d = 1 then (inner, band) else (band, inner)

/-- Index of element (i, j) of a tile (Table 5.4). -/
def tmIndex (d : Slot) (i j : Nat) : Nat := if tmRole d = 1 then j * tmSide d + i else i * tmSide d + j

/-- Extent of a tile that lies within ROWS and COLS. -/
def tmSpan (d : Slot) (t : Nat) : Nat × Nat :=
  let (r, c) := tmOrigin d t
  (min (tmSide d) (tmRows d - r), min (tmSide d) (tmCols d - c))

/-- The stored-row runs of a tile: (stored row within the tile, its address, its elements). A run starts on a byte. -/
def tmRuns (d : Slot) (t : Nat) : List (Nat × Nat × Nat) :=
  let (r, c) := tmOrigin d t
  let (nr, nc) := tmSpan d t
  let bits := tmBits (tmFmt d)
  if tmByCol d then (List.range nr).map (fun i => (i, tmPaddr d + (r + i) * tmPstride d + c * bits / 8, nc))
  else (List.range nc).map (fun i => (i, tmPaddr d + (c + i) * tmPstride d + r * bits / 8, nr))

/-- The plain scales of a tile: (its row or column within the tile, address). One scale stands for 32 elements along K, in
the orientation of the plain tensor (R168). -/
def tmScales (d : Slot) (t : Nat) : List (Nat × Nat) :=
  let (r, c) := tmOrigin d t
  let (nr, nc) := tmSpan d t
  let (kb, base, n) := if tmRole d = 1 then (r / 32, c, nc) else (c / 32, r, nr)
  let kFirst := if tmRole d = 1 then !(tmByCol d) else tmByCol d
  (List.range n).map (fun i =>
    (i, tmSaddr d + (if kFirst then (base + i) * tmSstride d + kb else kb * tmSstride d + (base + i))))

/-! ### Bits of runs -/

/-- Bytes of a run of n elements. -/
def runBytes (bits n : Nat) : Nat := ceilDiv (n * bits) 8

/-- The number a list of elements packs to. -/
def packNum (bits : Nat) : List Nat → Nat
  | [] => 0
  | e :: es => e % 2 ^ bits + 2 ^ bits * packNum bits es

/-- Elements of a packed run. -/
def unpackNum (bits n v : Nat) : List Nat := (List.range n).map (fun i => field v (i * bits) bits)

/-! ### Packing (R165, R168, R170) -/

/-- Runs read one after another: the elements of each. -/
def readRuns (k bits : Nat) : List (Nat × Nat × Nat) → State → Job → AR (List (List Nat))
  | [], s, j => .ok [] s j
  | (_, a, n) :: rs, s, j =>
    ((jobRead s k j a (runBytes bits n)).bind (fun bs s j => overlapped s k j a a bs)).bind (fun bs s j =>
      (readRuns k bits rs s j).bind (fun more s j => .ok (unpackNum bits n (ofBytes bs) :: more) s j))

def readScales (k : Nat) : List (Nat × Nat) → State → Job → AR (List Nat)
  | [], s, j => .ok [] s j
  | (_, a) :: rs, s, j => (jobRead s k j a 1).bind (fun bs s j =>
      (readScales k rs s j).bind (fun more s j => .ok (ofBytes bs :: more) s j))

/-- The bytes of a tile from the elements of its runs and its scales. -/
def packTile (d : Slot) (t : Nat) (runs : List (List Nat)) (scales : List Nat) : List Byte :=
  let side := tmSide d
  let bits := tmBits (tmFmt d)
  let (nr, nc) := tmSpan d t
  let el := fun (q : Nat) =>
    let i := if tmRole d = 1 then q % side else q / side
    let j := if tmRole d = 1 then q / side else q % side
    if i < nr ∧ j < nc then (if tmByCol d then nth 0 (nth [] runs i) j else nth 0 (nth [] runs j) i) else 0
  let v := packNum bits ((List.range (side * side)).map el)
  let es := toBytes (tileElemBytes bits side) v
  let sc := (List.range 32).map (fun i => BitVec.ofNat 8 (if i < side then nth 0x7F scales i else 0))
  if tmScaled d then es ++ sc else es

/-! ### Writes in order (R175) -/

/-- The bits of a byte's low end laid over what stands there (R171). -/
def mergeByte (used : Nat) (new old : Byte) : Byte := BitVec.ofNat 8 (new.toNat % 2 ^ used + old.toNat / 2 ^ used * 2 ^ used)

/-- The bytes of a write whose last byte is written in part only: that byte is merged into memory (R171). -/
def mergeLast (k a : Nat) (bs : List Byte) (used : Nat) (s : State) (j : Job) : AR (List Byte) :=
  if used = 0 then .ok bs s j
  else (readChunks k .write [(a + bs.length - 1, 1)] s j false).bind (fun old s j =>
    .ok (bs.dropLast ++ [mergeByte used (bs.getLastD 0) (old.headD 0)]) s j)

/-- The writes of the present tile made one after another: what stands before a failing one stays written, and a stall goes on with
the one that stalled (R175). -/
def writeTodo (k : Nat) : Nat → State → Job → AR Unit
  | 0, s, j => .ok () s j
  | n + 1, s, j => match j.todo with
    | [] => .ok () s j
    | (a, bs, used) :: ws =>
      ((mergeLast k a bs used s j).bind (fun bs s j => jobWrite s k j a bs false)).bind (fun _ s j =>
        writeTodo k n s { j with todo := ws })

/-- The line pieces of an extent with their bytes; `used` bits of the last byte are written, 0 for all. -/
def lineWrites (a : Nat) (bs : List Byte) (used : Nat) : List (Nat × List Byte × Nat) :=
  (chunksOf a bs.length).map (fun c =>
    (c.1, (bs.drop (c.1 - a)).take c.2, if c.1 + c.2 = a + bs.length then used else 0))

/-- The runs of an unpacked tile as they will be written. -/
def runWrites (d : Slot) (el : Nat → Nat → Nat) (runs : List (Nat × Nat × Nat)) : List (Nat × List Byte × Nat) :=
  let bits := tmBits (tmFmt d)
  runs.flatMap (fun r =>
    let n := r.2.2
    lineWrites r.2.1 (toBytes (runBytes bits n) (packNum bits ((List.range n).map (el r.1)))) (n * bits % 8))

/-! ### One tile -/

/-- What a tile's move writes, in order. -/
def tileWrites (s : State) (k : Nat) (j : Job) (d : Slot) (t : Nat) : AR (List (Nat × List Byte × Nat)) :=
  let ta := tmTaddr d + t * tmTstride d
  let bits := tmBits (tmFmt d)
  let side := tmSide d
  if tmUnpack d then
    (jobRead s k j ta (tmTileBytes d)).bind (fun bs s j =>
      (overlapped s k j ta ta bs).bind (fun bs s j =>
        let v := ofBytes (bs.take (tileElemBytes bits side))
        let sc := bs.drop (tileElemBytes bits side)
        let el := fun (i q : Nat) => if tmByCol d then field v (tmIndex d i q * bits) bits else field v (tmIndex d q i * bits) bits
        let ss := if tmScaled d && decide (tmSaddr d ≠ 0) then (tmScales d t).map (fun x => (x.2, [nth 0 sc x.1], 0)) else []
        .ok (runWrites d el (tmRuns d t) ++ ss) s j))
  else
    (readRuns k bits (tmRuns d t) s j).bind (fun runs s j =>
      (if tmScaled d && decide (tmSaddr d ≠ 0) then readScales k (tmScales d t) s j else .ok [] s j).bind (fun scales s j =>
        .ok (lineWrites ta (packTile d t runs scales) 0) s j))

/-- The writes of a tile made, and the tile counted once they are performed. -/
def tileOut (k : Nat) (s : State) (j : Job) : Prog := progOf k (writeTodo k j.todo.length s j) (fun _ s j => pieceSent k 1 s j)

/-- One tile moved. -/
def tileStep (k : Nat) (s : State) (j : Job) : Prog :=
  let d := j.desc.head
  if tmTiles d ≤ j.pos then .stop (endJob s k j { status := 0, done := tmTiles d })
  else if !j.todo.isEmpty then tileOut k s j
  else if j.sent then pieceSent k 1 s j
  else progOf k (tileWrites s k j d j.pos) (fun ws s j => tileOut k s { j with todo := ws })

/-- Whether the plain and the tiled extent overlap (R174). -/
def tmMeet (d : Slot) : Bool :=
  let pEnd := tmPaddr d + (tmStored d - 1) * tmPstride d + runBytes (tmBits (tmFmt d)) (if tmByCol d then tmCols d else tmRows d)
  let tEnd := tmTaddr d + (tmTiles d - 1) * tmTstride d + tmTileBytes d
  decide (tmPaddr d < tEnd) && decide (tmTaddr d < pEnd)

def tileRun (s : State) (k : Nat) (j : Job) : State :=
  let d := j.desc.head
  let j := if tmMeet d && j.before.isNone && decide (j.pos = 0) then { j with before := some s.mem } else j
  runSteps (tileStep k) k (tmTiles d + 2) s j

/-- TILEMOVE (R167 to R175): a free mover of the die takes it. -/
def execTilemove (r : RingNo) (s : State) : Res :=
  match startable s r.toNat 4 with
  | none => .refused .notPending
  | some d =>
    if descBad (s.ring r.toNat) d.head || tileBad s d then .next (endAtStart s r.toNat d 3)
    else startJob s r.toNat d 2 tileRun

end Sys2Proof.Machine
end

