-- ==== Sys2Proof/Machine/Resume.lean ====
section
/-! DEFINITION. How engines, tile controllers, dispatches and cores go on when an answer, a walk or a reply comes, and the
completion of engines (R313 to R317, R361, R365, R438). -/

namespace Sys2Proof.Machine

/-! ### Engines -/

/-- The work of a job taken up again. -/
def jobRun (s : State) (k : Nat) (j : Job) : State :=
  match hdOp j.desc.head with
  | 1 => copyRun s k j
  | 2 => inlineRun s k j
  | 3 => reduceRun s k j
  | 4 => tileRun s k j
  | 6 => fullerRun s k j
  | _ => atomicRun s k j

/-- Whether a translation of an engine's is under way, or its fault open: the engine stands still until that ends (R313, R318). -/
def jobHeld (s : State) (k : Nat) : Bool :=
  xlatBusy s (jobAgent k) || (decide (k % 64 / 16 = 3) && xlatBusy s (.dispatch (k / 64) 1))

/-- A job without an ending goes on. -/
def jobGo (s : State) (k : Nat) : State :=
  match s.job k with
  | some j => if j.ending.isSome || jobHeld s k then s else jobRun s k { j with wait := .run }
  | none => s

/-- A job ended by a failure that comes from outside: a refused fault, an error response, a lost host. -/
def jobFailed (s : State) (k : Nat) (j : Job) (st : Nat) : State :=
  let clean := { j with reqs := [], gathered := [], sent := false, wait := .run }
  if j.ending.isSome then endJob s k j { status := st, done := j.done }
  else match hdOp j.desc.head with
  | 3 => reduceRun (dropJobReqs s j) k (reduceFailed { clean with merging := none } st)
  | 6 =>
    if j.merging.isSome || decide (j.phase = 3) then fullerRun (dropJobReqs s j) k (fulFailed { clean with merging := none } st)
    else if j.phase = 2 then fullerRun (dropJobReqs s j) k (fulFailed { clean with phase := 3 } st)
    else fulEnd s k j st
  | 8 => endJob s k j { status := st, detail := boolNat j.oldVal.isSome, done := 0 }
  | _ => endJob s k j { status := st, done := j.done }

/-! ### Dispatches -/

/-- The rings of a die that a dispatch serves: dispatch 1 the Fuller rings, dispatch 0 the others (R612). -/
def dispatchServes (s : State) (die i rn : Nat) : Bool :=
  decide ((s.ring rn).die.toNat = die) && (decide ((s.ring rn).role = 2) == decide (i = 1))

/-- The rings that a dispatch's stall has held start again. -/
def unstall (s : State) (die i : Nat) : State :=
  s.ringq.foldl (fun s e => if e.2.stalled && e.2.launchReq.isNone && dispatchServes s die i e.1 then
    s.setRq e.1 { s.rq e.1 with stalled := false, faulting := false } else s) s

/-- The descriptor whose dispatch is at fault, at the front of its ring, ends with a status (R317, R612). -/
def endDispatched (s : State) (die i status : Nat) : State :=
  match s.ringq.find? (fun e => e.2.faulting && dispatchServes s die i e.1) with
  | some (rn, q) => match q.fetched with
    | d :: _ => endAtStart (unstall s die i) rn d status
    | [] => unstall s die i
  | none => s

/-- A stalled translation may be made again. -/
def resumeAgent (s : State) (a : Agent) : State :=
  match a with
  | .tile g => tileRetry s g
  | .dispatch d i => if i = 0 then unstall s d 0 else jobGo (unstall s d 1) (jobKey d 3 0)
  | a => match agentJob a with
    | some k => jobGo s k
    | none => s

/-- A fault refused (R317). -/
def refuseAgent (s : State) (a : Agent) : State :=
  match a with
  | .tile g => match (s.gr g).stall with
    | .access x => haltOn s g x.pc x.insn 2
    | _ => s
  | .dispatch d i =>
    if i = 0 then endDispatched s d 0 0x0E
    else match s.job (jobKey d 3 0) with
      | some j => jobFailed (unstall s d 1) (jobKey d 3 0) j 0x0E
      | none => unstall s d 1
  | a => match agentJob a with
    | some k => match s.job k with
      | some j => jobFailed s k j 0x0E
      | none => s
    | none => s

/-! ### Answers to requests of the module -/

/-- The ring whose launch record a request has asked for. -/
def launchRing (s : State) (id : Nat) : Option Nat :=
  (s.ringq.find? (fun e => decide (e.2.launchReq = some id))).map (·.1)

/-- The host's answer to a cluster's request (R287): data on their way with S or E, or M, as the request asked; or the upgrade of a copy
that is still held. -/
def hostedGrant (s : State) (b line : Nat) (bs : List Byte) : State :=
  let a := s.al line b
  let d : LineData := BitVec.ofNat 1024 (ofBytes bs)
  match a.st with
  | .sma => s.setAl line b { a with ackDue := true }
  | .imd => s.setAl line b { a with incoming := some (.m, d) }
  | .isd | .isdi => s.setAl line b { a with incoming := some (.s, d) }
  | _ => s

/-- Data for a read, or the old value of an atomic, given to its requester. -/
def giveData (s : State) (r : OutReq) (bs : List Byte) : State :=
  let s := dropReq s r.id
  match r.agent with
  | .core h =>
    if r.kind = .atomic then
      let v := extend true bs
      hartDrained ((s.setHt h { s.ht h with loaded := v }).emit (.coreData h v)) h
    else hartDrained (deliverLoad s h r.addr r.signed bs) h
  | .tile g => match (s.gr g).stall with
    | .remote a id =>
      if id ≠ r.id then s
      else match a.kind with
      | .load _ _ _ =>
        let pa := r.addr / 128 * 128 + a.va.toNat % 128
        tileGot (rbAdd s g pa bs) g a pa bs
      | .amo _ _ rd _ => tileDone (rbDrop s g r.addr) g a rd (extend true bs)
      | _ => tileGot s g a r.addr bs
    | _ => s
  | .dispatch _ _ => match launchRing s r.id with
    | some rn => s.setRq rn { s.rq rn with launchRec := some bs, launchReq := none, stalled := false }
    | none => s
  | .cluster b => hostedGrant s b (r.addr / 128) bs
  | a => match agentJob a with
    | none => s
    | some k => match s.job k with
      | none => s
      | some j =>
        let reqs := j.reqs.filter (· ≠ r.id)
        let j := if r.kind = .atomic then { j with reqs := reqs, oldVal := some (ofBytes bs) }
          else { j with reqs := reqs, gathered := j.gathered ++ [(r.addr, bs)] }
        if reqs.isEmpty then jobGo (s.setJob k (some j)) k else s.setJob k (some j)

/-- The records of an error response to an engine, and its status (R263, R264, R437, R438, Table 20.6). The response says neither
which of a residue mismatch and a format error an accumulator word met nor the residues: those fields are free (Table 20.5). -/
def engineErr (s : State) (r : OutReq) (resp : Resp) (residue : Bool) : Nat × State :=
  if residue then
    let (v, s) := takeFree 15 s
    (0x0D, fault s 0x13 (if r.norm then 3 else 1 + v.toNat / 2 ^ 14) r.ctx r.agent false (some r.va) r.addr
      [(256, 7, field v.toNat 0 7), (264, 7, field v.toNat 7 7)])
  else if r.kind = .write then
    (respStatus resp, postLost s r.agent [{ tt := 0, tgt := r.target, block := r.addr / 32, va := BitVec.ofNat 64 r.va, ctx := r.ctx,
                                            tick := s.tick.toNat }])
  else (respStatus resp, respFault s resp r.ctx r.agent r.kind (some r.va) r.addr)

/-- An error response given to its requester. -/
def giveErr (s : State) (r : OutReq) (resp : Resp) (residue : Bool) : State :=
  match r.agent with
  | .core h =>
    if r.kind = .write then (if hh : h < 96 then storeLost s (.core ⟨h, hh⟩) r.id else s)
    else hartDrained (coreFail (dropReq s r.id) h resp r.kind (BitVec.ofNat 64 r.va) r.addr) h
  | .tile g =>
    if r.kind = .write then (if hg : g < 96 then storeLost s (.tile ⟨g, hg⟩) r.id else s)
    else
      let s := dropReq s r.id
      match (s.gr g).stall with
      | .remote a id => if id = r.id then tileFail s g a resp (r.addr / 128 * 128 + a.va.toNat % 128) else s
      | _ => s
  | .dispatch _ _ =>
    let s := dropReq s r.id
    match launchRing s r.id with
    | some rn =>
      let s := respFault s resp r.ctx r.agent r.kind (some r.va) r.addr
      let q := s.rq rn
      let s := s.setRq rn { q with launchReq := none, stalled := false }
      match q.fetched with
      | d :: _ => endAtStart s rn d (respStatus resp)
      | [] => s
    | none => s
  | .cluster b => failWaiting (dropReq s r.id) (r.addr / 128) b resp
  | a =>
    let s := dropReq s r.id
    match agentJob a with
    | none => s
    | some k => match s.job k with
      | none => s
      | some j =>
        let (st, s) := engineErr s r resp residue
        jobFailed s k j st

/-! ### The end of an engine's work -/

/-- A job that runs the descriptor of a ring at an index and meets a condition: after DISABLE and ENABLE two may have one index. -/
def jobWith (p : Job → Bool) (s : State) (rn idx : Nat) : Option (Nat × Job) :=
  s.jobs.findSome? (fun e => match e.2 with
    | some j => if j.ring = rn ∧ j.desc.idx.toNat = idx ∧ p j then some (e.1, j) else none
    | none => none)

/-- A job whose work can go on or end now. -/
def jobReady (j : Job) : Bool := if j.ending.isSome then decide (j.wait ≠ .flush) else decide (j.wait = .run)

/-- A job that awaits the zero-length read of a host. -/
def jobFlushes (h : Nat) (j : Job) : Bool := decide (j.wait = .flush) && j.hostMask.getLsbD h

/-- A finished engine posts its record, performs its signal and becomes free (R361, R173, R205). -/
def finishJob (s : State) (k : Nat) (j : Job) (e : Ending) : State :=
  let s := completeDesc (s.setJob k none) j.ring j.desc e
  let s := if e.status = 0 then descSignal s j.ring j.desc else s
  if k % 64 / 16 = 3 then fulStatAll s (k / 64) fulDone else s

/-- ENGINE_COMPLETION: the record waits, and the engine with it, while the CRING is full (R360); work that a home held goes
on. -/
def execEngineCompletion (r : RingNo) (idx : W32) (s : State) : Res :=
  match jobWith jobReady s r.toNat idx.toNat with
  | none => .refused .notPending
  | some (k, j) => match j.ending with
    | none => .next (settleAll (jobGo s k))
    | some e =>
      if recordDue j.desc e && !(cringTakes s j.ring) then .next s
      else .next (finishJob s k j e)

/-- Whether a request waits for a secure stream at its link (R534). -/
def heldAt (s : State) (h id : Nat) : Bool :=
  (s.host h).heldTlps.any (fun t => match t with
    | .read i _ _ => decide (i = id)
    | .flush i _ _ => decide (i = id)
    | .cxl _ addr _ => (reqOf s id).any (fun r => r.toHost && decide (r.addr = addr))
    | _ => false)

/-- A zero-length read of a job's has returned. -/
def flushReturned (s : State) (k : Nat) (j : Job) (h id : Nat) : State :=
  let mask := j.hostMask ^^^ BitVec.ofNat 4 (2 ^ h)
  let done := decide (mask = 0)
  (dropReq s id).setJob k (some { j with hostMask := mask, flushed := done, reqs := j.reqs.filter (· ≠ id),
                                         wait := if done then EWait.run else .flush })

/-- HOST_FLUSH_READ_RETURN (R365): it ends the run of timeouts (R382). -/
def execHostFlushReadReturn (h : HostLinkNo) (r : RingNo) (idx : W32) (s : State) : Res :=
  match jobWith (jobFlushes h) s r.toNat idx.toNat with
  | none => .refused .notPending
  | some (k, j) =>
      match s.reqs.find? (fun q => j.reqs.contains q.id && decide (q.target = h.val) && decide (q.len = 0)) with
      | some q =>
        if heldAt s h q.id then .refused .notPending
        else
          let s := s.setHost h { s.host h with timeouts := 0 }
          .next (flushReturned s k j h q.id)
      | none => .refused .notPending

end Sys2Proof.Machine
end

