-- ==== Sys2Proof/Machine/Streams.lean ====
section
/-! DEFINITION. Streams, their operations and their deadlines (chapter 6). -/

namespace Sys2Proof.Machine

/-! ### Entries and images (Table 6.1) -/

def streamImage (e : Stream) : Nat :=
  packFields [(0, 1, boolNat e.v), (1, 3, e.st.toNat), (4, 12, e.ctx.toNat), (16, 16, e.ring.toNat), (32, 8, e.misses.toNat),
    (40, 8, e.misslim.toNat), (48, 1, boolNat e.late), (49, 1, boolNat e.rqmiss), (50, 1, boolNat e.tok), (64, 22, e.len.toNat),
    (86, 4, e.tpbl.toNat), (90, 12, e.bps.toNat), (128, 52, e.first.toNat), (192, 52, e.last.toNat), (256, 24, e.nblk.toNat),
    (320, 64, e.ndl.toNat), (384, 64, e.rqd.toNat), (448, 32, e.tdi.toNat), (512, 64, e.lastc.toNat), (576, 64, e.rctr.toNat),
    (640, 128, e.rkey.toNat), (768, 64, e.tag.toNat)]

/-- The entry an image loads; V is set (Table 6.4 WRITE). -/
def streamOfImage (x : Nat) : Stream :=
  let f := fun (w lo : Nat) => BitVec.ofNat w (field x lo w)
  { v := true, st := f 3 1, ctx := f 12 4, ring := f 16 16, misses := f 8 32, misslim := f 8 40, late := bitAt x 48,
    rqmiss := bitAt x 49, tok := bitAt x 50, len := f 22 64, tpbl := f 4 86, bps := f 12 90, first := f 52 128, last := f 52 192,
    nblk := f 24 256, ndl := f 64 320, rqd := f 64 384, tdi := f 32 448, lastc := f 64 512, rctr := f 64 576, rkey := f 128 640,
    tag := f 64 768 }

/-- The reserved fields of an image, as (lowest bit, width). -/
def imageReserved (x : Nat) : Bool :=
  [(51, 13), (102, 26), (180, 12), (244, 12), (280, 40), (480, 32), (832, 192)].all
    (fun (r : Nat × Nat) => decide (field x r.1 r.2 = 0))

def maxTokens : Nat := 2097152

/-- The capacity of a stream (R186). -/
def capacity (e : Stream) : Nat := min maxTokens (e.nblk.toNat / (e.bps.toNat + 1) * 2 ^ e.tpbl.toNat)

/-- Whether RING takes a stream's completions (R183, R184). -/
def streamRingOk (s : State) (e : Stream) : Bool :=
  let r := s.ring e.ring.toNat
  r.v && r.kind && decide (r.ctx = e.ctx)

/-- R183. -/
def imageOk (s : State) (x : Nat) : Bool :=
  let e := streamOfImage x
  imageReserved x && decide (1 ≤ e.st.toNat ∧ e.st.toNat ≤ 3) && decide (e.tpbl.toNat ≤ 12) &&
    decide (e.first ≠ 0) && decide (e.last ≠ 0) && decide (e.first.toNat % 0x10000 = 0) && decide (e.last.toNat % 0x10000 = 0) &&
    decide (e.len.toNat ≤ capacity e) && streamRingOk s e

/-! ### Completions of streams (Table 11.11, R184) -/

def tokenRec (kind status : Nat) (i : Nat) (e : Stream) (count : Nat) (final : Bool) (tokens : Nat) : Slot :=
  mkSlot [(0, 8, kind), (8, 8, status), (16, 14, i), (30, 4, count), (34, 1, boolNat final), (35, 22, e.len.toNat),
    (64, 64, e.tag.toNat), (128, 64, e.lastc.toNat), (192, 256, tokens)]

/-- A completion that RING must not get: dropped, logged with stream and TAG, and an event to the FRING of context 0. -/
def dropStreamRec (s : State) (i : Nat) (e : Stream) : State :=
  let s := s.logE { src := .chm, tag := 184, data := i, addr := e.tag.toNat }
  let rn := e.ring.toNat
  let s := (s.setRing rn { s.ring rn with event := 6 }).logE { src := .chm, kind := 0x20, code := 6, data := rn }
  match fringOf s 0 with
  | some f => post s (qFault 4) f (eventRec s e.ring.toNat 6 (s.ring e.ring.toNat).tail.toNat)
  | none => s

def postStream (s : State) (q i : Nat) (e : Stream) (rec : Slot) : State :=
  if streamRingOk s e && decide ((s.ring e.ring.toNat).st ≠ .off) then post s q e.ring.toNat rec else dropStreamRec s i e

/-! ### Deadlines (R193 to R197) -/

def monitored (e : Stream) : Bool := e.v && decide (1 ≤ e.st.toNat ∧ e.st.toNat ≤ 3)

def tokenDue (s : State) (e : Stream) : Bool :=
  monitored e && decide (e.ndl ≠ 0) && !e.late && decide (e.ndl.toNat < s.tick.toNat) && decide (e.arm ≠ some s.tick)

def requestDue (s : State) (e : Stream) : Bool :=
  monitored e && decide (e.rqd ≠ 0) && !e.rqmiss && decide (e.rqd.toNat < s.tick.toNat) && decide (e.arm ≠ some s.tick)

/-- Whether a miss abandons the entry (Table 6.6), MISSES being already raised. -/
def abandons (s : State) (e : Stream) : Bool :=
  match (s.ring e.ring.toNat).policy.toNat with
  | 1 => true
  | 2 => decide (max 1 e.misslim.toNat ≤ e.misses.toNat)
  | _ => false

/-- One miss: MISSES, the fault record, the policy's action (R194). A second miss of the same tick on an entry that the first
has abandoned takes no further action (log 30). -/
def oneMiss (s : State) (i : Nat) (request : Bool) : State :=
  let e := s.stream i
  let e := { e with misses := satAdd e.misses 1, late := e.late || !request, rqmiss := e.rqmiss || request }
  let act := monitored e && abandons s e
  let d := if request then e.rqd else e.ndl
  let frec := faultRec 0x11 (if request then 2 else 1) e.ctx.toNat .streamTable false none s.tick.toNat 0
    [(256, 14, i), (272, 2, boolNat act), (276, 22, e.len.toNat), (320, 64, d.toNat), (384, 8, e.misses.toNat)]
  let e := if act then { e with st := 5 } else e
  let s := postFring (s.setStream i e) qDeadline e.ctx.toNat frec
  if act then postStream s qDeadline i e (tokenRec 3 2 i e 0 false 0) else s

/-- The misses of one entry at this tick: the token's first. -/
def missEntry (s : State) (i : Nat) : State :=
  let e := s.stream i
  let t := tokenDue s e
  let r := requestDue s e
  let s := if t then oneMiss s i false else s
  if r then oneMiss s i true else s

/-- The due misses of entries up to n, in ascending order. -/
def missesTo (s : State) (n : Nat) : State :=
  s.streams.foldl (fun s e => if e.1 ≤ n then missEntry s e.1 else s) s

/-- DEADLINE_MISS: the monitor acts on the entries up to the named one. -/
def execDeadlineMiss (i : StreamNo) (s : State) : Res :=
  let e := s.stream i
  if tokenDue s e || requestDue s e then .next (missesTo s i) else .refused .notPending

/-! ### Bodies (Table 6.3, R182) -/

def stOp (d : Slot) : Nat := field (body d) 0 4
def stStream (d : Slot) : Nat := field (body d) 8 14
def stCount (d : Slot) : Nat := field (body d) 32 16
def stFinal (d : Slot) : Bool := bitAt (body d) 48
def stMask (d : Slot) : Nat := field (body d) 49 3
def stDraws (d : Slot) : Nat := field (body d) 64 32
def stArea (d : Slot) : Nat := field (body d) 128 256

/-- Whether a body breaks R182 for its operation. -/
def streamBodyBad (d : Slot) : Bool :=
  let b := body d
  let op := stOp d
  let n := stCount d
  let area := stArea d
  decide (op = 0) || decide (9 < op) || decide (field b 4 4 ≠ 0) || decide (field b 22 10 ≠ 0) || decide (field b 52 12 ≠ 0) ||
    decide (field b 96 32 ≠ 0) || (decide (op ≠ 4) && (stFinal d || decide (stDraws d ≠ 0))) ||
    (decide (op ≠ 5) && decide (stMask d ≠ 0)) ||
    (match op with
     | 1 | 2 => decide (n ≠ 0) || decide (area % 128 ≠ 0) || decide (2 ^ 52 ≤ area)
     | 3 | 9 => decide (n = 0) || decide (area ≠ 0)
     | 4 => decide (n = 0) || decide (8 < n) || decide (2 ^ (32 * n) ≤ area)
     | 5 => decide (n ≠ 0) || decide (2 ^ 160 ≤ area)
     | _ => decide (n ≠ 0) || decide (area ≠ 0))

/-! ### Chains (R187, R188) -/

/-- Whether a record or link passes the checks of R188. -/
def chainOk (s : State) (ctx w : Nat) : Bool :=
  let a := field w 16 36 * 0x10000
  bitAt w 0 && decide (field w 1 15 = 0) &&
    (match placeOf a with
     | .main _ d => mainAllows s d ctx
     | .near die off => nearBacked s die off && ownerAllows (nearOwner s die (off / nearWayBytes)) ctx
     | _ => false)

/-- What reading a chain brings: the node of the last record, a wait, a refusal, or a failed access. -/
inductive Chain where
  | done (node : Nat) (s : State)
  | wait (s : State)
  | refused (s : State)
  | failed (r : Resp) (pa : Nat) (s : State)
  deriving DecidableEq, Repr

/-- One word of a chain, and what follows it (R188). -/
def chainGet (s : State) (ctx a : Nat) (k : Nat → State → Chain) : Chain :=
  match physRead s .streamTable ctx a 8 with
  | (.ok, bs, s) => if chainOk s ctx (ofBytes bs) then k (ofBytes bs) s else .refused s
  | (.wait, _, s) => .wait s
  | (r, _, s) => .failed r a s

/-- The address of a node's link. -/
def chainLink (node : Nat) : Nat := node + 65528

/-- n records from one of a node on, links followed where a node fills. -/
def chainRead (ctx : Nat) : Nat → State → Nat → Nat → Chain
  | 0, s, node, _ => .done node s
  | n + 1, s, node, idx =>
    if decide (idx = 8191) then
      chainGet s ctx (chainLink node) (fun w s =>
        let next := field w 16 36 * 0x10000
        chainGet s ctx next (fun _ s => chainRead ctx n s next 1))
    else chainGet s ctx (node + 8 * idx) (fun _ s => chainRead ctx n s node (idx + 1))

/-- Where record NBLK is looked for (R188): the node and index, 8,191 for the node's link. -/
def chainFrom (e : Stream) : Nat × Nat :=
  if e.nblk = 0 then (e.first.toNat, 0)
  else if e.nblk.toNat % 8191 = 0 then (e.last.toNat, 8191)
  else (e.last.toNat, e.nblk.toNat % 8191)

/-! ### Operations (Table 6.4) -/

/-- What an operation brings: nothing yet, or a status with its effect and further fields of its record. -/
inductive SOut where
  | wait (s : State)
  | done (status : Nat) (extra : List (Nat × Nat × Nat)) (s : State)
  deriving DecidableEq, Repr

/-- A failed access of the table (R607). -/
def streamFail (s : State) (r : Resp) (ctx : Nat) (acc : Acc3) (pa : Nat) : SOut :=
  .done (respStatus r) [] (respFault s r ctx .streamTable acc none pa)

def stateIn (e : Stream) (l : List Nat) : Bool := e.v && l.contains e.st.toNat

def opWrite (s : State) (rc i : Nat) (d : Slot) : SOut :=
  if (s.stream i).st ≠ 0 then .done 4 [] s
  else match physRead s .streamTable rc (stArea d) 128 with
  | (.ok, bs, s) =>
    let x := ofBytes bs
    if imageOk s x then .done 0 [] (s.setStream i { streamOfImage x with arm := some s.tick }) else .done 3 [] s
  | (.wait, _, s) => .wait s
  | (r, _, s) => streamFail s r rc .read (stArea d)

def opRead (s : State) (rc i : Nat) (d : Slot) : SOut :=
  let e := s.stream i
  if e.st = 0 then .done 4 [] s
  else match physWrite s .streamTable rc (stArea d) (toBytes 128 (streamImage e)) with
  | (.ok, s) => .done 0 [] s
  | (.wait, s) => .wait s
  | (r, s) => streamFail s r rc .write (stArea d)

def opAppend (s : State) (i : Nat) (d : Slot) : SOut :=
  let e := s.stream i
  let n := stCount d * (e.bps.toNat + 1)
  if !(stateIn e [1, 2, 3]) then .done 4 [] s
  else if 16777215 < e.nblk.toNat + n then .done 6 [] s
  else
    let (node, idx) := chainFrom e
    match chainRead e.ctx.toNat n s node idx with
    | .done node s => .done 0 [] (s.setStream i { e with nblk := e.nblk + BitVec.ofNat 24 n, last := BitVec.ofNat 52 node })
    | .wait s => .wait s
    | .refused s => .done 5 [] s
    | .failed r pa s => streamFail s r e.ctx.toNat .read pa

/-- Why LEN may not rise by n (R186). -/
def lenRefusal (e : Stream) (n : Nat) : Option Nat :=
  if maxTokens < e.len.toNat + n then some 8 else if capacity e < e.len.toNat + n then some 7 else none

/-- Whether RING is full or does not write now, so that the table delays a COMMIT (R360). -/
def ringHoldsBack (s : State) (e : Stream) : Bool :=
  let r := s.ring e.ring.toNat
  streamRingOk s e && (decide (r.st = .paused) || (decide (r.st = .active) && ringFull r))

def opCommit (s : State) (i : Nat) (d : Slot) : SOut :=
  let e := s.stream i
  let n := stCount d
  if e.v ∧ e.st = 5 then .done 9 [] s
  else if !(stateIn e [1, 2]) then .done 4 [] s
  else match lenRefusal e n with
  | some st => .done st [] s
  | none =>
    if ringHoldsBack s e then .wait s
    else
      let status := boolNat (e.late || e.rqmiss)
      let e := { e with len := e.len + BitVec.ofNat 22 n, tok := true, lastc := s.tick, rctr := e.rctr + BitVec.ofNat 64 (stDraws d) }
      let trec := tokenRec 2 status i e n (stFinal d) (stArea d)
      let e := { e with late := false, st := if stFinal d then 4 else 2,
                        ndl := if e.tdi = 0 then 0 else s.tick + BitVec.ofNat 64 (n * e.tdi.toNat) }
      .done 0 [] (postStream (s.setStream i e) qDone i e trec)

def opDeadline (s : State) (i : Nat) (d : Slot) : SOut :=
  let e := s.stream i
  let m := stMask d
  if !(stateIn e [1, 2, 3]) then .done 4 [] s
  else
    let e := if bitAt m 0 then { e with ndl := BitVec.ofNat 64 (stArea d), late := false } else e
    let e := if bitAt m 1 then { e with rqd := BitVec.ofNat 64 (stArea d / 2 ^ 64) } else e
    let e := if bitAt m 2 then { e with tdi := BitVec.ofNat 32 (stArea d / 2 ^ 128) } else e
    .done 0 [] (s.setStream i { e with arm := some s.tick })

def opPause (s : State) (i : Nat) : SOut :=
  let e := s.stream i
  if stateIn e [1, 2] then .done 0 [] (s.setStream i { e with st := 3 }) else .done 4 [] s

def opResume (s : State) (i : Nat) : SOut :=
  let e := s.stream i
  if stateIn e [3] then .done 0 [] (s.setStream i { e with st := if e.tok then 2 else 1 }) else .done 4 [] s

def opClose (s : State) (i : Nat) : SOut :=
  let e := s.stream i
  if e.st = 0 then .done 4 [] s
  else
    let s := { s with streamBad := Tab.put false s.streamBad i false }
    .done 0 [(256, 52, e.first.toNat), (320, 24, e.nblk.toNat)] (s.setStream i {})

def opExtend (s : State) (i : Nat) (d : Slot) : SOut :=
  let e := s.stream i
  if !(stateIn e [1, 2, 3]) then .done 4 [] s
  else match lenRefusal e (stCount d) with
  | some st => .done st [] s
  | none => .done 0 [] (s.setStream i { e with len := e.len + BitVec.ofNat 22 (stCount d) })

/-- The operation accepted: the tick's misses first, in ascending order up to the entry's own (R179, R194), an entry with an uncorrectable error refusing all but READ and
CLOSE (R565). -/
def streamAccept (s : State) (op : Nat) (d : Slot) (run : State → Nat → Slot → SOut) : SOut :=
  let i := stStream d
  let s := missesTo s i
  if Tab.get false s.streamBad i && decide (op ≠ 2) && decide (op ≠ 8) then .done 4 [] s
  else run s i d

/-- A stream operation of a ring (R178, R181, R360): `op` is the command's operation; a descriptor of a reserved operation
ends with any of the commands. -/
def streamOp (r : RingNo) (op : Nat) (run : State → Nat → Slot → SOut) (s : State) : Res :=
  let rn := r.toNat
  match startable s rn 5 with
  | none => .refused .notPending
  | some d =>
    let o := stOp d.head
    if o ≠ op ∧ 1 ≤ o ∧ o ≤ 9 then .refused .notPending
    else
      let out := if descBad (s.ring rn) d.head || streamBodyBad d.head then SOut.done 3 [] s
        else streamAccept s op d.head run
      match out with
      | .wait s' => .next s'
      | .done st extra s' =>
        if recordDue d { status := st } && !(cringTakes s rn) then .next s
        else .next (completeDesc (takeStart s' rn d) rn d { status := st } extra)

def execStreamWrite (r : RingNo) (s : State) : Res := streamOp r 1 (fun s' i d => opWrite s' (s.ring r.toNat).ctx.toNat i d) s
def execStreamRead (r : RingNo) (s : State) : Res := streamOp r 2 (fun s' i d => opRead s' (s.ring r.toNat).ctx.toNat i d) s
def execStreamAppend (r : RingNo) (s : State) : Res := streamOp r 3 opAppend s
def execStreamCommit (r : RingNo) (s : State) : Res := streamOp r 4 opCommit s
def execStreamDeadline (r : RingNo) (s : State) : Res := streamOp r 5 opDeadline s
def execStreamPause (r : RingNo) (s : State) : Res := streamOp r 6 (fun s i _ => opPause s i) s
def execStreamResume (r : RingNo) (s : State) : Res := streamOp r 7 (fun s i _ => opResume s i) s
def execStreamClose (r : RingNo) (s : State) : Res := streamOp r 8 (fun s i _ => opClose s i) s
def execStreamExtend (r : RingNo) (s : State) : Res := streamOp r 9 opExtend s

end Sys2Proof.Machine
end

