-- ==== Sys2Proof/Machine/Group.lean ====
section
/-! DEFINITION. The group: dead and departed peers, the membership table, formation, joins, hellos, the group timebase
(chapter 14, R385 to R389). -/

namespace Sys2Proof.Machine

def setGroup (s : State) (g : GroupState) : State := { s with group := g }

def isMember (s : State) : Bool := decide (s.group.gst = .member)
def isMaster (s : State) : Bool := isMember s && s.group.mv && decide (s.group.mpos = s.group.mypos)

/-- Positions that the table holds as MEMBER. -/
def members (s : State) : List Nat := (List.range 64).filter (fun p => decide ((s.memb p).st = 1))

/-- The states in which a link is trained (R416). -/
def trainedSt : FState → Bool | .attest => true | .probation => true | .ctrlonly => true | .up => true | _ => false

def trainedLinks (s : State) : List Nat := (List.range 18).filter (fun f => trainedSt (s.fl f).st)

/-- A link's entry with its readiness bit: set in CTRLONLY and UP (R494). -/
def putFl (s : State) (f : Nat) (x : FlueLink) : State :=
  setReady (s.setFl f x) (32 + f) (decide (x.st = .ctrlonly) || decide (x.st = .up))

/-- The writes that a link carried and that have no answer yet: their error responses (R263). -/
def failCarried (s : State) (f : Nat) : State :=
  (s.reqs.filter (fun r => decide (r.link = some f) && decide (r.kind = .write))).foldl
    (fun s r => giveErr s r .targetLost false) s

/-- A link goes down (R416, Table 14.5); its keys go with it (R537), and the writes it carried are lost (R263). -/
def rawDown (s : State) (f cause : Nat) (dst : FState) : State :=
  let s := dropSessions s (8 + f)
  let x := s.fl f
  failCarried (putFl s f { x with st := dst, cause := BitVec.ofNat 4 cause, downcnt := satAdd x.downcnt 1, width := 0,
                                  keyed := false, pv := false, admitted := false, keyNext := none, unacked := [], backlog := [], since := s.elapsed }) f

/-- The group state follows a link's loop-back or a die's test: TEST while one is on, entered from STANDALONE and left for it
(Table 14.7, log 35). -/
def settleTest (s : State) : State :=
  let on := (List.range 18).any (fun f => (s.fl f).loop) || (List.range 5).any (fun d => (Tab.get {} s.fabric.tests d).en)
  if on && decide (s.group.gst = .standalone) then setGroup s { s.group with gst := .test }
  else if !on && decide (s.group.gst = .test) then setGroup s { s.group with gst := .standalone }
  else s

/-! ### Messages of the group -/

/-- Group control to a position: over a flue link where one leads there, else over the management bus (R423, R426). -/
def sendCtrl (s : State) (p what : Nat) (fields : List Nat) : State :=
  match routeLinks s p with
  | f :: _ => flueSend s f (.flue f p (.ctrl what fields))
  | [] => s.emit (.mgmt what (p :: fields))

def sendMembers (s : State) (what : Nat) (fields : List Nat) : State :=
  ((members s).filter (fun p => decide (p ≠ s.group.mypos.toNat))).foldl (fun s p => sendCtrl s p what fields) s

/-- A message refused: answered with an error and logged with code 0x09 (R557). -/
def refuseMsg (s : State) (code : Nat) : State := (s.emit (.mgmt 0xFF [code])).logStk 9 code

/-! ### Membership changes (R426, R428, R609) -/

/-- UP links whose far end is no longer the table's MEMBER fall back to CTRLONLY (R432). -/
def recheckLinks (s : State) : State :=
  (List.range 18).foldl (fun s f =>
    let x := s.fl f
    if x.st = .up ∧ !(isMember s && decide ((s.memb x.peerpos.toNat).st = 1) && decide ((s.memb x.peerpos.toNat).idh = x.idh)) then
      putFl s f { x with st := .ctrlonly }
    else s) s

/-- An entry set, with its epoch; a new holder is not known dead. -/
def putMemb (s : State) (p : Nat) (st : BitVec 2) (epoch : W32) (idh : W64) : State :=
  let g := s.group
  let dead := if st = 1 then g.deadKnown &&& ~~~(BitVec.ofNat 64 (2 ^ p)) else g.deadKnown
  let s := setGroup s { g with epoch := epoch, deadKnown := dead, joins := g.joins.filter (fun j => decide (j.pos ≠ p)) }
  recheckLinks (s.setMemb p { st := st, epoch := epoch, idh := idh })

/-- The master: the MEMBER with the lowest position that is not known dead (R425). -/
def newMaster (s : State) : State :=
  let g := s.group
  if g.mv then
    match (members s).find? (fun p => !(positionDead s p)) with
    | some p => setGroup s { g with mpos := BitVec.ofNat 6 p }
    | none => setGroup s { g with mv := false }
  else s

/-- A change by the master: a new epoch, and a GROUP packet to every member and to the position itself. -/
def membChange (s : State) (p : Nat) (st : BitVec 2) (idh : W64) : State :=
  let e := s.group.epoch + 1
  let s := putMemb s p st e idh
  let msg := [e.toNat, p, st.toNat, idh.toNat]
  let others := (members s).filter (fun q => decide (q ≠ p) && decide (q ≠ s.group.mypos.toNat))
  let s := others.foldl (fun s q => sendCtrl s q 5 msg) s
  let s := if st = 1 ∧ p ≠ s.group.mypos.toNat then s.emit (.mgmt 5 (p :: msg)) else s
  newMaster s

/-! ### Loss of a position (R263, R388, R427, R438) -/

/-- Every request to a position without an answer ends with an error. -/
def failRequests (s : State) (p : Nat) : State :=
  (s.reqs.filter (fun r => !r.toHost && decide (r.target = p))).foldl (fun s r => giveErr s r .targetLost false) s

/-- A position treated as dead from now on; the master records the loss, DEAD or EMPTY. -/
def positionLost (s : State) (p : Nat) (departed : Bool) : State :=
  let s := setGroup s { s.group with deadKnown := s.group.deadKnown ||| BitVec.ofNat 64 (2 ^ p) }
  let s := newMaster (failRequests s p)
  if isMaster s && decide ((s.memb p).st = 1) then membChange s p (if departed then 0 else 2) (if departed then 0 else (s.memb p).idh)
  else s

def peerOf (s : State) (idh : W64) : Option Peer := s.group.peers.find? (fun x => decide (x.idh = idh))

/-- A peer declared dead or departed: errors, refusals, its links down, an event, a report to every member (R388, R427). -/
def peerGone (s : State) (idh : W64) (departed : Bool) : State :=
  match peerOf s idh with
  | none => s
  | some x =>
    let s := setGroup s { s.group with peers := s.group.peers.filter (fun y => decide (y.idh ≠ idh)) }
    let s := if x.pv && !x.spare then positionLost s x.pos departed else s
    let s := (trainedLinks s).foldl (fun s f => if (s.fl f).idh = idh then rawDown s f 0xB .down else s) s
    let s := partnerEvent s .flu (if departed then 0x13 else 0x12) x.pos 0
    if isMember s && x.pv && !x.spare then
      ((members s).filter (fun p => decide (p ≠ s.group.mypos.toNat) && decide (p ≠ x.pos))).foldl (fun s p =>
        sendCtrl s p 6 [x.pos, s.group.mypos.toNat, s.tick.toNat]) s
    else s

/-- A link goes down; its peer is dead when that was its last trained link (R387). -/
def linkDown (s : State) (f cause : Nat) (dst : FState := .down) : State :=
  let idh := (s.fl f).idh
  let was := trainedSt (s.fl f).st
  let s := rawDown s f cause dst
  settleAll (if was && !((trainedLinks s).any (fun k => decide ((s.fl k).idh = idh))) then peerGone s idh false else s)

/-- PEER_WATCHDOG_EXPIRY: 6,750,001 ticks without a hello (R387). -/
def execPeerWatchdogExpiry (idh : W64) (s : State) : Res :=
  match peerOf s idh with
  | some x => if 6750001 ≤ s.elapsed - x.last then .next (settleAll (peerGone s idh false)) else .refused .notPending
  | none => .refused .notPending

/-- DEAD: a report from a member (R427). -/
def execDead (pos reporter : Position) (auth : Bool) (s : State) : Res :=
  if !auth then .next (refuseMsg s 6)
  else if !(isMember s) || decide ((s.memb reporter).st ≠ 1) then .next s
  else .next (settleAll (positionLost s pos false))

/-! ### GROUP, MEMB_SET_EMPTY, MEMB_ADMIT, JOIN_REQ -/

/-- The changes that came ahead of their turn, applied while the next one is held; by fuel. -/
def applyHeld : Nat → State → State
  | 0, s => s
  | n + 1, s =>
    let g := s.group
    match g.held.find? (fun h => decide (h.epoch = g.epoch + 1) || decide (h.epoch = g.epoch)) with
    | some h =>
      let s := setGroup s { g with held := g.held.erase h }
      applyHeld n (if (s.memb h.pos).epoch = h.epoch then s else putMemb s h.pos h.st h.epoch h.idh)
    | none => setGroup s { g with held := g.held.filter (fun h => decide (g.epoch.toNat < h.epoch.toNat)) }

/-- GROUP: changes in epoch order; a gap asks the master for the full table; only the master changes the table (R426). -/
def execGroup (src : Position) (epoch : W32) (pos : Position) (st : BitVec 2) (idh : W64) (auth : Bool) (s : State) : Res :=
  let g := s.group
  if !auth then .next (refuseMsg s 5)
  else if g.gst ≠ .member ∧ g.gst ≠ .joining then .next s
  else if st = 3 then .next s
  else if g.mv && decide (g.mpos.toNat ≠ src.val) then .next (s.logTag .flu 0 426 src)
  else if epoch = g.epoch + 1 ∨ (epoch = g.epoch ∧ (s.memb pos).epoch ≠ epoch) then
    .next (newMaster (applyHeld (g.held.length + 1) (putMemb s pos st epoch idh)))
  else if epoch.toNat ≤ g.epoch.toNat then .next s
  else
    let s := setGroup s { g with held := g.held ++ [{ epoch := epoch, pos := pos.val, st := st, idh := idh }] }
    .next (sendCtrl s g.mpos.toNat 2 [g.epoch.toNat])

def cmdErr (s : State) (pos : Position) (act : BitVec 2) (err : Bool) : State :=
  setGroup s { s.group with cmdPos := BitVec.ofNat 6 pos.val, cmdAct := act, cmdErr := s.group.cmdErr || err }

/-- MEMB_SET_EMPTY: only on the master (R429). -/
def execMembSetEmpty (pos : Position) (s : State) : Res :=
  if isMaster s then .next (membChange (cmdErr s pos 1 false) pos 0 0) else .next (cmdErr s pos 1 true)

/-- MEMB_ADMIT: the oldest pending joiner of a position that is not MEMBER; the others are discarded and logged (R428,
R609). -/
def execMembAdmit (pos : Position) (s : State) : Res :=
  let mine := s.group.joins.filter (fun j => decide (j.pos = pos.val))
  match mine with
  | j :: rest =>
    if isMaster s && decide ((s.memb pos).st ≠ 1) then
      let s := membChange (cmdErr s pos 2 false) pos 1 j.idh
      .next (rest.foldl (fun s x => s.logTag .flu 0 609 x.pos) s)
    else .next (cmdErr s pos 2 true)
  | [] => .next (cmdErr s pos 2 true)

/-- JOIN_REQ: held by the master until its runtime admits it (R428, R609). -/
def execJoinReq (m : OfferMsg) (s : State) : Res :=
  if !m.auth then .next (refuseMsg s 4)
  else if !(isMaster s) || decide (m.gid ≠ s.stoker.cfg.gid) || decide (m.gpv ≠ s.kindle.gpv) then .next (s.logTag .flu 0 428 m.pos)
  else if (s.memb m.pos).st = 1 then .next (s.logTag .flu 0 609 m.pos)
  else .next (setGroup s { s.group with joins := s.group.joins ++ [{ pos := m.pos, idh := m.idh, count := m.count }] })

/-! ### The own offer (Table 14.8 steps 1 and 2) -/

/-- Step 1: each enabled link is CTRLONLY or DOWN. -/
def linksSettled (s : State) : Bool :=
  (List.range 18).all (fun f => !((s.fl f).en) || decide ((s.fl f).st = .ctrlonly) || decide ((s.fl f).st = .down))

/-- Step 2: Stoker sends FORM-OFFER to every configured position once K6 has enabled the links and they have settled. -/
def offerDue (s : State) : State :=
  let g := s.group
  let c := s.stoker.cfg
  if decide (g.gst = .forming) && s.kindle.opened && !g.offered && linksSettled s then
    let own : Offer := { pos := g.mypos.toNat, idh := Config.ownIdh, count := s.tick }
    let rest := g.offers.filter (fun o => decide (o.pos ≠ own.pos))
    let s := setGroup s { g with offered := true, offerSent := some s.elapsed, offers := rest ++ [own] }
    s.emits (((List.range 64).filter (fun p => c.pmask.getLsbD p && decide (p ≠ own.pos))).map (fun p =>
      .mgmt 1 [p, c.gid.toNat, own.pos, s.kindle.gpv.toNat, s.tick.toNat, own.idh.toNat]))
  else s

/-! ### The timebase (R431, R433, Table 6.7) -/

/-- The count stepped forward to a value; the misses of the tick it leaves come first (R179, Table 6.7). -/
def stepTick (s : State) (dst : W64) : State :=
  if s.tick.toNat < dst.toNat then
    let s := missesTo s 16383
    { s with tick := dst, group := { s.group with tbSteps := satAdd s.group.tbSteps 1 } }
  else s

/-- Droop bubbles inserted in one tick: 16 arithmetic cycles (R474, Table 16.1). -/
def runBursts (s : State) : State :=
  { s with power := { s.power with bursts := (s.power.bursts.map (fun e => (e.1, e.2 - 16))).filter (fun e => decide (e.2 ≠ 0)) } }

/-- The record of an uncorrectable entry of the set-up state; its SRC, DIE and UNIT have no code in Table 20.3 and are free (log
54). -/
def setupRec (s : State) (entry : Nat) : State :=
  let (v, s) := takeFree 15 s
  let s := s.logE { src := .chm, kind := 0x17, code := 3, data := entry }
  let rec_ := mkSlot [(0, 8, 0x17), (8, 8, 3), (32, 7, v.toNat % 128), (40, 8, v.toNat / 128), (64, 64, s.tick.toNat),
    (264, 8, 0x0D), (272, 16, entry)]
  postFring s (qFault 4) 0 rec_

/-- An array entry becomes uncorrectable (Table 20.1, R563, R565): an entry of the set-up state acts as if V were 0, an ACTIVE
ring enters OFF; a stream is ABANDONED without a completion; requests wait for a key table; a T1 line answers with the error, and a scratchpad word ends what reads it (R116). -/
def arrayUpset (s : State) : ArrayUpset → State
  | .spadWord g w => if w.toNat < 0x30000 then s.modGr g (fun x => { x with badWords := x.badWords ++ [w.toNat] }) else s
  | .t1Line die off =>
    if nearBacked s die off.toNat then { s with badLines := Tab.put 0 s.badLines (lineOf (nearKey die off.toNat)) 3 } else s
  | .stream i =>
    let s := { s.setStream i { s.stream i with st := 5 } with streamBad := Tab.put false s.streamBad i true }
    fault s 0x17 3 0 .streamTable false none 0 [(256, 3, 0), (264, 8, 0x0C), (272, 16, i)]
  | .ring r =>
    let n := r.toNat
    let s := if (s.ring n).st = .active then ringDisableOp s n else s
    setupRec (s.setRing n { s.ring n with v := false }) n
  | .context c => setupRec { s with ctxs := Tab.put {} s.ctxs c.toNat { s.ctxE c.toNat with v := false } } c.toNat
  | .window (.spad i) =>
    setupRec { s with spadWins := Tab.put {} s.spadWins i.val { Tab.get {} s.spadWins i.val with v := false } } i
  | .window (.inbound i) =>
    setupRec { s with flue := { s.flue with inwin := Tab.put {} s.flue.inwin i.val { Tab.get {} s.flue.inwin i.val with v := false } } } i
  | .hostWindow h i =>
    let x := s.host h
    setupRec (s.setHost h { x with inwin := Tab.put {} x.inwin i.val { Tab.get {} x.inwin i.val with v := false } }) i
  | .tally i => setupRec (s.setTally i.toNat { s.tally i.toNat with v := false }) i.toNat
  | .coefTable i =>
    let k := 16 * i.val + 15
    setupRec { s with coefs := Tab.put 0 s.coefs k (Tab.get 0 s.coefs k &&& 0x7FFFFFFF) } i
  | .keyTable c =>
    let s := { s with trust := { s.trust with tableWait := Tab.put false s.trust.tableWait c.val true } }
    s.logE { src := .mem, unit := c, kind := 0x17, code := 3, data := 0x0F }

/-- TIMEBASE_TICK: one tick of the module's own reference. While a count is held it does not rise; a member that lags adds
one count, one that leads suppresses one, each 4,096 ticks (R431, R433). -/
def execTimebaseTick (upset : Option ArrayUpset) (s : State) : Res :=
  let s := vecRunAll (missesTo s 16383)
  let s := match upset with | some u => arrayUpset s u | none => s
  let s := offerDue (runBursts { s with elapsed := s.elapsed + 1 })
  let g := s.group
  if !s.power.clk.rlock then .next s
  else if g.tbHold then
    .next { s with group := { g with slew := g.slew + 1, tbHold := decide (g.slew + 1 < 0) } }
  else if g.slew ≠ 0 ∧ 4096 ≤ s.elapsed - g.slewFrom then
    let up := decide (0 < g.slew)
    .next { s with tick := if up then s.tick + 2 else s.tick,
                   group := { g with slew := if up then g.slew - 1 else g.slew + 1, slewFrom := s.elapsed } }
  else .next { s with tick := s.tick + 1 }

/-- SYNC_SEND: the master's count on every trained link, every 225,000 ticks. -/
def execSyncSend (s : State) : Res :=
  if !(isMaster s) || decide (s.elapsed - s.group.lastSync < 225000) then .refused .notPending
  else
    let s := setGroup s { s.group with lastSync := s.elapsed }
    .next (flueSendAll s (trainedLinks s) (.sync s.tick))

/-- A signed value of 16 bits, saturating. -/
def sat16 (i : Int) : BitVec 16 := BitVec.ofNat 16 (ofInt 16 (max (-32768) (min 32767 i)))

/-- What a count d ticks away does to a follower. -/
def follow (s : State) (count : W64) : State :=
  let d : Int := count.toNat - s.tick.toNat
  let g := { s.group with tbSync := true, tbLock := decide (-16 ≤ d) && decide (d ≤ 16), tbOffs := sat16 d }
  let s := setGroup s g
  if g.gst = .joining ∧ d < -(2 ^ 28 : Int) then (setGroup s { g with tbSync := false }).logTag .stk 0 433 0
  else if 256 < d ∨ (g.gst = .joining ∧ 0 < d) then stepTick (setGroup s { g with slew := 0, tbHold := false }) count
  else if g.gst = .joining ∧ d < 0 then setGroup s { g with tbHold := true, slew := d }
  else if g.tbHold then s
  else setGroup s { g with slew := d, slewFrom := if g.slew = 0 then s.elapsed else g.slewFrom }

/-- SYNC: the corrected count of the neighbour toward the master, passed on to the other neighbours. -/
def execSync (f : FlueLinkNo) (count : W64) (s : State) : Res :=
  if !(trainedSt (s.fl f).st) then .refused .notPending
  else if isMaster s || (decide (s.group.gst ≠ .member) && decide (s.group.gst ≠ .joining)) then .next s
  else
    let s := follow s count
    .next (flueSendAll s ((trainedLinks s).filter (fun k => decide (k ≠ f.val))) (.sync s.tick))

/-! ### Formation (R424, R425) -/

/-- FORM_OFFER: collected while the group forms (Table 14.8 step 3). -/
def execFormOffer (m : OfferMsg) (s : State) : Res :=
  let g := s.group
  if !m.auth then .next (refuseMsg s 1)
  else if g.gst ≠ .forming ∨ m.gid ≠ s.stoker.cfg.gid ∨ m.gpv ≠ s.kindle.gpv ∨ s.stoker.cfg.pmask.getLsbD m.pos = false then .next s
  else
    let rest := g.offers.filter (fun o => decide (o.pos ≠ m.pos.val))
    .next (setGroup s { g with offers := rest ++ [{ pos := m.pos, idh := m.idh, count := m.count }] })

/-- Whether every configured position has offered. -/
def allOffered (s : State) : Bool :=
  (List.range 64).all (fun p => !(s.stoker.cfg.pmask.getLsbD p) || s.group.offers.any (fun o => decide (o.pos = p)))

/-- The founding table: every offering position MEMBER in epoch 1. -/
def foundTable (s : State) : State :=
  let g := s.group
  let start := (g.offers.foldl (fun n o => max n o.count.toNat) 0) + 2 ^ 31
  let t := g.offers.foldl (fun t o => Tab.put {} t o.pos { st := 1, epoch := 1, idh := o.idh }) ([] : Tab Memb)
  let s := setGroup s { g with gst := .member, mv := true, mpos := g.mypos, epoch := 1, memb := t, tableSent := some s.elapsed,
                               acks := [], tbSync := true, tbLock := true }
  let s := sendMembers s 2 (1 :: g.mypos.toNat :: start :: g.offers.flatMap (fun o => [o.pos, o.idh.toNat]))
  stepTick s (BitVec.ofNat 64 start)

/-- OFFER_WINDOW_END: the lowest offering position becomes master and sends TABLE. -/
def execOfferWindowEnd (s : State) : Res :=
  let g := s.group
  match g.offerSent with
  | some t =>
    if decide (g.gst = .forming) && (allOffered s || decide (1125000000 ≤ s.elapsed - t)) then
      let low := g.offers.foldl (fun n o => min n o.pos) 64
      if low = g.mypos.toNat then .next (foundTable s) else .next (setGroup s { g with offerSent := none })
    else .refused .notPending
  | none => .refused .notPending

/-- The entries of a TABLE message as a table. -/
def tableOf (l : List MembIn) : Tab Memb :=
  l.zipIdx.foldl (fun t (x : MembIn × Nat) => Tab.put {} t x.2 { st := x.1.st, epoch := x.1.epoch, idh := x.1.idh }) []

/-- TABLE: adopted while forming or joining, or from the module taken as master or a lower position (R424, R425); a founder
steps to the start count and answers ACK; a joiner ahead by more than 2^28 ticks stays out (R433). -/
def execTable (epoch : W32) (mpos : Position) (start : W64) (entries : List MembIn) (auth : Bool) (s : State) : Res :=
  let g := s.group
  let mine := (Tab.get {} (tableOf entries) g.mypos.toNat)
  if 64 < entries.length then .fault .illFormed
  else if !auth then .next (refuseMsg s 2)
  else match g.gst with
  | .standalone => .next s
  | .test => .next s
  | .member =>
    if mpos.val ≤ g.mpos.toNat ∧ g.epoch.toNat ≤ epoch.toNat then
      .next (recheckLinks (applyHeld (g.held.length + 1)
        (setGroup s { g with epoch := epoch, mpos := BitVec.ofNat 6 mpos.val, mv := true, memb := tableOf entries })))
    else .next s
  | .forming =>
    if mine.st ≠ 1 then .next s
    else
      let s := setGroup s { g with gst := .member, epoch := epoch, mpos := BitVec.ofNat 6 mpos.val, mv := true,
                                   memb := tableOf entries, tbSync := true, tbLock := true }
      .next (sendCtrl (stepTick s start) mpos 3 [epoch.toNat, g.mypos.toNat])
  | .joining =>
    if mine.st ≠ 1 ∨ mine.idh ≠ Config.ownIdh then .next s
    else if start.toNat + 2 ^ 28 < s.tick.toNat then .next (s.logTag .stk 0 433 0)
    else
      let s := follow (setGroup s { g with epoch := epoch, mpos := BitVec.ofNat 6 mpos.val, mv := true, memb := tableOf entries }) start
      .next (setGroup s { s.group with gst := .member })

/-- ACK of a founder. -/
def execAck (epoch : W32) (pos : Position) (auth : Bool) (s : State) : Res :=
  let g := s.group
  if !auth then .next (refuseMsg s 3)
  else if g.tableSent.isSome ∧ epoch = g.epoch then .next (setGroup s { g with acks := g.acks ++ [pos.val] })
  else .next s

/-- ACK_WINDOW_END: founders without an ACK are EMPTY in epoch 2. -/
def execAckWindowEnd (s : State) : Res :=
  let g := s.group
  let missing := (members s).filter (fun p => decide (p ≠ g.mypos.toNat) && !(g.acks.contains p))
  match g.tableSent with
  | some t =>
    if missing.isEmpty then .next (setGroup s { g with tableSent := none, acks := [] })
    else if s.elapsed - t < 225000000 then .refused .notPending
    else
      let e := g.epoch + 1
      let s := missing.foldl (fun s p => putMemb s p 0 e 0) (setGroup s { g with tableSent := none, acks := [] })
      .next (missing.foldl (fun s p => sendMembers s 5 [e.toNat, p, 0, 0]) s)
  | none => .refused .notPending

/-! ### Hellos (R385 to R389, R430) -/

/-- ROLE of this module's hellos (Table 12.10). -/
def helloRole (s : State) : Nat := match s.group.gst with | .member => 1 | .joining => 2 | _ => 0

/-- HELLO_SEND: every 2,250,000 ticks, on every trained and attested link. -/
def execHelloSend (s : State) : Res :=
  let g := s.group
  if s.elapsed - g.lastHello < 2250000 then .refused .notPending
  else
    let pv := decide (g.gst = .member) || decide (g.gst = .forming)
    let fields := [1, helloRole s, boolNat pv, if pv then g.mypos.toNat else 0, s.kindle.gpv.toNat, g.helloSeq.toNat, s.tick.toNat,
      Config.ownIdh.toNat, g.mpos.toNat, boolNat g.mv]
    let links := (trainedLinks s).filter (fun f => (s.fl f).keyed)
    let s := setGroup s { g with lastHello := s.elapsed, helloSeq := g.helloSeq + 1 }
    .next (flueSendAll s links (.hello fields))

/-- The hello's position accepted for its link and its peer; a new peer is admitted or seen as a spare. -/
def helloPeer (s : State) (f : Nat) (idh : W64) (pv : Bool) (pos : Nat) (spare : Bool) : State :=
  let x : Peer := { idh := idh, pv := pv, pos := pos, spare := spare, last := s.elapsed }
  let new := (peerOf s idh).isNone
  let s := setGroup s { s.group with peers := s.group.peers.filter (fun y => decide (y.idh ≠ idh)) ++ [x] }
  let s := s.setFl f { s.fl f with pv := pv, peerpos := BitVec.ofNat 6 pos, admitted := true }
  if new then partnerEvent s .flu (if spare then 0x14 else 0x11) pos 0 else s

/-- A forming module that hears a member, and no other offer, is a returning one: it joins (Table 14.7, R428, log 34). -/
def joinGroup (s : State) (mpos : Nat) : State :=
  let g := s.group
  if g.gst = .forming ∧ g.offers.all (fun o => decide (o.pos = g.mypos.toNat)) = true then
    let s := setGroup s { g with gst := .joining, offerSent := none, offers := [], mpos := BitVec.ofNat 6 mpos }
    s.emit (.mgmt 4 [mpos, s.stoker.cfg.gid.toNat, g.mypos.toNat, s.kindle.gpv.toNat, s.tick.toNat, Config.ownIdh.toNat])
  else s

/-- HELLO. -/
def execHello (f : FlueLinkNo) (payload : BitVec 256) (s : State) : Res :=
  let l := s.fl f
  let h := payload.toNat
  let role := field h 8 3
  let pv := bitAt h 11
  let pos := field h 12 6
  let idh := BitVec.ofNat 64 (field h 160 64)
  let bad := decide (field h 0 8 ≠ 1) || decide (3 < role) || decide (field h 18 14 ≠ 0) || decide (field h 48 16 ≠ 0) ||
    decide (field h 231 25 ≠ 0) || decide (idh ≠ l.idh)
  if !(trainedSt l.st) || !l.keyed then .refused .notPending
  else if bad then .next s
  else if (peerOf s idh).isNone ∧ field h 32 16 ≠ s.kindle.gpv.toNat then .next (partnerEvent s .flu 0x15 pos 0)
  else if role = 3 then .next (settleAll (peerGone s idh true))
  else
    let s := helloPeer s f idh pv pos (decide (role = 2))
    let s := if role = 1 ∧ bitAt h 230 = true then joinGroup s (field h 224 6) else s
    let g := s.group
    if isMember s && decide (role = 1) && g.mv && bitAt h 230 && decide (field h 224 6 ≠ g.mpos.toNat) then
      let s := if (s.fl f).st = .up then putFl s f { s.fl f with st := .ctrlonly } else s
      .next (s.logTag .flu f 430 (field h 224 6))
    else .next s

end Sys2Proof.Machine
end

