-- ==== Sys2Proof/Machine/FlueLinks.lean ====
section
/-! DEFINITION. Flue links: training, attestation, probation, flits, keys, going down, and their control register (R412 to R418,
R432, R536 to R540). -/

namespace Sys2Proof.Machine

/-- A link goes down for a cause, in the states the condition can meet. -/
def downIf (s : State) (f : FlueLinkNo) (ok : Bool) (cause : Nat) : Res :=
  if ok then .next (linkDown s f cause) else .refused .notPending

/-- States in which a link has a signal to lose. -/
def alive : FState → Bool | .down => false | .disabled => false | .loopback => false | _ => true

/-- FLUE_FLIT_RECEIVE (R415, R416, R540): of a flit that fails its CRC a replay is asked for; one whose tag fails under keys takes the link
down; an accepted one may be the first under new keys (R539), acknowledges flits sent, and may ask for the others again. -/
def execFlueFlitReceive (f : FlueLinkNo) (flit : FlitIn) (crcOk tagOk second : Bool) (s : State) : Res :=
  let x := s.fl f
  if !(trainedSt x.st) && decide (x.st ≠ .loopback) then .refused .notPending
  else if !crcOk then
    .next ((s.setFl f { x with
      replays := satAdd x.replays 1, crcRun := x.crcRun + 1, second := if second then satAdd x.second 1 else x.second
      secondAt := if second then (x.flits.toNat :: x.secondAt).take 2 else x.secondAt }).emit (.flue f 64 (.replay (x.rxSeq + 1).toNat)))
  else if x.st = .loopback then .next (s.setFl f { x with flits := x.flits + 1 })
  else if !x.keyed ∧ (x.st ≠ .attest ∨ flit.kind ≠ 1) then .next s
  else if x.keyed ∧ !tagOk then .next (linkDown s f 6)
  else
    let seq := x.rxSeq + 1
    let fresh := decide (x.keyNext = some seq.toNat)
    let s := flueAcked (s.setFl f { x with
      flits := x.flits + 1, rxSeq := seq, crcRun := 0, keyGen := if fresh then x.keyGen + 1 else x.keyGen
      keyNext := if fresh then none else x.keyNext }) f flit.hdr.ack
    .next (if flit.hdr.replay then flueReplay s f else s)

/-- FLUE_REPLAY_FAIL: a flit has failed, and then eight replays of it (R415). -/
def execFlueReplayFail (f : FlueLinkNo) (s : State) : Res :=
  downIf s f (trainedSt (s.fl f).st && decide (9 ≤ (s.fl f).crcRun)) 5

/-- Whether two flits needed a second replay within 2^30 received flits (R417). -/
def errRate (x : FlueLink) : Bool := match x.secondAt with | a :: b :: _ => decide (a - b < 2 ^ 30) | _ => false

/-- FLUE_ERRRATE, in a state later than PROBATION (R417). -/
def execFlueErrrate (f : FlueLinkNo) (s : State) : Res :=
  let x := s.fl f
  downIf s f ((decide (x.st = .ctrlonly) || decide (x.st = .up)) && errRate x) 7

/-- FLUE_LOS, FLUE_LOCK_LOST, FLUE_REMOTE_DOWN (Table 14.5). -/
def execFlueLos (f : FlueLinkNo) (s : State) : Res := downIf s f (alive (s.fl f).st) 1
def execFlueLockLost (f : FlueLinkNo) (s : State) : Res := downIf s f (alive (s.fl f).st) 2
def execFlueRemoteDown (f : FlueLinkNo) (s : State) : Res := downIf s f (alive (s.fl f).st) 9

/-- FLUE_RETRAIN_TIMER: 10 ms after going down with EN set (R416). -/
def execFlueRetrainTimer (f : FlueLinkNo) (s : State) : Res :=
  let x := s.fl f
  if x.st = .down ∧ x.en ∧ 2250000 ≤ s.elapsed - x.since then .next (putFl s f { x with st := .training, since := s.elapsed })
  else .refused .notPending

/-- WIDTH of the lanes that passed (R413). -/
def widthOf (lanes : BitVec 4) : BitVec 2 :=
  if lanes = 15 then 3 else if lanes.getLsbD 0 && lanes.getLsbD 1 then 1 else if lanes.getLsbD 2 && lanes.getLsbD 3 then 2 else 0

/-- FLUE_TRAINING_DONE (R413). -/
def execFlueTrainingDone (f : FlueLinkNo) (lanes : BitVec 4) (s : State) : Res :=
  let x := s.fl f
  if x.st ≠ .training then .refused .notPending
  else if widthOf lanes = 0 then .next (linkDown s f 0xC)
  else .next (putFl s f { x with st := .attest, width := widthOf lanes, since := s.elapsed })

/-- FLUE_TRAINING_TIMEOUT: 250 ms. -/
def execFlueTrainingTimeout (f : FlueLinkNo) (s : State) : Res :=
  let x := s.fl f
  downIf s f (decide (x.st = .training) && decide (56250000 ≤ s.elapsed - x.since)) 3

/-- FLUE_ATTEST_DONE: keys set and PROBATION entered with cleared statistics, or cause ATTEST (R417, R536, R537). -/
def execFlueAttestDone (f : FlueLinkNo) (a : AttestIn) (s : State) : Res :=
  let x := s.fl f
  if x.st ≠ .attest then .refused .notPending
  else if a.chainOk && a.listed && !a.invasive && decide (a.idh ≠ Config.ownIdh) then
    .next (putFl s f { x with st := .probation, keyed := true, idh := a.idh, flits := 0, replays := 0, second := 0, secondAt := [], crcRun := 0,
                              sentFlits := 0,
                              keyGen := x.keyGen + 1, keyNext := none, since := s.elapsed })
  else .next (linkDown s f 4)

/-- PROBATION_END: after 1 s (R417). -/
def execProbationEnd (f : FlueLinkNo) (s : State) : Res :=
  let x := s.fl f
  if x.st ≠ .probation ∨ s.elapsed - x.since < 225000000 then .refused .notPending
  else if x.second = 0 ∧ x.replays.toNat < 4096 then .next (putFl s f { x with st := .ctrlonly })
  else .next (linkDown s f 8)

/-- FLUE_LINK_UP (R432, R385); what the far end's table and HOLDCTL hold comes with the command. -/
def execFlueLinkUp (f : FlueLinkNo) (farMember farMatches farHold : Bool) (s : State) : Res :=
  let x := s.fl f
  let e := s.memb x.peerpos.toNat
  if decide (x.st = .ctrlonly) && x.admitted && x.pv && isMember s && farMember && farMatches && decide (e.st = 1) &&
      decide (e.idh = x.idh) && !x.holdctl && !farHold then
    .next (putFl s f { x with st := .up, farHold := false })
  else .refused .notPending

/-- FLUE_KEY_UPDATE: at 2^39 flits the requester, the end of the lower IDH, names the sequence number of its new key; a count that
would reach 2^40 takes the link down with cause AUTH (R536, R539). -/
def execFlueKeyUpdate (f : FlueLinkNo) (s : State) : Res :=
  let x := s.fl f
  if !x.keyed ∨ x.sentFlits < 2 ^ 39 then .refused .notPending
  else if 2 ^ 40 ≤ x.sentFlits + 1 then .next (linkDown s f 6)
  else if x.idh.toNat < Config.ownIdh.toNat then .next s
  else
    .next (flueSend (s.setFl f { x with sentFlits := 0, keyGen := x.keyGen + 1 }) f (.flue f 64 (.key (x.txSeq + 2).toNat)))

/-- KEY: the sequence number from which the far end's direction uses its new key. -/
def execKey (f : FlueLinkNo) (seq : BitVec 12) (s : State) : Res :=
  let x := s.fl f
  if trainedSt x.st && x.keyed then .next (s.setFl f { x with keyNext := some seq.toNat }) else .refused .notPending

/-! ### FLU_LINK_CTL (Table 14.4) -/

/-- FLU_LINK_EN: 0 disables with cause CTRL; 1 leaves DISABLED for TRAINING, and lets a DOWN link return (R416, log 33). -/
def linkEn (s : State) (f : Nat) (en : Bool) : State :=
  let x := s.fl f
  if en then putFl s f { x with en := true, st := if x.st = .disabled then .training else x.st,
                                since := if x.st = .disabled then s.elapsed else x.since }
  else
    let s := s.setFl f { x with en := false }
    if x.st = .disabled then s else linkDown s f 0xA .disabled

def execFluLinkEn (f : FlueLinkNo) (en : Bool) (s : State) : Res := .next (linkEn s f en)

/-- FLU_LINK_RETRAIN. -/
def linkRetrain (s : State) (f : Nat) : State :=
  let x := s.fl f
  if x.st = .down ∨ x.st = .disabled then s else linkDown s f 0xA

def execFluLinkRetrain (f : FlueLinkNo) (s : State) : Res := .next (linkRetrain s f)

/-- FLU_LINK_HOLDCTL: an UP link falls back to CTRLONLY (R432, log 33). -/
def linkHold (s : State) (f : Nat) (hold : Bool) : State :=
  let x := s.fl f
  putFl s f { x with holdctl := hold, st := if hold ∧ x.st = .up then .ctrlonly else x.st }

def execFluLinkHoldctl (f : FlueLinkNo) (hold : Bool) (s : State) : Res := .next (linkHold s f hold)

/-- FLU_LINK_LOOP: a write of 1 outside DOWN or DISABLED is ignored and logged. -/
def linkLoop (s : State) (f : Nat) (loop : Bool) : State :=
  let x := s.fl f
  if loop then
    if x.st = .down ∨ x.st = .disabled then settleTest (putFl s f { x with loop := true, st := .loopback })
    else if x.st = .loopback then s
    else s.logTag .flu f 418 0
  else if x.st = .loopback then
    settleTest (putFl s f { x with loop := false, st := if x.en then .down else .disabled, since := s.elapsed })
  else s

def execFluLinkLoop (f : FlueLinkNo) (loop : Bool) (s : State) : Res := .next (linkLoop s f loop)

end Sys2Proof.Machine
end

