-- ==== Sys2Proof/Machine/Fabric.lean ====
section
/-! DEFINITION. The package fabric (chapter 13): bring-up of bundles, lane maps, retraining, routes, the die test. -/

namespace Sys2Proof.Machine

/-! ### Sides of a bundle (Table 13.1) -/

/-- Whether a die has a bundle of this number. -/
def sideOk (x : Side) : Bool := decide (x.die.val = 4) || decide (x.b.val < 32)

/-- The far end of a bundle. -/
def farEnd (die b : Nat) : Nat × Nat :=
  if die = 4 then (b / 16, b % 16)
  else if b < 16 then (4, 16 * die + b)
  else if b < 24 then ((die + 1) % 4, b + 8)
  else ((die + 3) % 4, b - 8)

def bundlesOf (die : Nat) : List Nat := List.range (if die = 4 then 64 else 32)

def setBundleSt (s : State) (die b : Nat) (f : Bundle → Bundle) : State := s.setBundle die b (f (s.bundle die b))

/-- Both sides of a bundle changed together (R392). -/
def bothSides (s : State) (die b : Nat) (f : Bundle → Bundle) : State :=
  let (d2, b2) := farEnd die b
  setBundleSt (setBundleSt s die b f) d2 b2 f

/-! ### Events and routes (R403 to R405, R410) -/

def fabricSrc (die : Nat) : LogSrc := if die = 4 then .chm else .hth

/-- A fabric event (Tables 13.8, 13.9). -/
def fabricEvent (s : State) (die b width code : Nat) : State :=
  packageEvent s (fabricSrc die) die 0x22 code [(16, 3, die), (19, 6, b), (25, 2, width)]

/-- A route event of a source die: no bundle is named for it, so BUNDLE and WIDTH are free (log 36). -/
def routeEvent (s : State) (die code : Nat) : State :=
  let (v, s) := takeFree 8 s
  fabricEvent s die (field v.toNat 0 6) (field v.toNat 6 2) code

/-- The readiness bits of a hearth die that follow its reachability (R404, Table 17.2): HTH and CPE while it is reachable, its
slave PLL is locked and its K3 actions are done; FUL with HTH and all 32 channels. -/
def refreshHth (s : State) (n : Nat) : State :=
  let up := reachable s 4 n && s.power.clk.slock.getLsbD n && Tab.get false s.kindle.loaded n
  let s := setReady (setReady s (16 + n) up) (20 + n) up
  setReady s (24 + n) (up && (List.range 32).all (fun c => readyCh s (32 * n + c)))

def allPairs : List (Nat × Nat) :=
  (List.range 5).flatMap (fun a => ((List.range 5).filter (fun b => decide (a ≠ b))).map (fun b => (a, b)))

def setDraining (s : State) (a b : Nat) (v : Bool) : State :=
  { s with fabric := { s.fabric with draining := Tab.put false s.fabric.draining (5 * a + b) v } }

/-- What a change of bundles does to routes: markers go out on the old route where a new one replaces it; a destination
without a route is unreachable (R404, R405, R409). -/
def restripe (old s : State) : State :=
  let s := allPairs.foldl (fun s (p : Nat × Nat) =>
    match routeOf old p.1 p.2, routeOf s p.1 p.2 with
    | some x, some y => if x = y then s else setDraining s p.1 p.2 true
    | some _, none => routeEvent (setDraining s p.1 p.2 false) p.1 6
    | _, _ => s) s
  fabricGo ((List.range 4).foldl refreshHth s)

/-- ROUTE_DRAIN_MARKER: the destination has returned every marker; held messages go on the new route (R405, R410). -/
def execRouteDrainMarker (src dst : Fin 5) (s : State) : Res :=
  if !(draining s src dst) then .refused .notPending
  else .next (fabricGo (routeEvent (setDraining s src dst false) src 5))

/-! ### Bring-up (R396, R411) -/

def popCount (v : BitVec 68) : Nat := ((List.range 68).filter (fun i => v.getLsbD i)).length

/-- The lowest n lanes set in a mask, from lane i; by fuel. -/
def lowLanes : Nat → Nat → Nat → BitVec 68 → Nat
  | 0, _, _, _ => 0
  | f + 1, i, n, v =>
    if n = 0 then 0
    else if v.getLsbD i then 2 ^ i + lowLanes f (i + 1) (n - 1) v
    else lowLanes f (i + 1) n v

def laneMap (n : Nat) (v : BitVec 68) : BitVec 68 := BitVec.ofNat 68 (lowLanes 68 0 n v)

/-- WIDTH of Table 13.4 for a count of good lanes. -/
def widthFor (n : Nat) : Nat := if 64 ≤ n then 3 else if 32 ≤ n then 2 else if 16 ≤ n then 1 else 0

/-- Logical lanes of a WIDTH code. -/
def widthLanes (c : Nat) : Nat := match c with | 1 => 16 | 2 => 32 | 3 => 64 | _ => 0

def toDisabled (x : Bundle) : Bundle := { x with st := .disabled, width := 0, rxmap := 0, txmap := 0 }

/-- Whether either side holds the bundle out of use. -/
def heldOff (s : State) (die b : Nat) : Bool :=
  let (d2, b2) := farEnd die b
  (s.bundle die b).off || (s.bundle d2 b2).off

/-- A bundle disabled, with its event. -/
def disableBundle (s : State) (die b : Nat) : State :=
  let old := s
  if (s.bundle die b).st = .disabled then s
  else restripe old (fabricEvent (bothSides s die b toDisabled) die b 0 3)

/-- A full bring-up begins (R396): TRAINING on both sides. -/
def beginTraining (s : State) (die b : Nat) : State :=
  let old := s
  restripe old (bothSides s die b (fun x => { x with st := .training, width := 0, kept := false }))

/-- BUNDLE_BRING_UP at kindling: a bundle that OFF holds stays DISABLED. -/
def execBundleBringUp (x : Side) (s : State) : Res :=
  if !(sideOk x) then .fault .illFormed
  else
    let (d2, b2) := farEnd x.die x.b
    let ok := fun (y : Bundle) => decide (y.st = .down) || decide (y.st = .disabled)
    if !(ok (s.bundle x.die x.b) && ok (s.bundle d2 b2)) then .refused .notPending
    else if heldOff s x.die x.b then .next (bothSides s x.die x.b toDisabled)
    else .next (beginTraining s x.die x.b)

/-- KEPT_MAP_BRING_UP: `x` is the side that did not reset; a bundle that it had DISABLED, or that OFF holds, stays DISABLED
(R411, Table 13.10). -/
def execKeptMapBringUp (x : Side) (s : State) : Res :=
  if !(sideOk x) then .fault .illFormed
  else
    let (d2, b2) := farEnd x.die x.b
    let me := s.bundle x.die x.b
    if (s.bundle d2 b2).st ≠ .down ∨ me.st = .loopback then .refused .notPending
    else if me.st = .disabled ∨ heldOff s x.die x.b then .next (bothSides s x.die x.b toDisabled)
    else
      let old := s
      let s := bothSides s x.die x.b (fun y => { y with st := .training, width := 0, kept := false })
      .next (restripe old (setBundleSt s x.die x.b (fun y => { y with kept := true })))

/-- The candidate lanes of the named side's receive and transmit directions: those found good, and in a kept-map bring-up
only those of the kept side's maps (R411). -/
def candidates (s : State) (die b : Nat) (goodRx goodTx : BitVec 68) : BitVec 68 × BitVec 68 :=
  let (d2, b2) := farEnd die b
  let me := s.bundle die b
  let far := s.bundle d2 b2
  if me.kept then (goodRx &&& me.rxmap, goodTx &&& me.txmap)
  else if far.kept then (goodRx &&& far.txmap, goodTx &&& far.rxmap)
  else (goodRx, goodTx)

/-- The end of a bring-up: width and maps by R396, with the events of R410. -/
def endTraining (s : State) (die b : Nat) (goodRx goodTx : BitVec 68) : State :=
  let (d2, b2) := farEnd die b
  let old := s
  let keptMap := (s.bundle die b).kept || (s.bundle d2 b2).kept
  let (rx, tx) := candidates s die b goodRx goodTx
  let w := widthFor (min (popCount rx) (popCount tx))
  let n := widthLanes w
  let up := fun (x : Bundle) (r t : BitVec 68) =>
    { x with st := if w = 0 then .disabled else .up, width := BitVec.ofNat 2 w, replays := 0, rxmap := laneMap n r, txmap := laneMap n t }
  let s := setBundleSt s die b (fun x => up x rx tx)
  let s := setBundleSt s d2 b2 (fun x => up x tx rx)
  let s := if keptMap then fabricEvent s die b w 7 else s
  let s := if w = 0 then fabricEvent s die b w 3 else if w < 3 then fabricEvent s die b w 2
    else if keptMap then s else fabricEvent s die b w 1
  restripe old s

/-- BRING_UP_DONE: the lanes found good in the named side's receive and transmit directions; a lane fused bad is not among
them (R395). -/
def execBringUpDone (x : Side) (goodRx goodTx : BitVec 68) (s : State) : Res :=
  if !(sideOk x) then .fault .illFormed
  else if (s.bundle x.die x.b).st ≠ .training then .refused .notPending
  else .next (endTraining s x.die x.b goodRx goodTx)

/-- SIDEBAND_TIMEOUT: no handshake within 10 ms. -/
def execSidebandTimeout (x : Side) (s : State) : Res :=
  if !(sideOk x) then .fault .illFormed
  else if (s.bundle x.die x.b).st ≠ .training then .refused .notPending
  else .next (disableBundle s x.die x.b)

/-! ### Service (R393, R408) -/

/-- BUNDLE_CRC_ERROR at the receiving side: the far end replays from the flit in error. How many flits that is follows from
what had been sent: a free value of 1 to 512, the depth of the replay buffer (log 37). -/
def execBundleCrcError (x : Side) (s : State) : Res :=
  if !(sideOk x) then .fault .illFormed
  else if (s.bundle x.die x.b).st ≠ .up then .refused .notPending
  else
    let (d2, b2) := farEnd x.die x.b
    let (n, s) := takeFree 9 s
    .next (setBundleSt s d2 b2 (fun y => { y with replays := satAdd y.replays (n.toNat + 1) }))

/-- RETRAIN (R408): a full bring-up of one bundle; ignored while OFF holds it. -/
def retrainBundle (s : State) (die b : Nat) : State :=
  let st := (s.bundle die b).st
  if heldOff s die b || decide (st = .training) || decide (st = .loopback) then s
  else beginTraining (fabricEvent s die b 0 4) die b

def execBundleRetrain (x : Side) (s : State) : Res :=
  if sideOk x then .next (retrainBundle s x.die x.b) else .fault .illFormed

/-- BUNDLE_REPLAY_THRESHOLD: more than 64 flits replayed within 2^20, or one flit replayed 8 times in vain. -/
def execBundleReplayThreshold (x : Side) (s : State) : Res :=
  if !(sideOk x) then .fault .illFormed
  else
    let me := s.bundle x.die x.b
    if me.st = .up ∧ 8 ≤ me.replays.toNat then .next (retrainBundle s x.die x.b) else .refused .notPending

/-- OFF (Table 13.4): 1 re-stripes the bundle away and holds it DISABLED. -/
def offBundle (s : State) (die b : Nat) (off : Bool) : State :=
  let s := setBundleSt s die b (fun y => { y with off := off })
  if off && decide ((s.bundle die b).st ≠ .loopback) then disableBundle s die b else s

def execBundleOff (x : Side) (off : Bool) (s : State) : Res :=
  if sideOk x then .next (offBundle s x.die x.b off) else .fault .illFormed

/-! ### The stand-alone die test (R399, R400) -/

def State.test (s : State) (die : Nat) : DieTest := Tab.get {} s.fabric.tests die
def State.setTest (s : State) (die : Nat) (x : DieTest) : State :=
  { s with fabric := { s.fabric with tests := Tab.put {} s.fabric.tests die x } }

/-- The offset of a die's DIETEST_CTL in the register range (Tables 21.1 to 21.3). -/
def dietestOff (die : Nat) : Nat := if die = 4 then 0x50 else 0x1000000 + 0x400000 * die + 0x38

/-- A write of EN: 1 is refused unless every bundle of the die is DOWN or DISABLED; 0 returns them to DOWN. -/
def testEn (s : State) (die : Nat) (en : Bool) : State :=
  let x := s.test die
  if x.busy then (if en = x.en then s else s.logTag (fabricSrc die) die 400 0)
  else if en = x.en then s
  else if en then
    if (bundlesOf die).all (fun b => decide ((s.bundle die b).st = .down) || decide ((s.bundle die b).st = .disabled)) then
      let s := s.setTest die { x with en := true }
      settleTest ((bundlesOf die).foldl (fun s b => setBundleSt s die b (fun y => { y with st := .loopback, width := 0 })) s)
    else s.setTest die { x with err := true }
  else
    let s := s.setTest die { x with en := false }
    settleTest ((bundlesOf die).foldl (fun s b => setBundleSt s die b (fun y => { y with st := .down, width := 0, rxmap := 0, txmap := 0 })) s)

/-- A write of GO. -/
def testGo (s : State) (die : Nat) : State :=
  let x := s.test die
  if !x.en || x.busy || decide (x.log2ui.toNat < 20) || decide (30 < x.log2ui.toNat) then s.setTest die { x with err := true }
  else s.setTest die { x with busy := true }

/-- Only Stoker and Thirun write DIETEST_CTL (R399). -/
def testRight (who : DevAgent) : Bool := isStoker who || isThirun who

def execDietestEn (die : Fin 5) (who : DevAgent) (en : Bool) (s : State) : Res :=
  devCommand who s (if testRight who then testEn s die en else devRefused s who (dietestOff die))

def execDietestGo (die : Fin 5) (who : DevAgent) (s : State) : Res :=
  devCommand who s (if testRight who then testGo s die else devRefused s who (dietestOff die))

/-- DIETEST_DONE: the good lanes of each bundle of the die, in bundle order. -/
def execDietestDone (die : Fin 5) (good : List (BitVec 68)) (s : State) : Res :=
  let x := s.test die
  if good.length ≠ (bundlesOf die).length then .fault .illFormed
  else if !x.busy then .refused .notPending
  else
    let fails := (good.filter (fun v => decide (popCount v < 64))).length
    let s := good.zipIdx.foldl (fun s (e : BitVec 68 × Nat) => setBundleSt s die e.2 (fun y => { y with rxmap := e.1 })) s
    .next (s.setTest die { x with busy := false, fails := BitVec.ofNat 7 fails })

end Sys2Proof.Machine
end

