-- ==== Sys2Proof/Machine/FlueRx.lean ====
section
/-! DEFINITION. Packets: what a destination performs or refuses (R136 to R138, R256, R257, R420, R421, R434 to R437), forwarding
(R422), and the answers to this module's own requests (R263, R438). -/

namespace Sys2Proof.Machine

/-! ### Windows (R434 to R436, R136, R137) -/

/-- A window's admission of an extent: where it leads, its context, its tally counter, its mode. -/
structure Admit where
  pa : Nat
  ctx : Nat
  tally : Nat
  mode : Nat
  deriving DecidableEq, Repr

/-- What a packet asks of a window. -/
inductive PktAsk where
  | read | write | atomic | merge (norm : Bool)
  deriving DecidableEq, Repr

/-- R421 and R427: the epoch of this position, and a sender that is a MEMBER and not known dead. -/
def senderOk (s : State) (p : Pkt) : Bool :=
  decide (p.depoch.toNat = (s.memb s.group.mypos.toNat).epoch.toNat % 2 ^ 16) && decide ((s.memb p.spos).st = 1) &&
    !(positionDead s p.spos)

/-- The right that Table 14.11 and its mode give a packet. -/
def inwinRight (w : FlueWin) : PktAsk → Bool
  | .read => w.rd
  | .write => w.wr && decide (w.mode = 0)
  | .atomic => w.at_ && decide (w.mode = 0)
  | .merge norm => w.wr && w.at_ && decide (w.mode = if norm then 2 else 1)

/-- An inbound window (R436), but for the checks of memory and tally. -/
def inwinAdmit (s : State) (i x len : Nat) (spos : Nat) (k : PktAsk) : Option Admit :=
  let w := Tab.get {} s.flue.inwin i
  let pa := w.pa.toNat * 0x10000 + x
  let place := match placeOf pa with
    | .main _ _ => true
    | .near die off => decide (w.mode = 0) && nearBacked s die off
    | _ => false
  if w.v && decide (w.mode ≠ 3) && inwinRight w k && w.src.getLsbD spos && decide (x + len ≤ (w.len.toNat + 1) * 0x10000) && place then
    some { pa := pa, ctx := w.ctx.toNat, tally := w.tally.toNat, mode := w.mode.toNat }
  else none

/-- A remote scratchpad window (R136, R137, R434). -/
def spadAdmit (s : State) (off len : Nat) (spos : Nat) (k : PktAsk) : Option Admit :=
  let w := Tab.get {} s.spadWins (field off 23 9)
  let row := field off 11 12
  let g := w.grate.toNat
  let x := s.gr g
  let right := match k with
    | .read => w.rd | .write => w.wr | .atomic => w.rd && w.wr | .merge _ => false
  let runs := decide (g < 96) && (decide (x.st = .running) || decide (x.st = .stopped)) && !x.clearing && decide (x.ctx = w.ctx)
  if w.v && right && w.src.getLsbD spos && decide (row ≤ w.len.toNat) && decide (field off 0 11 + len ≤ 2048) && runs then
    some { pa := spadKey g ((w.base.toNat + row) * 2048 + field off 0 11), ctx := w.ctx.toNat, tally := w.tally.toNat, mode := 0 }
  else none

/-- The window that an offset names, and its admission with the tally's (R257). -/
def pktAdmit (s : State) (p : Pkt) (len : Nat) (k : PktAsk) : Option Admit :=
  let sel := field p.off.toNat 32 6
  let a := if !(senderOk s p) then none
    else if sel = 63 then spadAdmit s p.off.toNat len p.spos k
    else inwinAdmit s sel (field p.off.toNat 0 32) len p.spos k
  match a with
  | some x => if k = .read ∨ tallyAdmits s x.tally x.ctx then some x else none
  | none => none

/-! ### Answers -/

def answerPkt (s : State) (p : Pkt) (m : FlueMsg) : State := flueSend s p.f (.flue p.f p.spos m)

/-- A refusal: nothing performed, nothing counted, the cause logged with window, position and offset (R137). -/
def refusePkt (s : State) (p : Pkt) (why : Nat) : State :=
  answerPkt (s.logE { src := .flu, unit := p.f, tag := 137, addr := p.off.toNat, data := p.spos }) p (.err p.id why)

/-- A packet that arrives: on an UP link, within one line. -/
def pktRun (p : Pkt) (len : Nat) (s : State) (run : Res) : Res :=
  if len = 0 ∨ 128 < p.off.toNat % 128 + len then .fault .illFormed
  else if !(linkUp s p.f) then .refused .notPending
  else run

/-- The end of an admitted access: counted and answered, held by a home, or refused where memory answers with an error. -/
def pktDone (s : State) (p : Pkt) (r : Resp) (ok : State) : Res :=
  match r with
  | .ok => .next (settleAll ok)
  | .wait => .next s
  | _ => .next (settleAll (refusePkt s p 0))

/-- The stored bytes of a masked write over what the line holds. -/
def mergeMask (old new : List Byte) (enables : BitVec 128) (first : Nat) : List Byte :=
  (List.zip old new).zipIdx.map (fun (x : (Byte × Byte) × Nat) => if enables.getLsbD (first + x.2) then x.1.2 else x.1.1)

/-- FLUE_WRITE: the 16 bytes of enables hold a bit for each byte of the line (Table 14.6); a write that is not masked has the
bits of all its bytes set. -/
def execFlueWrite (p : Pkt) (enables : BitVec 128) (data : List Byte) (s : State) : Res :=
  let n := data.length
  pktRun p n s (match pktAdmit s p n .write with
    | none => .next (refusePkt s p 0)
    | some a =>
      let on := ((List.range n).filter (fun i => enables.getLsbD (p.off.toNat % 128 + i))).length
      let ag := Agent.flueLink p.f
      let full := decide (on = n)
      let spad := match placeOf a.pa with | .spad _ _ => true | _ => false
      let acc : Acc3 := if full || spad then .write else .atomic
      match checkExtent s ag a.ctx acc a.pa n with
      | (r, s') =>
        let bs := if full then data else mergeMask (rawRead s' a.pa n) data enables (p.off.toNat % 128)
        pktDone s' p r
          (answerPkt (countTally (rawWrite s' a.pa bs) a.tally on) p (.ack p.id)))

/-- The words of a merge packet combined with memory's; none where a check fails (R437). -/
def mergeWords (norm : Bool) (old new : List Byte) : Option (List Byte) :=
  if norm then
    match normMerge (normDecode (ofBytes old)) (normDecode (ofBytes new)) with
    | .ok n => some (toBytes 128 (normEncode n))
    | .error _ => none
  else
    (List.zip (chunks 32 5 old) (chunks 32 5 new)).foldl (fun (acc : Option (List Byte)) (x : List Byte × List Byte) =>
      match acc with
      | none => none
      | some l =>
        let a := accDecode (ofBytes x.1)
        let b := accDecode (ofBytes x.2)
        if a.mode ≠ 0 ∨ b.mode ≠ 0 then none
        else match accMerge a b with
          | .ok w => some (l ++ toBytes 32 (accEncode w))
          | .error _ => none) (some [])

/-- FLUE_MERGE: atomic at the line's home; a word that fails its check performs nothing and answers with a residue error. -/
def execFlueMerge (p : Pkt) (norm : Bool) (data : List Byte) (s : State) : Res :=
  let n := data.length
  if n % 32 ≠ 0 ∨ p.off.toNat % 32 ≠ 0 ∨ (norm ∧ n ≠ 128) then .fault .illFormed
  else pktRun p n s (match pktAdmit s p n (.merge norm) with
    | none => .next (refusePkt s p 0)
    | some a => match checkExtent s (.flueLink p.f) a.ctx .atomic a.pa n with
      | (.ok, s') => match mergeWords norm (rawRead s' a.pa n) data with
        | some bs => pktDone s' p .ok (answerPkt (countTally (rawWrite s' a.pa bs) a.tally n) p (.ack p.id))
        | none => .next (answerPkt s' p (.err p.id 2))
      | (r, s') => pktDone s' p r s')

/-- FLUE_ATOMIC: the old value returns in DATA (R420). -/
def execFlueAtomic (p : Pkt) (op : AOp) (wide : Bool) (opnd cmp : W64) (s : State) : Res :=
  let n := if wide then 8 else 4
  if p.off.toNat % n ≠ 0 then .fault .illFormed
  else pktRun p n s (match pktAdmit s p n .atomic with
    | none => .next (refusePkt s p 0)
    | some a => match physAtomic s (.flueLink p.f) a.ctx a.pa n op opnd.toNat cmp.toNat with
      | (r, old, s') => pktDone s' p r (answerPkt (countTally s' a.tally n) p (.data p.id (toBytes n old))))

/-- FLUE_READ. -/
def execFlueRead (p : Pkt) (len : BitVec 8) (s : State) : Res :=
  let n := len.toNat
  pktRun p n s (match pktAdmit s p n .read with
    | none => .next (refusePkt s p 0)
    | some a => match physRead s (.flueLink p.f) a.ctx a.pa n with
      | (r, bs, s') => pktDone s' p r (answerPkt s' p (.data p.id bs)))

/-! ### Forwarding (R422) -/

/-- FLUE_FORWARD: sent on in the next hop class, or discarded with an ERR to its sender. -/
def execFlueForward (f : FlueLinkNo) (src dest : Position) (hop : BitVec 2) (addr : BitVec 52) (len : BitVec 8) (id : Nat)
    (s : State) : Res :=
  if s.group.mv ∧ s.group.mypos.toNat = dest.val then .fault .illFormed
  else if !(linkUp s f) then .refused .notPending
  else
    let k := s.flue.fwdClass.toNat
    match pickLink s dest addr.toNat with
    | some out =>
      if 2 ≤ hop.toNat then .next (flueSend s f (.flue f src (.err id 1)))
      else
        let key := out * 16 + k
        let s := { s with flue := { s.flue with
          clsBytes := Tab.put 0 s.flue.clsBytes key (Tab.get 0 s.flue.clsBytes key + BitVec.ofNat 64 len.toNat) } }
        .next (flueSend s out (.flue out dest (.ctrl 0x46 [src, hop.toNat + 1, addr.toNat, len.toNat, id])))
    | none => .next (flueSend s f (.flue f src (.err id 1)))

/-! ### Answers to this module's requests -/

/-- An answer for a request that has been given up is discarded. -/
def lateAnswer (s : State) (id : Nat) : Res := if id < s.nextReq then .next s else .refused .notPending

/-- A write acknowledged: a store leaves its buffer, an engine's piece is one answer nearer its end (R253, R263). -/
def giveAck (s : State) (r : OutReq) : State :=
  match r.agent with
  | .core h => if hh : h < 96 then storeAcked s (.core ⟨h, hh⟩) r.id else s
  | .tile g => if hg : g < 96 then storeAcked s (.tile ⟨g, hg⟩) r.id else s
  | a =>
    let s := dropReq s r.id
    match agentJob a with
    | none => s
    | some k => match s.job k with
      | none => s
      | some j =>
        let reqs := j.reqs.filter (· ≠ r.id)
        let s := s.setJob k (some { j with reqs := reqs })
        if reqs.isEmpty then jobGo s k else s

/-- FLUE_ACK. -/
def execFlueAck (id : Nat) (s : State) : Res :=
  match reqOf s id with
  | none => lateAnswer s id
  | some r => if r.toHost || decide (r.kind ≠ .write) then .refused .notPending else .next (settleAll (giveAck s r))

/-- FLUE_DATA. -/
def execFlueData (id : Nat) (data : List Byte) (s : State) : Res :=
  match reqOf s id with
  | none => lateAnswer s id
  | some r =>
    if r.toHost || decide (r.kind = .write) then .refused .notPending
    else if data.length ≠ r.len then .fault .illFormed
    else .next (settleAll (giveData s r data))

/-- FLUE_ERR. -/
def execFlueErr (id : Nat) (why : FlueErrWhy) (s : State) : Res :=
  match reqOf s id with
  | none => lateAnswer s id
  | some r =>
    if r.toHost then .refused .notPending
    else .next (settleAll (giveErr s r (if why = .noRoute then .targetLost else .remoteErr) (decide (why = .residue))))

/-- FLUE_READ_TIMEOUT: 225,000 ticks without an answer (R438); an engine's writes have the same limit (R263). -/
def execFlueReadTimeout (id : Nat) (s : State) : Res :=
  match reqOf s id with
  | none => .refused .notPending
  | some r =>
    if r.toHost || decide (s.elapsed - r.since < 225000) then .refused .notPending
    else .next (settleAll (giveErr s r .targetLost false))

end Sys2Proof.Machine
end

