-- ==== Sys2Proof/Machine/Maint.lean ====
section
/-! DEFINITION. The maintenance engine of a die, way locking, the ash list's registers and pool mode (R156 to R163, R293 to R297,
R583 to R585). -/

namespace Sys2Proof.Machine

/-- A register command of a die that is not ready completes with a decode error and changes nothing (R583). -/
def dieReg (s : State) (d : Nat) (k : State) : Res := .next (if readyHth s d then k else s)

/-- The alias name of a direct address (R22). -/
def directToAlias (d : Nat) : Nat :=
  aliasBase + d % dieSize / 0x1000 * 0x4000 + d / dieSize * 0x1000 + d % 0x1000

/-- Whether a line lies in a range of physical addresses under either of its names (R23, R295). -/
def inRange (base bytes line : Nat) : Bool :=
  let d := line * 128
  let a := directToAlias d
  (decide (base ≤ d) && decide (d < base + bytes)) || (decide (base ≤ a) && decide (a < base + bytes))

/-- Whether a range of physical addresses stays in a die's memory: in its direct range, or in the alias (R295, R296). -/
def rangeOfDie (d base bytes : Nat) : Bool :=
  (decide (d * dieSize ≤ base) && decide (base + bytes ≤ (d + 1) * dieSize)) ||
    (decide (aliasBase ≤ base) && decide (base + bytes ≤ aliasBase + mainSize))

/-- The engine with the range of its registers taken. -/
def maintTake (m : Maint) : Maint := { m with runBase := m.base, runLen := m.len }

def maintBase (m : Maint) : Nat := m.runBase.toNat * 128
def maintBytes (m : Maint) : Nat := (m.runLen.toNat + 1) * 128

def maintErr (s : State) (d : Nat) : State := s.setMaint d { s.maint d with err := true }

/-- The lines of a range that a die's directory names. -/
def rangeLines (s : State) (d : Nat) (m : Maint) : List Nat :=
  (s.coh.dir.map (·.1)).filter (fun l => decide (lineDie l = d) && inRange (maintBase m) (maintBytes m) l)

/-- The start of a range operation (R296); CLEAN and FLUSH take the lines that the range holds at the start (Table 9.10). -/
def maintStart (s : State) (d op : Nat) : State :=
  let old := s.maint d
  let m := maintTake old
  if old.busy || !(rangeOfDie d (maintBase m) (maintBytes m)) then maintErr s d
  else s.setMaint d { m with op := BitVec.ofNat 3 op, busy := true, todo := if op = 3 then [] else rangeLines s d m }

def execClean (d : DieNo) (s : State) : Res := dieReg s d (maintStart s d 1)
def execFlush (d : DieNo) (s : State) : Res := dieReg s d (maintStart s d 2)
def execAshclr (d : DieNo) (s : State) : Res := dieReg s d (maintStart s d 3)

/-- The start of LOCK: lowering unbacks the removed ways at once and their contents are gone (R297, R148). -/
def lockStart (s : State) (d ways : Nat) (fill : Bool) : State :=
  let m := maintTake (s.maint d)
  let now := m.locked.toNat
  let src := (ways - now) * nearWayBytes
  if m.busy || decide (8 < ways) || (s.pool d).mode || (!fill && decide (now < ways) && !(rangeOfDie d (maintBase m) src)) then
    maintErr s d
  else
    let m := { m with op := 4, busy := true, ways := BitVec.ofNat 4 ways, fill := fill }
    if ways < now then
      (s.setMaint d { m with locked := BitVec.ofNat 4 ways }).zeroBytes (nearKey d (ways * nearWayBytes)) ((now - ways) * nearWayBytes)
    else s.setMaint d m

def execLock (d : DieNo) (ways : BitVec 4) (fill : Bool) (s : State) : Res := dieReg s d (lockStart s d ways.toNat fill)

/-- Bytes copied from one extent of keys to another, n of them. -/
def copyKeys (s : State) (src dst n : Nat) : State :=
  let here := s.mem.filter (fun e => decide (src ≤ e.1) && decide (e.1 < src + n))
  here.foldl (fun s e => { s with mem := Tab.put 0 s.mem (dst + (e.1 - src)) e.2 }) (s.zeroBytes dst n)

/-- One line of a preload, read in the way owner's context (R329); a line that this context may not read, that is lost or
that fails its check leaves an open value, for the spec gives the engine no answer there (log 31). -/
def fillLine (s : State) (src dst ctx : Nat) : State :=
  let free := fun (s : State) =>
    let (v, s) := takeFree 1024 s
    s.putBytes dst (toBytes 128 v.toNat)
  match placeOf src with
  | .main _ d =>
    if !(mainAllows s d ctx) then
      free (s.logE { src := .mem, unit := d / dieSize, tag := 328, ctx := some ctx, addr := d, data := agentKey (.home (d / dieSize)) })
    else if (ashFind s (lineOf d)).isNone && decide (Tab.get 0 s.badLines (lineOf d) = 0) && !(tagFails s (lineOf d)) then copyKeys s d dst 128
    else free s
  | _ => free s

/-- The added ways filled from the range, 6 MiB each in address order (R297). -/
def fillWays (s : State) (d src now n : Nat) : State :=
  (List.range n).foldl (fun s i =>
    let way := now + i
    let ctx := field (nearOwner s d way) 0 12
    (List.range cacheSets).foldl (fun s l =>
      fillLine s (src + i * nearWayBytes + 128 * l) (nearKey d (way * nearWayBytes) + 128 * l) ctx) s) s

/-- One line of CLEAN or FLUSH taken further: copies snooped, then dirty data into the eviction buffer (R295, R298). -/
def cleanLine (s : State) (inv : Bool) (line : Nat) : State :=
  let e := s.dirE line
  if (s.txn line).isSome then s
  else if if inv then e.dst ≠ 0 else e.dst = 2 then homeSnoop s line (if inv then .drop else .clean)
  else if e.dirty && evictFull s (lineDie line) then s
  else evictLine s line

/-- Whether CLEAN or FLUSH has still to do something at a line, or its write-back is still in the eviction buffer. -/
def cleanDue (s : State) (inv : Bool) (line : Nat) : Bool :=
  let e := s.dirE line
  (match s.txn line with | some t => decide (t.who = .home) | none => false) ||
    (if inv then decide (e.dst ≠ 0) else decide (e.dst = 2)) || e.dirty || s.coh.evict.contains line

/-- CLEAN or FLUSH taken further at its lines; BUSY clears when every write-back has left the eviction buffer (R296). A line that is done
is not looked at again: it may be cached again meanwhile. -/
def cleanGo (s : State) (d : Nat) (inv : Bool) : State :=
  let s := (s.maint d).todo.foldl (fun s l => cleanLine s inv l) s
  let due := (s.maint d).todo.filter (cleanDue s inv)
  let here := fun (l : Nat) => (s.maint d).todo.contains l && !(due.contains l)
  let p := s.pool d
  let s := if inv then s.setPool d { p with lines := p.lines.filter (fun e => !(here e.1)) } else s
  s.setMaint d { s.maint d with todo := due, busy := !due.isEmpty }

/-- The sets of a die that hold more tags than LOCK leaves them ways, each by one of its lines. -/
def crowded (s : State) (d : Nat) : List Nat :=
  ((s.coh.dir.map (·.1)).filter (fun l => decide (lineDie l = d) && decide (tagWays s d < (setTags s l).length))).eraseDups

/-- LOCK taken further: the tags of the added ways are flushed first; once no set holds more than the ways that stay, the added ways are
filled (R297). -/
def lockGo (s : State) (d : Nat) : State :=
  let s := (crowded s d).foldl (fun s l => thinSet 16 s l 0) s
  let m := s.maint d
  if (crowded s d).isEmpty then
    let now := m.locked.toNat
    let n := (m.ways.toNat - now) * nearWayBytes
    let s := if m.ways.toNat ≤ now then s
      else if m.fill then s.zeroBytes (nearKey d (now * nearWayBytes)) n
      else fillWays s d (maintBase m) now (m.ways.toNat - now)
    s.setMaint d { m with busy := false, locked := m.ways }
  else s

/-- ASHCLR: the entries of the range removed. -/
def ashGo (s : State) (d : Nat) : State :=
  let m := s.maint d
  let keep := fun (e : Nat × AshEnt) => !(decide (e.1 / 4096 = d) && inRange (maintBase m) (maintBytes m) e.2.addr.toNat)
  let gone := s.coh.ash.filter (fun e => !(keep e))
  let s := gone.foldl (fun s _ => ashBump s d) s
  { s with coh := { s.coh with ash := s.coh.ash.filter keep } }.setMaint d { m with busy := false }

/-- A running operation taken as far as its snoops and write-backs allow. -/
def maintFinish (s : State) (d : Nat) : State :=
  match (s.maint d).op.toNat with
  | 3 => ashGo s d
  | 4 => wakeHomes (lockGo s d)
  | op => wakeHomes (cleanGo s d (decide (op = 2)))

/-- MAINT_COMPLETE: BUSY clears where nothing of the operation is still under way; otherwise the engine goes on and the command has to
come again. -/
def execMaintComplete (d : DieNo) (s : State) : Res :=
  if (s.maint d).busy then .next (settleAll (ringsGo (maintFinish s d))) else .refused .notPending

/-! ### The ash list's registers (R293, R294, R584) -/

def ashClear (s : State) (d : Nat) (v : W64) : State :=
  let line := field v.toNat 7 45
  if lineDie line = d then ashRemove s line else s.logTag .hth d 584 line

def execAshClr (d : DieNo) (value : W64) (s : State) : Res := dieReg s d (ashClear s d value)

def ashOvfW1c (s : State) (d i : Nat) (mask : W64) : State :=
  let t := (List.range 64).foldl (fun t j =>
    if mask.getLsbD j then Tab.put false t (d * 4096 + 64 * i + j) false else t) s.coh.ashOvf
  { s with coh := { s.coh with ashOvf := t } }

def execAshOvfClear (d : DieNo) (i : Fin 64) (mask : W64) (s : State) : Res := dieReg s d (ashOvfW1c s d i mask)

/-! ### Pool mode (R156 to R163, R585) -/

def poolBase (p : Pool) (i : Nat) : Nat := field (Tab.get 0 p.ranges (2 * i)).toNat 16 36 * 0x10000
def poolBytes (p : Pool) (i : Nat) : Nat := (field (Tab.get 0 p.ranges (2 * i + 1)).toNat 0 24 + 1) * 0x10000

/-- A range in use that leaves the die or touches the owner table (R585). -/
def poolRangeBad (d : Nat) (p : Pool) (i : Nat) : Bool :=
  decide (poolBase p i < d * dieSize) || decide (d * dieSize + 0x5FFF400000 < poolBase p i + poolBytes p i)

def poolOverlap (p : Pool) (i j : Nat) : Bool :=
  decide (poolBase p i < poolBase p j + poolBytes p j) && decide (poolBase p j < poolBase p i + poolBytes p i)

def poolRefused (s : State) (d pways : Nat) (rv : BitVec 8) : Bool :=
  let p := s.pool d
  let m := s.maint d
  let used := (List.range 8).filter (fun i => rv.getLsbD i)
  decide (m.locked ≠ 0) || (m.busy && decide (m.op = 4)) || decide (pways = 0) || decide (8 < pways) || decide (rv = 0) ||
    used.any (poolRangeBad d p) || used.any (fun i => used.any (fun j => decide (i < j) && poolOverlap p i j))

def poolEnter (s : State) (d : Nat) (pways : BitVec 4) (rv : BitVec 8) : State :=
  let p := s.pool d
  if p.mode || p.busy then s.logTag .hth d 585 pways.toNat
  else if poolRefused s d pways.toNat rv then s.setPool d { p with err := true }
  else s.setPool d { p with mode := true, ways := pways, ranges := Tab.put 0 p.ranges 16 (BitVec.ofNat 64 rv.toNat) }

/-- POOL_MODE_ENTER. -/
def execPoolModeEnter (d : DieNo) (pways : BitVec 4) (rv : BitVec 8) (s : State) : Res := dieReg s d (poolEnter s d pways rv)

/-- POOL_MODE_LEAVE: step 3 of Table 5.3 begins; MODE reads 1 until BUSY clears. -/
def execPoolModeLeave (d : DieNo) (s : State) : Res :=
  let p := s.pool d
  dieReg s d (if p.mode && !p.busy then s.setPool d { p with busy := true } else s)

/-- POOL_LEAVE_DONE: every dirty pool line is written back through the eviction buffer, and the die is in native accounting mode; while
a write-back is still under way the command has to come again. -/
def execPoolLeaveDone (d : DieNo) (s : State) : Res :=
  if (s.pool d).busy then
    let ls := (s.pool d).lines.map (·.1)
    let s := ls.foldl (fun s l => if evictFull s d then s else evictLine s l) s
    if ls.any (fun l => (s.dirE l).dirty || s.coh.evict.contains l) then .next s
    else .next (settleAll (ringsGo (wakeHomes (s.setPool d { s.pool d with mode := false, busy := false, lines := [] }))))
  else .refused .notPending

/-- The age of a pool line plus one step, saturating at 15; a line's value is 16 × (age + 1) + way. -/
def poolOlder (v : Nat) : Nat := if v < 256 then v + 16 else v

/-- POOL_AGE_SWEEP: once in each period of 65,536 ticks, in every die; the phase of the periods is open (R158, log 25). -/
def execPoolAgeSweep (s : State) : Res :=
  let due := s.elapsed / 65536 * 65536
  if due ≤ s.coh.swept then .refused .notPending
  else
    let s := { s with coh := { s.coh with swept := due } }
    .next ((List.range 4).foldl (fun s d =>
      let p := s.pool d
      s.setPool d { p with lines := p.lines.map (fun e => (e.1, poolOlder e.2)) }) s)

end Sys2Proof.Machine
end

