-- ==== Sys2Proof/Machine/Grates.lean ====
section
/-! DEFINITION. The runtime's control of grates, tide switching, external accesses to scratchpads, and the close of remote windows
(R139 to R141, R198 to R203, R330, R435, R586). -/

namespace Sys2Proof.Machine

/-! ### GRT_CTL and GRT_GUARD_CTL (R586) -/

/-- STOPREQ: a write of GRT_CTL's stop request. -/
def execStopreq (g : GrateNo) (set : Bool) (s : State) : Res :=
  dieReg s (g / 24) (s.modGr g (fun x => { x with stopreq := set }))

def ctlErr (s : State) (g : Nat) : State := s.modGr g (fun x => { x with ctlErr := true })

/-- GRATE_RESUME: refused unless STOPPED and not clearing. -/
def execGrateResume (g : GrateNo) (s : State) : Res :=
  let x := s.gr g
  dieReg s (g / 24) (if x.st = .stopped ∧ x.clearing = false then s.setGr g { x with st := .running } else ctlErr s g)

/-- The clear of R141 begins: the pending LAUNCH ends at that moment (R357). -/
def beginClear (s : State) (g : Nat) : State := (endLaunch s g 0x17 0).modGr g (fun x => { x with clearing := true })

/-- TOIDLE: refused while RUNNING or IDLE, and while a clear runs. -/
def execToidle (g : GrateNo) (s : State) : Res :=
  let x := s.gr g
  dieReg s (g / 24) (if (x.st = .stopped ∨ x.st = .halted) ∧ x.clearing = false then beginClear s g else ctlErr s g)

/-- What an agent's requests and translations leave behind when it is cleared or reset. -/
def dropAgent (s : State) (a : Agent) : State :=
  let s := dropXlat s a
  { s with reqs := s.reqs.filter (fun r => decide (r.agent ≠ a)) }

/-- IDLE_CLEAR_DONE. -/
def execIdleClearDone (g : GrateNo) (s : State) : Res :=
  if (s.gr g).clearing then .next (clearGrate (dropAgent s (.tile g)) g) else .refused .notPending

/-- GUARD_MODE_WRITE. -/
def execGuardModeWrite (g : GrateNo) (en : Bool) (s : State) : Res :=
  let x := s.gr g
  dieReg s (g / 24) (if x.st = .idle ∧ x.clearing = false then s.setGr g { x with guardMode := en } else s.logTag .grt g 586 0)

/-! ### External accesses (R26, R330) -/

def extAgent : ExtAgent → Agent
  | .engine x => xagent x
  | .core h => .core h.val
  | .flue f => .flueLink f.val

def spadAccKind : SpadAcc → Acc3 | .read _ => .read | .write _ => .write | .atomic _ _ _ _ => .atomic

/-- The bytes that an access brings, and its answer. -/
def spadAccess (s : State) (a : Agent) (ctx pa : Nat) : SpadAcc → Resp × List Byte × State
  | .read n => physRead s a ctx pa n
  | .write bs => match physWrite s a ctx pa bs with | (r, s) => (r, [], s)
  | .atomic op wide x c => match physAtomic s a ctx pa (if wide then 8 else 4) op x.toNat c.toNat with
    | (r, old, s) => (r, toBytes (if wide then 8 else 4) old, s)

/-- The bytes that an access reads. -/
def spadReads : SpadAcc → Option Nat | .read n => some n | .write _ => none | .atomic _ wide _ _ => some (if wide then 8 else 4)

/-- An access under what the code finds in the words it reads: a correction is counted; a word beyond correction brings no data,
nothing is written, and the grate halts (R116, Table 20.1). -/
def spadFound (s : State) (a : Agent) (ctx g pa : Nat) (acc : SpadAcc) (find : EccFind) : Resp × List Byte × State :=
  match spadReads acc, find with
  | some n, .uncorrectable => match checkExtent s a ctx (spadAccKind acc) pa n with
    | (.ok, s) => (.uncorr 3 1, [], beginHalt s g { cause := 4, pc := (s.gr g).pc, insn := 0 })
    | (r, s) => (r, [], s)
  | _, f => match spadAccess s a ctx pa acc with
    | (.ok, bs, s) => (.ok, bs, countFind s g f)
    | x => x

/-- EXTERNAL_SCRATCHPAD_ACCESS: performed, or a decode error under R328, or a breach of slot-guard mode. -/
def execExternalScratchpadAccess (who : ExtAgent) (ctx : Ctx) (g : GrateNo) (off : BitVec 23) (acc : SpadAcc) (find : EccFind) (s : State) : Res :=
  let a := extAgent who
  let pa := spadKey g off.toNat
  match spadFound s a ctx.toNat g pa acc find with
  | (.ok, bs, s) => match who, acc with
    | .core h, .read _ => .next (deliverLoad s h pa false bs)
    | .core h, .atomic _ _ _ _ => .next (deliverLoad s h pa true bs)
    | _, _ => .next s
  | (.wait, _, s) => .next s
  | (r, _, s) => match who with
    | .core h => .next (settleAll (coreFail s h r (spadAccKind acc) (BitVec.ofNat 64 pa) pa))
    | _ => .next (settleAll (respFault s r ctx.toNat a (spadAccKind acc) none pa))

/-! ### The close of remote windows (R139, R435) -/

/-- REMOTE_WINDOW_BUSY_CLEAR. -/
def execRemoteWindowBusyClear (w : WinRef) (s : State) : Res :=
  match w with
  | .spad i =>
    let x := Tab.get {} s.spadWins i.val
    if x.busy && decide (x.inflight = 0) then .next { s with spadWins := Tab.put {} s.spadWins i.val { x with busy := false } }
    else .refused .notPending
  | .inbound i =>
    let x := Tab.get {} s.flue.inwin i.val
    if x.busy then .next { s with flue := { s.flue with inwin := Tab.put {} s.flue.inwin i.val { x with busy := false } } }
    else .refused .notPending

/-! ### Tide switching (Table 6.9) -/

/-- Step 4: every open window whose GRATE is g is closed; BUSY stays set until its accesses have completed. -/
def closeWindows (s : State) (g : Nat) : State :=
  { s with spadWins := s.spadWins.map (fun e =>
      if e.2.v && decide (e.2.grate.toNat = g) then (e.1, { e.2 with v := false, busy := true }) else e) }

def windowsOf (s : State) (g : Nat) (f : SpadWin → Bool) : Bool := s.spadWins.any (fun e => decide (e.2.grate.toNat = g) && f e.2)

/-- The virtual extents that a copy-engine or tile-mover descriptor names. -/
def descExtents (d : Slot) : List (Nat × Nat) :=
  match hdOp d with
  | 1 => [(cpSaddr d, cpLen d), (cpDaddr d, cpLen d)]
  | 2 => [(inDaddr d, inlineBytes d)]
  | 3 => (rdDaddr d, rdCount d * rdOsize d) :: (List.range (rdSrcs d)).map (fun i => (rdSaddr d + i * rdStride d, rdCount d * rdIsize d))
  | 4 => [(tmPaddr d, (tmStored d - 1) * tmPstride d + runBytes (tmBits (tmFmt d)) (if tmByCol d then tmCols d else tmRows d)),
          (tmTaddr d, (tmTiles d - 1) * tmTstride d + tmTileBytes d)]
  | 8 => [(atAaddr d, atSize d), (atRaddr d, atSize d)]
  | _ => []

/-- Whether a descriptor of a context names grate g's scratchpad, by the translation table, or is to signal g. -/
def namesGrate (s : State) (g ctx : Nat) (d : Slot) : Bool :=
  ((sigOf d).on && decide ((sigOf d).grate = g)) ||
    (descExtents d).any (fun x => (pageChunks (x.2 / 0x10000 + 2) x.1 x.2).any (fun c =>
      match tablePa s c.1 3 1 ((s.ctxE ctx).root.toNat * 0x10000) with
      | some pa => (match placeOf pa with | .spad h _ => decide (h = g) | _ => false)
      | none => false))

/-- The head slots that a ring's submitter has written and the device has not fetched, as they stand in the package's memory; where a
host holds them they are not known. -/
def unfetched (s : State) (r : Ring) : Option (List Slot) :=
  let n := (r.tail - r.head).toNat
  if n = 0 then some []
  else if (ringHost r).isSome then none
  else some ((List.range n).map (fun i => BitVec.ofNat 512 (ofBytes (rawRead s (slotAddr r (r.head.toNat + i)) 64))))

/-- Whether step 5 still waits: an outstanding descriptor, fetched or not, started or not, that names g's scratchpad, or a signal to g. -/
def tideBusy (s : State) (g : Nat) : Bool :=
  s.rings.any (fun e =>
    let r := e.2
    let names := namesGrate s g r.ctx.toNat
    r.v && !r.kind && decide (r.role = 0) &&
      ((s.rq e.1).fetched.any (fun d => names d.head) || (s.rq e.1).started.any (fun d => names d.head) ||
        (decide (r.st ≠ .off) && (match unfetched s r with | some l => l.any names | none => true)))) ||
    s.grates.any (fun e => match e.2.stall with | .signal t _ _ _ _ => decide (t = g) | _ => false)

/-- TIDE_SWITCH: the next step of Table 6.9 for grate g, toward a program of context ctx; a step that waits leaves the state as
it is. Step 7 is a LAUNCH. A HALTED grate is left to TOIDLE (R203). -/
def execTideSwitch (g : GrateNo) (ctx : Ctx) (s : State) : Res :=
  let x := s.gr g
  if x.clearing then .next s
  else match x.st with
  | .running => .next (if x.stopreq then s else s.setGr g { x with stopreq := true })
  | .stopped =>
    if windowsOf s g (fun w => w.v) then .next (closeWindows s g)
    else if windowsOf s g (fun w => w.busy) || tideBusy s g then .next s
    else if x.ctx = ctx then .next s
    else .next (beginClear s g)
  | _ => .next s

end Sys2Proof.Machine
end

