-- ==== Sys2Proof/Machine/Host.lean ====
section
/-! DEFINITION. Client hosts: link state, loss and return (R366, R367, R381 to R383, Table 11.14), IDE streams (R533, R534), accesses
of a host to inbound windows and MSI-X state (R375 to R380), completions, and CXL.mem at the CXL.cache agent (R286, R287, R373). -/

namespace Sys2Proof.Machine

def modHost (s : State) (h : Nat) (f : HostLink → HostLink) : State := s.setHost h (f (s.host h))

/-! ### Rings of a host (Table 11.14) -/

/-- The rings whose SUB names a host. -/
def subRings (s : State) (h : Nat) : List Nat := (s.rings.filter (fun e => decide (subHost e.2 = some h))).map (·.1)

/-- The record rings that lie in a host's memory. -/
def hostRecordRings (s : State) (h : Nat) : List Nat :=
  (s.rings.filter (fun e => e.2.kind && decide (ringHost e.2 = some h) && decide (e.2.st ≠ .off))).map (·.1)

/-- ACTIVE rings of a lost host hold, with an event each (scenario 5). -/
def holdRings (s : State) (h : Nat) : State :=
  let rs := (subRings s h).filter (fun rn => decide ((s.ring rn).st = .active))
  let s := rs.foldl (fun s rn => s.setRing rn { s.ring rn with st := .hosthold }) s
  rs.foldl (fun s rn => ringEvent s rn 4 (if (s.ring rn).kind then (s.ring rn).tail else (s.ring rn).head).toNat) s

/-- The records of a ring written again from its HEAD, with identical contents (scenario 6). -/
def rewriteRing (s : State) (rn h : Nat) : State :=
  let r := s.ring rn
  (s.rq rn).written.zipIdx.foldl (fun s (e : Slot × Nat) =>
    match placeOf (slotAddr r (r.head.toNat + e.2)) with
    | .host _ off => hostPosted s h off r.ctx.toNat (toBytes 64 e.1.toNat)
    | _ => s) s

/-- The host's rings go on: records rewritten, held ones written, fetching resumes (scenario 6). -/
def resumeRings (s : State) (h : Nat) : State :=
  let s := modHost s h (fun l => { l with suspended := false })
  let recs := hostRecordRings s h
  let s := recs.foldl (fun s rn => rewriteRing s rn h) s
  let s := (subRings s h).foldl (fun s rn =>
    let r := s.ring rn
    if r.st = .hosthold then s.setRing rn { r with st := .active } else s) s
  (recs ++ (subRings s h).filter (fun rn => (s.ring rn).kind && !(recs.contains rn))).foldl flushRing s

/-- One ring of a host whose generation has changed: OFF, its held records discarded, the event with their count (scenario 7,
log 40); descriptors that have not started end as at DISABLE (R338). -/
def staleRing (s : State) (rn : Nat) : State :=
  let held := s.waitRecs.filter (fun w => decide (w.ring = rn))
  let s := held.foldl (fun s w => releaseDesc s w.desc) { s with waitRecs := s.waitRecs.filter (fun w => decide (w.ring ≠ rn)) }
  let s := s.setRing rn { s.ring rn with st := .off }
  let q := s.rq rn
  let s := s.setRq rn { q with fetched := [], waitMet := false, stale := false, refetches := 0, returns := 0, stalled := false,
                               faulting := false, written := [], launchRec := none, launchReq := none }
  let s := q.fetched.foldl (fun s d => completeDesc s rn d { status := 0x17 }) s
  ringEvent s rn 5 held.length

/-- The generation word differs, or there is none (scenario 7). -/
def staleHost (s : State) (h : Nat) : State :=
  let s := modHost s h (fun l => { l with suspended := false })
  let rs := ((subRings s h).filter (fun rn => decide ((s.ring rn).st ≠ .off)) ++ hostRecordRings s h).eraseDups
  let s := rs.foldl staleRing s
  if h = 0 then declareDead s 13 else s

/-! ### Loss of a host (R367, R382) -/

/-- The jobs that have written through a link, or wait for its zero-length read, end with host lost (scenarios 2, 4). -/
def failHostJobs (s : State) (h : Nat) : State :=
  s.jobs.foldl (fun s e => match s.job e.1 with
    | some j =>
      let ended := match j.ending with | some x => decide (x.status = 0) && decide (j.wait = .flush) | none => true
      if j.hostMask.getLsbD h && ended then jobFailed s e.1 j 0x15 else s
    | none => s) s

/-- Reads through a link that have no answer end with host lost (scenario 3). -/
def failHostReads (s : State) (h : Nat) : State :=
  (s.reqs.filter (fun r => r.toHost && decide (r.target = h))).foldl (fun s r =>
    if (reqOf s r.id).isSome then giveErr s r .hostLost false else s) s

/-- The clusters' copies of a lost host's lines are gone; stores that wait for one stay in their buffers and are lost stores, as every store
to a lost host is (R264, log 141). -/
def dropHosted (s : State) : State :=
  let mine := fun (k : Nat) => match placeOf (k / 16 * 128) with | .host h _ => decide (h = 0) | _ => false
  let s := s.coh.agents.foldl (fun s (e : Nat × ALine) =>
    if mine e.1 then
      let loads := e.2.waiting.filter (fun w => match w with | .load _ _ _ _ _ => true | .store _ => false)
      failWaiting (s.setAl (e.1 / 16) (e.1 % 16) { st := .i, waiting := loads }) (e.1 / 16) (e.1 % 16) .hostLost
    else s) s
  { s with coh := { s.coh with hostLines := s.coh.hostLines.filter (fun e => !(mine e.1)) } }

/-- A host is lost with a cause of Table 12.7; its link is then in Detect. -/
def hostLost (s : State) (h cause : Nat) : State :=
  let l := s.host h
  if !l.dlup then s
  else
    let cxl := l.cxlup
    let s := s.setHost h { l with
      dlup := false, speed := 0, width := 0, flit := false, cxlup := false, ide := .none, ideSel := .none, ideCxl := .none, lost := true, suspended := true,
      cause := BitVec.ofNat 3 cause, downcnt := satAdd l.downcnt 1, timeouts := 0, genReading := false, heldTlps := [], snoops := [] }
    let s := setReady (dropSessions s h) (28 + h) false
    let s := partnerEvent s .hlk 2 h cause
    let s := holdRings s h
    let s := failHostReads (failHostJobs s h) h
    settleAll (if cxl then dropHosted (declareDead s 13) else s)

/-- HOST_LINK_DOWN. -/
def execHostLinkDown (h : HostLinkNo) (s : State) : Res :=
  if (s.host h).dlup then .next (hostLost s h 1) else .refused .notPending

/-- HLK_LINK_CTL.FORCE. -/
def forceLost (s : State) (h : Nat) : State := hostLost s h 4

def execHostLinkForce (h : HostLinkNo) (s : State) : Res := .next (forceLost s h)

/-- IDE_INSECURE: one of the link's streams; of CXL.cachemem nothing that has not passed its check has been released (R535). -/
def execIdeInsecure (i : IdeOf) (s : State) : Res :=
  if (s.host i.h).dlup ∧ (s.host i.h).stream i.stream = .secure then .next (hostLost s i.h 5) else .refused .notPending

/-- HOST_SNOOP_TIMEOUT: a back-invalidation snoop unanswered beyond 225,000 ticks (R374). -/
def execHostSnoopTimeout (line : BitVec 45) (s : State) : Res :=
  match (s.host 0).snoops.find? (fun e => decide (e.1 = line.toNat)) with
  | some e => if 225000 < s.elapsed - e.2 then .next (hostLost s 0 2) else .refused .notPending
  | none => .refused .notPending

/-- HOST_REQUEST_TIMEOUT: 225,000 ticks after issue; the third in a row loses the host (R382). -/
def execHostRequestTimeout (id : Nat) (s : State) : Res :=
  match reqOf s id with
  | none => .refused .notPending
  | some r =>
    if !r.toHost || heldAt s r.target id || decide (s.elapsed - r.since < 225000) then .refused .notPending
    else
      let n := (s.host r.target).timeouts + 1
      let s := giveErr (modHost s r.target (fun l => { l with timeouts := n })) r .hostLost false
      .next (settleAll (if 3 ≤ n then hostLost s r.target 3 else s))

/-- PERST_ASSERT: the link is held in Detect (R370, R598); the pin of an upper half counts only on a bifurcated port. -/
def perstHeeded (s : State) (h : Nat) : Bool := decide (h % 2 = 0) || (s.port (h / 2)).bifur

def execPerstAssert (h : HostLinkNo) (s : State) : Res :=
  let s := modHost s h (fun l => { l with perst := true })
  .next (if perstHeeded s h then hostLost s h 1 else s)

/-- PERST_RELEASE. -/
def execPerstRelease (h : HostLinkNo) (s : State) : Res :=
  if (s.host h).perst then .next (modHost s h (fun l => { l with perst := false })) else .refused .notPending

/-! ### A link comes up (R366, R367, R372, R383) -/

/-- Lanes that a link may train at on its port (R29, Table 12.1, R371). -/
def widthOk (s : State) (h w : Nat) : Bool :=
  (w = 1 || w = 2 || w = 4 || w = 8 || (w = 16 && !(s.port (h / 2)).bifur))

/-- Whether a link may train now at a rate. -/
def mayTrain (s : State) (h speed : Nat) : Bool :=
  let p := s.port (h / 2)
  p.linken && (decide (h % 2 = 0) || p.bifur) && !((s.host h).perst) && decide (speed ≤ p.maxspd.toNat)

/-- The generation word is asked for (R366). -/
def askGen (s : State) (h : Nat) : State :=
  let l := s.host h
  if l.genAddr = 0 then (if l.suspended then staleHost s h else s)
  else (s.setHost h { l with genReading := true }).emit (.hostGenRead h (l.genAddr.toNat * 8))

/-- HOST_LINK_UP: hot-added at the first time, otherwise returned. A CXL.cache agent that was dead serves again once its lines
have been reclaimed (log 38). -/
def execHostLinkUp (h : HostLinkNo) (speed : BitVec 3) (width : BitVec 5) (flit cxl : Bool) (s : State) : Res :=
  let l := s.host h
  let cxlOn := cxl && decide (h = 0) && (s.port 0).cxl && decide (speed = 5) && flit
  if 5 < speed.toNat then .fault .illFormed
  else if l.dlup || !(mayTrain s h speed.toNat) || !(widthOk s h width.toNat) then .refused .notPending
  else
    let s := s.setHost h { l with dlup := true, speed := speed, width := width, flit := flit, cxlup := cxlOn, lost := false, seen := true }
    let s := if cxlOn && !(s.coh.walking.getLsbD 13) then { s with coh := { s.coh with dead := s.coh.dead &&& ~~~(bitMask 13) } } else s
    let s := partnerEvent (setReady s (28 + h.val) true) .hlk (if l.seen then 3 else 1) h 0
    .next (settleAll (askGen s h))

/-- GEN_WORD_READ_DONE (scenarios 6, 7 and 8). -/
def execGenWordReadDone (h : HostLinkNo) (value : Option W64) (s : State) : Res :=
  let l := s.host h
  if !l.genReading then .refused .notPending
  else
    let s := s.setHost h { l with genReading := false }
    match value with
    | none => .next s
    | some v =>
      let same := decide (v = l.genSeen)
      let s := s.setHost h { s.host h with genSeen := v }
      .next (if !l.suspended then s else if same then resumeRings s h else staleHost s h)

/-! ### IDE (R533, R534) -/

/-- What was held goes out, in order. -/
def releaseTlp (s : State) (h : Nat) (t : HeldTlp) : State :=
  let issued := fun (s : State) (id : Nat) =>
    { s with reqs := s.reqs.map (fun (r : OutReq) => if r.id = id then { r with since := s.elapsed } else r) }
  match t with
  | .write off ro bs => s.emit (.hostWrite h off ro bs)
  | .read id off len => if (reqOf s id).isSome then (issued s id).emit (.hostRead h id off len) else s
  | .flush id ring slot => if (reqOf s id).isSome then (issued s id).emit (.hostFlushRead h ring slot) else s
  | .msix vec => raiseMsix s h vec
  | .cxl what addr bs =>
    cxlSend { s with reqs := s.reqs.map (fun (r : OutReq) => if r.toHost ∧ r.addr = addr then { r with since := s.elapsed } else r) }
      what addr bs

/-- IDE_KM: Thirun programs a stream's keys and it becomes secure; CXL.cachemem has a stream on link 0 while CXL is up (R533, R535). -/
def execIdeKm (i : IdeOf) (s : State) : Res :=
  let l := s.host i.h
  if !l.dlup || (decide (i.stream = .cxl) && !l.cxlup) then .refused .notPending
  else .next (l.heldTlps.foldl (fun s t => releaseTlp s i.h t) (s.setHost i.h { l.secureStream i.stream with heldTlps := [] }))

/-! ### Completions to and from a host -/

/-- What is sent to a host in answer; held back for good while REQIDE lets only configuration completions go (R534, log 42). -/
def answerHost (s : State) (h : Nat) (o : Out) : State := if ideHeld s h then s.logTag .hlk h 534 0 else s.emit o

/-- HOST_COMPLETION: `ok` clear for an unsuccessful one, which ends its request as a lost host does (log 41) and does not end a
run of timeouts. -/
def execHostCompletion (id : Nat) (ok : Bool) (data : List Byte) (s : State) : Res :=
  match reqOf s id with
  | none => lateAnswer s id
  | some r =>
    if !r.toHost || heldAt s r.target id then .refused .notPending
    else if !ok then .next (settleAll (giveErr s r .hostLost false))
    else if data.length ≠ r.len then .fault .illFormed
    else
      let s := modHost s r.target (fun l => { l with timeouts := 0 })
      if r.len = 0 then
        match agentJob r.agent with
        | some k => match s.job k with
          | some j => .next (flushReturned s k j r.target id)
          | none => .next (dropReq s id)
        | none => .next (dropReq s id)
      else .next (settleAll (giveData s r data))

/-! ### Inbound windows (R375, R377, R378) -/

/-- The physical address and context of an access through BAR2; none where the window does not pktAdmit it. -/
def barAdmit (s : State) (h off len : Nat) (right : HostWin → Bool) (inIde : Bool) : Option (Nat × Nat) :=
  let w := Tab.get {} (s.host h).inwin (off / 2 ^ 32)
  let x := off % 2 ^ 32
  let pa := w.pa.toNat * 0x10000 + x
  let place := match placeOf pa with | .main _ _ => true | .near die o => nearBacked s die o | _ => false
  let ide := !(s.port (h / 2)).reqide || (inIde && (s.host h).secured)
  if w.v && right w && decide (x + len ≤ (w.len.toNat + 1) * 0x10000) && place && ide then some (pa, w.ctx.toNat) else none

/-- A refused access, with its cause in the log. -/
def barRefused (s : State) (h off : Nat) : State := s.logE { src := .hlk, unit := h, tag := 378, addr := off }

/-- A TLP of a trained link: not empty, within its limit, within 4 KiB. -/
def tlpRun (s : State) (h off len most : Nat) (run : Res) : Res :=
  if len = 0 ∨ most < len ∨ 4096 < off % 4096 + len then .fault .illFormed
  else if !(s.host h).dlup then .refused .agentNotReady
  else run

/-- HOST_INBOUND_WRITE: dropped where it is not admitted or memory refuses it. -/
def execHostInboundWrite (h : HostLinkNo) (off : BitVec 38) (data : List Byte) (inIde : Bool) (s : State) : Res :=
  tlpRun s h off.toNat data.length 512 (match barAdmit s h off.toNat data.length (·.wr) inIde with
    | none => .next (barRefused s h off.toNat)
    | some (pa, ctx) => match physWrite s (.hostLink h) ctx pa data with
      | (.ok, s') => .next (settleAll (countHost s' h ctx data.length))
      | (.wait, s') => .next s'
      | (r, s') => .next (settleAll (barRefused (respFault s' r ctx (.hostLink h) .write none pa) h off.toNat)))

/-- HOST_INBOUND_READ. -/
def execHostInboundRead (h : HostLinkNo) (off : BitVec 38) (len : BitVec 13) (inIde : Bool) (s : State) : Res :=
  let n := len.toNat
  tlpRun s h off.toNat n 4096 (match barAdmit s h off.toNat n (·.rd) inIde with
    | none => .next (answerHost (barRefused s h off.toNat) h (.hostUr h))
    | some (pa, ctx) => match physRead s (.hostLink h) ctx pa n with
      | (.ok, bs, s') => .next (settleAll (answerHost (countHost s' h ctx n) h (.hostCpl h true bs)))
      | (.wait, _, s') => .next s'
      | (r, _, s') => .next (settleAll (answerHost (barRefused (respFault s' r ctx (.hostLink h) .read none pa) h off.toNat) h (.hostUr h))))

/-- The operation of a host's AtomicOp (R246). -/
def hostAop : HostOp → AOp | .fetchAdd => .add | .swap => .swap | .cas => .cas

/-- HOST_ATOMICOP, `lg` 2, 3 or 4: a 128-bit CAS completes with UR (R371). -/
def execHostAtomicop (h : HostLinkNo) (off : BitVec 38) (op : HostOp) (lg : BitVec 3) (opnd cmp : W64) (inIde : Bool) (s : State) : Res :=
  let n := 2 ^ lg.toNat
  if lg.toNat < 2 ∨ 4 < lg.toNat ∨ off.toNat % n ≠ 0 ∨ (lg = 4 ∧ op ≠ .cas) then .fault .illFormed
  else tlpRun s h off.toNat n 16 (
    if lg = 4 then .next (answerHost (barRefused s h off.toNat) h (.hostUr h))
    else match barAdmit s h off.toNat n (·.at_) inIde with
    | none => .next (answerHost (barRefused s h off.toNat) h (.hostUr h))
    | some (pa, ctx) => match physAtomic s (.hostLink h) ctx pa n (hostAop op) opnd.toNat cmp.toNat with
      | (.ok, old, s') => .next (settleAll (answerHost (countHost s' h ctx n) h (.hostCpl h true (toBytes n old))))
      | (.wait, _, s') => .next s'
      | (r, _, s') => .next (settleAll (answerHost (barRefused (respFault s' r ctx (.hostLink h) .atomic none pa) h off.toNat) h (.hostUr h))))

/-- HOST_BAR0_READ (R376). -/
def execHostBar0Read (h : HostLinkNo) (off : BitVec 19) (s : State) : Res :=
  if (s.host h).dlup then .next (answerHost (barRefused s h off.toNat) h (.hostUr h)) else .refused .agentNotReady

/-! ### MSI-X (R375, R380) -/

/-- Vectors that have become unmasked send what was pending. -/
def sendPending (s : State) (h : Nat) (vecs : List Nat) : State :=
  vecs.foldl (fun s i =>
    let l := s.host h
    let v := Tab.get {} l.msix i
    if v.pend && !v.masked && !l.fmask then raiseMsix (s.setHost h { l with msix := Tab.put {} l.msix i { v with pend := false } }) h i
    else s) s

/-- MSI_X_TABLE_WRITE: 8 bytes of a vector's table entry, or the function mask; the pending-bit array is read-only. -/
def execMsiXTableWrite (h : HostLinkNo) (w : MsixWrite) (s : State) : Res :=
  let l := s.host h
  if !l.dlup then .refused .agentNotReady
  else match w with
  | .functionMask on =>
    let s := s.setHost h { l with fmask := on }
    .next (if on then s else sendPending s h (l.msix.map (·.1)))
  | .table off value =>
    if off.toNat % 8 ≠ 0 then .fault .illFormed
    else if ideHeld s h then .next (barRefused s h off.toNat)
    else if 0x8000 ≤ off.toNat then .next s
    else
      let i := off.toNat / 16
      let v := Tab.get {} l.msix i
      let v := if off.toNat % 16 = 0 then { v with addr := value }
        else { v with data := BitVec.ofNat 32 value.toNat, masked := bitAt value.toNat 32 }
      .next (sendPending (s.setHost h { l with msix := Tab.put {} l.msix i v }) h [i])

/-! ### CXL.mem (R286, R287, R373, R374) -/

/-- The line of an HDM offset and its context; none outside the range or where it leads to no main memory. -/
def hdmLine (s : State) (off : Nat) : Option (Nat × Nat) :=
  let l := s.host 0
  let pa := l.hdmBase.toNat * 0x10000 + off
  if l.hdmV && decide (off < (l.hdmNpg.toNat + 1) * 0x10000) then
    match placeOf pa with
    | .main _ d => some (lineOf d, l.hdmCtx.toNat)
    | _ => none
  else none

/-- CXL_MEMRD: a request of the CXL.cache agent, or a read without a copy (Table 9.6, Table 20.6). -/
def execCxlMemrd (off : BitVec 40) (mv : CxlMeta) (s : State) : Res :=
  if !(s.host 0).cxlup then .refused .agentNotReady
  else match hdmLine s off.toNat with
  | none => .next (cxlSend s 4 off.toNat [])
  | some (line, ctx) =>
    match mv with
    | .any => requestArrives s 13 line ctx .rdX [.i, .imd, .s] .imd {}
    | .shared =>
      let st := (s.al line 13).st
      requestArrives s 13 line ctx .rdS [.i, .isd, .isdi, .s] (if st = .isdi then .isdi else .isd) {}
    | .invalid => match physRead s (.hostLink 0) ctx (line * 128) 128 with
      | (.ok, bs, s') => .next (settleAll (cxlSend s' 3 (line * 128) bs))
      | (.wait, _, s') => .next s'
      | (r, _, s') =>
        let what := match r with | .uncorr _ _ => 5 | .lost _ _ _ => 5 | _ => 4
        .next (settleAll (cxlSend (respFault s' r ctx (.hostLink 0) .read none (line * 128)) what (line * 128) []))

/-- Whether a back-invalidation snoop is with the host for a line. -/
def biOpen (s : State) (line : Nat) : Bool := (s.host 0).snoops.any (fun e => decide (e.1 = line))

/-- CXL_MEMWR: under a snoop, the dirty data that comes before the response (R287); otherwise a write-back, or a give-up
without data. -/
def execCxlMemwr (off : BitVec 40) (data : Option LineData) (s : State) : Res :=
  if !(s.host 0).cxlup then .refused .agentNotReady
  else match hdmLine s off.toNat with
  | none => .next (cxlSend s 4 off.toNat [])
  | some (line, _) =>
    if biOpen s line then
      match data with
      | none => .next (cxlAnswer s 6 line)
      | some d =>
        let s := dropStale (putLine s line d) line
        let s := s.setDir line { s.dirE line with dirty := true }
        .next (cxlAnswer (s.setAl line 13 { s.al line 13 with st := if (s.al line 13).st = .m then .e else (s.al line 13).st }) 6 line)
    else match data with
    | some d => requestArrives s 13 line 0 .wbM [.m, .e, .s, .i] .xia { data := d }
    | none => requestArrives s 13 line 0 .evE [.m, .e, .s, .i] .xia {}

/-- The host's answer to a home's snoop, in the home's terms (Table 9.6). -/
def biRespond (s : State) (line : Nat) (sn : Snoop) (keepS : Bool) : State :=
  let go := fun (s : State) (st : CSt) => s.setAl line 13 { s.al line 13 with st := st }
  match sn with
  | .snpS => if keepS then respond (go (forwardTo s line 13 .s) .s) line 13 (.rspS false) else respond (go s .i) line 13 .invAck
  | .snpX => respond (go (forwardTo s line 13 .m) .i) line 13 .rspFwd
  | _ => respond (go s .i) line 13 .invAck

/-- CXL_BIRSP: BIRspS where `keepS`, else BIRspI. A host that keeps a line that a snoop takes away answers what CXL does not
allow. -/
def execCxlBirsp (line : BitVec 45) (keepS : Bool) (s : State) : Res :=
  let l := line.toNat
  let h := s.host 0
  if !(biOpen s l) then .refused .notPending
  else
    let done := s.setHost 0 { h with snoops := h.snoops.filter (fun e => decide (e.1 ≠ l)) }
    let asked := match s.txn l with
      | some t => if t.owed.getLsbD 13 then t.asked else none
      | none => none
    match asked with
    | some sn => if keepS && decide (sn ≠ .snpS) then .refused .notPending else .next (biRespond done l sn keepS)
    | none => .next (done.setAl l 13 { done.al l 13 with st := if keepS then .s else .i })

end Sys2Proof.Machine
end

