-- ==== Sys2Proof/Machine/Resets.lean ====
section
/-! DEFINITION. What the resets discard and keep (R254 Table 8.4, R504, R505, R507, R582, Tables 17.7 and 21.19), and what mirroring
leaves of Stoker's log (R552, R553). -/

namespace Sys2Proof.Machine

/-! ### Records of the anti-rollback counters (R520) -/

/-- Zero bits of a counter's value. -/
def arbZeros (v : Nat) : Nat := ((List.range 16).filter (fun i => !(bitAt v i))).length

/-- A valid record: the check counts the value's zero bits, and the top bits are zero. -/
def arbValid (r : BitVec 24) : Bool :=
  decide (field r.toNat 16 5 = arbZeros r.toNat) && decide (field r.toNat 21 3 = 0)

/-- The record of a value. -/
def arbIntended (v : BitVec 16) : BitVec 24 := BitVec.ofNat 24 (v.toNat + arbZeros v.toNat * 2 ^ 16)

/-- The lowest record of a counter whose bits are all zero. -/
def arbFree (t : TrustSt) (i : Nat) : Option Nat :=
  (List.range 16).find? (fun k => decide (Tab.get 0 t.arb (16 * i + k) = 0))

/-! ### The mirror of the log (R552, R553) -/

/-- Records that the mirror's 256 sectors keep of w written in all. -/
def mirrorKeeps (w : Nat) : Nat := if w = 0 then 0 else min w (254 * 2048 + ((w - 1) % 2048 + 1))

/-- Every record of the SRAM log not yet mirrored is written; records overwritten before that leave a gap, which is logged. -/
def mirrorLog (s : State) : State :=
  let k := s.stoker
  let first := match k.log with | r :: _ => r.seq | [] => k.nextSeq
  let gap := first - k.mirrored
  let s := if 0 < gap then s.logStk 4 gap else s
  let k := s.stoker
  let new := k.log.filter (fun r => decide (k.mirrored ≤ r.seq))
  let w := k.mirrorPos + new.length
  let all := k.mirror ++ new
  { s with stoker := { k with mirror := all.drop (all.length - mirrorKeeps w), mirrored := k.nextSeq, mirrorPos := w } }

/-! ### Wider resets -/

/-- Entries of a table dropped by their keys. -/
def eraseKeys {α : Type} (t : Tab α) (p : Nat → Bool) : Tab α := t.filter (fun e => !(p e.1))

/-- A raise that a reset interrupts (R520, R522): the record holds some of the bits meant for it, which ones the spec leaves
open (log 4). -/
def tornRaise (s : State) : State :=
  let t := s.trust
  if t.arbBusy then
    let (v, s) := takeFree 24 s
    match arbFree t t.arbIdx.toNat with
    | some k => { s with trust := { t with arb := Tab.put 0 t.arb (16 * t.arbIdx.toNat + k) (arbIntended t.arbVal &&& v) } }
    | none => s
  else s

/-- The pins of the host links stay where they are. -/
def keepPins (hosts : Tab HostLink) : Tab HostLink :=
  hosts.foldl (fun t e => Tab.put {} t e.1 { perst := e.2.perst }) []

/-- The contents of the flash that kindling reads, and the pin RST#. -/
def flashOf (k : KindleSt) : KindleSt :=
  { images := k.images, manifests := k.manifests, selA := k.selA, selB := k.selB, rstLow := k.rstLow }

/-- The fuses (Table 18.1), and the model's count of key generations. -/
def fusesOf (t : TrustSt) : TrustSt :=
  { cstep := t.cstep, hsteps := t.hsteps, permlock := t.permlock, arb := t.arb, keyEpoch := t.keyEpoch + 1, challenge := t.challenge }

/-- What every reset of package scope keeps: what stands outside the package, the management domain, the feed. -/
def keptState (s : State) : State :=
  { State.reset with
    pending := s.pending, elapsed := s.elapsed, free := s.free, out := s.out, nextReq := s.nextReq, hosts := keepPins s.hosts,
    power := { clk := { rlock := s.power.clk.rlock, refok := s.power.clk.refok, hold := s.power.clk.hold },
               feedOn := s.power.feedOn, sense := s.power.sense, softStart := s.power.softStart, pkgPower := s.power.pkgPower,
               tripped := s.power.tripped } }

/-- The package's state gone (R504, R582): Stoker, its log, Thirun and the timebase count stay. A pending invasive level takes
effect, and fresh keys are generated (R527, R543). -/
def packageWiped (s : State) : State :=
  let k := keptState s
  let t := s.trust
  { k with
    tick := s.tick
    power := { k.power with counted := s.power.counted &&& 0x40 }
    kindle := { flashOf s.kindle with
      ready0 := s.kindle.ready0 &&& 3, slots := s.kindle.slots &&& 1, writing := s.kindle.writing, verified := s.kindle.verified }
    trust := { t with
      keyEpoch := t.keyEpoch + 1, keyGen := [], tableWait := []
      level := if t.dbgPend = 2 then 2 else 0
      dbgPend := 0
      measured := t.measured &&& 0x60E
      sessions := eraseKeys t.sessions (fun k => decide (k ≠ 4) && decide (k < 32)) }
    stoker := { s.stoker with armed := false } }

/-- Everything gone but flash and fuses (R504); a slot that an update was writing stays invalid (Table 19.9). -/
def moduleWiped (s : State) : State :=
  let s := tornRaise s
  let k := keptState s
  { k with
    kindle := flashOf s.kindle
    trust := { fusesOf s.trust with level := if s.trust.dbgPend = 2 then 2 else 0 }
    stoker := { mirror := s.stoker.mirror, mirrorPos := s.stoker.mirrorPos, cfgA := s.stoker.cfgA, cfgB := s.stoker.cfgB,
                leak := s.stoker.leak } }

/-- Supply loss (Table 8.4): a power-on reset's state, with the feed gone (log 45: a debug level pending in Thirun goes with its
supply). -/
def powerLost (s : State) : State :=
  let m := moduleWiped s
  { m with power := {}, trust := { m.trust with level := 0 }, stoker := { m.stoker with leak := false } }

/-- A reset as it starts: logged, with its kindling event (R495). -/
def resetEvent (s : State) (bit kind cause : Nat) : State := kindleEvent s 3 bit kind cause

/-- The pin FAULT# (R597): low from feed application until STK is set, in holds 0x1 and 0x2, from a thermal trip until the package
restarts, while sensor 219 reads wet, and in an orderly power-down for a leak, coolant or the reference. -/
def faultLow (s : State) : Bool :=
  s.power.feedOn && (!(readyStk s) || decide (s.kindle.hold = 1) || decide (s.kindle.hold = 2) || s.power.tripped.isSome || s.stoker.leak ||
    (decide (1 ≤ s.stoker.downFor) && decide (s.stoker.downFor ≤ 3)))

/-- A package reset (Table 17.7): it restores package power, and kindling resumes at K1. -/
def packageReset (s : State) (cause : Nat) : State :=
  let s := packageWiped (resetEvent s 0 2 cause)
  { s with kindle := { s.kindle with stage := 1, lastKind := 2, since := [(201, s.elapsed)] },
           power := { s.power with pkgPower := true, tripped := none },
           stoker := { s.stoker with downFor := 0 } }

/-- A module reset: the log is mirrored with the record of its cause (R552), and kindling resumes at K0 without soft-start, once
RST# is released (R596). -/
def moduleReset (s : State) (cause : Nat) : State :=
  let s := moduleWiped (mirrorLog (resetEvent s 0 1 cause))
  { s with kindle := { s.kindle with lastKind := 1, since := [(200, s.elapsed)] }, power := { s.power with pkgPower := true, tripped := none } }

/-! ### One cluster (R288, R504) -/

/-- The harts of a cluster. -/
def hartsOf (c : Nat) : List Nat := rangeFrom (8 * c) 8

/-- A cluster reset: its stores are discarded, its dirty lines go to the ash lists, it waits for K5. -/
def clusterReset (s : State) (c cause : Nat) : State :=
  let s := resetEvent s (4 + c) 4 cause
  let s := setReady s (4 + c) false
  let s := (hartsOf c).foldl (fun s h => clearResv (dropAgent (s.setHt h {}) (.core h)) (.core h)) s
  let s := declareDead s c
  settleAll { s with kindle := { s.kindle with
    cluWait := Tab.put false s.kindle.cluWait c true, lastKind := 4, since := Tab.put 0 s.kindle.since (4 + c) s.elapsed } }

/-! ### One hearth die (R505) -/

/-- Descriptors in flight on the rings of a die end with uncorrectable-error status; fetched ones wait (R490, R505). -/
def failDieRings (s : State) (n : Nat) : State :=
  let rs := (s.rings.filter (fun e => !e.2.kind && e.2.v && decide (e.2.die.toNat = n))).map (·.1)
  rs.foldl (fun s rn =>
    let q := s.rq rn
    let s := s.setRq rn { q with stalled := false, faulting := false, launchRec := none, launchReq := none }
    (q.started.filter (fun d => !(descEnded s rn d))).foldl (fun s d => completeDesc s rn d { status := 0x10 }) s) s

/-- Waiting loads of lines of a die end with error responses; requests of other agents too. The stores that waited are lost stores
(loseDieStores). -/
def failDieLines (s : State) (n : Nat) : State :=
  let mine := fun (l : Nat) => decide (lineDie l = n)
  let load := fun (w : WaitAcc) => match w with | .load _ _ _ _ _ => true | .store _ => false
  let s := s.coh.agents.foldl (fun s (e : Nat × ALine) =>
    if mine (e.1 / 16) ∧ e.2.waiting.any load then
      failWaiting (s.setAl (e.1 / 16) (e.1 % 16) { e.2 with waiting := e.2.waiting.filter load }) (e.1 / 16) (e.1 % 16) (.uncorr 4 0)
    else s) s
  s.coh.txns.foldl (fun s (e : Nat × Option Txn) => match e.2 with
    | some t => (match t.who with
      | .retry a => if mine e.1 && decide (agentDie a ≠ n) then answer s a e.1 0x10 0 else s
      | .caching b => if b = 13 && mine e.1 then cxlAnswer s 5 e.1 else s
      | .unit _ => s
      | .home => s)
    | none => s) s

/-- Core stores to a die's memory that are still buffered become lost stores (R264); the target kind of such a store has no
code in Table 20.4 and is free (log 44). -/
def loseDieStores (s : State) (n : Nat) : State :=
  s.harts.foldl (fun s (e : Nat × Hart) =>
    let x := s.ht e.1
    let here := fun (b : SbEnt) => match placeOf b.pa with
      | .main die _ => decide (die = n) | .near die _ => decide (die = n) | .spad g _ => decide (g / 24 = n) | _ => false
    let gone := x.sb.filter here
    if gone.isEmpty then s
    else
      let (tt, s) := takeFree 2 s
      let lost := gone.map (fun (b : SbEnt) =>
        ({ tt := tt.toNat, tgt := n, block := b.pa / 32, va := b.va, ctx := b.ctx, tick := s.tick.toNat } : LostStore))
      hartDrained (s.setHt e.1 { x with sb := x.sb.filter (fun b => !(here b)), lost := x.lost ++ lost }) e.1) s

/-- Everything the homes of a die hold, and every copy of its lines, gone without write-back and without an ash-list entry. -/
def dropDieCoh (s : State) (n : Nat) : State :=
  let line := fun (l : Nat) => decide (lineDie l = n)
  let c := s.coh
  { s with
    coh := { c with
      dir := eraseKeys c.dir line, agents := eraseKeys c.agents (fun k => line (k / 16)), txns := eraseKeys c.txns line,
      stale := eraseKeys c.stale line, waits := c.waits.filter (fun w => !(line w.line)),
      answers := c.answers.filter (fun x => !(decide (agentDie x.agent = n))),
      evict := c.evict.filter (fun l => !(line l)), ash := eraseKeys c.ash (fun k => decide (k / 4096 = n)),
      ashGen := eraseKeys c.ashGen (fun k => decide (k = n)), ashOvf := eraseKeys c.ashOvf (fun k => decide (k / 4096 = n)),
      maint := eraseKeys c.maint (fun k => decide (k = n)), pool := eraseKeys c.pool (fun k => decide (k = n)),
      nearOwn := eraseKeys c.nearOwn (fun k => decide (k / 2 = n)), stopped := eraseKeys c.stopped (fun k => decide (k / cacheSets = n)) }
    hosts := s.hosts.foldl (fun t e => Tab.put {} t e.1 { e.2 with snoops := e.2.snoops.filter (fun x => !(line x.1)) }) [] }

/-- Messages to and from a die are gone with it; those that it was forwarding are sent again by their source (log 147). -/
def dropDieMsgs (s : State) (n : Nat) : State :=
  let again := fun (m : FabMsg) => if m.via = n ∧ m.hops = 1 then { m with hops := 0, dir := 0 } else m
  fabDrop { s with fabric := { s.fabric with msgs := s.fabric.msgs.map again } } (fun m => decide (m.src = n) || decide (m.dst = n))

/-- Requests of the die's retry agents at other homes are given up, and their lines freed. -/
def freeDieTxns (s : State) (n : Nat) : State :=
  let of := fun (a : Agent) => decide (agentDie a = n)
  let theirs := fun (w : Requester) => match w with | .retry a => of a | .unit a => of a | _ => false
  let s := { s with coh := { s.coh with waits := s.coh.waits.filter (fun w => !(theirs w.who)) } }
  wakeHomes (s.coh.txns.foldl (fun s (e : Nat × Option Txn) => match s.txn e.1 with
    | some t => if theirs t.who then orphanTxn s e.1 t else s
    | none => s) s)

/-- Contents of the die's memories and its registers at their reset values (R582, R583). -/
def wipeDie (s : State) (n : Nat) : State :=
  let m := Tab.eraseRange (Tab.eraseRange (Tab.eraseRange s.mem (n * dieSize) dieSize) (nearKey n 0) 0x4000000) (spadKey (24 * n) 0) (24 * 0x800000)
  let key := fun (k : Nat) => decide (n * dieSize ≤ k) && decide (k < (n + 1) * dieSize) ||
    decide (nearKey n 0 ≤ k) && decide (k < nearKey (n + 1) 0)
  let x := s.xlat
  let onDie := fun (k : Nat) => decide (k < 96) && decide (k / 24 = n) || decide (1024 ≤ k) && decide (k < 2048) && decide ((k - 1024) / 64 = n) ||
    decide (2048 ≤ k) && decide (k < 4096) && decide ((k - 2048) / 2 = n)
  { s with
    mem := m
    badLines := eraseKeys s.badLines (fun l => key (128 * l))
    memCtl := eraseKeys s.memCtl (fun k => decide (k / 8 = n))
    grates := eraseKeys s.grates (fun g => decide (g / 24 = n))
    resv := eraseKeys s.resv onDie
    owners := eraseKeys s.owners (fun r => key (0x10000 * r))
    rot := eraseKeys s.rot (fun k => decide (k = n))
    jobs := eraseKeys s.jobs (fun k => decide (k / 64 = n))
    served := eraseKeys s.served (fun k => decide (k / 4 = n))
    reqs := s.reqs.filter (fun r => !(decide (agentDie r.agent = n)))
    xlat := { x with micro := eraseKeys x.micro onDie, l2 := eraseKeys x.l2 (fun k => decide (k = n)), ptr := eraseKeys x.ptr (fun k => decide (k = n)),
                     walks := x.walks.filter (fun w => !(decide (agentDie w.agent = n))),
                     faults := x.faults.filter (fun w => !(decide (agentDie w.agent = n))) }
    trust := { s.trust with tableWait := eraseKeys s.trust.tableWait (fun k => decide (k / 8 = n)) } }

/-- The die's own side of its bundles and of its test register (R411, R582). -/
def resetDieSides (s : State) (n : Nat) : State :=
  settleTest { s with fabric := { s.fabric with
    bundles := eraseKeys s.fabric.bundles (fun k => decide (k / 64 = n)), tests := eraseKeys s.fabric.tests (fun k => decide (k = n)) } }

/-- The die's readiness bits cleared (R494). -/
def clearDieReady (s : State) (n : Nat) : State :=
  let s := setReady (setReady (setReady s (16 + n) false) (20 + n) false) (24 + n) false
  (List.range 32).foldl (fun s c => setReady s (64 + 32 * n + c) false) s

/-- The units of a hearth die with a governed level (R477): its grates and the die. -/
def dieUnit (n u : Nat) : Bool := decide (u < 96) && decide (u / 24 = n) || decide (u = 108 + n)

/-- A reset of one hearth die takes effect (R505). -/
def hearthGone (s : State) (n cause : Nat) : State :=
  let s := resetEvent s (16 + n) 3 cause
  let p := s.power
  let k := s.kindle
  let s := { s with
    kindle := { k with loaded := Tab.put false k.loaded n false, dieWait := Tab.put false k.dieWait n true, lastKind := 3,
                       chTries := eraseKeys k.chTries (fun c => decide (c / 32 = n)), since := Tab.put 0 k.since (16 + n) s.elapsed }
    power := { p with clk := { p.clk with slock := p.clk.slock &&& ~~~(BitVec.ofNat 4 (2 ^ n)) },
                      governed := eraseKeys p.governed (dieUnit n), ballast := eraseKeys p.ballast (dieUnit n),
                      bursts := eraseKeys p.bursts (fun g => decide (g / 24 = n)),
                      counted := p.counted &&& ~~~(BitVec.ofNat 8 (2 ^ n)), taper := Tab.put 0 p.taper n 0 } }
  let old := s
  let s := clearDieReady (resetDieSides s n) n
  let s := (rangeFrom (24 * n) 24).foldl (fun s g => endLaunch s g 0x10 0) (failDieRings s n)
  let s := failDieLines (loseDieStores s n) n
  let s := fulStatAll (freeDieTxns (wipeDie (dropDieMsgs (dropDieCoh s n) n) n) n) n fulDone
  settleAll (restripe old s)

/-- Whether the governed levels of a die have fallen to zero (R481). -/
def tapered (s : State) (n : Nat) : Bool := s.power.governed.all (fun e => !(dieUnit n e.1) || decide (e.2 = 0))

/-- A reset of one hearth die: it takes effect once the die's governed levels have fallen to zero, and waits for them until then (R481). The
runtime home die's is a package reset (R505). -/
def hearthReset (s : State) (n cause : Nat) : State :=
  if s.kindle.rtSet && decide (s.kindle.rtdie.toNat = n) then packageReset s 0x0A
  else if tapered s n then hearthGone s n cause
  else { s with power := { s.power with taper := Tab.put 0 s.power.taper n cause } }

end Sys2Proof.Machine
end

