-- ==== Sys2Proof/Machine/Kindle.lean ====
section
/-! DEFINITION. Kindling: stages K0 to K6, firmware slots and their selection, stage limits, confirmation (R489 to R502), the commands
of resets (R504, R506, R507) and the pin RST# (R596). -/

namespace Sys2Proof.Machine

/-! ### Anti-rollback counters (R520) -/

def arbRecord (s : State) (i k : Nat) : BitVec 24 := Tab.get 0 s.trust.arb (16 * i + k)

/-- A counter's value: the largest of its valid records, or 0. -/
def arbValue (s : State) (i : Nat) : Nat :=
  (List.range 16).foldl (fun n k => if arbValid (arbRecord s i k) then max n (field (arbRecord s i k).toNat 0 16) else n) 0

/-- Records in use. -/
def arbUsed (s : State) (i : Nat) : Nat := ((List.range 16).filter (fun k => decide (arbRecord s i k ≠ 0))).length

/-! ### Slots (R498 to R502) -/

def imgOf (s : State) (im slot : Nat) : ImgSlot := Tab.get {} s.kindle.images (2 * im + slot)

/-- R498: what Thirun's check of a slot finds, and a version not below its counter. -/
def imgOk (s : State) (im slot : Nat) : Bool :=
  (imgOf s im slot).valid && decide (arbValue s (imgOf s im slot).arb.toNat ≤ (imgOf s im slot).ver.toNat)

def setBit4 (v : BitVec 4) (i : Nat) (b : Bool) : BitVec 4 :=
  if v.getLsbD i = b then v else v ^^^ BitVec.ofNat 4 (2 ^ i)

/-- The slot-selection record written again, with the next sequence number. -/
def writeSel (s : State) (x : SlotSel) : State :=
  if x = s.kindle.sel then s else { s with kindle := s.kindle.withSel { x with seq := x.seq + 1 } }

/-- R502, before an image's selection: an unconfirmed trial falls back; a new slot is tried. -/
def trialStep (x : SlotSel) (im : Nat) : SlotSel :=
  if x.pend.getLsbD im then { x with pref := setBit4 x.pref im (!(x.pref.getLsbD im)), pend := setBit4 x.pend im false }
  else if x.trial.getLsbD im then { x with trial := setBit4 x.trial im false, pend := setBit4 x.pend im true }
  else x

/-- CONFIRM (R502). -/
def confirmSel (s : State) : State :=
  writeSel s ((List.range 4).foldl (fun (x : SlotSel) im =>
    if x.pend.getLsbD im then { x with pref := setBit4 x.pref im (s.kindle.slots.getLsbD im), pend := setBit4 x.pend im false } else x) s.kindle.sel)

def execConfirm (s : State) : Res := .next (confirmSel s)

/-- A manifest slot that is valid (R499). -/
def manOk (s : State) (m : Manifest) : Bool := m.valid && decide (arbValue s m.arb.toNat ≤ m.seq.toNat)

/-- The slot of the manifest that kindling uses: the valid one with the higher SEQ, slot A when equal. -/
def manSlot (s : State) : Option Nat :=
  let a := Tab.get {} s.kindle.manifests 0
  let b := Tab.get {} s.kindle.manifests 1
  if manOk s a && (!(manOk s b) || decide (b.seq.toNat ≤ a.seq.toNat)) then some 0
  else if manOk s b then some 1 else none

/-- Steppings of the hearth dies, from their fuses. -/
def hstep (s : State) (n : Nat) : Byte := Tab.get 0xB0 s.trust.hsteps n

/-- The alternates of select_pairing in its order: fewest first, then ascending. -/
def pairOrder : List Nat := [0, 1, 2, 4, 3, 5, 6, 7]

/-- The first listed combination: slots of runtime, microcode and training, and its GPV (R500). -/
def selectPairing (s : State) (man : Manifest) (stk : BitVec 16) : Option (List Nat × BitVec 16) :=
  pairOrder.findSome? (fun idx =>
    let sl := (List.range 3).map (fun i => boolNat ((s.kindle.sel.pref.getLsbD (i + 1)) != bitAt idx i))
    let ok := (List.range 3).all (fun i => imgOk s (i + 1) (nth 0 sl i))
    let ver := fun (i : Nat) => (imgOf s (i + 1) (nth 0 sl i)).ver
    if ok then
      match man.entries.find? (fun e => decide (e.stk = stk) && decide (e.rt = ver 0) && decide (e.ucode = ver 1) && decide (e.train = ver 2) &&
          decide (e.cstep = s.trust.cstep) && decide (e.hstep = hstep s 0)) with
      | some e => some (sl, e.gpv)
      | none => none
    else none)

/-! ### Stages -/

/-- The time at which a stage was entered, by its key in `since`. -/
def entered (s : State) (key : Nat) : State := { s with kindle := { s.kindle with since := Tab.put 0 s.kindle.since key s.elapsed } }

/-- Whether a stage's limit, in ticks, has passed since it was entered (Table 17.1). -/
def overdue (s : State) (key limit : Nat) : Bool := decide (limit ≤ s.elapsed - Tab.get 0 s.kindle.since key)

def toStage (s : State) (n : Nat) : State :=
  if s.kindle.stage.toNat < n then entered { s with kindle := { s.kindle with stage := BitVec.ofNat 3 n } } (200 + n) else s

/-- A hold, with its event (R495, Table 17.6). -/
def holdAt (s : State) (reason : Nat) : State :=
  kindleEvent { s with kindle := { s.kindle with hold := BitVec.ofNat 4 reason } } 4 0 0 0

def measure (s : State) (is : List Nat) : State :=
  { s with trust := { s.trust with measured := is.foldl (fun m i => m ||| BitVec.ofNat 16 (2 ^ i)) s.trust.measured } }

/-- Whether a stage may end now. -/
def inStage (s : State) (n : Nat) : Bool :=
  s.power.feedOn && s.power.pkgPower && decide (s.kindle.stage.toNat = n) && decide (s.kindle.hold = 0)

/-- KINDLE_K0 ends: Thirun's tests and fuses (R512). -/
def execKindleK0 (selfTestOk : Bool) (s : State) : Res :=
  if !(inStage s 0) || !s.power.clk.rlock || s.power.softStart || s.kindle.rstLow || readyThn s then .refused .notPending
  else if selfTestOk then
    let s := measure (setReady s 0 true) [1, 2, 9, 10]
    .next (toStage { s with trust := { s.trust with challenge := s.trust.challenge + 1 } } 1)
  else .next (holdAt s 1)

/-- The configuration copy that Stoker loads (R548). -/
def loadedCfg (k : StokerSt) : CfgRec :=
  if k.cfgA.ok && (!k.cfgB.ok || decide (k.cfgB.seq.toNat ≤ k.cfgA.seq.toNat)) then k.cfgA
  else if k.cfgB.ok then k.cfgB else {}

/-- Stoker loads its configuration; a configured group makes the group state FORMING (R548, Table 14.7). -/
def loadConfig (s : State) : State :=
  let c := loadedCfg s.stoker
  let s := ({ s with stoker := { s.stoker with cfg := c } }).logStk 7 c.seq.toNat
  let g := s.group
  if c.gid ≠ 0 ∧ g.gst = .standalone then setGroup s { g with gst := .forming, mypos := c.pos } else setGroup s { g with mypos := c.pos }

/-- Stoker starts: its log goes on from the mirror's highest SEQ; what was logged before is renumbered (R553, log 46). -/
def recoverLog (s : State) : State :=
  let k := s.stoker
  let top := k.mirror.foldl (fun n r => max n (r.seq + 1)) 0
  let s := { s with stoker := { k with log := k.log.map (fun (r : LogRec) => { r with seq := top + r.seq }), nextSeq := top + k.nextSeq, mirrored := top } }
  s.logStk 0x0A (top - 1)

/-- Stoker released from a slot. -/
def startStoker (s : State) (slot : Nat) : State :=
  let k := s.kindle
  let s := { s with kindle := { k with slots := setBit4 k.slots 0 (decide (slot = 1)) } }
  toStage (loadConfig (setReady (measure (recoverLog s) [3]) 1 true)) 2

/-- KINDLE_K1 ends: a Stoker slot is selected, verified and released (R500, R502); after a package reset the slot in use is
verified again (R504); `chainOk` is what the check of the certificate chain finds (R515). -/
def execKindleK1 (chainOk : Bool) (s : State) : Res :=
  if !(inStage s 1) || !(readyThn s) then .refused .notPending
  else
    let s := { s with trust := { s.trust with certOk := chainOk } }
    let used := boolNat (s.kindle.slots.getLsbD 0)
    if readyStk s then
      if imgOk s 0 used then .next (toStage (loadConfig s) 2) else .next (moduleReset s 5)
    else if s.kindle.altTried then
      if imgOk s 0 used then .next (startStoker s used) else .next (holdAt s 2)
    else
      let s := writeSel s (trialStep s.kindle.sel 0)
      let pref := boolNat (s.kindle.sel.pref.getLsbD 0)
      if imgOk s 0 pref then .next (startStoker s pref)
      else if imgOk s 0 (1 - pref) then .next (startStoker s (1 - pref))
      else .next (holdAt s 2)

/-- No combination is listed (R501): the unused Stoker slot is tried once, otherwise the module holds. -/
def noPairing (s : State) : State :=
  let k := s.kindle
  let other := 1 - boolNat (k.slots.getLsbD 0)
  if !k.altTried && imgOk s 0 other then
    let s := setReady s 1 false
    entered { s with kindle := { s.kindle with altTried := true, stage := 1, slots := setBit4 k.slots 0 (decide (other = 1)) } } 201
  else holdAt s 5

/-- KINDLE_K2 ends: manifest, slots, combination (R499, R500). -/
def execKindleK2 (s : State) : Res :=
  if !(inStage s 2) || !(readyStk s) || s.kindle.combo then .refused .notPending
  else
    let s := writeSel s ([1, 2, 3].foldl trialStep s.kindle.sel)
    match manSlot s with
    | none => .next (holdAt s 3)
    | some m =>
      if [1, 2, 3].any (fun n => decide (hstep s n ≠ hstep s 0)) then .next (holdAt s 4)
      else
        let stk := (imgOf s 0 (boolNat (s.kindle.slots.getLsbD 0))).ver
        match selectPairing s (Tab.get {} s.kindle.manifests m) stk with
        | none => .next (noPairing s)
        | some (sl, gpv) =>
          let slots := (List.range 3).foldl (fun v i => setBit4 v (i + 1) (decide (nth 0 sl i = 1))) s.kindle.slots
          let s := { s with kindle := { s.kindle with combo := true, manUsed := some m, gpv := gpv, slots := slots } }
          .next ([16, 17, 18, 19].foldl entered (toStage (measure s [4, 5, 6, 7, 8]) 3))

/-- KINDLE_K3 ends for a die that its bundles reach: stream table and caches cleared, slave PLL locked, microcode loaded. -/
def execKindleK3 (d : DieNo) (s : State) : Res :=
  if !s.kindle.combo || Tab.get false s.kindle.loaded d || !(reachable s 4 d) || !s.power.pkgPower then .refused .notPending
  else
    let p := s.power
    let s := { s with
      kindle := { s.kindle with loaded := Tab.put false s.kindle.loaded d true, dieWait := Tab.put false s.kindle.dieWait d false }
      power := { p with clk := { p.clk with slock := p.clk.slock ||| BitVec.ofNat 4 (2 ^ d.val) } } }
    .next (entered (toStage (refreshHth (setReady s 2 true) d) 4) (20 + d))

/-- Whether a die has HTH and all 32 channels. -/
def dieWhole (s : State) (n : Nat) : Bool := readyHth s n && (List.range 32).all (fun c => readyCh s (32 * n + c))

/-- One attempt to train a channel: it serves, or has an attempt fewer; after three it stays not ready (Table 17.1). -/
def tryChannel (s : State) (ch : Nat) (ok : Bool) : State :=
  let n := Tab.get 0 s.kindle.chTries ch
  if readyCh s ch || decide (3 ≤ n) then s
  else if ok then setReady s (64 + ch) true
  else { s with kindle := { s.kindle with chTries := Tab.put 0 s.kindle.chTries ch (n + 1) } }

/-- KINDLE_K4: an attempt to train a die's channels ends: bit c of `trained` is its channel c. -/
def execKindleK4 (d : DieNo) (trained : W32) (s : State) : Res :=
  if !(readyHth s d) then .refused .notPending
  else
    let s := (List.range 32).foldl (fun s c => tryChannel s (32 * d.val + c) (trained.getLsbD c)) s
    let s := refreshHth s d
    .next (if dieWhole s d then toStage s 5 else s)

/-- The runtime's regions: the first GiB of a die's direct range, OWNER 0 and V 1, zeroed (R493, R333). -/
def installRuntime (s : State) (n : Nat) : State :=
  let base := regionOf (n * dieSize)
  let mine := (rangeFrom base 16384).map (fun r => (r, ({ owner := 0, v := true } : Owner)))
  let rest : Tab Owner := Tab.eraseRange s.owners base 16384
  let low := rest.filter (fun (e : Nat × Owner) => decide (e.1 < base))
  let high := rest.filter (fun (e : Nat × Owner) => decide (base ≤ e.1))
  let s := { s with owners := low ++ mine ++ high }
  s.zeroBytes (n * dieSize) 0x40000000

/-- The heartbeat armed at the first CLU bit (R558, Table 19.2). -/
def armHeartbeat (s : State) : State :=
  let p := s.stoker.cfg.hbdef
  { s with stoker := { s.stoker with armed := true, period := if p = 0 then 10000 else p, kicked := s.elapsed } }

/-- KINDLE_K5 ends: the runtime home die is the lowest whole die the first time, and the image that Stoker streams stands at the start of
its regions; the clusters that passed start once Thirun has found the image good (R492, R493, R519; log 154). -/
def execKindleK5 (image : RunImage) (passed : BitVec 12) (s : State) : Res :=
  match (List.range 4).find? (dieWhole s) with
  | none => .refused .notPending
  | some n =>
    let first := !s.kindle.rtSet
    let s := if first then
        let s := { s with kindle := { s.kindle with rtSet := true, rtdie := BitVec.ofNat 2 n } }
        [4, 5, 6, 7, 8, 9, 10, 11, 12, 13, 14, 15].foldl entered
          ((installRuntime s n).putBytes (n * dieSize) (image.bytes.take 0x3FFF000))
      else s
    if !image.ok then .next s
    else
      let none_ := !((List.range 12).any (readyClu s))
      let s := (List.range 12).foldl (fun s c =>
        if passed.getLsbD c && !(readyClu s c) then
          let s := { s with kindle := { s.kindle with cluWait := Tab.put false s.kindle.cluWait c false },
                            coh := { s.coh with dead := s.coh.dead &&& ~~~(bitMask c) } }
          setReady s (4 + c) true
        else s) s
      let s := if passed ≠ 0 ∧ !s.stoker.armed ∧ none_ then armHeartbeat s else s
      .next (if passed = 0 then s else toStage s 6)

/-- The fields of HLK_PORT_CFG from their word (Table 12.1); CXL belongs to port 0 only. -/
def portOf (p v : Nat) : PortCfg :=
  { linken := bitAt v 0, bifur := bitAt v 1, cxl := bitAt v 2 && decide (p = 0), maxspd := BitVec.ofNat 3 (field v 3 3), reqide := bitAt v 6 }

/-- KINDLE_K6: links from Stoker's configuration, and the group's formation (R368, R418, R424, R578). -/
def execKindleK6 (s : State) : Res :=
  if s.kindle.stage ≠ 6 ∨ s.kindle.opened then .refused .notPending
  else
    let c := s.stoker.cfg
    let s := { s with ports := Tab.put {} (Tab.put {} s.ports 0 (portOf 0 c.port0.toNat)) 1 (portOf 1 c.port1.toNat),
                      kindle := { s.kindle with opened := true } }
    let s := (List.range 18).foldl (fun s f => if c.fluen.getLsbD f then linkEn s f true else s) s
    .next (offerDue s)

/-- The reason for which a stage K2 that has exceeded its limit holds (Table 17.1). -/
def k2Reason (s : State) : Nat :=
  if (manSlot s).isNone then 3 else if [1, 2, 3].any (fun n => decide (hstep s n ≠ hstep s 0)) then 4 else 5

/-- KINDLE_STAGE_TIMEOUT (Table 17.1): a hold; a die reset once and then left out; a channel or cluster left not ready. -/
def execKindleStageTimeout (u : StageUnit) (s : State) : Res :=
  let late := fun (unit : Nat) => s.logTag .chm unit 489 0
  match u with
  | .k0 => if inStage s 0 && s.power.clk.rlock && !(readyThn s) && overdue s 200 1125000 then .next (holdAt s 1) else .refused .notPending
  | .k1 => if inStage s 1 && overdue s 201 45000000 then .next (holdAt s 2) else .refused .notPending
  | .k2 => if inStage s 2 && !s.kindle.combo && overdue s 202 450000000 then .next (holdAt s (k2Reason s)) else .refused .notPending
  | .k3 d =>
    if !s.kindle.combo || Tab.get false s.kindle.loaded d || !(overdue s (16 + d) 11250000) then .refused .notPending
    else if Tab.get false s.kindle.dieRetry d then .next (late (16 + d.val))
    else .next (hearthReset { s with kindle := { s.kindle with dieRetry := Tab.put false s.kindle.dieRetry d true } } d 0x0E)
  | .k4 ch =>
    if readyHth s (ch / 32) && !(readyCh s ch) && overdue s (20 + ch / 32) 112500000 then
      .next ({ late (64 + ch.val) with kindle := { s.kindle with chTries := Tab.put 0 s.kindle.chTries ch 3 } })
    else .refused .notPending
  | .k5 c => if s.kindle.rtSet && !(readyClu s c) && overdue s (4 + c) 22500000 then .next (late (4 + c.val)) else .refused .notPending

/-! ### Reset commands (R504, R506) -/

/-- A request of CHM_RESET_CTL refused. -/
def resetErr (s : State) : State := { s with kindle := { s.kindle with resetErr := true } }

/-- A write of CHM_RESET_CTL by a hart (Table 17.9); PKG overrides the rest, and a die that is the runtime's home makes the
request one package reset (R507). -/
def resetRequest (s : State) (h : Nat) (clu : BitVec 12) (hth : BitVec 4) (pkg : Bool) (key : Byte) : State :=
  if key ≠ 0xA5 ∨ clu.getLsbD (clusterOf h) then resetErr s
  else if pkg then packageReset s 8
  else if s.kindle.rtSet && hth.getLsbD s.kindle.rtdie.toNat then packageReset s 0x0A
  else
    let s := (List.range 12).foldl (fun s c => if clu.getLsbD c then clusterReset s c 0x0F else s) s
    (List.range 4).foldl (fun s d => if hth.getLsbD d then hearthReset s d 0x0D else s) s

def execResetCluster (who : HartNo) (mask : BitVec 12) (key : Byte) (s : State) : Res :=
  devCommand (.core who false) s (resetRequest s who mask 0 false key)
def execResetHearth (who : HartNo) (mask : BitVec 4) (key : Byte) (s : State) : Res :=
  devCommand (.core who false) s (resetRequest s who 0 mask false key)
def execResetPackage (who : HartNo) (key : Byte) (s : State) : Res :=
  devCommand (.core who false) s (resetRequest s who 0 0 true key)

/-- MODULE_RESET with a cause of Table 17.7. -/
def execModuleReset (cause : BitVec 5) (s : State) : Res :=
  if cause.toNat < 3 ∨ 5 < cause.toNat then .fault .illFormed
  else if !s.power.feedOn then .refused .notPending
  else .next (moduleReset s cause.toNat)

/-- Whether the coolant readings lie within the warning limits (R601, Table 22.3). -/
def coolantOk (s : State) : Bool :=
  let v := fun i => (Tab.get {} s.stoker.sensors i : Sensor).value.toInt
  let known := [215, 216, 217, 218].all (fun i => decide ((Tab.get {} s.stoker.sensors i : Sensor).stat ≠ 3))
  known && decide (v 215 ≤ 40 * 16) && decide (v 216 ≤ 55 * 16) && decide (4000 ≤ v 218) && decide (v 217 ≤ 75)

/-- PACKAGE_RESET: after a thermal trip not before 10 s and with the coolant in range (R504). -/
def execPackageReset (cause : BitVec 5) (s : State) : Res :=
  if cause.toNat < 6 ∨ 10 < cause.toNat then .fault .illFormed
  else if !s.power.feedOn || decide (s.kindle.stage = 0 ∧ cause ≠ 7) then .refused .notPending
  else match s.power.tripped with
  | some t =>
    if cause = 7 ∧ 2250000000 ≤ s.elapsed - t ∧ coolantOk s ∧ s.stoker.downFor ≠ 1 then .next (packageReset s 7) else .refused .notPending
  | none => if cause = 7 then .refused .notPending else .next (packageReset s cause.toNat)

/-- HEARTH_DIE_RESET. -/
def execHearthDieReset (d : DieNo) (cause : BitVec 5) (s : State) : Res :=
  if cause.toNat < 0x0B ∨ 0x0E < cause.toNat then .fault .illFormed
  else if !s.power.pkgPower then .refused .notPending
  else .next (hearthReset s d cause.toNat)

/-- CLUSTER_RESET. -/
def execClusterReset (c : Fin 12) (cause : BitVec 5) (s : State) : Res :=
  if cause ≠ 0x0F ∧ cause ≠ 0x10 then .fault .illFormed
  else if !s.power.pkgPower then .refused .notPending
  else .next (clusterReset s c cause.toNat)

/-- RST_ASSERT: the log is mirrored, then a module reset with cause 0x04; the module stays in reset while RST# is low. -/
def execRstAssert (s : State) : Res :=
  let s := { s with kindle := { s.kindle with rstLow := true } }
  .next (if s.power.feedOn && !s.power.softStart then moduleReset s 4 else s)

/-- RST_RELEASE. -/
def execRstRelease (s : State) : Res :=
  if s.kindle.rstLow then .next { s with kindle := { s.kindle with rstLow := false } } else .refused .notPending

end Sys2Proof.Machine
end

