-- ==== Sys2Proof/Machine/Power.lean ====
section
/-! DEFINITION. Clocks, the power estimate, the sharing of the cap, droop, slew, dips, thermal limits and the feed (chapter 16, R591,
R596 to R599), and orderly power-down (R550, Table 8.4). -/

namespace Sys2Proof.Machine

def setPower (s : State) (p : PowerSt) : State := { s with power := p }

/-! ### Domains (Table 16.4): 0 links, 1 memory, 2 cores, 3 protected grates, 4 unprotected grates -/

/-- Level steps of a domain: 16 or 64 to the full level. -/
def domSteps (d : Nat) : Nat := if d < 3 then 16 else 64

def domFloor (d : Nat) : Nat := match d with | 0 => 4 | 1 => 8 | 2 => 4 | _ => 2

def domTarget (p : PowerSt) (d : Nat) : Nat := Tab.get (domSteps d) p.targets d

def setTarget (p : PowerSt) (d v : Nat) : PowerSt := { p with targets := Tab.put (domSteps d) p.targets d v }

/-- Steps of a die's thermal ceiling: the chimney's holds its cores, a hearth die's its grates (R486). -/
def ceilSteps (die : Nat) : Nat := if die = 4 then 16 else 64

def ceiling (p : PowerSt) (die : Nat) : Nat := Tab.get (ceilSteps die) p.ceilings die

/-- A domain's level on a die: the least of its target, the dip clamp and the die's ceiling (R472, R483). -/
def levelOn (p : PowerSt) (d die : Nat) : Nat :=
  let clamp := if p.clamp && decide (2 ≤ d) then domSteps d / 4 else domSteps d
  let ceil := if d < 2 then domSteps d else ceiling p die
  min (domTarget p d) (min clamp ceil)

/-- A domain's level: for the grates the lowest of the hearth dies' (log 43). -/
def domLevel (p : PowerSt) (d : Nat) : Nat :=
  if d < 3 then levelOn p d 4
  else min (min (levelOn p d 0) (levelOn p d 1)) (min (levelOn p d 2) (levelOn p d 3))

/-- QMIN of DMP_STATUS. -/
def lowestGrate (p : PowerSt) : Nat := min (domLevel p 3) (domLevel p 4)

/-! ### The estimate and the targets (R467, R472, R488) -/

/-- Feed watts at full activity (Table 16.3): hearth dies, chimney die, LPDDR6 packages, Stoker and board. -/
def fullWatts : List Nat := [699, 699, 699, 699, 413, 157, 21]

/-- Full-activity watts of the domains that have not completed a window since their reset. -/
def uncounted (p : PowerSt) : Nat :=
  fullWatts.zipIdx.foldl (fun n e => if p.counted.getLsbD e.2 then n else n + e.1) 0

def allCounted : BitVec 8 := 0x7F

/-- FIRST of DMP_STATUS (R488, R588). -/
def firstWindow (p : PowerSt) : Bool := decide (p.counted ≠ allCounted) || !p.corrSeen

/-- The weighted cube steps of the grates whose dies are already counted; a gated cube has added none (R79, R467). -/
def cubeWatts (s : State) : Nat :=
  let n := (s.grates.map (fun (e : Nat × Grate) => if s.power.counted.getLsbD (e.1 / 24) then e.2.cubeSteps else 0)).sum
  if n = 0 then 0 else ((n : Rat) * Config.cubeWeight).floor.toNat

/-- The estimate of a window: the cubes, and the `others` of the activity counts with the leakage, both of the domains already
counted. -/
def estimate (s : State) (w : WindowIn) : Nat :=
  (if s.power.counted = 0 then 0 else cubeWatts s + w.others + w.leakage) + uncounted s.power + s.power.corr.toNat

/-- The domains in ascending rank; the protected grates before the others (R470). -/
def domOrder (p : PowerSt) : List Nat :=
  [0, 1, 2, 3].flatMap (fun r =>
    (if p.rlink.toNat = r then [0] else []) ++ (if p.rmem.toNat = r then [1] else []) ++ (if p.rcore.toNat = r then [2] else []) ++
      (if p.rgrate.toNat = r then [3, 4] else []))

/-- step_down of a level in the domain's own steps. -/
def stepDown (d : Nat) (x : Rat) : Nat := max (domFloor d) (min (domSteps d) x.floor.toNat)

/-- The excess given up, the last rank first; what remains of it. -/
def shareDown (powers : List Nat) (p0 : PowerSt) : List Nat → Rat → PowerSt → Rat × PowerSt
  | [], x, p => (x, p)
  | d :: ds, x, p =>
    let pw : Rat := ((nth 0 powers d : Nat) : Rat)
    let l : Rat := (domLevel p0 d : Rat)
    let room := pw * (1 - (domFloor d : Rat) / l)
    let give := min x room
    let p := setTarget p d (stepDown d (l * (1 - give / pw)))
    shareDown powers p0 ds (x - give) p

/-- The headroom taken, the first rank first. -/
def shareUp (powers : List Nat) (p0 : PowerSt) : List Nat → Rat → PowerSt → PowerSt
  | [], _, p => p
  | d :: ds, h, p =>
    let pw : Rat := ((nth 0 powers d : Nat) : Rat)
    let l : Rat := (domLevel p0 d : Rat)
    if nth 0 powers d = 0 then shareUp powers p0 ds h (setTarget p d (domSteps d))
    else
      let take := min h (pw * ((domSteps d : Rat) / l - 1))
      shareUp powers p0 ds (h - take) (setTarget p d (stepDown d (l * (1 + take / pw))))

/-- share_cap (R472). -/
def shareCap (p : PowerSt) (powers : List Nat) (e : Nat) : PowerSt :=
  let cap := p.cap.toNat
  if cap < e then
    match shareDown powers p (domOrder p).reverse ((e - cap : Nat) : Rat) p with
    | (x, q) => if 0 < x then { q with capx := true } else q
  else if e + 64 < cap then shareUp powers p (domOrder p) ((cap - 64 - e : Nat) : Rat) p
  else p

/-- The activity counters of the next window. -/
def newWindow (s : State) : State :=
  { s with grates := s.grates.foldl (fun (t : Tab Grate) (e : Nat × Grate) => Tab.put {} t e.1 { e.2 with cubeSteps := 0 }) [] }

/-- DAMPER_WINDOW: the estimate, the targets, and the counters of the next window. -/
def execDamperWindow (w : WindowIn) (s : State) : Res :=
  if w.powers.length ≠ 5 then .fault .illFormed
  else if !s.power.pkgPower then .refused .notPending
  else
    let e := estimate s w
    let p := shareCap s.power w.powers e
    .next (newWindow (setPower s { p with est := BitVec.ofNat 12 (satNat 12 e), counted := allCounted }))

/-! ### The correction term (R468, R588) -/

/-- CORR above 200 is 200; a write sets SEEN. -/
def writeCorr (s : State) (v : Nat) : State :=
  setPower s { s.power with corr := BitVec.ofNat 8 (min v 200), corrSeen := true }

/-- DMP_CORR_WRITE, by Stoker. -/
def execDmpCorrWrite (value : W64) (s : State) : Res := .next (writeCorr s (field value.toNat 0 8))

/-- CORRECTION_UPDATE: the term that brings the estimate to the measured power, within 0 to 200 W (log 48). -/
def execCorrectionUpdate (measured : BitVec 12) (s : State) : Res :=
  if !(readyStk s) || !s.power.pkgPower then .refused .agentNotReady
  else .next (writeCorr s (measured.toNat + s.power.corr.toNat - s.power.est.toNat))

/-! ### Configuration (R470, R475) -/

/-- Two domains of a rank. -/
def ranksClash (v : Nat) : Bool :=
  let r := [field v 16 2, field v 18 2, field v 20 2, field v 22 2]
  decide (r.eraseDups.length ≠ 4)

/-- A write of DMP_CAP_CFG; ERR is cleared by writing 1 and set by a refused write. -/
def writeCap (s : State) (v : Nat) : State :=
  let p := s.power
  let err := p.capErr && !(bitAt v 63)
  let cap := field v 0 12
  if cap < 1800 ∨ 3200 < cap ∨ ranksClash v then (setPower s { p with capErr := true }).logTag .dmp 0 470 cap
  else setPower s { p with cap := BitVec.ofNat 12 cap, rlink := BitVec.ofNat 2 (field v 16 2), rmem := BitVec.ofNat 2 (field v 18 2),
                           rcore := BitVec.ofNat 2 (field v 20 2), rgrate := BitVec.ofNat 2 (field v 22 2), capErr := err }

def execDmpCapCfgWrite (value : W64) (s : State) : Res := .next (writeCap s value.toNat)

/-- A write of DMP_DROOP_CFG. -/
def writeDroop (s : State) (v : Nat) : State :=
  let thr := field v 0 4
  let len := field v 4 6
  if thr < 2 ∨ 8 < thr ∨ len < 8 then s.logTag .dmp 0 475 v
  else setPower s { s.power with droopThr := BitVec.ofNat 4 thr, droopLen := BitVec.ofNat 6 len }

def execDmpDroopCfgWrite (value : W64) (s : State) : Res := .next (writeDroop s value.toNat)

/-- DROOP_DETECT: LEN bubbles from the detection on; beyond the limit of R474 it is counted only. -/
def execDroopDetect (g : GrateNo) (limited : Bool) (s : State) : Res :=
  if !(readyHth s (g / 24)) then .refused .notPending
  else
    let p := s.power
    .next (setPower s { p with droops := satAdd p.droops 1,
                               bursts := if limited then p.bursts else Tab.put 0 p.bursts g p.droopLen.toNat })

/-! ### The slew governor (R476 to R480) -/

/-- A unit's number: grates 0 to 95, clusters from 96, hearth dies from 108, the chimney die 112. -/
def govUnit : GovUnit → Nat | .grate g => g | .cluster c => 96 + c | .die d => 108 + d | .chimney => 112

def isProtected (p : PowerSt) (g : Nat) : Bool := if g < 64 then p.prot0.getLsbD g else p.prot1.getLsbD (g - 64)

/-- Whether a die's reset waits for its taper (R481). -/
def tapering (p : PowerSt) (d : Nat) : Bool := decide (Tab.get 0 p.taper d ≠ 0)

/-- The level in 1/64 up to which a unit may rise, zero on a die that tapers (R478, R481, log 47). -/
def unitLevel (p : PowerSt) : GovUnit → Nat
  | .grate g => if tapering p (g / 24) then 0 else levelOn p (if isProtected p g then 3 else 4) (g / 24)
  | .cluster _ => 4 * levelOn p 2 4
  | .die d => if tapering p d then 0 else 4 * levelOn p 1 d
  | .chimney => 4 * levelOn p 0 4

/-- The resets of the dies whose taper has ended (R481). -/
def endTapers (s : State) : State :=
  (List.range 4).foldl (fun s d =>
    if tapering s.power d && tapered s d then hearthGone s d (Tab.get 0 s.power.taper d) else s) s

/-- SLEW_GOVERNOR_STEP: the unit's demand in 1/64; where the governor's limit leaves slack, its governed level moves one step toward
the demand, held to the domain's level. Ballast makes up what the real activity leaves (R479, R480). -/
def execSlewGovernorStep (u : GovUnit) (demand : BitVec 7) (slack : Bool) (s : State) : Res :=
  if 64 < demand.toNat then .fault .illFormed
  else
    let p := s.power
    let k := govUnit u
    let old := Tab.get 0 p.governed k
    let aim := min demand.toNat (unitLevel p u)
    let new := if !slack then old else if old < aim then old + 1 else if aim < old then old - 1 else old
    let real := min demand.toNat new
    .next (endTapers (setPower s { p with governed := Tab.put 0 p.governed k new, ballast := Tab.put 0 p.ballast k (new - real) }))

/-! ### Dips (R482 to R484) -/

def supplyCode : Supply → Nat | .feed => 0 | .hearth d => 1 + d | .chimney => 5 | .lpddr d => 6 + d

/-- DIP_DETECT: the ceiling of 16/64, CLAMP, DIPS; a hold that runs is given up. -/
def execDipDetect (x : Supply) (minimum : W32) (s : State) : Res :=
  let p := s.power
  let k := supplyCode x
  if !p.feedOn || (decide (x ≠ .feed) && !p.pkgPower) || p.dipping.contains k then .refused .notPending
  else
    .next ((setPower s { p with clamp := true, hold := false, dips := satAdd p.dips 1, dipping := p.dipping ++ [k] }).logTag .dmp k 483 minimum.toNat)

/-- DIP_RECOVER: the hold begins once no supply is in a dip. -/
def execDipRecover (x : Supply) (s : State) : Res :=
  let p := s.power
  let k := supplyCode x
  if p.dipping.contains k then
    let rest := p.dipping.filter (· ≠ k)
    .next (setPower s { p with dipping := rest, hold := rest.isEmpty, holdFrom := s.elapsed })
  else .refused .notPending

/-- DIP_HOLD_END: 100 µs after the recovery the ceiling is lifted. -/
def execDipHoldEnd (s : State) : Res :=
  let p := s.power
  if p.hold ∧ 22500 ≤ s.elapsed - p.holdFrom then .next (setPower s { p with hold := false, clamp := false })
  else .refused .notPending

/-! ### Power removed -/

/-- Sensors whose domain has no power: unavailable, keeping their last value (R549, Table 19.10). -/
def sensorsOff (s : State) : State :=
  let off := s.stoker.sensors.foldl (fun (t : Tab Sensor) (e : Nat × Sensor) =>
    Tab.put {} t e.1 (if e.1 < 212 then { e.2 with stat := 3 } else e.2)) []
  { s with stoker := { s.stoker with sensors := off } }

/-- Package power removed: the management domain goes on (R545, R546, R558). -/
def removePower (s : State) : State :=
  let s := sensorsOff (packageWiped (s.logTag .stk 0 545 0))
  setPower s { s.power with pkgPower := false }

/-- An orderly power-down begins: its reason is logged and the log mirrored (R550, R552). -/
def startDown (s : State) (why : Nat) : State :=
  if s.stoker.downFor ≠ 0 then s
  else
    let s := s.logStk 6 why
    mirrorLog { s with stoker := { s.stoker with downFor := why } }

/-- Whether every buffer has drained and every engine has finished (Table 8.4). -/
def drained (s : State) : Bool :=
  s.harts.all (fun e => e.2.sb.isEmpty) && s.grates.all (fun e => e.2.sb.isEmpty) && s.jobs.isEmpty

/-- Whether no dirty line is left in a cache: none whose write-back the home still has to make or to await, and no host's line that a
cluster has written (Table 8.4). -/
def writtenBack (s : State) : Bool :=
  s.coh.dir.all (fun e => !(cleanDue s false e.1)) && s.coh.evict.isEmpty &&
    s.coh.agents.all (fun e => !(isHosted s (e.1 / 16 * 128) && decide (e.2.st = .m)))

/-- Every dirty line asked back and put on its way to memory. -/
def writeBackAll (s : State) : State := (s.coh.dir.map (·.1)).foldl (fun s l => cleanLine s false l) s

/-- ORDERLY_POWER_DOWN: waits until the buffers have drained and the engines have finished, each by its own commands, and every dirty line
has been written back, then removes package power. -/
def execOrderlyPowerDown (why : BitVec 3) (s : State) : Res :=
  if why.toNat < 1 ∨ 4 < why.toNat then .fault .illFormed
  else if !s.power.pkgPower || decide (s.stoker.downFor ≠ why.toNat) then .refused .notPending
  else if !(drained s) then .next s
  else if !(writtenBack s) then .next (writeBackAll s)
  else .next (removePower s)

/-! ### Thermal limits (R486) -/

/-- THERMAL_STEP: once a millisecond, by the hottest sensor in 1/16 °C (Table 16.8). -/
def execThermalStep (die : Fin 5) (hottest : BitVec 16) (s : State) : Res :=
  let p := s.power
  let n := ceilSteps die
  let c := ceiling p die
  let floor := domFloor (if die.val = 4 then 2 else 3)
  let t := hottest.toInt
  let new := if t < 92 * 16 then min n (c + 1) else if t < 95 * 16 then c
    else if t < 105 * 16 then max floor (c - 1) else n / 4
  if !p.pkgPower then .refused .notPending
  else .next (setPower s { p with ceilings := Tab.put n p.ceilings die new })

/-- THERM of DMP_STATUS: a ceiling is below 1. -/
def anyTherm (p : PowerSt) : Bool := (List.range 5).any (fun d => decide (ceiling p d < ceilSteps d))

/-- THERMAL_TRIP: package power removed; Stoker stays up, logs and mirrors. -/
def execThermalTrip (die : Fin 5) (s : State) : Res :=
  if !s.power.pkgPower then .refused .notPending
  else
    let s := removePower (s.logTag .dmp die 486 0)
    .next (mirrorLog (setPower s { s.power with tripped := some s.elapsed }))

/-! ### Clocks (R463 to R465) -/

/-- ROOT_PLL_LOCK: within 50 µs of a valid reference, after soft-start. -/
def execRootPllLock (s : State) : Res :=
  let p := s.power
  if !p.feedOn || p.softStart || p.clk.rlock then .refused .notPending
  else .next (entered (setPower s { p with clk := { p.clk with rlock := true, refok := true } }) 200)

/-- SLAVE_PLL_LOCK_LOST: the die's clocks stop, and the die is reset alone. -/
def execSlavePllLockLost (d : DieNo) (s : State) : Res :=
  let p := s.power
  if !(p.clk.slock.getLsbD d) then .refused .notPending
  else
    let bit := BitVec.ofNat 4 (2 ^ d.val)
    .next (hearthReset (setPower s { p with clk := { p.clk with slost := p.clk.slost ||| bit } }) d 0x0B)

/-- REFCLK_LOST: holdover; host and flue links lose their lock; an orderly power-down begins. -/
def execRefclkLost (s : State) : Res :=
  let p := s.power
  if !p.clk.refok then .refused .notPending
  else
    let s := setPower s { p with clk := { p.clk with refok := false, reflost := true, hold := true } }
    let s := (List.range 4).foldl (fun s h => hostLost s h 1) s
    let s := (List.range 18).foldl (fun s f => if alive (s.fl f).st then linkDown s f 2 else s) s
    .next (startDown s 3)

/-- REFCLK_RETURN: a power-down already begun goes on. -/
def execRefclkReturn (s : State) : Res :=
  let p := s.power
  if p.clk.hold && !p.clk.refok then .next (setPower s { p with clk := { p.clk with refok := true, hold := false } })
  else .refused .notPending

/-! ### The feed (R485, R591, R599, Table 16.6) -/

/-- FEED_APPLIED: above 39.0 V with the sense pair closed, soft-start begins; a reset of kind power-on (Table 17.7). -/
def execFeedApplied (mv : W32) (s : State) : Res :=
  let p := s.power
  if p.feedOn ∨ mv.toNat ≤ 39000 then .refused .notPending
  else
    let s := setPower s { p with feedOn := true, sense := true, softStart := true, pkgPower := true, lossSeen := false }
    .next (resetEvent { s with kindle := { s.kindle with lastKind := 0 } } 0 0 (if p.lossSeen then 2 else 1))

/-- SOFT_START_DONE: kindling enters K0. -/
def execSoftStartDone (s : State) : Res :=
  let p := s.power
  if p.feedOn && p.softStart then .next (setPower s { p with softStart := false }) else .refused .notPending

/-- What becomes of a supply loss: the feed's return is then a recovery. -/
def feedLost (s : State) : State :=
  let s := powerLost s
  setPower s { s.power with lossSeen := true }

/-- SUPPLY_LOSS. -/
def execSupplyLoss (s : State) : Res := if s.power.feedOn then .next (feedLost s) else .refused .notPending

/-- SENSE_OPEN with the feed present: a supply loss within 1 µs. -/
def execSenseOpen (s : State) : Res := if s.power.feedOn && s.power.sense then .next (feedLost s) else .refused .notPending

/-- SUPPLY_RESET_LEVEL: the reset of the supply's scope (Table 16.6). -/
def execSupplyResetLevel (x : Supply) (s : State) : Res :=
  if !s.power.feedOn || (decide (x ≠ .feed) && !s.power.pkgPower) then .refused .notPending
  else
    let s := s.logTag .dmp (supplyCode x) 484 0
    match x with
    | .feed => .next (feedLost s)
    | .hearth d => .next (hearthReset s d 0x0C)
    | _ => .next (packageReset s 6)

end Sys2Proof.Machine
end

