-- ==== Sys2Proof/Machine/Trust.lean ====
section
/-! DEFINITION. Thirun: anti-rollback raises (R520 to R522), key generations (R527, R532), SPDM (R523 to R526), debug (R541 to R543),
the reinstalled key tables (R563) and the patrol scrub of the memory controllers (R562). -/

namespace Sys2Proof.Machine

def setTrust (s : State) (t : TrustSt) : State := { s with trust := t }

/-! ### Anti-rollback counters (R521, R522) -/

/-- Whether an image in use names a counter and has a version below a value (R521). -/
def imageBelow (s : State) (im idx val : Nat) : Bool :=
  let x := imgOf s im (boolNat (s.kindle.slots.getLsbD im))
  (if im = 0 then readyStk s else s.kindle.combo) && decide (x.arb.toNat = idx) && decide (x.ver.toNat < val)

def manifestBelow (s : State) (idx val : Nat) : Bool :=
  match s.kindle.manUsed with
  | some m =>
    let x : Manifest := Tab.get {} s.kindle.manifests m
    decide (x.arb.toNat = idx) && decide (x.seq.toNat < val)
  | none => false

/-- Why the start of a raise is refused (R521). -/
def raiseBad (s : State) (idx val : Nat) : Bool :=
  s.trust.arbBusy || decide (val ≤ arbValue s idx) || (arbFree s.trust idx).isNone ||
    [0, 1, 2, 3].any (fun im => imageBelow s im idx val) || manifestBelow s idx val || decide (s.kindle.sel.pend ≠ 0) || s.power.clamp

/-- The fields IDX and VAL written, then the start; a running raise keeps its own (R581). -/
def raiseStart (s : State) (idx : BitVec 6) (val : BitVec 16) : State :=
  let t := s.trust
  let bad := raiseBad s idx.toNat val.toNat
  let s := if t.arbBusy then (if idx = t.arbIdx ∧ val = t.arbVal then s else s.logTag .thn 0 581 idx.toNat)
    else setTrust s { t with arbIdx := idx, arbVal := val }
  if bad then setTrust s { s.trust with arbErr := true } else setTrust s { s.trust with arbBusy := true }

/-- ARB_RAISE. -/
def execArbRaise (idx : BitVec 6) (val : BitVec 16) (s : State) : Res := .next (raiseStart s idx val)

/-- ARB_RAISE_DONE: what the record reads back as; a fuse that was to stay 0 reads 0 (R520). -/
def execArbRaiseDone (readBack : BitVec 24) (s : State) : Res :=
  let t := s.trust
  if !t.arbBusy then .refused .notPending
  else if readBack &&& ~~~(arbIntended t.arbVal) ≠ 0 then .fault .illFormed
  else match arbFree t t.arbIdx.toNat with
  | some k =>
    let arb := Tab.put 0 t.arb (16 * t.arbIdx.toNat + k) readBack
    .next (measure (setTrust s { t with arb := arb, arbBusy := false, arbErr := t.arbErr || !(arbValid readBack) }) [9])
  | none => .refused .notPending

/-! ### Memory keys (R532) -/

/-- Why a generation is refused. -/
def keyBad (s : State) (ctx op : Nat) : Bool :=
  let named := s.owners.any (fun (e : Nat × Owner) => e.2.v && decide (e.2.owner.toNat = ctx))
  let locked := (List.range 4).any (fun d => (List.range 8).any (fun w =>
    bitAt (nearOwner s d w) 12 && decide (field (nearOwner s d w) 0 12 = ctx)))
  s.trust.keyBusy || decide (op ≠ 1) || decide (ctx = 0) || (s.ctxE ctx).v || named || locked

/-- The fields CTX and OP written, then the start. -/
def keyStart (s : State) (ctx : Ctx) (op : BitVec 3) : State :=
  let t := s.trust
  let bad := keyBad s ctx.toNat op.toNat
  let s := if t.keyBusy then (if ctx = t.keyCtx ∧ op = t.keyOp then s else s.logTag .thn 0 581 ctx.toNat)
    else setTrust s { t with keyCtx := ctx, keyOp := op }
  if bad then setTrust s { s.trust with keyErr := true } else setTrust s { s.trust with keyBusy := true }

/-- KEY_GENERATE. -/
def execKeyGenerate (ctx : Ctx) (s : State) : Res := .next (keyStart s ctx 1)

/-- KEY_GENERATE_DONE: the context has its next keys at all 32 controllers. -/
def execKeyGenerateDone (s : State) : Res :=
  let t := s.trust
  if !t.keyBusy then .refused .notPending
  else
    let c := t.keyCtx.toNat
    .next (setTrust s { t with keyBusy := false, keyGen := Tab.put 0 t.keyGen c (Tab.get 0 t.keyGen c + 1) })

/-- KEY_TABLE_REINSTALL_DONE: the controller's table is whole again, and its waiting requests proceed (R563). -/
def execKeyTableReinstallDone (c : Fin 32) (s : State) : Res :=
  if Tab.get false s.trust.tableWait c then
    .next (settleAll (ringsGo (wakeHomes (setTrust s { s.trust with tableWait := Tab.put false s.trust.tableWait c false }))))
  else .refused .notPending

/-! ### SPDM (R523 to R526) -/

/-- A path's number, and the sessions it has (Table 18.5). -/
def pathKey : SpdmPath → Nat | .doe h => h | .mctp => 4 | .flue f => 8 + f | .peer p => 32 + p

def pathLimit : SpdmPath → Nat | .doe _ => 4 | .mctp => 4 | .flue _ => 1 | .peer _ => 1

/-- Whether a path can bring a request to Thirun (R523, R546, Table 14.3). -/
def pathOpen (s : State) : SpdmPath → Bool
  | .doe h => readyThn s && (s.host h).dlup
  | .mctp => readyThn s && readyStk s
  | .flue f => readyThn s && decide ((s.fl f).st = .attest)
  | .peer _ => readyThn s && readyStk s

/-- An answer of Thirun: its fields and last their signature with the identity key, under a salt of the DRBG's; an error where
certificate slot 0 holds no chain (R514, R515, R526). -/
def spdmAnswer (s : State) (path : SpdmPath) (what : Nat) (fields : List Nat) : State :=
  if s.trust.certOk then
    let (salt, s) := takeFree 512 s
    s.emit (.mgmt what (pathKey path :: fields ++ [Config.identitySign (what :: fields) salt]))
  else s.emit (.mgmt 0x2F [pathKey path])

/-- The measurement indices whose stages are complete (R525). -/
def measuredIndices (s : State) : List Nat := (List.range 11).filter (fun i => s.trust.measured.getLsbD i)

/-- The digest of a measurement index: of the object that Table 18.6 names (R525, log 150). -/
def measurement (s : State) (i : Nat) : BitVec 512 :=
  let t := s.trust
  let image := fun (im : Nat) =>
    let slot := boolNat (s.kindle.slots.getLsbD im)
    [im, slot, (imgOf s im slot).ver.toNat, (imgOf s im slot).arb.toNat]
  match i with
  | 2 => Config.objectDigest 2 (t.cstep.toNat :: boolNat t.permlock :: (List.range 4).map (fun d => (Tab.get 0 t.hsteps d).toNat))
  | 3 => Config.objectDigest 3 (image 0)
  | 4 => Config.objectDigest 4 (s.kindle.manUsed.toList.flatMap (fun m => [m, (Tab.get {} s.kindle.manifests m).seq.toNat]))
  | 5 => Config.objectDigest 5 (image 3)
  | 6 => Config.objectDigest 6 (image 2)
  | 7 => Config.objectDigest 7 (image 1)
  | 8 => Config.objectDigest 8 [s.kindle.gpv.toNat]
  | 9 => Config.sha512 ((List.range 64).flatMap (fun c => toBytes 2 (arbValue s c)))
  | 10 => Config.sha512 [BitVec.ofNat 8 t.level.toNat]
  | _ => Config.objectDigest i []

/-- GET_MEASUREMENTS: the requester's nonce, and each index that the answer holds with its digest (Table 18.6). -/
def execGetMeasurements (path : SpdmPath) (nonce : BitVec 256) (s : State) : Res :=
  if pathOpen s path then .next (spdmAnswer s path 0x20 (nonce.toNat :: (measuredIndices s).flatMap (fun i => [i, (measurement s i).toNat])))
  else .refused .notPending

/-- CHALLENGE. -/
def execChallenge (path : SpdmPath) (nonce : BitVec 256) (s : State) : Res :=
  if pathOpen s path then .next (spdmAnswer s path 0x21 [nonce.toNat]) else .refused .notPending

/-- KEY_EXCHANGE: a session more, up to the path's limit. -/
def execKeyExchange (path : SpdmPath) (s : State) : Res :=
  if !(pathOpen s path) then .refused .notPending
  else
    let k := pathKey path
    let n := Tab.get 0 s.trust.sessions k
    if !s.trust.certOk || decide (pathLimit path ≤ n) then .next (s.emit (.mgmt 0x2F [k]))
    else .next (spdmAnswer (setTrust s { s.trust with sessions := Tab.put 0 s.trust.sessions k (n + 1) }) path 0x22 [n])

/-! ### Debug (R541 to R543) -/

/-- Whether a token is accepted (R542, Table 18.8). -/
def tokenOk (t : TrustSt) (body : BitVec 1024) (certOk sigOk : Bool) : Bool :=
  let b := body.toNat
  let level := field b 16 2
  !t.permlock && certOk && sigOk && decide (field b 0 16 = 1) && (decide (level = 1) || decide (level = 2)) &&
    decide (field b 320 512 = Config.ownDigest.toNat) && decide (field b 64 256 = (Config.challengeValue t.challenge).toNat)

/-- DEBUG_TOKEN: only over I3C; a new challenge after each presentation. Observe takes effect now, invasive at the next reset of
package or wider scope. -/
def execDebugToken (via : Mctp) (body : BitVec 1024) (certOk sigOk : Bool) (s : State) : Res :=
  if !(readyStk s) || !(readyThn s) then .refused .notPending
  else if via ≠ .i3c then .next (refuseMsg s 0x14)
  else
    let t := s.trust
    let ok := tokenOk t body certOk sigOk
    let fresh := { t with challenge := t.challenge + 1 }
    let level := field body.toNat 16 2
    let t := if !ok then fresh
      else if level = 1 then { fresh with level := if t.level = 0 then 1 else t.level }
      else { fresh with dbgPend := 2 }
    .next ((setTrust s t).emit (.mgmt 0x23 [boolNat ok]))

/-! ### Patrol scrub (R562) -/

/-- PATROL_SCRUB of one line of main memory: a correction is counted, an uncorrectable line is counted, logged and left as it is; a line
whose tag fails is logged (R531). -/
def execPatrolScrub (line : BitVec 45) (find : LineFind) (s : State) : Res :=
  let d := line.toNat * 128
  if mainSize ≤ d then .fault .illFormed
  else if !(channelReady s d) then .refused .notPending
  else
    let c := controllerOf d
    let m := s.mctl c
    let tagged := fun (s : State) => if tagMatches s line.toNat then s else logTagFail s line.toNat
    match find with
    | .clean => .next (tagged s)
    | .corrected => .next (tagged (s.setMctl c { m with corr := satAdd m.corr 1 }))
    | .altered cipher tag => .next (tagged (alterLine s line.toNat cipher tag))
    | .uncorrectable =>
      let s := s.setMctl c { m with uncorr := satAdd m.uncorr 1, addr := BitVec.ofNat 64 d }
      let s := s.logE { src := .mem, unit := c, kind := 0x17, code := 1, addr := d }
      if !(fromMemory s line.toNat) then .next s
      else .next { s with badLines := Tab.put 0 s.badLines line.toNat 1 }

end Sys2Proof.Machine
end

