-- ==== Sys2Proof/Machine/Stoker.lean ====
section
/-! DEFINITION. Stoker (chapter 19): sensors and their limits, the log, configuration, heartbeat, management messages and firmware
update. -/

namespace Sys2Proof.Machine

def setStk (s : State) (k : StokerSt) : State := { s with stoker := k }

/-! ### Sensors (R549, R550, R601) -/

def sensorOf (s : State) (i : Nat) : Sensor := Tab.get {} s.stoker.sensors i

/-- Whether a sensor's domain has power and its hearth die is reachable. -/
def sensorUp (s : State) (i : Nat) : Bool :=
  if i < 128 then s.power.pkgPower && reachable s 4 (i / 32)
  else if i < 212 then s.power.pkgPower
  else true

/-- STAT by limits above which a sample warns or is critical. -/
def above (v warn crit : Int) : BitVec 2 := if crit ≤ v then 2 else if warn ≤ v then 1 else 0

/-- STAT by limits below which a sample warns or is critical. -/
def under (v warn crit : Int) : BitVec 2 := if v < crit then 2 else if v < warn then 1 else 0

/-- STAT of a sample (R550): junctions by temperature, rails and the feed by Table 16.6, coolant by Table 22.3; the others have
no thresholds. -/
def sensorStat (i : Nat) (v : Int) : BitVec 2 :=
  if i < 144 then above v (95 * 16) (105 * 16)
  else if i < 176 then 0
  else if i < 186 then
    let sp : Int := Config.railSetpoint (i - 176)
    under (100 * v) (94 * sp) (90 * sp)
  else if i < 194 then
    let sp : Int := Config.railSetpoint (i - 176)
    under (100 * v) (95 * sp) (92 * sp)
  else if i = 212 then under v 38500 36000
  else if i = 215 then above v (40 * 16 + 1) (45 * 16 + 1)
  else if i = 216 then above v (55 * 16 + 1) (60 * 16 + 1)
  else if i = 217 then above v 76 101
  else if i = 218 then under v 4000 3000
  else 0

/-- Coolant beyond its absolute maximum (Table 22.3). -/
def coolantBeyond (i : Nat) (v : Int) : Bool :=
  (decide (i = 215) && decide (50 * 16 < v)) || (decide (i = 216) && decide (65 * 16 < v)) || (decide (i = 218) && decide (v < 2000))

/-- A leak: an orderly power-down, at once while RST# is low (R550, Table 22.2). -/
def leakWet (s : State) : State :=
  let k := s.stoker
  let s := setStk s { k with leak := true, sensors := Tab.put {} k.sensors 219 { value := 1, stat := 0 } }
  let s := startDown s 1
  if s.kindle.rstLow && s.power.pkgPower then removePower s else s

/-- A crossing: logged, with a PLDM event (R550, Table 19.6). -/
def crossing (s : State) (i : Nat) (old new : BitVec 2) (value : W32) : State :=
  let was := if old = 3 then 0 else old
  if was = new then s
  else
    let code := if new = 1 then 1 else if new = 2 then 2 else 3
    (s.logE { src := .stk, unit := i, kind := 0x30, code := code, data := value.toNat }).emit (.mgmt 0x30 [i, was.toNat, new.toNat, value.toNat])

/-- A sample taken. -/
def takeSample (s : State) (i : Nat) (value : W32) : State :=
  let x := sensorOf s i
  let k := s.stoker
  if !(sensorUp s i) then setStk s { k with sensors := Tab.put {} k.sensors i { x with stat := 3 } }
  else
    let stat := sensorStat i value.toInt
    let s := crossing (setStk s { k with sensors := Tab.put {} k.sensors i { value := value, stat := stat } }) i x.stat stat value
    if i = 219 then (if value = 0 then setStk s { s.stoker with leak := false } else leakWet s)
    else if coolantBeyond i value.toInt && s.power.pkgPower then startDown s 2
    else s

/-- SENSOR_SAMPLE. -/
def execSensorSample (i : Fin 220) (value : W32) (s : State) : Res :=
  if !(readyStk s) then .refused .agentNotReady
  else if i.val = 219 ∧ 1 < value.toNat then .fault .illFormed
  else .next (takeSample s i value)

/-- LEAK_DETECTED. -/
def execLeakDetected (s : State) : Res :=
  if !s.power.feedOn then .refused .notPending else .next (leakWet s)

/-- GET_SENSOR_READING. -/
def execGetSensorReading (i : Fin 220) (s : State) : Res :=
  if !(readyStk s) then .refused .agentNotReady
  else
    let x := sensorOf s i
    .next (s.emit (.mgmt 0x31 [i, x.value.toNat, x.stat.toNat]))

/-! ### The log (R551, R552, R557) -/

/-- LOG_MIRROR. -/
def execLogMirror (s : State) : Res := if readyStk s then .next (mirrorLog s) else .refused .agentNotReady

def logSrcCode : LogSrc → Nat
  | .chm => 0 | .hth => 1 | .grt => 2 | .mem => 3 | .ful => 4 | .flu => 5 | .hlk => 6 | .dmp => 7 | .stk => 8 | .thn => 9

/-- A record's bits [239:0] (Table 19.5). The polynomial of its CRC-16 is not given (log 7). -/
def logBits (r : LogRec) : Nat :=
  let code := if r.kind = 0 then (Config.logCode r.tag).toNat else r.kind + 256 * r.code
  packFields [(0, 32, r.seq), (32, 64, r.tick.toNat), (96, 4, logSrcCode r.src), (100, 2, r.sev.toNat), (104, 8, r.unit), (112, 16, code),
    (128, 12, r.ctx.getD 0), (140, 1, boolNat r.ctx.isSome), (144, 52, r.addr), (196, 44, r.data)]

/-- The records that Stoker still has: the mirror's, then those of SRAM not mirrored. -/
def allRecords (k : StokerSt) : List LogRec :=
  k.mirror ++ k.log.filter (fun r => decide (k.mirrored ≤ r.seq))

/-- Whether a message can arrive over a transport (R546, R554). -/
def messageArrives (s : State) : Mctp → Bool
  | .i3c => readyStk s
  | .vdm => readyStk s && (List.range 4).any (fun h => (s.host h).dlup)

/-- LOG_READ: answered with the records; more than 64 are refused. -/
def execLogRead (via : Mctp) (seq : W32) (count : BitVec 16) (s : State) : Res :=
  if !(messageArrives s via) then .refused .agentNotReady
  else if 64 < count.toNat then .next (refuseMsg s 0x10)
  else
    let want := fun (r : LogRec) => decide (seq.toNat ≤ r.seq) && decide (r.seq < seq.toNat + count.toNat)
    .next (s.emit (.mgmt 0x10 (((allRecords s.stoker).filter want).map logBits)))

/-! ### Configuration (R548, R557) -/

/-- The fields of a configuration copy (Table 19.2). -/
def cfgOf (body : BitVec 416) (crcOk : Bool) : CfgRec :=
  let f := fun lo w => field body.toNat lo w
  { seq := BitVec.ofNat 32 (f 0 32), gid := BitVec.ofNat 32 (f 32 32), pos := BitVec.ofNat 6 (f 64 6), pmask := BitVec.ofNat 64 (f 128 64),
    port0 := BitVec.ofNat 7 (f 192 7), port1 := BitVec.ofNat 7 (f 200 7), fluen := BitVec.ofNat 18 (f 208 18), ddef := BitVec.ofNat 32 (f 256 32),
    hbdef := BitVec.ofNat 16 (f 288 16), sth := BitVec.ofNat 2 (f 304 2), staddr := BitVec.ofNat 64 (f 320 64), ok := crcOk }

/-- Whether copy A is the newer one. -/
def newerA (k : StokerSt) : Bool := k.cfgA.ok && (!k.cfgB.ok || decide (k.cfgB.seq.toNat ≤ k.cfgA.seq.toNat))

/-- CONFIG_WRITE: the older copy is replaced; it takes effect at the next entry to K1. -/
def execConfigWrite (via : Mctp) (body : BitVec 416) (crcOk : Bool) (s : State) : Res :=
  if !(messageArrives s via) then .refused .agentNotReady
  else if via ≠ .i3c then .next (refuseMsg s 0x11)
  else
    let c := cfgOf body crcOk
    let k := s.stoker
    .next ((setStk s (if newerA k then { k with cfgB := c } else { k with cfgA := c })).emit (.mgmt 0x11 []))

/-! ### Reset and power messages (R557) -/

/-- MODULE_RESET_MESSAGE. -/
def execModuleResetMessage (via : Mctp) (s : State) : Res :=
  if !(messageArrives s via) then .refused .agentNotReady
  else if via ≠ .i3c then .next (refuseMsg s 0x12)
  else .next (moduleReset s 3)

/-- POWER_DOWN. -/
def execPowerDown (via : Mctp) (s : State) : Res :=
  if !(messageArrives s via) then .refused .agentNotReady
  else if via ≠ .i3c then .next (refuseMsg s 0x13)
  else .next (if s.power.pkgPower then startDown s 4 else s)

/-! ### The heartbeat (R558) -/

/-- A write of STK_HEARTBEAT by runtime firmware: PERIOD within its range, and KICK. -/
def writeHeartbeat (s : State) (v : Nat) : State :=
  let p := field v 0 16
  let k := s.stoker
  let k := if 100 ≤ p ∧ p ≤ 60000 then { k with period := BitVec.ofNat 16 p } else k
  setStk s (if bitAt v 17 then { k with kicked := s.elapsed } else k)

/-- The word as it reads. -/
def heartbeatWord (s : State) : Nat := packFields [(0, 16, s.stoker.period.toNat), (16, 1, boolNat s.stoker.armed)]

def heartbeatOff : Nat := 0x8000000

/-- A write of STK_HEARTBEAT by any agent: runtime firmware's acts; Thirun holds the right and is ignored and logged; the others
are refused (R558, R578). -/
def heartbeatBy (s : State) (who : DevAgent) (v : Nat) : State :=
  if isRuntime who then writeHeartbeat s v
  else if isThirun who then s.logTag .stk 0 558 (devSource who)
  else devRefused s who heartbeatOff

/-- HEARTBEAT_KICK. -/
def execHeartbeatKick (who : DevAgent) (s : State) : Res :=
  devCommand who s (heartbeatBy s who (heartbeatWord s + 2 ^ 17))

/-- HEARTBEAT_PERIOD. -/
def execHeartbeatPeriod (who : DevAgent) (ms : BitVec 16) (s : State) : Res := devCommand who s (heartbeatBy s who ms.toNat)

/-- HEARTBEAT_EXPIRED: 225,000 ticks a millisecond. -/
def execHeartbeatExpired (s : State) : Res :=
  let k := s.stoker
  if k.armed ∧ k.period.toNat * 225000 ≤ s.elapsed - k.kicked then
    .next (packageReset (s.logE { src := .stk, sev := 3, kind := 0x30, code := 5, data := k.period.toNat }) 9)
  else .refused .notPending

/-! ### Firmware update (R556, Table 17.10) -/

def imageNo : Image → Nat | .stoker => 0 | .runtime => 1 | .microcode => 2 | .training => 3 | .manifest => 4

/-- KIND of a component. -/
def imageKind (im : Nat) : Nat := if im = 4 then 0x10 else im + 1

/-- The unused slot: the other than the one selected in this kindling; before a selection the one that is not preferred, of the
manifest the one that kindling would not take (log 51). -/
def unusedSlot (s : State) (im : Nat) : Nat :=
  let k := s.kindle
  if im = 4 then
    match k.manUsed with
    | some m => 1 - m
    | none => (match manSlot s with | some m => 1 - m | none => 0)
  else if (if im = 0 then readyStk s else k.combo) then 1 - boolNat (k.slots.getLsbD im)
  else 1 - boolNat (k.sel.pref.getLsbD im)

/-- What a slot holds from now on. -/
def putSlot (s : State) (w : Writing) (good : Bool) : State :=
  let k := s.kindle
  if w.im = 4 then
    let m : Manifest := { valid := good && decide (1 ≤ w.entries.length) && decide (w.entries.length ≤ 1024), seq := w.ver, arb := w.arb, entries := w.entries }
    { s with kindle := { k with manifests := Tab.put {} k.manifests w.slot m } }
  else { s with kindle := { k with images := Tab.put {} k.images (2 * w.im + w.slot) { valid := good, ver := BitVec.ofNat 16 w.ver.toNat, arb := w.arb } } }

/-- PLDM_COMPONENT_WRITE: the transfer into the unused slot begins, whose contents are invalid until it ends; one transfer at a
time. Other transports than I3C are refused (R555, R556). -/
def execPldmComponentWrite (via : Mctp) (im : Image) (ver : W32) (arb : BitVec 6) (entries : List ManEnt) (good : Bool) (s : State) : Res :=
  let n := imageNo im
  if n ≠ 4 ∧ (65536 ≤ ver.toNat ∨ entries ≠ []) then .fault .illFormed
  else if !(messageArrives s via) then .refused .agentNotReady
  else if via ≠ .i3c then
    let (v, s) := takeFree 8 s
    .next (refuseMsg s v.toNat)
  else if s.kindle.writing.isSome then .next (s.emit (.mgmt 0x32 [0]))
  else
    let w : Writing := { im := n, slot := unusedSlot s n, ver := ver, arb := arb, entries := entries, good := good }
    let s := putSlot s w false
    let k := s.kindle
    .next ({ s with kindle := { k with writing := some w, verified := Tab.put 0 k.verified n 0 } }.emit (.mgmt 0x32 [1, w.slot]))

/-- PLDM_VERIFY: the transfer has ended; success is reported when Thirun has checked the slot. -/
def execPldmVerify (im : Image) (s : State) : Res :=
  match s.kindle.writing with
  | some w =>
    if w.im ≠ imageNo im ∨ !(readyThn s) ∨ !(readyStk s) then .refused .notPending
    else
      let s := (putSlot s w w.good).logStk 8 (imageKind w.im + 0x10000 * w.slot)
      let k := s.kindle
      .next ({ s with kindle := { k with writing := none, verified := Tab.put 0 k.verified w.im (if w.good then w.slot + 1 else 0) } }.emit
        (.mgmt 0x33 [boolNat w.good]))
  | none => .refused .notPending

/-- PLDM_APPLY: PREF and TRIAL of an image; a manifest is applied by its SEQ alone. -/
def execPldmApply (im : Image) (s : State) : Res :=
  let n := imageNo im
  let v := Tab.get 0 s.kindle.verified n
  if v = 0 ∨ !(readyStk s) then .refused .notPending
  else
    let k := s.kindle
    let s := { s with kindle := { k with verified := Tab.put 0 k.verified n 0 } }
    let x := k.sel
    let s := if n = 4 then s else writeSel s { x with pref := setBit4 x.pref n (decide (v = 2)), trial := setBit4 x.trial n true }
    .next (s.emit (.mgmt 0x34 [n]))

end Sys2Proof.Machine
end

