-- ==== Sys2Proof/Machine/Training.lean ====
section
/-! DEFINITION. Surviving failures in training (chapter 15): the cadence of checkpoints, where they are kept, recovery with a spare, and
the acceptance of a restore by replay. The data itself moves by the commands of other families; what stands here is the master
runtime's account of it. -/

namespace Sys2Proof.Machine

def setTrain (s : State) (t : TrainSt) : State := { s with train := t }

/-! ### The cadence (R441 to R445) -/

def groupSize (t : TrainSt) : Nat := ((List.range 64).filter (fun p => t.members.getLsbD p)).length

/-- D of R442, in seconds. -/
def defaultMtbf (s : State) : Nat := if s.stoker.cfg.ddef = 0 then 2592000 else s.stoker.cfg.ddef.toNat

/-- T of R442 in seconds, from ticks of 1/225 MHz. -/
def memberSeconds (t : TrainSt) : Nat := t.spent / 225000000

/-- M of R442. -/
def mtbf (s : State) : Rat :=
  let t := s.train
  let d : Rat := ((defaultMtbf s : Nat) : Rat)
  if t.nfail = 0 then d else (((memberSeconds t : Nat) : Rat) + d) / ((t.nfail + 1 : Nat) : Rat)

/-- The pause that stands for one not yet measured, in seconds (R443). -/
def pauseEstimate (t : TrainSt) : Rat :=
  ((t.bytes * 2 : Nat) : Rat) / ((91 * 55300000000 : Nat) * ((t.dies : Nat) : Rat) / 4) + 1 / 500

/-- C: the mean of the last 8 pauses in seconds. -/
def checkpointCost (t : TrainSt) : Rat :=
  let sum := t.pauses.foldl (· + ·) 0
  (((sum : Nat) : Rat) / 1000000 + ((8 - t.pauses.length : Nat) : Rat) * pauseEstimate t) / 8

/-- t: the mean of the last 16 step times, in seconds. -/
def stepTime (t : TrainSt) : Rat :=
  ((t.times.foldl (· + ·) 0 : Nat) : Rat) / ((t.times.length : Nat) : Rat) / 1000000

/-- b: the steps that a buddy copy spans. -/
def buddySteps (t : TrainSt) : Nat :=
  match t.buddyUs with
  | some us => if t.times.isEmpty then 1 else (((us : Nat) : Rat) / 1000000 / stepTime t).ceil.toNat
  | none => 1

/-- checkpoint_interval: floor(sqrt(x) / t) is the integer root of floor(x / t²). -/
def checkpointInterval (m : Rat) (n : Nat) (c st : Rat) (l b : Nat) : Nat :=
  let k := Nat.sqrt (2 * c * (m / ((n : Nat) : Rat)) / (st * st)).floor.toNat
  min (max k 1) (l - 2 - b)

/-- k computed again (R444); not before a step has completed (R445). -/
def recompute (s : State) : State :=
  let t := s.train
  if t.times.isEmpty || t.times.all (· == 0) || decide (groupSize t = 0) then s
  else setTrain s { t with interval := checkpointInterval (mtbf s) (groupSize t) (checkpointCost t) (stepTime t) t.lbound (buddySteps t) }

/-- The time as members counted up to now. -/
def countMembers (s : State) : State :=
  let t := s.train
  setTrain s { t with spent := t.spent + groupSize t * (s.elapsed - t.since), since := s.elapsed }

/-! ### Slots (R450 to R454) -/

def ckpt (t : TrainSt) (p i : Nat) : Ckpt := Tab.get {} t.slots (2 * p + i)

def putCkpt (t : TrainSt) (p i : Nat) (c : Ckpt) : TrainSt := { t with slots := Tab.put {} t.slots (2 * p + i) c }

/-- The slot of a position that holds a step's snapshot. -/
def slotOf (t : TrainSt) (p : Nat) (step : W64) : Option Nat :=
  [0, 1].find? (fun i => (ckpt t p i).onBoard && decide ((ckpt t p i).step = step))

def isSealed (c : Ckpt) : Bool := c.loss1.isSome && c.loss2.isSome

/-- Whether the checkpoint of a step is held: sealed, with LOCAL and BUDDY at every position (R450). -/
def held (t : TrainSt) (step : W64) : Bool :=
  (List.range 64).all (fun p => !(t.members.getLsbD p) ||
    (match slotOf t p step with
     | some i => isSealed (ckpt t p i) && (ckpt t p i).buddy
     | none => false)) && decide (t.members ≠ 0)

/-- Held steps, of the snapshots that exist. -/
def heldSteps (t : TrainSt) : List W64 :=
  (t.slots.filterMap (fun (e : Nat × Ckpt) => if e.2.onBoard && held t e.2.step then some e.2.step else none)).eraseDups

def latest (l : List W64) : Option W64 :=
  l.foldl (fun (m : Option W64) x => match m with | some y => some (if y.toNat < x.toNat then x else y) | none => some x) none

/-- The slot that the next snapshot takes: never the latest held checkpoint's; an empty one first, then the older (R451, R454). -/
def nextSlot (t : TrainSt) (p : Nat) : Nat :=
  let keep := latest (heldSteps t)
  let a := ckpt t p 0
  let b := ckpt t p 1
  if a.onBoard ∧ keep = some a.step then 1
  else if b.onBoard ∧ keep = some b.step then 0
  else if !a.onBoard then 0
  else if !b.onBoard then 1
  else if a.step.toNat ≤ b.step.toNat then 0 else 1

/-- Steps completed: their times, losses and microbatch widths; LOSS1, LOSS2 and the widths of the snapshots one and two steps before
(R202, R443, R448, R449). -/
def recordSteps (s : State) (steps : List StepIn) : State :=
  steps.foldl (fun s x =>
    let t := s.train
    let times := t.times ++ [x.us.toNat]
    let slots := t.slots.foldl (fun (m : Tab Ckpt) (e : Nat × Ckpt) =>
      let c := e.2
      let c := if c.onBoard ∧ c.step + 1 = x.step then { c with loss1 := some x.loss, widths1 := some x.widths } else c
      let c := if c.onBoard ∧ c.step + 2 = x.step then { c with loss2 := some x.loss, widths2 := some x.widths } else c
      Tab.put {} m e.1 c) t.slots
    setTrain s { t with times := times.drop (times.length - 16), losses := t.losses ++ [(x.step, x.loss)],
                        widths := t.widths ++ [(x.step, x.widths)], slots := slots }) s

/-- Whether the runtime on this module can keep the training state: it is the master, or there is no group (R440). -/
def keepsTraining (s : State) : Bool := !s.group.mv || decide (s.group.mypos = s.group.mpos)

/-! ### Commands -/

/-- CHECKPOINT of one position at a step boundary, sent once R447's conditions hold. A program whose bound on lost steps is too
small is refused before its first checkpoint (R446). -/
def execCheckpoint (pos : Position) (c : CkptIn) (s : State) : Res :=
  if !(c.members.getLsbD pos) ∨ c.dies < 1 ∨ 4 < c.dies then .fault .illFormed
  else if s.train.stopped || s.train.restoreStep.isSome || !(keepsTraining s) then .refused .agentNotReady
  else
    let s := recordSteps (countMembers s) c.steps
    let t := { s.train with members := c.members, lbound := c.lbound.toNat, bytes := c.bytes, dies := c.dies, accum := c.accum }
    if t.slots.isEmpty ∧ t.lbound < 3 + buddySteps t then .next (s.emit (.mgmt 0x40 [t.lbound, buddySteps t]))
    else
      let first := !(t.slots.any (fun (e : Nat × Ckpt) => e.2.onBoard && decide (e.2.step = c.step)))
      let pauses := if first then t.pauses ++ [c.pauseUs.toNat] else t.pauses
      let t := { t with pauses := pauses.drop (pauses.length - 8), nfail := t.nfail + c.reruns, due := false,
                        losses := if first then [] else t.losses, widths := if first then [] else t.widths }
      let x : Ckpt := { step := c.step, onBoard := true, widths := s.train.widths, idh := c.idh, vers := c.vers, tmod := BitVec.ofNat 64 (memberSeconds t),
                        nfail := BitVec.ofNat 32 t.nfail, lbound := c.lbound, dsec := BitVec.ofNat 32 (defaultMtbf s), clog := t.pauses, dir := c.dir }
      .next (recompute (setTrain s (putCkpt t pos (nextSlot t pos) x)))

/-- The position after p that is a member of the training group, in ascending order, wrapping (R452). -/
def buddyOf (t : TrainSt) (p : Nat) : Nat :=
  (((List.range 63).map (fun i => (p + 1 + i) % 64)).find? (fun q => t.members.getLsbD q)).getD p

/-- The newest snapshot of a position that satisfies a test. -/
def newestSlot (t : TrainSt) (p : Nat) (ok : Ckpt → Bool) : Option Nat :=
  let a := (ckpt t p 0).onBoard && ok (ckpt t p 0)
  let b := (ckpt t p 1).onBoard && ok (ckpt t p 1)
  if a && (!b || decide ((ckpt t p 1).step.toNat ≤ (ckpt t p 0).step.toNat)) then some 0 else if b then some 1 else none

/-- BUDDY_COPY_DONE. -/
def execBuddyCopyDone (pos : Position) (us : W32) (steps : List StepIn) (s : State) : Res :=
  let s := recordSteps (countMembers s) steps
  let t := s.train
  match newestSlot t pos (fun c => !c.buddy) with
  | some i =>
    if t.stopped || positionDead s (buddyOf t pos) then .refused .notPending
    else .next (recompute (setTrain s { putCkpt t pos i { ckpt t pos i with buddy := true } with buddyUs := some us.toNat }))
  | none => .refused .notPending

/-- STAGING_DONE: of the newest held checkpoint that is not staged yet (R453). -/
def execStagingDone (pos : Position) (steps : List StepIn) (s : State) : Res :=
  let s := recordSteps (countMembers s) steps
  let t := s.train
  match newestSlot t pos (fun c => !c.staged && held t c.step) with
  | some i => if t.stopped then .refused .notPending else .next (setTrain s (putCkpt t pos i { ckpt t pos i with staged := true }))
  | none => .refused .notPending

/-- Steps staged at a position, or at every member. -/
def stagedSteps (t : TrainSt) (p : Nat) : List W64 :=
  [0, 1].filterMap (fun i => if (ckpt t p i).onBoard && (ckpt t p i).staged then some (ckpt t p i).step else none)

/-- The restore point for a failed position (R450, Table 15.4). -/
def restorePoint (s : State) (p : Nat) : Option W64 :=
  let t := s.train
  if positionDead s (buddyOf t p) then latest (stagedSteps t p) else latest (heldSteps t)

/-- Checkpoints not sealed when a position fails are discarded (R455, Table 15.4). -/
def dropUnsealed (t : TrainSt) : TrainSt :=
  { t with slots := t.slots.filter (fun (e : Nat × Ckpt) => isSealed e.2) }

/-- RECOVERY of a dead or departed position with a spare (R456, R457): counted; the restore point is chosen. An ineligible spare is
passed over and logged. A second failure is another RECOVERY, counted again (R458). Admission, copies and reinstatement are commands of their own. -/
def execRecovery (pos : Position) (spare vers : W64) (s : State) : Res :=
  let gone := decide ((s.memb pos).st ≠ 1) || s.group.deadKnown.getLsbD pos
  if !(keepsTraining s) || s.train.stopped then .refused .agentNotReady
  else if !gone || !(s.train.members.getLsbD pos) then .refused .notPending
  else
    let s := countMembers s
    let t := s.train
    let point := restorePoint s pos
    let want := match point with
      | some step => (slotOf t pos step).map (fun i => (ckpt t pos i).vers)
      | none => none
    let eligible := s.group.peers.any (fun p => decide (p.idh = spare) && p.spare) && decide (want = some vers)
    let t := { dropUnsealed t with nfail := t.nfail + 1 }
    let s := recompute (setTrain s t)
    if eligible then .next (setTrain s { s.train with recovering := some pos, restoreStep := point, source := 0, due := true })
    else .next (s.logTag .chm pos 456 vers.toNat)

/-- The mismatch of a replay, in a stop (R461): the step, the loss recorded and the loss replayed. -/
def logMismatch (s : State) (c : Ckpt) (l1 l2 : W32) : State :=
  let one := decide (c.loss1 ≠ some l1)
  let s := s.logE { src := .chm, tag := 461, data := (c.step + (if one then 1 else 2)).toNat }
  let s := s.logE { src := .chm, tag := 462, data := (((if one then c.loss1 else c.loss2).getD 0) : W32).toNat }
  s.logE { src := .chm, tag := 463, data := (if one then l1 else l2).toNat }

/-- The next source after a mismatch (R461): 0 the restore itself, 1 the buddy copies of the same checkpoint, 2 the previous held
checkpoint, 3 the newest staged one. -/
def nextSource (t : TrainSt) (step : W64) : Option (Nat × W64) :=
  let older := latest ((heldSteps t).filter (fun x => decide (x.toNat < step.toNat)))
  let stagedAll := latest ((t.slots.filterMap (fun (e : Nat × Ckpt) => if e.2.onBoard && e.2.staged then some e.2.step else none)))
  let three := stagedAll.map (fun x => (3, x))
  match t.source with
  | 0 => some (1, step)
  | 1 => (match older with | some x => some (2, x) | none => three)
  | 2 => three
  | _ => none

/-- A checkpoint's manifest, from the first slot that holds its step. -/
def ckptAt (t : TrainSt) (step : W64) : Option Ckpt :=
  (t.slots.find? (fun (e : Nat × Ckpt) => e.2.onBoard && decide (e.2.step = step))).map (·.2)

/-- Whether a replay may be judged (R460): in the exact formats always; in BF16 or FP16 only on XQK4-M modules, with every microbatch
width of both steps repeated. -/
def replayValid (t : TrainSt) (c : Ckpt) (r : ReplayIn) (sameModules : Bool) : Bool :=
  decide (t.accum = .exact) || (sameModules && decide (c.widths1 = some r.widths1) && decide (c.widths2 = some r.widths2))

/-- RESTORE_REPLAY: the losses of steps s + 1 and s + 2 as replayed, compared bit for bit (R459); a replay that R460 does not allow decides
nothing, and the restore stays open (log 148). Without a recovery it is a restore on
the same members from the latest held checkpoint, which is counted (Table 15.1). -/
def execRestoreReplay (r : ReplayIn) (sameModules : Bool) (s : State) : Res :=
  if s.train.stopped || !(keepsTraining s) then .refused .agentNotReady
  else
    let fresh := s.train.restoreStep.isNone
    let s := countMembers s
    let t := s.train
    let t := if fresh then { t with restoreStep := latest (heldSteps t), source := 0, nfail := t.nfail + 1 } else t
    match t.restoreStep with
    | none => .refused .notPending
    | some step => match ckptAt t step with
      | none => .refused .notPending
      | some c =>
        let s := recompute (setTrain s t)
        let t := s.train
        if !(replayValid t c r sameModules) then .next s
        else if c.loss1 = some r.loss1 ∧ c.loss2 = some r.loss2 then
          .next (setTrain s { t with recovering := none, restoreStep := none, source := 0 })
        else match nextSource t step with
          | some (src, x) => .next (setTrain s { t with source := src, restoreStep := some x })
          | none => .next (logMismatch (setTrain s { t with stopped := true, restoreStep := none, recovering := none }) c r.loss1 r.loss2)

end Sys2Proof.Machine
end

