-- ==== Sys2Proof/Machine/RegMap.lean ====
section
/-! DEFINITION. The set-up registers (chapter 21): which register an offset names (Tables 21.1 to 21.11), who may reach it (Table
21.18), and what it reads as. -/

namespace Sys2Proof.Machine

/-- A register: a word of 8 bytes, by block, instance and word of its entry. -/
inductive Reg where
  | rootclk | ready (i : Nat) | kindle | resetCtl | ringCmd | invVa | invCtl | xlatReply | chmId | serial
  | dietest (die : Nat) | bundle (die b w : Nat) | ctxEntry (c w : Nat) | ringCfg (r w : Nat)
  | maintBase (d : Nat) | maintLen (d : Nat) | maintCtl (d : Nat) | ashClr (d : Nat) | poolCfg (d : Nat) | t1Own (d k : Nat)
  | ashStat (d : Nat) | poolRng (d i w : Nat) | ashOvf (d i : Nat) | ash (d i w : Nat)
  | grtCtl (g : Nat) | grtState (g : Nat) | grtPc (g : Nat) | guardCtl (g : Nat) | errCnt (g : Nat) | conf (g i : Nat)
  | event (g c : Nat) | rwin (i w : Nat)
  | rotAddr (d : Nat) | rotCtl (d : Nat) | ecc (c : Nat) | eccAddr (c : Nat) | memShare (c k : Nat) | memBytes (c k : Nat)
  | ctxClass (i : Nat)
  | coef (t w : Nat) | fulStat (u : Nat)
  | group | membCmd | tbCount | tbState | fwdClass | linkCtl (f : Nat) | linkState (f : Nat) | linkErr (f w : Nat)
  | route (p : Nat) | memb (p w : Nat) | fluShare (k : Nat) | fluWin (i w : Nat) | fluBytes (f k : Nat) | tally (t w : Nat)
  | portCfg (p : Nat) | hostState (h : Nat) | hostCtl (h : Nat) | genAddr (h : Nat) | genSeen (h : Nat) | hdmBase | hdmCtl
  | hlkShare (p k : Nat) | hlkBytes (p k : Nat) | hlkWin (h i w : Nat)
  | dmpCap | dmpStatus | dmpProt (k : Nat) | dmpDroop | dmpCorr
  | heartbeat | sens (i : Nat)
  | arbCmd | keyCmd | dbg | arbVal (i : Nat)
  deriving DecidableEq, Repr

/-! ### Offsets (R576, R577) -/

/-- The instance and word of an array of registers: n instances from `base`, `stride` bytes apart, each of `words` words. -/
def arr (off base n stride words : Nat) : Option (Nat × Nat) :=
  if base ≤ off ∧ off < base + n * stride ∧ (off - base) % stride / 8 < words then some ((off - base) / stride, (off - base) % stride / 8)
  else none

def chmReg (o : Nat) : Option Reg :=
  match o with
  | 0x00 => some .rootclk | 0x08 => some (.ready 0) | 0x10 => some (.ready 1) | 0x18 => some (.ready 2) | 0x20 => some .kindle
  | 0x28 => some .resetCtl | 0x30 => some .ringCmd | 0x38 => some .invVa | 0x40 => some .invCtl | 0x48 => some .xlatReply
  | 0x50 => some (.dietest 4) | 0x58 => some .chmId | 0x60 => some .serial
  | _ =>
    ((arr o 0x1000 64 32 4).map (fun e => Reg.bundle 4 e.1 e.2)).orElse (fun _ =>
    ((arr o 0x10000 4096 16 2).map (fun e => Reg.ctxEntry e.1 e.2)).orElse (fun _ =>
    (arr o 0x100000 65536 32 4).map (fun e => Reg.ringCfg e.1 e.2)))

def hthReg (d o : Nat) : Option Reg :=
  match o with
  | 0x00 => some (.maintBase d) | 0x08 => some (.maintLen d) | 0x10 => some (.maintCtl d) | 0x18 => some (.ashClr d)
  | 0x20 => some (.poolCfg d) | 0x28 => some (.t1Own d 0) | 0x30 => some (.t1Own d 1) | 0x38 => some (.dietest d) | 0x40 => some (.ashStat d)
  | _ =>
    ((arr o 0x100 8 16 2).map (fun e => Reg.poolRng d e.1 e.2)).orElse (fun _ =>
    ((arr o 0x400 32 32 4).map (fun e => Reg.bundle d e.1 e.2)).orElse (fun _ =>
    ((arr o 0x1000 64 8 1).map (fun e => Reg.ashOvf d e.1)).orElse (fun _ =>
    (arr o 0x10000 4096 16 2).map (fun e => Reg.ash d e.1 e.2))))

def grtReg (g o : Nat) : Option Reg :=
  match o with
  | 0x00 => some (.grtCtl g) | 0x08 => some (.grtState g) | 0x10 => some (.grtPc g) | 0x18 => some (.guardCtl g) | 0x20 => some (.errCnt g)
  | _ =>
    ((arr o 0x100 12 8 1).map (fun e => Reg.conf g e.1)).orElse (fun _ => (arr o 0x200 32 8 1).map (fun e => Reg.event g e.1))

def memReg (c o : Nat) : Option Reg :=
  match o with
  | 0x00 => if c % 8 = 0 then some (.rotAddr (c / 8)) else none
  | 0x08 => if c % 8 = 0 then some (.rotCtl (c / 8)) else none
  | 0x10 => some (.ecc c) | 0x18 => some (.eccAddr c)
  | _ =>
    ((arr o 0x100 16 8 1).map (fun e => Reg.memShare c e.1)).orElse (fun _ => (arr o 0x200 16 8 1).map (fun e => Reg.memBytes c e.1))

def fluReg (o : Nat) : Option Reg :=
  match o with
  | 0x00 => some .group | 0x08 => some .membCmd | 0x10 => some .tbCount | 0x18 => some .tbState | 0x20 => some .fwdClass
  | _ =>
    ((arr o 0x1000 18 0x40 4).map (fun e =>
      match e.2 with | 0 => Reg.linkCtl e.1 | 1 => .linkState e.1 | n => .linkErr e.1 (n - 2))).orElse (fun _ =>
    ((arr o 0x2000 64 8 1).map (fun e => Reg.route e.1)).orElse (fun _ =>
    ((arr o 0x3000 64 16 2).map (fun e => Reg.memb e.1 e.2)).orElse (fun _ =>
    ((arr o 0x4000 16 8 1).map (fun e => Reg.fluShare e.1)).orElse (fun _ =>
    ((arr o 0x5000 63 32 4).map (fun e => Reg.fluWin e.1 e.2)).orElse (fun _ =>
    ((arr o 0x8000 18 0x80 16).map (fun e => Reg.fluBytes e.1 e.2)).orElse (fun _ =>
    (arr o 0x100000 4096 32 4).map (fun e => Reg.tally e.1 e.2)))))))

def hlkReg (h o : Nat) : Option Reg :=
  match o with
  | 0x00 => if h % 2 = 0 then some (.portCfg (h / 2)) else none
  | 0x08 => some (.hostState h) | 0x10 => some (.hostCtl h) | 0x18 => some (.genAddr h) | 0x20 => some (.genSeen h)
  | 0x28 => if h = 0 then some .hdmBase else none
  | 0x30 => if h = 0 then some .hdmCtl else none
  | _ =>
    (if h % 2 = 0 then
      ((arr o 0x100 16 8 1).map (fun e => Reg.hlkShare (h / 2) e.1)).orElse (fun _ =>
      (arr o 0x200 16 8 1).map (fun e => Reg.hlkBytes (h / 2) e.1))
     else none).orElse (fun _ => (arr o 0x1000 64 16 2).map (fun e => Reg.hlkWin h e.1 e.2))

def dmpReg (o : Nat) : Option Reg :=
  match o with
  | 0x00 => some .dmpCap | 0x08 => some .dmpStatus | 0x10 => some (.dmpProt 0) | 0x18 => some (.dmpProt 1) | 0x20 => some .dmpDroop
  | 0x28 => some .dmpCorr | _ => none

def thnReg (o : Nat) : Option Reg :=
  match o with
  | 0x00 => some .arbCmd | 0x08 => some .keyCmd | 0x10 => some .dbg
  | _ => (arr o 0x100 64 8 1).map (fun e => Reg.arbVal e.1)

/-- The register that an offset, a multiple of 8, names; none where the tables assign none. -/
def regAt (off : Nat) : Option Reg :=
  if off < 0x1000000 then chmReg off
  else if off < 0x2000000 then hthReg ((off - 0x1000000) / 0x400000) ((off - 0x1000000) % 0x400000)
  else if off < 0x2F00000 then
    let g := (off - 0x2000000) / 0x10000
    if g < 96 then grtReg g ((off - 0x2000000) % 0x10000) else none
  else if off < 0x3000000 then (arr off 0x2F00000 512 16 2).map (fun e => Reg.rwin e.1 e.2)
  else if off < 0x3800000 then
    let c := (off - 0x3000000) / 0x10000
    if c < 32 then memReg c ((off - 0x3000000) % 0x10000) else none
  else if off < 0x4000000 then (arr off 0x3800000 256 8 1).map (fun e => Reg.ctxClass e.1)
  else if off < 0x5000000 then
    ((arr off 0x4000000 64 64 8).map (fun e => Reg.coef e.1 e.2)).orElse (fun _ => (arr off 0x4010000 32 8 1).map (fun e => Reg.fulStat e.1))
  else if off < 0x6000000 then fluReg (off - 0x5000000)
  else if off < 0x7000000 then
    let h := (off - 0x6000000) / 0x100000
    if h < 4 then hlkReg h ((off - 0x6000000) % 0x100000) else none
  else if off < 0x8000000 then dmpReg (off - 0x7000000)
  else if off < 0x9000000 then
    if off = 0x8000000 then some .heartbeat else (arr off 0x8001000 220 8 1).map (fun e => Reg.sens e.1)
  else if off < 0xA000000 then thnReg (off - 0x9000000)
  else none

/-- The hearth die whose readiness a register needs (R583). -/
def regDie : Reg → Option Nat
  | .maintBase d => some d | .maintLen d => some d | .maintCtl d => some d | .ashClr d => some d | .poolCfg d => some d
  | .t1Own d _ => some d | .ashStat d => some d | .poolRng d _ _ => some d | .ashOvf d _ => some d | .ash d _ _ => some d
  | .grtCtl g => some (g / 24) | .grtState g => some (g / 24) | .grtPc g => some (g / 24) | .guardCtl g => some (g / 24)
  | .errCnt g => some (g / 24) | .conf g _ => some (g / 24) | .event g _ => some (g / 24)
  | .rotAddr d => some d | .rotCtl d => some d | .ecc c => some (c / 8) | .eccAddr c => some (c / 8) | .memShare c _ => some (c / 8)
  | .memBytes c _ => some (c / 8)
  | _ => none

/-! ### Rights (Table 21.18) -/

def isDmp : Reg → Bool | .dmpCap => true | .dmpStatus => true | .dmpProt _ => true | .dmpDroop => true | .dmpCorr => true | _ => false
def isThn : Reg → Bool | .arbCmd => true | .keyCmd => true | .dbg => true | .arbVal _ => true | _ => false
def isDietest : Reg → Bool | .dietest _ => true | _ => false

def stokerReads : Reg → Bool
  | .rootclk => true | .ready _ => true | .kindle => true | .chmId => true | .serial => true | .dietest _ => true | .bundle _ _ _ => true
  | .ashStat _ => true | .ecc _ => true | .eccAddr _ => true | .group => true | .tbCount => true | .tbState => true | .linkState _ => true
  | .linkErr _ _ => true | .hostState _ => true | .heartbeat => true | .sens _ => true
  | r => isDmp r || isThn r

def stokerWrites : Reg → Bool | .dmpCap => true | .dmpCorr => true | r => isDietest r

/-- Whether an agent has the right to an access. -/
def regRight (who : DevAgent) (r : Reg) (write : Bool) : Bool :=
  match who with
  | .core _ user => !user && !(write && (isDietest r || decide (r = .dmpCorr)))
  | .stoker => if write then stokerWrites r else stokerReads r
  | .thirun => true
  | .tile _ => false

/-! ### What a register reads as -/

def bstateCode : BState → Nat | .down => 0 | .training => 1 | .up => 2 | .disabled => 3 | .loopback => 4
def fstateCode : FState → Nat
  | .down => 0 | .training => 1 | .attest => 2 | .probation => 3 | .ctrlonly => 4 | .up => 5 | .disabled => 6 | .loopback => 7
def groupCode : GroupSt → Nat | .standalone => 0 | .forming => 1 | .joining => 2 | .member => 3 | .test => 4
def gstateCode : GState → Nat | .idle => 0 | .running => 1 | .stopped => 2 | .halted => 3

/-- Word w of a wide entry. -/
def wordOf (v w : Nat) : Nat := field v (64 * w) 64

def bundleBits (s : State) (die b : Nat) : Nat :=
  let x := s.bundle die b
  let far := farEnd die b
  packFields [(0, 3, bstateCode x.st), (3, 2, x.width.toNat), (5, 1, boolNat x.kept), (9, 1, boolNat x.off), (16, 3, far.1), (19, 6, far.2),
    (32, 32, x.replays.toNat), (64, 68, x.rxmap.toNat), (132, 68, x.txmap.toNat)]

def ctxWord (e : CtxEnt) (w : Nat) : Nat :=
  if w = 0 then packFields [(0, 1, boolNat e.v), (16, 36, e.root.toNat)] else e.fring.toNat

def ringWord (r : Ring) (w : Nat) : Nat :=
  match w with | 0 => ringWord0 r | 1 => ringWord1 r | 2 => ringWord2 r | _ => ringWord3 r

def dietestWord (x : DieTest) : Nat :=
  packFields [(0, 1, boolNat x.en), (2, 1, boolNat x.busy), (3, 1, boolNat x.err), (4, 1, boolNat x.all), (8, 5, x.log2ui.toNat), (16, 7, x.fails.toNat)]

def maintWord (m : Maint) : Nat :=
  packFields [(0, 3, m.op.toNat), (4, 1, boolNat m.busy), (5, 1, boolNat m.err), (6, 4, m.ways.toNat), (10, 1, boolNat m.fill), (11, 4, m.locked.toNat)]

def poolRv (p : Pool) : Nat := (Tab.get 0 p.ranges 16).toNat % 256

def poolWord (p : Pool) : Nat :=
  packFields [(0, 1, boolNat p.mode), (1, 4, p.ways.toNat), (5, 8, poolRv p), (13, 1, boolNat p.busy), (14, 1, boolNat p.err)]

/-- Bits [63:0] of a set of numbered flags. -/
def setWord (f : Nat → Bool) : Nat := (List.range 64).foldl (fun n j => if f j then n + 2 ^ j else n) 0

def ashWord (s : State) (d i w : Nat) : Nat :=
  let e : AshEnt := Tab.get {} s.coh.ash (d * 4096 + i)
  if w = 0 then packFields [(0, 1, boolNat e.v), (1, 4, e.agent.toNat), (7, 45, e.addr.toNat), (52, 12, e.ctx.toNat)] else e.tick.toNat

def spadWinWord (x : SpadWin) (w : Nat) : Nat :=
  if w = 0 then
    packFields [(0, 1, boolNat x.v), (1, 1, boolNat x.wr), (2, 1, boolNat x.rd), (3, 1, boolNat x.busy), (4, 7, x.grate.toNat),
      (16, 12, x.base.toNat), (28, 12, x.len.toNat), (40, 12, x.ctx.toNat), (52, 12, x.tally.toNat)]
  else x.src.toNat

def rotWord (x : RotReg) : Nat :=
  packFields [(0, 12, x.owner.toNat), (12, 1, boolNat x.v), (13, 1, boolNat x.rt), (17, 1, boolNat x.busy), (18, 1, boolNat x.err), (32, 23, x.nreg.toNat)]

def invWord (x : XInv) : Nat :=
  packFields [(0, 2, x.scope.toNat), (3, 1, boolNat x.busy), (4, 1, boolNat x.err), (8, 12, x.ctx.toNat), (32, 32, x.npg.toNat)]

def flueWinWord (x : FlueWin) (w : Nat) : Nat :=
  match w with
  | 0 => packFields [(0, 1, boolNat x.v), (1, 1, boolNat x.rd), (2, 1, boolNat x.wr), (3, 1, boolNat x.at_), (4, 2, x.mode.toNat), (6, 1, boolNat x.busy),
      (16, 12, x.ctx.toNat), (32, 16, x.len.toNat), (48, 12, x.tally.toNat)]
  | 1 => x.pa.toNat | 2 => x.src.toNat | _ => 0

def hostWinWord (x : HostWin) (w : Nat) : Nat :=
  if w = 0 then
    packFields [(0, 1, boolNat x.v), (1, 1, boolNat x.rd), (2, 1, boolNat x.wr), (3, 1, boolNat x.at_), (16, 12, x.ctx.toNat), (32, 16, x.len.toNat)]
  else x.pa.toNat

def tallyWord (x : Tally) (w : Nat) : Nat :=
  match w with
  | 0 => x.bytes.toNat | 1 => x.pkts.toNat | 2 => packFields [(0, 12, x.ctx.toNat), (12, 1, boolNat x.v)] | _ => 0

def linkStateWord (x : FlueLink) : Nat :=
  packFields [(0, 3, fstateCode x.st), (4, 2, x.width.toNat), (6, 1, boolNat x.keyed), (7, 1, boolNat x.pv), (8, 6, x.peerpos.toNat),
    (16, 4, x.cause.toNat), (24, 16, x.downcnt.toNat)]

def linkErrBits (x : FlueLink) : Nat := packFields [(0, 48, x.flits.toNat), (48, 32, x.replays.toNat), (80, 16, x.second.toNat)]

def membWord (x : Memb) (w : Nat) : Nat := if w = 0 then packFields [(0, 2, x.st.toNat), (16, 32, x.epoch.toNat)] else x.idh.toNat

def groupWord (g : GroupState) : Nat :=
  packFields [(0, 3, groupCode g.gst), (4, 1, boolNat g.mv), (8, 6, g.mypos.toNat), (16, 6, g.mpos.toNat), (32, 32, g.epoch.toNat)]

def tbWord (g : GroupState) : Nat :=
  packFields [(0, 1, boolNat g.tbSync), (1, 1, boolNat g.tbLock), (2, 1, boolNat g.tbHold), (16, 16, g.tbOffs.toNat), (32, 32, g.tbSteps.toNat)]

def portWord (x : PortCfg) : Nat :=
  packFields [(0, 1, boolNat x.linken), (1, 1, boolNat x.bifur), (2, 1, boolNat x.cxl), (3, 3, x.maxspd.toNat), (6, 1, boolNat x.reqide)]

def hostStateWord (l : HostLink) : Nat :=
  packFields [(0, 1, boolNat l.dlup), (1, 3, l.speed.toNat), (4, 5, l.width.toNat), (9, 1, boolNat l.flit), (10, 1, boolNat l.cxlup),
    (11, 1, boolNat l.secured), (12, 1, boolNat l.lost), (13, 3, l.cause.toNat), (16, 16, l.downcnt.toNat)]

def hdmWord (l : HostLink) : Nat := packFields [(0, 1, boolNat l.hdmV), (16, 12, l.hdmCtx.toNat), (32, 24, l.hdmNpg.toNat)]

def rootWord (c : RootClk) : Nat :=
  packFields [(0, 1, boolNat c.rlock), (1, 1, boolNat c.refok), (2, 4, c.slock.toNat), (6, 1, boolNat c.reflost), (7, 4, c.slost.toNat), (11, 1, boolNat c.hold)]

def kindleWord (k : KindleSt) : Nat :=
  packFields [(0, 3, k.stage.toNat), (4, 4, k.hold.toNat), (8, 16, k.gpv.toNat), (24, 2, k.rtdie.toNat), (26, 3, k.lastKind.toNat), (32, 4, k.slots.toNat)]

def capWord (p : PowerSt) : Nat :=
  packFields [(0, 12, p.cap.toNat), (16, 2, p.rlink.toNat), (18, 2, p.rmem.toNat), (20, 2, p.rcore.toNat), (22, 2, p.rgrate.toNat), (63, 1, boolNat p.capErr)]

def statusWord (p : PowerSt) : Nat :=
  packFields [(0, 12, p.est.toNat), (12, 7, lowestGrate p), (19, 1, boolNat p.clamp), (20, 1, boolNat p.hold), (21, 1, boolNat (anyTherm p)),
    (22, 1, boolNat p.capx), (23, 1, boolNat (firstWindow p)), (32, 16, p.dips.toNat), (48, 16, p.droops.toNat)]

/-- Default share of a class (Table 21.16). -/
def shareDefault (k : Nat) : BitVec 16 := if k = 0 then 0x100 else 0

def idWord (s : State) : Nat :=
  packFields [(0, 8, 4), (8, 8, s.trust.cstep.toNat), (16, 8, (hstep s 0).toNat), (24, 8, (hstep s 1).toNat), (32, 8, (hstep s 2).toNat),
    (40, 8, (hstep s 3).toNat)]

/-- Conflict counter i of a grate (Table 4.11). -/
def confWord (x : Grate) (i : Nat) : Nat := (Tab.get 0 x.conflicts i).toNat

/-- The 64 bits that a read of a register returns. -/
def regWord (s : State) (r : Reg) : Nat :=
  match r with
  | .rootclk => rootWord s.power.clk
  | .ready i => (match i with | 0 => s.kindle.ready0 | 1 => s.kindle.ready1 | _ => s.kindle.ready2).toNat
  | .kindle => kindleWord s.kindle
  | .resetCtl => packFields [(32, 1, boolNat s.kindle.resetErr)]
  | .ringCmd => packFields [(0, 16, s.ringCmd.ring.toNat), (16, 3, s.ringCmd.cmd.toNat), (20, 1, boolNat s.ringCmd.busy), (21, 1, boolNat s.ringCmd.err)]
  | .invVa => packFields [(16, 39, s.xlat.inv.page.toNat)]
  | .invCtl => invWord s.xlat.inv
  | .xlatReply => 0
  | .chmId => idWord s
  | .serial => Config.serial.toNat
  | .dietest die => dietestWord (s.test die)
  | .bundle die b w => wordOf (bundleBits s die b) w
  | .ctxEntry c w => ctxWord (s.ctxE c) w
  | .ringCfg rn w => ringWord (s.ring rn) w
  | .maintBase d => packFields [(7, 45, (s.maint d).base.toNat)]
  | .maintLen d => (s.maint d).len.toNat
  | .maintCtl d => maintWord (s.maint d)
  | .ashClr _ => 0
  | .poolCfg d => poolWord (s.pool d)
  | .t1Own d k => (Tab.get 0 s.coh.nearOwn (2 * d + k)).toNat
  | .ashStat d => packFields [(0, 13, ((s.coh.ash.filter (fun e => decide (e.1 / 4096 = d) && e.2.v)).length)), (32, 32, Tab.get 0 s.coh.ashGen d)]
  | .poolRng d i w => (Tab.get 0 (s.pool d).ranges (2 * i + w)).toNat
  | .ashOvf d i => setWord (fun j => Tab.get false s.coh.ashOvf (d * 4096 + 64 * i + j))
  | .ash d i w => ashWord s d i w
  | .grtCtl g => packFields [(0, 1, boolNat (s.gr g).stopreq), (3, 1, boolNat (s.gr g).ctlErr)]
  | .grtState g =>
    let x := s.gr g
    packFields [(0, 2, gstateCode x.st), (2, 1, boolNat x.clearing), (16, 12, x.ctx.toNat), (32, 8, if x.st = .halted then x.haltCause.toNat else 0)]
  | .grtPc g => if (s.gr g).st = .stopped ∨ (s.gr g).st = .halted then (s.gr g).pc.toNat else 0
  | .guardCtl g => boolNat (s.gr g).guardMode
  | .errCnt g => (s.gr g).errCount % 2 ^ 32
  | .conf g i => confWord (s.gr g) i
  | .event g c => (Tab.get 0 (s.gr g).events c).toNat
  | .rwin i w => spadWinWord (Tab.get {} s.spadWins i) w
  | .rotAddr d => packFields [(16, 36, (Tab.get {} s.rot d).page.toNat)]
  | .rotCtl d => rotWord (Tab.get {} s.rot d)
  | .ecc c => packFields [(0, 32, (s.mctl c).corr.toNat), (32, 16, (s.mctl c).uncorr.toNat)]
  | .eccAddr c => (s.mctl c).addr.toNat
  | .memShare c k => (Tab.get (shareDefault k) (s.mctl c).share k).toNat
  | .memBytes c k => (Tab.get 0 (s.mctl c).clsBytes k).toNat
  | .ctxClass i => packFields ((List.range 16).map (fun j => (4 * j, 4, (Tab.get 0 s.ctxClass (16 * i + j)).toNat)))
  | .coef t w => (Tab.get 0 s.coefs (16 * t + 2 * w)).toNat + (Tab.get 0 s.coefs (16 * t + 2 * w + 1)).toNat * 2 ^ 32
  | .fulStat u => Tab.get 0 s.fulStat u
  | .group => groupWord s.group
  | .membCmd => packFields [(0, 6, s.group.cmdPos.toNat), (8, 2, s.group.cmdAct.toNat), (11, 1, boolNat s.group.cmdErr)]
  | .tbCount => s.tick.toNat
  | .tbState => tbWord s.group
  | .fwdClass => s.flue.fwdClass.toNat
  | .linkCtl f => packFields [(0, 1, boolNat (s.fl f).en), (2, 1, boolNat (s.fl f).holdctl), (3, 1, boolNat (s.fl f).loop)]
  | .linkState f => linkStateWord (s.fl f)
  | .linkErr f w => wordOf (linkErrBits (s.fl f)) w
  | .route p => (Tab.get 0 s.flue.route p).toNat
  | .memb p w => membWord (s.memb p) w
  | .fluShare k => (Tab.get (shareDefault k) s.flue.share k).toNat
  | .fluWin i w => flueWinWord (Tab.get {} s.flue.inwin i) w
  | .fluBytes f k => (Tab.get 0 s.flue.clsBytes (f * 16 + k)).toNat
  | .tally t w => tallyWord (s.tally t) w
  | .portCfg p => portWord (s.port p)
  | .hostState h => hostStateWord (s.host h)
  | .hostCtl _ => 0
  | .genAddr h => (s.host h).genAddr.toNat * 8
  | .genSeen h => (s.host h).genSeen.toNat
  | .hdmBase => (s.host 0).hdmBase.toNat * 0x10000
  | .hdmCtl => hdmWord (s.host 0)
  | .hlkShare p k => (Tab.get (shareDefault k) (s.host (2 * p)).share k).toNat
  | .hlkBytes p k => (Tab.get 0 (s.host (2 * p)).clsBytes k + Tab.get 0 (s.host (2 * p + 1)).clsBytes k).toNat
  | .hlkWin h i w => hostWinWord (Tab.get {} (s.host h).inwin i) w
  | .dmpCap => capWord s.power
  | .dmpStatus => statusWord s.power
  | .dmpProt k => if k = 0 then s.power.prot0.toNat else s.power.prot1.toNat
  | .dmpDroop => packFields [(0, 4, s.power.droopThr.toNat), (4, 6, s.power.droopLen.toNat)]
  | .dmpCorr => packFields [(0, 8, s.power.corr.toNat), (8, 1, boolNat s.power.corrSeen)]
  | .heartbeat => heartbeatWord s
  | .sens i => packFields [(0, 32, (sensorOf s i).value.toNat), (32, 2, (sensorOf s i).stat.toNat)]
  | .arbCmd => packFields [(0, 6, s.trust.arbIdx.toNat), (16, 16, s.trust.arbVal.toNat), (33, 1, boolNat s.trust.arbBusy), (34, 1, boolNat s.trust.arbErr)]
  | .keyCmd => packFields [(0, 12, s.trust.keyCtx.toNat), (12, 3, s.trust.keyOp.toNat), (17, 1, boolNat s.trust.keyBusy), (18, 1, boolNat s.trust.keyErr)]
  | .dbg => packFields [(0, 2, s.trust.level.toNat), (2, 2, s.trust.dbgPend.toNat), (4, 1, boolNat s.trust.permlock)]
  | .arbVal i => packFields [(0, 16, arbValue s i), (16, 5, arbUsed s i)]

end Sys2Proof.Machine
end

