-- ==== Sys2Proof/Machine/Xlat.lean ====
section
/-! DEFINITION. Walk reads, replies to translation faults, invalidation, region-owner changes (R303 to R333). -/

namespace Sys2Proof.Machine

/-! ### Walks -/

/-- WALK_READ_RETURN: the next read of an agent's walk, once it holds a walker of its die (R303, R308, R310). -/
def execWalkReadReturn (x : XAgent) (s : State) : Res :=
  let a := xagent x
  match walkOf s a with
  | none => .refused .notPending
  | some w =>
    if !(walkHasWalker s w) then .refused .notPending
    else match walkStep s w with
    | (true, s) => .next (settleAll (resumeAgent s a))
    | (false, s) => .next s

/-! ### Replies (R316, R317) -/

/-- The buffered leaves of an address given up before it is translated from the tables again (R317, R312). -/
def forgetLeaf (s : State) (a : Agent) (ctx va : Nat) : State :=
  let keep := fun (l : Leaf) => !(leafHit l ctx va)
  { s with xlat := { s.xlat with micro := Tab.modify [] s.xlat.micro (agentKey a) (List.filter keep),
                                 l2 := Tab.modify [] s.xlat.l2 (agentDie a) (List.filter keep) } }

def dropFault (s : State) (token : Nat) : State :=
  { s with xlat := { s.xlat with faults := s.xlat.faults.filter (fun f => decide (f.token ≠ token)) } }

def faultByToken (s : State) (token : Nat) : Option XFault := s.xlat.faults.find? (fun f => decide (f.token = token))

/-- XLAT_REPLY_REPLAY; an unknown TOKEN is ignored and logged. -/
def execXlatReplyReplay (token : BitVec 16) (s : State) : Res :=
  match faultByToken s token.toNat with
  | none => .next (s.logTag .chm 0 316 token.toNat)
  | some f => .next (settleAll (resumeAgent (forgetLeaf (dropFault s f.token) f.agent f.ctx f.va) f.agent))

/-- XLAT_REPLY_REFUSE. -/
def execXlatReplyRefuse (token : BitVec 16) (s : State) : Res :=
  match faultByToken s token.toNat with
  | none => .next (s.logTag .chm 0 316 token.toNat)
  | some f => .next (settleAll (refuseAgent (dropFault s f.token) f.agent))

/-! ### Invalidation (R319 to R323) -/

/-- Whether the result of a walk may fall in scope: the largest page of its address touches the range (R321). -/
def walkTouches (x : XInv) (w : Walk) : Bool := invTouches x w.ctx (w.va / 2 ^ 42 * 2 ^ 42) 42

/-- Every walk whose result may fall in scope discarded; its engine translates again when BUSY has cleared (R321, R322). -/
def dropWalks (s : State) : State :=
  { s with xlat := { s.xlat with walks := s.xlat.walks.filter (fun w => !(walkTouches s.xlat.inv w)) } }

/-- A start (R319): refused while BUSY, for a reserved SCOPE, or where the range runs past the top of the space. -/
def invStart (s : State) (x : XInv) : State :=
  let set := fun (i : XInv) => { s with xlat := { s.xlat with inv := i } }
  if s.xlat.inv.busy then set { s.xlat.inv with err := true }
  else if x.scope = 3 ∨ (x.scope = 0 ∧ 2 ^ 39 < x.page.toNat + x.npg.toNat + 1) then set { x with err := true }
  else
    let x := { x with busy := true, va := x.page }
    let x := { x with dropped := droppedPages s x }
    dropWalks (dropScope (set x) x)

/-- XLAT_INV_RANGE: the first page stands in CHM_XLAT_INV_VA. -/
def execXlatInvRange (ctx : Ctx) (npg : W32) (s : State) : Res :=
  .next (invStart s { s.xlat.inv with scope := 0, ctx := ctx, npg := npg })

def execXlatInvContext (ctx : Ctx) (s : State) : Res := .next (invStart s { s.xlat.inv with scope := 1, ctx := ctx })

def execXlatInvAll (s : State) : Res := .next (invStart s { s.xlat.inv with scope := 2 })

/-- Whether an access that uses a translation in scope has not finished: a request without an answer, or a store in a tile
controller's buffer (R320, R321). -/
def invPending (s : State) : Bool :=
  let x := s.xlat.inv
  let uses := fun (ctx va : Nat) => invCovers x ctx va ||
    x.dropped.any (fun p => decide (p.1 = ctx) && decide (va / 2 ^ p.2.2 = p.2.1 / 2 ^ p.2.2))
  s.reqs.any (fun r => uses r.ctx r.va || uses r.ctx (r.va + r.len - 1)) ||
    s.grates.any (fun e => e.2.sb.any (fun b => uses b.ctx b.va.toNat))

/-- Everything that an invalidation held goes on: tile controllers, dispatches and engines without a walk or a fault. -/
def resumeHeld (s : State) : State :=
  let s := s.grates.foldl (fun s e => if xlatBusy s (.tile e.1) then s else tileRetry s e.1) s
  let s := (List.range 4).foldl (fun s d => (List.range 2).foldl (fun s i =>
    if xlatBusy s (.dispatch d i) then s else unstall s d i) s) s
  s.jobs.foldl (fun s e => match e.2 with
    | some j => if decide (j.wait = .walk) && !(xlatBusy s (jobAgent e.1)) then jobGo s e.1 else s
    | none => s) s

/-- XLAT_INV_DONE: BUSY clears. -/
def execXlatInvDone (s : State) : Res :=
  if !s.xlat.inv.busy || invPending s then .refused .notPending
  else .next (settleAll (resumeHeld { s with xlat := { s.xlat with inv := { s.xlat.inv with busy := false, dropped := [] } } }))

/-! ### Region-owner changes (R332, R333) -/

/-- Regions of a die's direct range. -/
def dieRegions : Nat := dieSize / 0x10000

/-- Whether a start is refused: BUSY, a range that leaves the die, or one that touches the table's own area. -/
def rotBad (d : Nat) (x : RotReg) (n : Nat) : Bool :=
  let a := x.page.toNat
  x.busy || decide (a < d * dieRegions) || decide ((d + 1) * dieRegions - 0xC00000 / 0x10000 < a + n)

/-- The entries of n regions from region a replaced by a function of region and old entry. -/
def mapOwners (t : Tab Owner) (a n : Nat) (f : Nat → Owner → Owner) : Tab Owner :=
  t.filter (fun e => decide (e.1 < a)) ++
    ((rangeFrom a n).map (fun r => (r, f r (Tab.get {} t r)))).filter (fun e => decide (e.2 ≠ {})) ++
    t.filter (fun e => decide (a + n ≤ e.1))

def rotTarget (x : RotReg) : Owner := { owner := x.owner, v := x.v, rt := x.rt }

/-- Whether a line lies in the regions of a change. -/
def rotHas (x : RotReg) (line : Nat) : Bool :=
  let r := regionOf (line * 128)
  decide (x.addr.toNat ≤ r) && decide (r < x.addr.toNat + x.nreg.toNat + 1)

/-- Whether a line lies in a region that a change moves. -/
def rotMoves (s : State) (x : RotReg) (line : Nat) : Bool := rotHas x line && (Tab.get {} s.owners (regionOf (line * 128))).moving

/-- Every copy of a line of the moved regions that an agent holds, or has been granted, back-invalidated; a line in another transaction
comes later (R333, R274). -/
def rotSnoop (s : State) (x : RotReg) : State :=
  (s.coh.dir.map (·.1)).foldl (fun s l =>
    if rotMoves s x l && decide ((s.dirE l).dst ≠ 0) && (s.txn l).isNone then homeSnoop s l .drop else s) s

/-- ROT_CHANGE: ADDR stands in MEM_ROT_ADDR. A region whose OWNER and V stay takes its RT at once; any other refuses every
request from now on. -/
def execRotChange (d : DieNo) (owner : Ctx) (v rt : Bool) (nreg : BitVec 23) (s : State) : Res :=
  let old := Tab.get {} s.rot d.val
  let set := fun (s : State) (x : RotReg) => { s with rot := Tab.put {} s.rot d.val x }
  if !(readyHth s d) then .next (decodeWrite s d)
  else if rotBad d old (nreg.toNat + 1) then
    .next (set s (if old.busy then { old with err := true } else { old with owner := owner, v := v, rt := rt, nreg := nreg, err := true }))
  else
    let x := { old with addr := old.page, owner := owner, v := v, rt := rt, nreg := nreg, busy := true }
    let put := fun (_ : Nat) (o : Owner) => if o.owner = owner ∧ o.v = v then { o with rt := rt } else { moving := true }
    .next (rotSnoop { (set s x) with owners := mapOwners s.owners x.addr.toNat (nreg.toNat + 1) put } x)
where
  /-- The block of a die that is not ready answers with a decode error (R583). -/
  decodeWrite (s : State) (d : Nat) : State := s.logTag .mem d 583 332

/-- Whether a line of the moved regions is still in a transaction, held by an agent, or on its way to one. -/
def rotBusyLines (s : State) (x : RotReg) : Bool :=
  s.coh.txns.any (fun e => e.2.isSome && rotMoves s x e.1) ||
    s.coh.dir.any (fun e => decide (e.2.dst ≠ 0) && rotMoves s x e.1) ||
    s.coh.agents.any (fun e => (e.2.incoming.isSome || e.2.ackDue) && rotMoves s x (e.1 / 16))

/-- The regions that a change moves, in address order. -/
def movingRegions (s : State) (x : RotReg) : List Nat :=
  (s.owners.filter (fun e => e.2.moving && rotHas x (e.1 * 512))).map (·.1)

/-- One moved region whose lines no agent holds: the marks of its lines gone, every byte zero, the entry installed (R333). -/
def rotRegion (t : Owner) (s : State) (r : Nat) : State :=
  let has := fun (line : Nat) => decide (regionOf (line * 128) = r)
  let ash := (s.coh.ash.filter (fun e => e.2.v && has e.2.addr.toNat)).map (fun e => e.2.addr.toNat)
  let s := ash.foldl ashRemove s
  let c := s.coh
  let s := { s with
    coh := { c with dir := c.dir.filter (fun e => !(has e.1)),
                    stale := c.stale.filter (fun e => !(has e.1)), evict := c.evict.filter (fun l => !(has l)) },
    badLines := s.badLines.filter (fun e => !(has e.1)), resv := s.resv.filter (fun e => !(has (e.2 - 1))),
    owners := Tab.put {} s.owners r t }
  freshTags (s.zeroBytes (r * 0x10000) 0x10000) r
where
  /-- Every line of the region zero under the new owner's keys, with fresh tags. -/
  freshTags (s : State) (r : Nat) : State :=
    { s with memCtl := (List.range 8).foldl (fun t i =>
        let c := 8 * (r * 0x10000 / dieSize) + i
        let m := Tab.get {} t c
        Tab.put {} t c { m with lines := Tab.eraseRange m.lines (r * 512) 512 }) s.memCtl }

/-- ROT_CHANGE_DONE; while copies are still to be invalidated the controller goes on and the command has to come again. -/
def execRotChangeDone (d : DieNo) (s : State) : Res :=
  let x := Tab.get {} s.rot d.val
  let s := if x.busy then rotSnoop s x else s
  if !x.busy then .refused .notPending
  else if rotBusyLines s x then .next s
  else
    let s := (movingRegions s x).foldl (rotRegion (rotTarget x)) s
    .next { s with rot := Tab.put {} s.rot d.val { x with busy := false } }

end Sys2Proof.Machine
end

