-- ==== Sys2Proof/Machine/RegWrite.lean ====
section
/-! DEFINITION. What a write of a set-up register does (R579 to R588), and the two commands that reach the register and doorbell
ranges (R30 to R33, R241, R577, R578, R583). -/

namespace Sys2Proof.Machine

/-- The state that a command leaves, where it leaves one. -/
def after (s : State) (r : Res) : State := match r with | .next t => t | _ => s

/-! ### RW fields (R579) -/

/-- A mask of bits lo to lo + n − 1. -/
def bits (lo n : Nat) : Nat := (2 ^ n - 1) * 2 ^ lo

/-- The RW bits of a register: what the half that a 4-byte write leaves alone is taken to hold. -/
def rwMask : Reg → Nat
  | .ringCmd => bits 0 19
  | .invVa => bits 16 39
  | .invCtl => bits 0 2 + bits 8 12 + bits 32 32
  | .dietest _ => bits 0 1 + bits 4 1 + bits 8 5
  | .bundle _ _ w => if w = 0 then bits 9 1 else 0
  | .ctxEntry _ w => if w = 0 then bits 0 1 + bits 16 36 else bits 0 16
  | .ringCfg _ w => if w ≤ 1 then bits 0 64 else 0
  | .maintBase _ => bits 7 45
  | .maintLen _ => bits 0 40
  | .maintCtl _ => bits 0 3 + bits 6 5
  | .poolCfg _ => bits 0 13
  | .t1Own _ _ => bits 0 64
  | .poolRng _ _ w => if w = 0 then bits 16 36 else bits 0 24
  | .grtCtl _ => bits 0 1
  | .guardCtl _ => bits 0 1
  | .errCnt _ => bits 0 32
  | .rwin _ _ => bits 0 64
  | .rotAddr _ => bits 16 36
  | .rotCtl _ => bits 0 14 + bits 32 23
  | .ecc _ => bits 0 48
  | .memShare _ _ => bits 0 9
  | .ctxClass _ => bits 0 64
  | .coef _ _ => bits 0 64
  | .membCmd => bits 0 6 + bits 8 2
  | .fwdClass => bits 0 4
  | .linkCtl _ => bits 0 1 + bits 2 2
  | .route _ => bits 0 18
  | .fluShare _ => bits 0 9
  | .fluWin _ w => match w with | 0 => bits 0 6 + bits 16 12 + bits 32 28 | 1 => bits 0 36 | 2 => bits 0 64 | _ => 0
  | .tally _ w => match w with | 2 => bits 0 13 | 3 => 0 | _ => bits 0 64
  | .portCfg _ => bits 0 7
  | .genAddr _ => bits 3 61
  | .hdmBase => bits 16 36
  | .hdmCtl => bits 0 1 + bits 16 12 + bits 32 24
  | .hlkShare _ _ => bits 0 9
  | .hlkWin _ _ w => if w = 0 then bits 0 4 + bits 16 12 + bits 32 16 else bits 0 36
  | .dmpCap => bits 0 12 + bits 16 8
  | .dmpProt k => if k = 0 then bits 0 64 else bits 0 32
  | .dmpDroop => bits 0 10
  | .dmpCorr => bits 0 8
  | .heartbeat => bits 0 16
  | .arbCmd => bits 0 6 + bits 16 16
  | .keyCmd => bits 0 15
  | _ => 0

/-- The word that a write acts as: an 8-byte write its own value; a 4-byte write with the other half's RW values. -/
def writeWord (s : State) (r : Reg) (high wide : Bool) (v : Nat) : Nat :=
  let old := regWord s r &&& rwMask r
  if wide then v
  else if high then old % 2 ^ 32 + v % 2 ^ 32 * 2 ^ 32
  else v % 2 ^ 32 + old / 2 ^ 32 * 2 ^ 32

/-! ### Blocks -/

/-- A write ignored and logged, with the number of its rule. -/
def ignored (s : State) (src : LogSrc) (rule data : Nat) : State := s.logTag src 0 rule data

/-- CHM_RESET_CTL: a write that names something is a request (R506); ERR is W1C. Thirun has no cluster of its own. -/
def writeResetCtl (s : State) (who : DevAgent) (v : Nat) : State :=
  let s := if bitAt v 32 then { s with kindle := { s.kindle with resetErr := false } } else s
  let h := match who with | .core h _ => h.val | _ => 96
  if field v 0 17 = 0 then s
  else resetRequest s h (BitVec.ofNat 12 (field v 0 12)) (BitVec.ofNat 4 (field v 12 4)) (bitAt v 16) (BitVec.ofNat 8 (field v 24 8))

/-- CHM_RING_CMD (R336). -/
def writeRingCmd (s : State) (v : Nat) : State :=
  let rn := field v 0 16
  let s := noteCmd s rn (field v 16 3)
  let s := if bitAt v 21 then { s with ringCmd := { s.ringCmd with err := false } } else s
  if bitAt v 19 then
    match field v 16 3 with
    | 1 => ringEnableOp s rn | 2 => ringPauseOp s rn | 3 => ringResumeOp s rn | 4 => ringDisableOp s rn | _ => ringCmdErr s
  else s

/-- CHM_XLAT_INV_CTL (R319, R581). -/
def writeInvCtl (s : State) (v : Nat) : State :=
  let x := s.xlat.inv
  let y := { x with scope := BitVec.ofNat 2 (field v 0 2), ctx := BitVec.ofNat 12 (field v 8 12), npg := BitVec.ofNat 32 (field v 32 32) }
  let s := if x.busy ∧ x ≠ y then ignored s .chm 581 v else s
  let z := { (if x.busy then x else y) with err := x.err && !(bitAt v 4) }
  let s := { s with xlat := { s.xlat with inv := z } }
  if bitAt v 2 then invStart s z else s

def writeXlatReply (s : State) (v : Nat) : State :=
  match field v 16 2 with
  | 1 => after s (execXlatReplyReplay (BitVec.ofNat 16 v) s)
  | 2 => after s (execXlatReplyRefuse (BitVec.ofNat 16 v) s)
  | _ => ignored s .chm 316 v

/-- DIETEST_CTL (Table 13.5). -/
def writeDietest (s : State) (die v : Nat) : State :=
  let x := s.test die
  let y := { x with all := bitAt v 4, log2ui := BitVec.ofNat 5 (field v 8 5) }
  let s := if x.busy ∧ x ≠ y then ignored s (fabricSrc die) 581 v else s
  let s := s.setTest die { (if x.busy then x else y) with err := x.err && !(bitAt v 3) }
  let s := testEn s die (bitAt v 0)
  if bitAt v 1 then testGo s die else s

/-- Word 0 of a bundle entry. -/
def writeBundle (s : State) (die b w v : Nat) : State :=
  if w = 0 then
    let s := if (s.bundle die b).off = bitAt v 9 then s else offBundle s die b (bitAt v 9)
    if bitAt v 8 then retrainBundle s die b else s
  else s

/-- A context's ROOT changes: new walks start there, so no pointer of the old tables stays in a pointer cache, and the walks under way
leave none behind (R302). -/
def newRoot (s : State) (c : Nat) : State :=
  { s with xlat := { s.xlat with
      ptr := s.xlat.ptr.foldl (fun acc e => Tab.put [] acc e.1 (e.2.filter (fun p => decide (p.ctx ≠ c)))) s.xlat.ptr
      walks := s.xlat.walks.map (fun w => if w.ctx = c then { w with keeps := false, seen := [] } else w) } }

/-- A context-table entry: the commit word is word 0; while V is 1 it takes a clear of V or a change of ROOT alone (R580). -/
def writeCtx (s : State) (c w v : Nat) : State :=
  let e := s.ctxE c
  let put := fun (x : CtxEnt) => { s with ctxs := Tab.put {} s.ctxs c x }
  let root := BitVec.ofNat 36 (field v 16 36)
  if w = 0 then
    if e.v && !(bitAt v 0) && decide (root ≠ e.root) then ignored s .chm 580 c
    else
      let s := if root = e.root then s else newRoot s c
      { s with ctxs := Tab.put {} s.ctxs c { e with v := bitAt v 0, root := root } }
  else if e.v then ignored s .chm 580 c
  else put { e with fring := BitVec.ofNat 16 v }

/-- HTH_MAINT_CTL (R296, R581). -/
def writeMaint (s : State) (d v : Nat) : State :=
  let x := s.maint d
  let y := { x with op := BitVec.ofNat 3 (field v 0 3), ways := BitVec.ofNat 4 (field v 6 4), fill := bitAt v 10 }
  let s := if x.busy ∧ x ≠ y then ignored s .hth 581 v else s
  let s := s.setMaint d { (if x.busy then x else y) with err := x.err && !(bitAt v 5) }
  if bitAt v 3 then
    match field v 0 3 with
    | 1 => maintStart s d 1 | 2 => maintStart s d 2 | 3 => maintStart s d 3 | 4 => lockStart s d (field v 6 4) (bitAt v 10)
    | _ => maintErr s d
  else s

/-- HTH_POOL_CFG (R585). -/
def writePool (s : State) (d v : Nat) : State :=
  let p := s.pool d
  let ways := BitVec.ofNat 4 (field v 1 4)
  let rv := field v 5 8
  let s := s.setPool d { p with err := p.err && !(bitAt v 14) }
  if p.mode || p.busy then
    let s := if ways ≠ p.ways ∨ rv ≠ poolRv p then ignored s .hth 585 v else s
    if !(bitAt v 0) && !p.busy then s.setPool d { s.pool d with busy := true } else s
  else if bitAt v 0 then poolEnter s d ways (BitVec.ofNat 8 rv)
  else
    let q := s.pool d
    s.setPool d { q with ways := ways, ranges := Tab.put 0 q.ranges 16 (BitVec.ofNat 64 rv) }

def writePoolRng (s : State) (d i w v : Nat) : State :=
  let p := s.pool d
  if p.mode || p.busy then ignored s .hth 585 v
  else
    let x := if w = 0 then v &&& bits 16 36 else v &&& bits 0 24
    s.setPool d { p with ranges := Tab.put 0 p.ranges (2 * i + w) (BitVec.ofNat 64 x) }

/-- GRT_CTL (R586). -/
def writeGrtCtl (s : State) (g : GrateNo) (v : Nat) : State :=
  let s := s.modGr g (fun x => { x with stopreq := bitAt v 0, ctlErr := x.ctlErr && !(bitAt v 3) })
  let s := if bitAt v 1 then after s (execGrateResume g s) else s
  if bitAt v 2 then after s (execToidle g s) else s

/-- A change of GRT_GUARD_CTL.EN. -/
def writeGuard (s : State) (g : GrateNo) (v : Nat) : State :=
  if (s.gr g).guardMode = bitAt v 0 then s else after s (execGuardModeWrite g (bitAt v 0) s)

/-- A remote scratchpad window (Table 4.13, R580); closing it sets BUSY until its accesses are complete (R139). -/
def writeRwin (s : State) (i w v : Nat) : State :=
  let x : SpadWin := Tab.get {} s.spadWins i
  let put := fun (x : SpadWin) => { s with spadWins := Tab.put {} s.spadWins i x }
  let y := { x with wr := bitAt v 1, rd := bitAt v 2, grate := BitVec.ofNat 7 (field v 4 7), base := BitVec.ofNat 12 (field v 16 12),
                    len := BitVec.ofNat 12 (field v 28 12), ctx := BitVec.ofNat 12 (field v 40 12), tally := BitVec.ofNat 12 (field v 52 12) }
  if w = 0 then
    if !x.v then put { y with v := bitAt v 0 }
    else if !(bitAt v 0) && decide (x = y) then put { x with v := false, busy := true }
    else ignored s .grt 580 i
  else if x.v then ignored s .grt 580 i
  else put { x with src := BitVec.ofNat 64 v }

/-- MEM_ROT_CTL (R332, R581). -/
def writeRot (s : State) (d : DieNo) (v : Nat) : State :=
  let x : RotReg := Tab.get {} s.rot d.val
  let put := fun (s : State) (x : RotReg) => { s with rot := Tab.put {} s.rot d.val x }
  let owner := BitVec.ofNat 12 (field v 0 12)
  let nreg := BitVec.ofNat 23 (field v 32 23)
  let y := { x with owner := owner, v := bitAt v 12, rt := bitAt v 13, nreg := nreg }
  let s := if x.busy ∧ x ≠ y then ignored s .mem 581 v else s
  let s := put s { (if x.busy then x else y) with err := x.err && !(bitAt v 18) }
  if bitAt v 16 then after s (execRotChange d owner (bitAt v 12) (bitAt v 13) nreg s) else s

/-- The minimum shares of a resource added up (R153). -/
def shareSum (t : Tab (BitVec 16)) : Nat := (List.range 16).foldl (fun n k => n + (Tab.get (shareDefault k) t k).toNat) 0

/-- A SHARE above 256 is ignored and logged (R587); one that brings the sum above 256 is written and logged (R153). -/
def shareWrite (s : State) (src : LogSrc) (unit : Nat) (t : Tab (BitVec 16)) (k v : Nat) (put : Tab (BitVec 16) → State) : State :=
  if 256 < field v 0 9 then ignored s src 587 v
  else
    let t := Tab.put (shareDefault k) t k (BitVec.ofNat 16 (field v 0 9))
    if 256 < shareSum t then (put t).logTag src unit 153 (shareSum t) else put t

/-- FLU_MEMB_CMD (R429). -/
def writeMembCmd (s : State) (v : Nat) : State :=
  let pos : Position := ⟨field v 0 6, Nat.mod_lt _ (by decide)⟩
  let act := BitVec.ofNat 2 (field v 8 2)
  let s := setGroup s { s.group with cmdPos := BitVec.ofNat 6 pos.val, cmdAct := act, cmdErr := s.group.cmdErr && !(bitAt v 11) }
  if bitAt v 10 then
    if act = 1 then after s (execMembSetEmpty pos s)
    else if act = 2 then after s (execMembAdmit pos s)
    else cmdErr s pos act true
  else s

/-- FLU_LINK_CTL (Table 14.4): each field that changes acts, then RETRAIN. -/
def writeLinkCtl (s : State) (f v : Nat) : State :=
  let x := s.fl f
  let s := if x.loop = bitAt v 3 then s else linkLoop s f (bitAt v 3)
  let s := if x.en = bitAt v 0 then s else linkEn s f (bitAt v 0)
  let s := if x.holdctl = bitAt v 2 then s else linkHold s f (bitAt v 2)
  if bitAt v 1 then linkRetrain s f else s

/-- An inbound flue window (Table 14.11, R580). -/
def writeFluWin (s : State) (i w v : Nat) : State :=
  let x : FlueWin := Tab.get {} s.flue.inwin i
  let put := fun (x : FlueWin) => { s with flue := { s.flue with inwin := Tab.put {} s.flue.inwin i x } }
  let y := { x with rd := bitAt v 1, wr := bitAt v 2, at_ := bitAt v 3, mode := BitVec.ofNat 2 (field v 4 2), ctx := BitVec.ofNat 12 (field v 16 12),
                    len := BitVec.ofNat 16 (field v 32 16), tally := BitVec.ofNat 12 (field v 48 12) }
  match w with
  | 0 =>
    if !x.v then put { y with v := bitAt v 0 }
    else if !(bitAt v 0) && decide (x = y) then put { x with v := false, busy := true }
    else ignored s .flu 580 i
  | 1 => if x.v then ignored s .flu 580 i else put { x with pa := BitVec.ofNat 36 v }
  | 2 => if x.v then ignored s .flu 580 i else put { x with src := BitVec.ofNat 64 v }
  | _ => if x.v then ignored s .flu 580 i else s

/-- A host inbound window (Table 12.6, R580). -/
def writeHlkWin (s : State) (h i w v : Nat) : State :=
  let l := s.host h
  let x : HostWin := Tab.get {} l.inwin i
  let put := fun (x : HostWin) => s.setHost h { l with inwin := Tab.put {} l.inwin i x }
  let y := { x with rd := bitAt v 1, wr := bitAt v 2, at_ := bitAt v 3, ctx := BitVec.ofNat 12 (field v 16 12), len := BitVec.ofNat 16 (field v 32 16) }
  if w = 0 then
    if !x.v then put { y with v := bitAt v 0 }
    else if !(bitAt v 0) && decide (x = y) then put { x with v := false }
    else ignored s .hlk 580 i
  else if x.v then ignored s .hlk 580 i
  else put { x with pa := BitVec.ofNat 36 v }

/-- A tally counter (Table 8.5): BYTES and PKTS stay writable; the commit word is the third (R261, R580). -/
def writeTally (s : State) (t w v : Nat) : State :=
  let x := s.tally t
  let ctx := BitVec.ofNat 12 (field v 0 12)
  match w with
  | 0 => s.setTally t { x with bytes := BitVec.ofNat 64 v }
  | 1 => s.setTally t { x with pkts := BitVec.ofNat 64 v }
  | 2 =>
    if !x.v then s.setTally t { x with ctx := ctx, v := bitAt v 12 }
    else if !(bitAt v 12) && decide (ctx = x.ctx) then s.setTally t { x with v := false }
    else ignored s .flu 580 t
  | _ => if x.v then ignored s .flu 580 t else s

/-- HLK_PORT_CFG: BIF, CXL, MAXSPD and REQIDE stand while LINKEN is 1 (R368). -/
def writePort (s : State) (p v : Nat) : State :=
  let x := s.port p
  let y := portOf p v
  let put := fun (s : State) (z : PortCfg) => { s with ports := Tab.put {} s.ports p z }
  if x.linken then
    let z := { x with linken := y.linken }
    put (if y = z then s else ignored s .hlk 368 v) z
  else put s y

/-- THN_ARB_CMD: runtime firmware's writes only (R521); ERR is W1C. -/
def writeArb (s : State) (who : DevAgent) (v : Nat) : State :=
  if !(isRuntime who) then ignored s .thn 521 (devSource who)
  else
    let t := s.trust
    let idx := BitVec.ofNat 6 (field v 0 6)
    let val := BitVec.ofNat 16 (field v 16 16)
    let s := setTrust s { t with arbErr := t.arbErr && !(bitAt v 34) }
    if bitAt v 32 then raiseStart s idx val
    else if t.arbBusy then (if idx = t.arbIdx ∧ val = t.arbVal then s else ignored s .thn 581 v)
    else setTrust s { s.trust with arbIdx := idx, arbVal := val }

/-- THN_KEY_CMD (R532). -/
def writeKey (s : State) (v : Nat) : State :=
  let t := s.trust
  let ctx := BitVec.ofNat 12 (field v 0 12)
  let op := BitVec.ofNat 3 (field v 12 3)
  let s := setTrust s { t with keyErr := t.keyErr && !(bitAt v 18) }
  if bitAt v 16 then keyStart s ctx op
  else if t.keyBusy then (if ctx = t.keyCtx ∧ op = t.keyOp then s else ignored s .thn 581 v)
  else setTrust s { s.trust with keyCtx := ctx, keyOp := op }

/-- Bits j of a word cleared in a mask of w bits. -/
def w1c {w : Nat} (old : BitVec w) (v : Nat) : BitVec w := old &&& ~~~(BitVec.ofNat w v)

def writeRootclk (s : State) (v : Nat) : State :=
  let p := s.power
  setPower s { p with clk := { p.clk with reflost := p.clk.reflost && !(bitAt v 6), slost := w1c p.clk.slost (field v 7 4) } }

/-- CONFIRM: only runtime firmware's (R496). -/
def writeKindle (s : State) (who : DevAgent) (v : Nat) : State :=
  if isRuntime who then (if bitAt v 40 then confirmSel s else s) else ignored s .chm 496 (devSource who)

def writeT1Own (s : State) (d k v : Nat) : State :=
  { s with coh := { s.coh with nearOwn := Tab.put 0 s.coh.nearOwn (2 * d + k) (BitVec.ofNat 64 v) } }

def writeCtxClass (s : State) (i v : Nat) : State :=
  { s with ctxClass := (List.range 16).foldl (fun t j => Tab.put 0 t (16 * i + j) (BitVec.ofNat 4 (field v (4 * j) 4))) s.ctxClass }

/-- A word of a coefficient table. The reserved bits of entry 15, CTRL, are stored and read back: R226 gives a reserved bit that is set an
effect, which R12's reading of them as zero would leave none (log 131). -/
def writeCoef (s : State) (t w v : Nat) : State :=
  let k := 16 * t + 2 * w
  { s with coefs := Tab.put 0 (Tab.put 0 s.coefs k (BitVec.ofNat 32 (field v 0 32))) (k + 1) (BitVec.ofNat 32 (field v 32 32)) }

def writeEcc (s : State) (c v : Nat) : State :=
  s.setMctl c { s.mctl c with corr := BitVec.ofNat 32 (field v 0 32), uncorr := BitVec.ofNat 16 (field v 32 16) }

def writeMemShare (s : State) (c k v : Nat) : State :=
  shareWrite s .mem c (s.mctl c).share k v (fun t => s.setMctl c { s.mctl c with share := t })

def writeFluShare (s : State) (k v : Nat) : State :=
  shareWrite s .flu 0 s.flue.share k v (fun t => { s with flue := { s.flue with share := t } })

def writeHlkShare (s : State) (p k v : Nat) : State :=
  shareWrite s .hlk p (s.host (2 * p)).share k v (fun t => s.setHost (2 * p) { s.host (2 * p) with share := t })

def writeHdmCtl (s : State) (v : Nat) : State :=
  s.setHost 0 { s.host 0 with hdmV := bitAt v 0, hdmCtx := BitVec.ofNat 12 (field v 16 12), hdmNpg := BitVec.ofNat 24 (field v 32 24) }

def writeProt (s : State) (k v : Nat) : State :=
  if k = 0 then setPower s { s.power with prot0 := BitVec.ofNat 64 v } else setPower s { s.power with prot1 := BitVec.ofNat 32 v }

/-- A grate's number as the commands have it. -/
def withGrate (s : State) (g : Nat) (f : GrateNo → State) : State := if h : g < 96 then f ⟨g, h⟩ else s

/-- The write of a register, by an agent that has the right to it, of the word v. -/
def regWrite (s : State) (who : DevAgent) (r : Reg) (v : Nat) : State :=
  match r with
  | .rootclk => writeRootclk s v
  | .kindle => writeKindle s who v
  | .resetCtl => writeResetCtl s who v
  | .ringCmd => writeRingCmd s v
  | .invVa => { s with xlat := { s.xlat with inv := { s.xlat.inv with page := BitVec.ofNat 39 (field v 16 39) } } }
  | .invCtl => writeInvCtl s v
  | .xlatReply => writeXlatReply s v
  | .dietest die => writeDietest s die v
  | .bundle die b w => writeBundle s die b w v
  | .ctxEntry c w => writeCtx s c w v
  | .ringCfg rn w => writeRingWord s rn w v
  | .maintBase d => s.setMaint d { s.maint d with base := BitVec.ofNat 45 (field v 7 45) }
  | .maintLen d => s.setMaint d { s.maint d with len := BitVec.ofNat 40 (field v 0 40) }
  | .maintCtl d => writeMaint s d v
  | .ashClr d => ashClear s d (BitVec.ofNat 64 v)
  | .poolCfg d => writePool s d v
  | .t1Own d k => writeT1Own s d k v
  | .poolRng d i w => writePoolRng s d i w v
  | .ashOvf d i => ashOvfW1c s d i (BitVec.ofNat 64 v)
  | .grtCtl g => withGrate s g (fun g => writeGrtCtl s g v)
  | .guardCtl g => withGrate s g (fun g => writeGuard s g v)
  | .errCnt g => s.modGr g (fun x => { x with errCount := field v 0 32 })
  | .rwin i w => writeRwin s i w v
  | .rotAddr d => { s with rot := Tab.put {} s.rot d { (Tab.get {} s.rot d : RotReg) with page := BitVec.ofNat 36 (field v 16 36) } }
  | .rotCtl d => if h : d < 4 then writeRot s ⟨d, h⟩ v else s
  | .ecc c => writeEcc s c v
  | .memShare c k => writeMemShare s c k v
  | .ctxClass i => writeCtxClass s i v
  | .coef t w => writeCoef s t w v
  | .membCmd => writeMembCmd s v
  | .fwdClass => { s with flue := { s.flue with fwdClass := BitVec.ofNat 4 (field v 0 4) } }
  | .linkCtl f => writeLinkCtl s f v
  | .route p => { s with flue := { s.flue with route := Tab.put 0 s.flue.route p (BitVec.ofNat 18 (field v 0 18)) } }
  | .fluShare k => writeFluShare s k v
  | .fluWin i w => writeFluWin s i w v
  | .tally t w => writeTally s t w v
  | .portCfg p => writePort s p v
  | .hostCtl h => if bitAt v 0 then forceLost s h else s
  | .genAddr h => s.setHost h { s.host h with genAddr := BitVec.ofNat 61 (field v 3 61) }
  | .hdmBase => s.setHost 0 { s.host 0 with hdmBase := BitVec.ofNat 36 (field v 16 36) }
  | .hdmCtl => writeHdmCtl s v
  | .hlkShare p k => writeHlkShare s p k v
  | .hlkWin h i w => writeHlkWin s h i w v
  | .dmpCap => writeCap s v
  | .dmpStatus => setPower s { s.power with capx := s.power.capx && !(bitAt v 22) }
  | .dmpProt k => writeProt s k v
  | .dmpDroop => writeDroop s v
  | .dmpCorr => writeCorr s (field v 0 8)
  | .heartbeat => heartbeatBy s who v
  | .arbCmd => writeArb s who v
  | .keyCmd => writeKey s v
  | _ => s

/-! ### One access -/

/-- The value that a read delivers to its agent. -/
def deliverReg (s : State) (who : DevAgent) (off n : Nat) (signed : Bool) (word : Nat) : State :=
  let v := if n = 8 then word else field word (8 * (off % 8)) 32
  match who with
  | .core h _ =>
    let x := extend signed (toBytes n v)
    (s.setHt h { s.ht h with loaded := x }).emit (.coreData h x)
  | _ => s.emit (.mgmt 0x50 [off, v])

/-- An access to the register range at an offset, n bytes wide (R31, R33, R577 to R579, R583). -/
def regAccess (s : State) (who : DevAgent) (va : W64) (off n : Nat) (write signed : Bool) (v : Nat) : State :=
  let fail := fun (code : Nat) => devFail s who va (regBase + off) write code
  if (n ≠ 4 ∧ n ≠ 8) ∨ off % n ≠ 0 then fail 3
  else match regAt (off / 8 * 8) with
  | none => fail 1
  | some r =>
    if (match regDie r with | some d => !(readyHth s d) | none => false) then fail 1
    else if !(regRight who r write) then fail 2
    else if write then regWrite s who r (writeWord s r (decide (off % 8 = 4)) (decide (n = 8)) v)
    else deliverReg s who off n signed (regWord s r)

/-- The agent as the doorbells know it. -/
def bellAgent : DevAgent → Option BellAgent | .core h _ => some (.core h) | .tile p => some (.tile p) | _ => none

/-- An access to the doorbell range: only 8-byte aligned writes (R31, R32). -/
def bellAccess (s : State) (who : DevAgent) (va : W64) (off n : Nat) (write : Bool) (v : W64) : State :=
  match bellAgent who with
  | some b =>
    if write && decide (n = 8) && decide (off % 8 = 0) then
      let s := bellWrite s b (off / 8) v
      match who with
      | .tile p => s.modGr p.g (fun x => { x with pc := nextPc p })
      | _ => s
    else devFail s who va (bellBase + off) write 3
  | none => devFail s who va (bellBase + off) write 2

/-- DEVICE_SPACE_ACCESS. -/
def execDeviceSpaceAccess (who : DevAgent) (va : W64) (pa : BitVec 52) (lg : BitVec 2) (write signed : Bool) (value : W64) (s : State) : Res :=
  let n := 2 ^ lg.toNat
  match placeOf pa.toNat with
  | .regs off => devCommand who s (regAccess s who va off n write signed value.toNat)
  | .bell off => devCommand who s (bellAccess s who va off n write value)
  | _ => .fault .illFormed

/-- REGISTER_WRITE: the agent's virtual address does not come with the command and is a free value where the write is refused. -/
def execRegisterWrite (who : DevAgent) (off : BitVec 28) (wide : Bool) (value : W64) (s : State) : Res :=
  let (va, t) := takeFree 64 s
  let n := if wide then 8 else 4
  let ok := decide (off.toNat % n = 0) && (match regAt (off.toNat / 8 * 8) with
    | some r => regRight who r true && (match regDie r with | some d => readyHth s d | none => true)
    | none => false)
  let s := if ok then s else t
  devCommand who s (regAccess s who va off.toNat n true false value.toNat)

end Sys2Proof.Machine
end

