-- ==== Sys2Proof/Machine/Slots.lean ====
section
/-! DEFINITION. SLOT.SET to SLOT.RETIRE (R118 to R120, R122, R131 to R133). -/

namespace Sys2Proof.Machine

/-- Whether two valid slots overlap. -/
def slotsOverlap (a b : SlotEnt) : Bool :=
  a.v && b.v && decide (a.base.toNat < b.base.toNat + b.len.toNat + 1) && decide (b.base.toNat < a.base.toNat + a.len.toNat + 1)

/-- Whether an entry may be set: rows within the scratchpad (R119), and in slot-guard mode no guarded slot that overlaps
another valid slot (R120). -/
def slotSettable (x : Grate) (i : Nat) (e : SlotEnt) : Bool :=
  decide (e.base.toNat + e.len.toNat ≤ 3071) &&
    (!x.guardMode || x.slots.all (fun o => decide (o.1 = i) || !(slotsOverlap e o.2) || (!e.guard && !o.2.guard)))

/-- SLOT.SET. -/
def execSlotSet (p : Site) (rs1 rs2 : W64) (s : State) : Res :=
  let x := s.gr p.g
  let i := field rs1.toNat 0 8
  let e := slotOfWord rs2.toNat
  if !(canIssue x) then .refused .agentNotReady
  else if slotSettable x i e then .next (s.setGr p.g { setSlot x i e with pc := nextPc p })
  else .next (haltAt s p 1)

/-- SLOT.GET: it reads the table, not the slot, so an entry with V clear may be read (log 18). -/
def execSlotGet (p : Site) (rd : Fin 32) (rs1 : W64) (s : State) : Res :=
  let x := s.gr p.g
  let v := BitVec.ofNat 64 (slotWord (slotAt x (field rs1.toNat 0 8)))
  if !(canIssue x) then .refused .agentNotReady
  else .next (s.setGr p.g { setX x rd v with pc := nextPc p })

/-- SLOT.CLEAR: every row of the slot becomes zero before anything later issues. It carries no role: it acts as a
produce-part write (log 18). -/
def execSlotClear (p : Site) (rs1 : W64) (s : State) : Res :=
  let x := s.gr p.g
  let i := field rs1.toNat 0 8
  let e := slotAt x i
  if !(canIssue x) then .refused .agentNotReady
  else if !e.v then .next (haltAt s p 1)
  else if roleCheck x i 1 true = .breach then .next (haltAt s p 5 (breachFields s p.g i))
  else
    let s := notePast s p.g (e.base.toNat * 2048) (slotBytes e)
    let s := (s.zeroBytes (spadKey p.g (e.base.toNat * 2048)) (slotBytes e)).modGr p.g (fun x => { x with pc := nextPc p })
    .next (bankConflicts s p.g 4)

/-- SLOT.PUBLISH: a guarded slot becomes FULL; without slot-guard mode it has no effect (R131, R132). -/
def execSlotPublish (p : Site) (rs1 : W64) (s : State) : Res :=
  let x := s.gr p.g
  let i := field rs1.toNat 0 8
  let e := slotAt x i
  if !(canIssue x) then .refused .agentNotReady
  else if !e.v then .next (haltAt s p 1)
  else if !x.guardMode || !e.guard then .next (s.setGr p.g { x with pc := nextPc p })
  else if e.full then .next (haltAt s p 5 (breachFields s p.g i))
  else .next (s.setGr p.g { setSlot x i (slotFilled e) with pc := nextPc p })

/-- SLOT.RETIRE: one final consumption of a guarded slot (R132). -/
def execSlotRetire (p : Site) (rs1 : W64) (s : State) : Res :=
  let x := s.gr p.g
  let i := field rs1.toNat 0 8
  let e := slotAt x i
  if !(canIssue x) then .refused .agentNotReady
  else if !e.v then .next (haltAt s p 1)
  else if !x.guardMode || !e.guard then .next (s.setGr p.g { x with pc := nextPc p })
  else if !e.full then .next (haltAt s p 5 (breachFields s p.g i))
  else .next (s.setGr p.g { setSlot x i (slotConsumed e) with pc := nextPc p })

end Sys2Proof.Machine
end

