-- ==== Sys2Proof/Machine/Dispatch.lean ====
section
/-! DEFINITION. The arms of the machine: one call of one meaning for each command. -/

namespace Sys2Proof.Machine

def exec (i : Instr) (s : State) : Host.Outcome State Fault Refusal :=
  match i with
  | .matrixMac p rs1 rs2 => Sys2Proof.Machine.execMatrixMac p rs1 rs2 s
  | .matrixDrainComplete g find => Sys2Proof.Machine.execMatrixDrainComplete g find s
  | .weightLoad p rs1 rs2 => Sys2Proof.Machine.execWeightLoad p rs1 rs2 s
  | .weightLoadComplete g find => Sys2Proof.Machine.execWeightLoadComplete g find s
  | .vecLoad p rd rs1 role find => Sys2Proof.Machine.execVecLoad p rd rs1 role find s
  | .vecStore p rs2 rs1 role find => Sys2Proof.Machine.execVecStore p rs2 rs1 role find s
  | .vecOp p insn find => Sys2Proof.Machine.execVecOp p insn find s
  | .slotSet p rs1 rs2 => Sys2Proof.Machine.execSlotSet p rs1 rs2 s
  | .slotGet p rd rs1 => Sys2Proof.Machine.execSlotGet p rd rs1 s
  | .slotClear p rs1 => Sys2Proof.Machine.execSlotClear p rs1 s
  | .slotPublish p rs1 => Sys2Proof.Machine.execSlotPublish p rs1 s
  | .slotRetire p rs1 => Sys2Proof.Machine.execSlotRetire p rs1 s
  | .unitWait p rs1 => Sys2Proof.Machine.execUnitWait p rs1 s
  | .unitWaitMet g => Sys2Proof.Machine.execUnitWaitMet g s
  | .eventSignal p rs1 rs2 => Sys2Proof.Machine.execEventSignal p rs1 rs2 s
  | .eventSignalEffect g => Sys2Proof.Machine.execEventSignalEffect g s
  | .eventWait p rs1 rs2 => Sys2Proof.Machine.execEventWait p rs1 rs2 s
  | .eventWaitMet g => Sys2Proof.Machine.execEventWaitMet g s
  | .tallyWait p rs1 rs2 => Sys2Proof.Machine.execTallyWait p rs1 rs2 s
  | .tallyWaitMet g => Sys2Proof.Machine.execTallyWaitMet g s
  | .waitTimeout g => Sys2Proof.Machine.execWaitTimeout g s
  | .eventRead p rd rs1 => Sys2Proof.Machine.execEventRead p rd rs1 s
  | .schedBoundary p => Sys2Proof.Machine.execSchedBoundary p s
  | .boundaryReached g => Sys2Proof.Machine.execBoundaryReached g s
  | .ecall p => Sys2Proof.Machine.execEcall p s
  | .ecallStop g => Sys2Proof.Machine.execEcallStop g s
  | .ebreak p => Sys2Proof.Machine.execEbreak p s
  | .tcLoad p va lg signed rd fetch find => Sys2Proof.Machine.execTcLoad p va lg signed rd fetch find s
  | .tcStore p va lg value => Sys2Proof.Machine.execTcStore p va lg value s
  | .tcAmo p va wide op value rd order find => Sys2Proof.Machine.execTcAmo p va wide op value rd order find s
  | .coreLoad h va pa lg signed => Sys2Proof.Machine.execCoreLoad h va pa lg signed s
  | .coreStore h va pa lg value => Sys2Proof.Machine.execCoreStore h va pa lg value s
  | .coreAmo h va pa wide op value aq rl => Sys2Proof.Machine.execCoreAmo h va pa wide op value aq rl s
  | .cboZero h va pa => Sys2Proof.Machine.execCboZero h va pa s
  | .fence who pred succ => Sys2Proof.Machine.execFence who pred succ s
  | .deviceSpaceAccess who va pa lg write signed value => Sys2Proof.Machine.execDeviceSpaceAccess who va pa lg write signed value s
  | .storePerformed who => Sys2Proof.Machine.execStorePerformed who s
  | .storeErrorResponse who => Sys2Proof.Machine.execStoreErrorResponse who s
  | .storeResponseTimeout who => Sys2Proof.Machine.execStoreResponseTimeout who s
  | .walkReadReturn x => Sys2Proof.Machine.execWalkReadReturn x s
  | .externalScratchpadAccess who ctx g off acc find => Sys2Proof.Machine.execExternalScratchpadAccess who ctx g off acc find s
  | .remoteWindowBusyClear w => Sys2Proof.Machine.execRemoteWindowBusyClear w s
  | .stopreq g set => Sys2Proof.Machine.execStopreq g set s
  | .grateResume g => Sys2Proof.Machine.execGrateResume g s
  | .toidle g => Sys2Proof.Machine.execToidle g s
  | .idleClearDone g => Sys2Proof.Machine.execIdleClearDone g s
  | .guardModeWrite g en => Sys2Proof.Machine.execGuardModeWrite g en s
  | .rds bit ctx line find => Sys2Proof.Machine.execRds bit ctx line find s
  | .rdx bit ctx line => Sys2Proof.Machine.execRdx bit ctx line s
  | .upg bit ctx line => Sys2Proof.Machine.execUpg bit ctx line s
  | .wbm bit line data => Sys2Proof.Machine.execWbm bit line data s
  | .eve bit line => Sys2Proof.Machine.execEve bit line s
  | .readonce who ctx line find => Sys2Proof.Machine.execReadonce who ctx line find s
  | .writefull who ctx line data => Sys2Proof.Machine.execWritefull who ctx line data s
  | .writepart who ctx line mask data => Sys2Proof.Machine.execWritepart who ctx line mask data s
  | .cohAtomic who ctx line off op wide opnd cmp => Sys2Proof.Machine.execCohAtomic who ctx line off op wide opnd cmp s
  | .snps bit line => Sys2Proof.Machine.execSnps bit line s
  | .snpx bit line => Sys2Proof.Machine.execSnpx bit line s
  | .snpxi bit line => Sys2Proof.Machine.execSnpxi bit line s
  | .snpinv bit line => Sys2Proof.Machine.execSnpinv bit line s
  | .cohData bit line grant => Sys2Proof.Machine.execCohData bit line grant s
  | .acku bit line => Sys2Proof.Machine.execAcku bit line s
  | .snoopResponse bit line rsp => Sys2Proof.Machine.execSnoopResponse bit line rsp s
  | .retry who line => Sys2Proof.Machine.execRetry who line s
  | .grant who line => Sys2Proof.Machine.execGrant who line s
  | .cmp bit line => Sys2Proof.Machine.execCmp bit line s
  | .done who line => Sys2Proof.Machine.execDone who line s
  | .evictionWriteback d => Sys2Proof.Machine.execEvictionWriteback d s
  | .snoopTimeout bit line => Sys2Proof.Machine.execSnoopTimeout bit line s
  | .reclaimWalkDone bit => Sys2Proof.Machine.execReclaimWalkDone bit s
  | .clean d => Sys2Proof.Machine.execClean d s
  | .flush d => Sys2Proof.Machine.execFlush d s
  | .ashclr d => Sys2Proof.Machine.execAshclr d s
  | .lock d ways fill => Sys2Proof.Machine.execLock d ways fill s
  | .maintComplete d => Sys2Proof.Machine.execMaintComplete d s
  | .ashClr d value => Sys2Proof.Machine.execAshClr d value s
  | .ashOvfClear d n mask => Sys2Proof.Machine.execAshOvfClear d n mask s
  | .poolModeEnter d pways rv => Sys2Proof.Machine.execPoolModeEnter d pways rv s
  | .poolModeLeave d => Sys2Proof.Machine.execPoolModeLeave d s
  | .poolLeaveDone d => Sys2Proof.Machine.execPoolLeaveDone d s
  | .poolAgeSweep => Sys2Proof.Machine.execPoolAgeSweep s
  | .xlatReplyReplay token => Sys2Proof.Machine.execXlatReplyReplay token s
  | .xlatReplyRefuse token => Sys2Proof.Machine.execXlatReplyRefuse token s
  | .xlatInvRange ctx npg => Sys2Proof.Machine.execXlatInvRange ctx npg s
  | .xlatInvContext ctx => Sys2Proof.Machine.execXlatInvContext ctx s
  | .xlatInvAll => Sys2Proof.Machine.execXlatInvAll s
  | .xlatInvDone => Sys2Proof.Machine.execXlatInvDone s
  | .rotChange d owner v rt nreg => Sys2Proof.Machine.execRotChange d owner v rt nreg s
  | .rotChangeDone d => Sys2Proof.Machine.execRotChangeDone d s
  | .ringCfgWrite r word value => Sys2Proof.Machine.execRingCfgWrite r word value s
  | .ringEnable r => Sys2Proof.Machine.execRingEnable r s
  | .ringPause r => Sys2Proof.Machine.execRingPause r s
  | .ringResume r => Sys2Proof.Machine.execRingResume r s
  | .ringDisable r => Sys2Proof.Machine.execRingDisable r s
  | .doorbell who r value => Sys2Proof.Machine.execDoorbell who r value s
  | .recordDoorbell who r value => Sys2Proof.Machine.execRecordDoorbell who r value s
  | .descriptorFetchReturn r host => Sys2Proof.Machine.execDescriptorFetchReturn r host s
  | .descriptorRefetch r => Sys2Proof.Machine.execDescriptorRefetch r s
  | .descriptorWaitMet r => Sys2Proof.Machine.execDescriptorWaitMet r s
  | .nop r => Sys2Proof.Machine.execNop r s
  | .copy r => Sys2Proof.Machine.execCopy r s
  | .inlineOp r => Sys2Proof.Machine.execInlineOp r s
  | .reduce r => Sys2Proof.Machine.execReduce r s
  | .tilemove r => Sys2Proof.Machine.execTilemove r s
  | .atomic r => Sys2Proof.Machine.execAtomic r s
  | .launch r => Sys2Proof.Machine.execLaunch r s
  | .fuller r => Sys2Proof.Machine.execFuller r s
  | .engineCompletion r idx => Sys2Proof.Machine.execEngineCompletion r idx s
  | .hostFlushReadReturn h r idx => Sys2Proof.Machine.execHostFlushReadReturn h r idx s
  | .streamWrite r => Sys2Proof.Machine.execStreamWrite r s
  | .streamRead r => Sys2Proof.Machine.execStreamRead r s
  | .streamAppend r => Sys2Proof.Machine.execStreamAppend r s
  | .streamCommit r => Sys2Proof.Machine.execStreamCommit r s
  | .streamDeadline r => Sys2Proof.Machine.execStreamDeadline r s
  | .streamPause r => Sys2Proof.Machine.execStreamPause r s
  | .streamResume r => Sys2Proof.Machine.execStreamResume r s
  | .streamClose r => Sys2Proof.Machine.execStreamClose r s
  | .streamExtend r => Sys2Proof.Machine.execStreamExtend r s
  | .deadlineMiss n => Sys2Proof.Machine.execDeadlineMiss n s
  | .tideSwitch g ctx => Sys2Proof.Machine.execTideSwitch g ctx s
  | .flueWrite p enables data => Sys2Proof.Machine.execFlueWrite p enables data s
  | .flueMerge p norm data => Sys2Proof.Machine.execFlueMerge p norm data s
  | .flueAtomic p op wide opnd cmp => Sys2Proof.Machine.execFlueAtomic p op wide opnd cmp s
  | .flueRead p len => Sys2Proof.Machine.execFlueRead p len s
  | .flueAck id => Sys2Proof.Machine.execFlueAck id s
  | .flueData id data => Sys2Proof.Machine.execFlueData id data s
  | .flueErr id why => Sys2Proof.Machine.execFlueErr id why s
  | .flueForward f src dest hop addr len id => Sys2Proof.Machine.execFlueForward f src dest hop addr len id s
  | .flueReadTimeout id => Sys2Proof.Machine.execFlueReadTimeout id s
  | .flueFlitReceive f flit crcOk tagOk second => Sys2Proof.Machine.execFlueFlitReceive f flit crcOk tagOk second s
  | .flueReplayFail f => Sys2Proof.Machine.execFlueReplayFail f s
  | .flueErrrate f => Sys2Proof.Machine.execFlueErrrate f s
  | .flueLos f => Sys2Proof.Machine.execFlueLos f s
  | .flueLockLost f => Sys2Proof.Machine.execFlueLockLost f s
  | .flueRemoteDown f => Sys2Proof.Machine.execFlueRemoteDown f s
  | .flueRetrainTimer f => Sys2Proof.Machine.execFlueRetrainTimer f s
  | .flueTrainingDone f lanes => Sys2Proof.Machine.execFlueTrainingDone f lanes s
  | .flueTrainingTimeout f => Sys2Proof.Machine.execFlueTrainingTimeout f s
  | .flueAttestDone f a => Sys2Proof.Machine.execFlueAttestDone f a s
  | .probationEnd f => Sys2Proof.Machine.execProbationEnd f s
  | .flueLinkUp f farMember farMatches farHold => Sys2Proof.Machine.execFlueLinkUp f farMember farMatches farHold s
  | .flueKeyUpdate f => Sys2Proof.Machine.execFlueKeyUpdate f s
  | .key f seq => Sys2Proof.Machine.execKey f seq s
  | .fluLinkEn f en => Sys2Proof.Machine.execFluLinkEn f en s
  | .fluLinkRetrain f => Sys2Proof.Machine.execFluLinkRetrain f s
  | .fluLinkHoldctl f hold => Sys2Proof.Machine.execFluLinkHoldctl f hold s
  | .fluLinkLoop f loop => Sys2Proof.Machine.execFluLinkLoop f loop s
  | .helloSend => Sys2Proof.Machine.execHelloSend s
  | .hello f payload => Sys2Proof.Machine.execHello f payload s
  | .peerWatchdogExpiry idh => Sys2Proof.Machine.execPeerWatchdogExpiry idh s
  | .syncSend => Sys2Proof.Machine.execSyncSend s
  | .sync f count => Sys2Proof.Machine.execSync f count s
  | .formOffer m => Sys2Proof.Machine.execFormOffer m s
  | .offerWindowEnd => Sys2Proof.Machine.execOfferWindowEnd s
  | .table epoch mpos start entries auth => Sys2Proof.Machine.execTable epoch mpos start entries auth s
  | .ack epoch pos auth => Sys2Proof.Machine.execAck epoch pos auth s
  | .ackWindowEnd => Sys2Proof.Machine.execAckWindowEnd s
  | .joinReq m => Sys2Proof.Machine.execJoinReq m s
  | .group src epoch pos st idh auth => Sys2Proof.Machine.execGroup src epoch pos st idh auth s
  | .dead pos reporter auth => Sys2Proof.Machine.execDead pos reporter auth s
  | .membSetEmpty pos => Sys2Proof.Machine.execMembSetEmpty pos s
  | .membAdmit pos => Sys2Proof.Machine.execMembAdmit pos s
  | .timebaseTick upset => Sys2Proof.Machine.execTimebaseTick upset s
  | .bundleBringUp x => Sys2Proof.Machine.execBundleBringUp x s
  | .keptMapBringUp x => Sys2Proof.Machine.execKeptMapBringUp x s
  | .bringUpDone x goodRx goodTx => Sys2Proof.Machine.execBringUpDone x goodRx goodTx s
  | .sidebandTimeout x => Sys2Proof.Machine.execSidebandTimeout x s
  | .bundleCrcError x => Sys2Proof.Machine.execBundleCrcError x s
  | .bundleReplayThreshold x => Sys2Proof.Machine.execBundleReplayThreshold x s
  | .bundleRetrain x => Sys2Proof.Machine.execBundleRetrain x s
  | .bundleOff x off => Sys2Proof.Machine.execBundleOff x off s
  | .routeDrainMarker src dst => Sys2Proof.Machine.execRouteDrainMarker src dst s
  | .dietestEn die who en => Sys2Proof.Machine.execDietestEn die who en s
  | .dietestGo die who => Sys2Proof.Machine.execDietestGo die who s
  | .dietestDone die good => Sys2Proof.Machine.execDietestDone die good s
  | .hostLinkUp h speed width flit cxl => Sys2Proof.Machine.execHostLinkUp h speed width flit cxl s
  | .hostLinkDown h => Sys2Proof.Machine.execHostLinkDown h s
  | .genWordReadDone h value => Sys2Proof.Machine.execGenWordReadDone h value s
  | .hostRequestTimeout id => Sys2Proof.Machine.execHostRequestTimeout id s
  | .hostSnoopTimeout line => Sys2Proof.Machine.execHostSnoopTimeout line s
  | .hostLinkForce h => Sys2Proof.Machine.execHostLinkForce h s
  | .ideInsecure stream => Sys2Proof.Machine.execIdeInsecure stream s
  | .hostInboundWrite h off data inIde => Sys2Proof.Machine.execHostInboundWrite h off data inIde s
  | .hostInboundRead h off len inIde => Sys2Proof.Machine.execHostInboundRead h off len inIde s
  | .hostAtomicop h off op lg opnd cmp inIde => Sys2Proof.Machine.execHostAtomicop h off op lg opnd cmp inIde s
  | .hostBar0Read h off => Sys2Proof.Machine.execHostBar0Read h off s
  | .cxlMemrd off mv => Sys2Proof.Machine.execCxlMemrd off mv s
  | .cxlMemwr off data => Sys2Proof.Machine.execCxlMemwr off data s
  | .cxlBirsp line keepS => Sys2Proof.Machine.execCxlBirsp line keepS s
  | .perstAssert h => Sys2Proof.Machine.execPerstAssert h s
  | .damperWindow w => Sys2Proof.Machine.execDamperWindow w s
  | .slewGovernorStep u demand slack => Sys2Proof.Machine.execSlewGovernorStep u demand slack s
  | .correctionUpdate measured => Sys2Proof.Machine.execCorrectionUpdate measured s
  | .droopDetect g limited => Sys2Proof.Machine.execDroopDetect g limited s
  | .dipDetect x minimum => Sys2Proof.Machine.execDipDetect x minimum s
  | .dipRecover x => Sys2Proof.Machine.execDipRecover x s
  | .dipHoldEnd => Sys2Proof.Machine.execDipHoldEnd s
  | .supplyResetLevel x => Sys2Proof.Machine.execSupplyResetLevel x s
  | .thermalStep die hottest => Sys2Proof.Machine.execThermalStep die hottest s
  | .thermalTrip die => Sys2Proof.Machine.execThermalTrip die s
  | .rootPllLock => Sys2Proof.Machine.execRootPllLock s
  | .slavePllLockLost d => Sys2Proof.Machine.execSlavePllLockLost d s
  | .refclkLost => Sys2Proof.Machine.execRefclkLost s
  | .dmpCapCfgWrite value => Sys2Proof.Machine.execDmpCapCfgWrite value s
  | .dmpDroopCfgWrite value => Sys2Proof.Machine.execDmpDroopCfgWrite value s
  | .dmpCorrWrite value => Sys2Proof.Machine.execDmpCorrWrite value s
  | .feedApplied mv => Sys2Proof.Machine.execFeedApplied mv s
  | .softStartDone => Sys2Proof.Machine.execSoftStartDone s
  | .senseOpen => Sys2Proof.Machine.execSenseOpen s
  | .supplyLoss => Sys2Proof.Machine.execSupplyLoss s
  | .kindleK0 selfTestOk => Sys2Proof.Machine.execKindleK0 selfTestOk s
  | .kindleK1 chainOk => Sys2Proof.Machine.execKindleK1 chainOk s
  | .kindleK2 => Sys2Proof.Machine.execKindleK2 s
  | .kindleK3 d => Sys2Proof.Machine.execKindleK3 d s
  | .kindleK4 d trained => Sys2Proof.Machine.execKindleK4 d trained s
  | .kindleK5 image passed => Sys2Proof.Machine.execKindleK5 image passed s
  | .kindleK6 => Sys2Proof.Machine.execKindleK6 s
  | .kindleStageTimeout u => Sys2Proof.Machine.execKindleStageTimeout u s
  | .confirm => Sys2Proof.Machine.execConfirm s
  | .resetCluster who mask key => Sys2Proof.Machine.execResetCluster who mask key s
  | .resetHearth who mask key => Sys2Proof.Machine.execResetHearth who mask key s
  | .resetPackage who key => Sys2Proof.Machine.execResetPackage who key s
  | .moduleReset cause => Sys2Proof.Machine.execModuleReset cause s
  | .packageReset cause => Sys2Proof.Machine.execPackageReset cause s
  | .hearthDieReset d cause => Sys2Proof.Machine.execHearthDieReset d cause s
  | .clusterReset c cause => Sys2Proof.Machine.execClusterReset c cause s
  | .arbRaise idx val => Sys2Proof.Machine.execArbRaise idx val s
  | .arbRaiseDone readBack => Sys2Proof.Machine.execArbRaiseDone readBack s
  | .keyGenerate ctx => Sys2Proof.Machine.execKeyGenerate ctx s
  | .keyGenerateDone => Sys2Proof.Machine.execKeyGenerateDone s
  | .getMeasurements path nonce => Sys2Proof.Machine.execGetMeasurements path nonce s
  | .challenge path nonce => Sys2Proof.Machine.execChallenge path nonce s
  | .keyExchange path => Sys2Proof.Machine.execKeyExchange path s
  | .debugToken via body certOk sigOk => Sys2Proof.Machine.execDebugToken via body certOk sigOk s
  | .patrolScrub line find => Sys2Proof.Machine.execPatrolScrub line find s
  | .sensorSample n value => Sys2Proof.Machine.execSensorSample n value s
  | .leakDetected => Sys2Proof.Machine.execLeakDetected s
  | .orderlyPowerDown why => Sys2Proof.Machine.execOrderlyPowerDown why s
  | .logMirror => Sys2Proof.Machine.execLogMirror s
  | .heartbeatKick who => Sys2Proof.Machine.execHeartbeatKick who s
  | .heartbeatPeriod who ms => Sys2Proof.Machine.execHeartbeatPeriod who ms s
  | .heartbeatExpired => Sys2Proof.Machine.execHeartbeatExpired s
  | .logRead via seq count => Sys2Proof.Machine.execLogRead via seq count s
  | .configWrite via body crcOk => Sys2Proof.Machine.execConfigWrite via body crcOk s
  | .moduleResetMessage via => Sys2Proof.Machine.execModuleResetMessage via s
  | .powerDown via => Sys2Proof.Machine.execPowerDown via s
  | .getSensorReading n => Sys2Proof.Machine.execGetSensorReading n s
  | .pldmComponentWrite via im ver arb entries good => Sys2Proof.Machine.execPldmComponentWrite via im ver arb entries good s
  | .pldmVerify im => Sys2Proof.Machine.execPldmVerify im s
  | .pldmApply im => Sys2Proof.Machine.execPldmApply im s
  | .rstAssert => Sys2Proof.Machine.execRstAssert s
  | .rstRelease => Sys2Proof.Machine.execRstRelease s
  | .checkpoint pos c => Sys2Proof.Machine.execCheckpoint pos c s
  | .buddyCopyDone pos us steps => Sys2Proof.Machine.execBuddyCopyDone pos us steps s
  | .stagingDone pos steps => Sys2Proof.Machine.execStagingDone pos steps s
  | .recovery pos spare vers => Sys2Proof.Machine.execRecovery pos spare vers s
  | .restoreReplay r sameModules => Sys2Proof.Machine.execRestoreReplay r sameModules s
  | .registerWrite who off wide value => Sys2Proof.Machine.execRegisterWrite who off wide value s
  | .matrixLastStepRead g find => Sys2Proof.Machine.execMatrixLastStepRead g find s
  | .tileControllerCsrWrite p insn value => Sys2Proof.Machine.execTileControllerCsrWrite p insn value s
  | .deviceContextWrite h ctx => Sys2Proof.Machine.execDeviceContextWrite h ctx s
  | .perstRelease h => Sys2Proof.Machine.execPerstRelease h s
  | .refclkReturn => Sys2Proof.Machine.execRefclkReturn s
  | .hostCompletion id ok data => Sys2Proof.Machine.execHostCompletion id ok data s
  | .ideKm stream => Sys2Proof.Machine.execIdeKm stream s
  | .msiXTableWrite h w => Sys2Proof.Machine.execMsiXTableWrite h w s
  | .keyTableReinstallDone c => Sys2Proof.Machine.execKeyTableReinstallDone c s

end Sys2Proof.Machine
end

