-- ==== Sys2Proof/Safety.lean ====
section
/-! DEFINITION. Runs of the block and what counts as a safe one. -/

namespace Sys2Proof

open Sys2Proof.Machine

/-- A state that some number of steps reaches from another, commands being queued from outside between them. -/
inductive Reaches (s : State) : State → Prop where
  | here : Reaches s s
  | queue (t : State) (c : Instr) : Reaches s t → Reaches s { t with pending := t.pending ++ [c] }
  | step (t u : State) : Reaches s t → step t = .next u → Reaches s u

/-- A safe state: no step of it stops with a fault. -/
def Safe (s : State) : Prop := ∀ f, step s ≠ .fault f

/-- A property that every step keeps, from every state that has it. -/
def StepKeeps (p : State → Prop) : Prop := ∀ s t, p s → step s = .next t → p t

/-- A property that every command keeps when it is carried out. -/
def ExecKeeps (p : State → Prop) : Prop := ∀ (c : Instr) (s t : State), p s → exec c s = .next t → p t

/-- The fuses (Table 18.1): steppings, the permanent debug lock, the records of the anti-rollback counters. -/
abbrev fuseRow (t : TrustSt) : Byte × Tab Byte × Bool × Tab (BitVec 24) := (t.cstep, t.hsteps, t.permlock, t.arb)

/-- The parts of the state, one for each of its fields, in their order. -/
inductive Part where
  | pending | tick | elapsed | free | out | mem | badLines | memCtl | ctxClass | grates | harts | spadWins | resv | tallies
  | ctxs | xlat | owners | rot | rings | ringq | ringCmd | jobs | reqs | nextReq | waitRecs | streams | streamBad | coefs
  | fulStat | coh | ports | hosts | fabric | flue | group | power | kindle | trust | stoker | train | served
  deriving DecidableEq, Repr

/-- A part of the state is the same in two states. -/
def Part.same (p : Part) (r s : State) : Prop :=
  match p with
  | .pending => s.pending = r.pending
  | .tick => s.tick = r.tick
  | .elapsed => s.elapsed = r.elapsed
  | .free => s.free = r.free
  | .out => s.out = r.out
  | .mem => s.mem = r.mem
  | .badLines => s.badLines = r.badLines
  | .memCtl => s.memCtl = r.memCtl
  | .ctxClass => s.ctxClass = r.ctxClass
  | .grates => s.grates = r.grates
  | .harts => s.harts = r.harts
  | .spadWins => s.spadWins = r.spadWins
  | .resv => s.resv = r.resv
  | .tallies => s.tallies = r.tallies
  | .ctxs => s.ctxs = r.ctxs
  | .xlat => s.xlat = r.xlat
  | .owners => s.owners = r.owners
  | .rot => s.rot = r.rot
  | .rings => s.rings = r.rings
  | .ringq => s.ringq = r.ringq
  | .ringCmd => s.ringCmd = r.ringCmd
  | .jobs => s.jobs = r.jobs
  | .reqs => s.reqs = r.reqs
  | .nextReq => s.nextReq = r.nextReq
  | .waitRecs => s.waitRecs = r.waitRecs
  | .streams => s.streams = r.streams
  | .streamBad => s.streamBad = r.streamBad
  | .coefs => s.coefs = r.coefs
  | .fulStat => s.fulStat = r.fulStat
  | .coh => s.coh = r.coh
  | .ports => s.ports = r.ports
  | .hosts => s.hosts = r.hosts
  | .fabric => s.fabric = r.fabric
  | .flue => s.flue = r.flue
  | .group => s.group = r.group
  | .power => s.power = r.power
  | .kindle => s.kindle = r.kindle
  | .trust => s.trust = r.trust
  | .stoker => s.stoker = r.stoker
  | .train => s.train = r.train
  | .served => s.served = r.served

/-! ### What a command may write -/

/-- What the report of a fault or an event reaches: the records of the rings and where they are stored, and the logs. -/
def recordParts : List Part :=
  [.free, .out, .mem, .badLines, .memCtl, .grates, .resv, .rings, .ringq, .waitRecs, .coh, .hosts, .fabric, .stoker]

/-- What an access that goes on at a home reaches: the reports, the harts and the requests to other modules and hosts. -/
def agentParts : List Part := recordParts ++ [.harts, .reqs, .nextReq, .flue]

/-- What an engine or walk that goes on reaches as well. -/
def resumeParts : List Part := agentParts ++ [.xlat, .jobs, .fulStat]

/-- Every part of the state, in the order of its fields. -/
def allParts : List Part :=
  [.pending, .tick, .elapsed, .free, .out, .mem, .badLines, .memCtl, .ctxClass, .grates, .harts, .spadWins, .resv, .tallies, .ctxs, .xlat,
   .owners, .rot, .rings, .ringq, .ringCmd, .jobs, .reqs, .nextReq, .waitRecs, .streams, .streamBad, .coefs, .fulStat, .coh, .ports, .hosts,
   .fabric, .flue, .group, .power, .kindle, .trust, .stoker, .train, .served]

/-- Every part but those named. -/
def partsBut (l : List Part) : List Part := allParts.filter (fun p => !(l.contains p))

/-- The parts of the state that a command may write, on any path; it leaves every other part as it is. -/
def Instr.mayWrite : Instr → List Part
  | .matrixMac .. => recordParts
  | .matrixDrainComplete .. => recordParts ++ [.xlat]
  | .weightLoad .. => recordParts
  | .weightLoadComplete .. => recordParts ++ [.xlat]
  | .vecLoad .. => recordParts
  | .vecStore .. => recordParts
  | .vecOp .. => recordParts
  | .slotSet .. => recordParts
  | .slotGet .. => [.grates]
  | .slotClear .. => recordParts
  | .slotPublish .. => recordParts
  | .slotRetire .. => recordParts
  | .unitWait .. => [.grates]
  | .unitWaitMet .. => recordParts ++ [.xlat]
  | .eventSignal .. => [.grates]
  | .eventSignalEffect .. => recordParts ++ [.xlat]
  | .eventWait .. => [.grates]
  | .eventWaitMet .. => [.grates]
  | .tallyWait .. => [.grates]
  | .tallyWaitMet .. => [.grates]
  | .waitTimeout .. => recordParts
  | .eventRead .. => [.grates]
  | .schedBoundary .. => [.grates]
  | .boundaryReached .. => recordParts ++ [.xlat]
  | .ecall .. => [.grates]
  | .ecallStop .. => recordParts ++ [.xlat]
  | .ebreak .. => recordParts
  | .tcLoad .. => agentParts ++ [.xlat]
  | .tcStore .. => agentParts ++ [.xlat]
  | .tcAmo .. => agentParts ++ [.xlat]
  | .coreLoad .. => agentParts
  | .coreStore .. => [.out, .grates, .harts, .reqs, .nextReq, .flue]
  | .coreAmo .. => agentParts
  | .cboZero .. => agentParts
  | .fence .. => recordParts ++ [.harts]
  | .deviceSpaceAccess .. => partsBut [.pending, .elapsed]
  | .storePerformed .. => agentParts ++ [.xlat]
  | .storeErrorResponse .. => agentParts ++ [.xlat]
  | .storeResponseTimeout .. => agentParts ++ [.xlat]
  | .walkReadReturn .. => resumeParts
  | .externalScratchpadAccess .. => recordParts ++ [.harts]
  | .remoteWindowBusyClear .. => [.spadWins, .flue]
  | .stopreq .. => [.grates]
  | .grateResume .. => [.grates]
  | .toidle .. => recordParts
  | .idleClearDone .. => [.mem, .grates, .xlat, .reqs]
  | .guardModeWrite .. => [.grates, .stoker]
  | .rds .. => agentParts
  | .rdx .. => agentParts
  | .upg .. => agentParts
  | .wbm .. => agentParts
  | .eve .. => agentParts
  | .readonce .. => agentParts
  | .writefull .. => agentParts
  | .writepart .. => agentParts
  | .cohAtomic .. => agentParts
  | .snps .. => agentParts
  | .snpx .. => agentParts
  | .snpxi .. => agentParts
  | .snpinv .. => agentParts
  | .cohData .. => agentParts
  | .acku .. => agentParts
  | .snoopResponse .. => agentParts
  | .retry .. => [.coh, .fabric]
  | .grant .. => agentParts
  | .cmp .. => agentParts
  | .done .. => agentParts
  | .evictionWriteback .. => agentParts
  | .snoopTimeout .. => agentParts
  | .reclaimWalkDone .. => recordParts
  | .clean .. => [.coh]
  | .flush .. => [.coh]
  | .ashclr .. => [.coh]
  | .lock .. => [.mem, .coh]
  | .maintComplete .. => agentParts
  | .ashClr .. => [.coh, .stoker]
  | .ashOvfClear .. => [.coh]
  | .poolModeEnter .. => [.coh, .stoker]
  | .poolModeLeave .. => [.coh]
  | .poolLeaveDone .. => agentParts
  | .poolAgeSweep => [.coh]
  | .xlatReplyReplay .. => resumeParts
  | .xlatReplyRefuse .. => recordParts ++ [.xlat, .jobs, .reqs, .nextReq, .fulStat, .flue]
  | .xlatInvRange .. => [.xlat]
  | .xlatInvContext .. => [.xlat]
  | .xlatInvAll => [.xlat]
  | .xlatInvDone => resumeParts
  | .rotChange .. => [.owners, .rot, .coh, .fabric, .stoker]
  | .rotChangeDone .. => [.mem, .badLines, .memCtl, .resv, .owners, .rot, .coh, .fabric]
  | .ringCfgWrite .. => [.rings, .stoker]
  | .ringEnable .. => [.rings, .ringq, .ringCmd]
  | .ringPause .. => [.rings, .ringCmd]
  | .ringResume .. => recordParts ++ [.ringCmd]
  | .ringDisable .. => recordParts ++ [.ringCmd]
  | .doorbell .. => recordParts ++ [.harts]
  | .recordDoorbell .. => recordParts ++ [.harts]
  | .descriptorFetchReturn .. => recordParts
  | .descriptorRefetch .. => [.ringq]
  | .descriptorWaitMet .. => [.ringq]
  | .nop .. => recordParts
  | .copy .. => recordParts ++ [.xlat, .jobs, .reqs, .nextReq, .flue, .served]
  | .inlineOp .. => recordParts ++ [.xlat, .jobs, .reqs, .nextReq, .flue, .served]
  | .reduce .. => recordParts ++ [.xlat, .jobs, .reqs, .nextReq, .flue, .served]
  | .tilemove .. => recordParts ++ [.xlat, .jobs, .reqs, .nextReq, .flue]
  | .atomic .. => recordParts ++ [.xlat, .jobs, .reqs, .nextReq, .flue, .served]
  | .launch .. => recordParts ++ [.xlat, .reqs, .nextReq, .flue]
  | .fuller .. => recordParts ++ [.xlat, .jobs, .reqs, .nextReq, .fulStat, .flue, .served]
  | .engineCompletion .. => recordParts ++ [.xlat, .jobs, .reqs, .nextReq, .fulStat, .flue]
  | .hostFlushReadReturn .. => [.jobs, .reqs, .hosts]
  | .streamWrite .. => recordParts ++ [.streams]
  | .streamRead .. => recordParts ++ [.streams]
  | .streamAppend .. => recordParts ++ [.streams]
  | .streamCommit .. => recordParts ++ [.streams]
  | .streamDeadline .. => recordParts ++ [.streams]
  | .streamPause .. => recordParts ++ [.streams]
  | .streamResume .. => recordParts ++ [.streams]
  | .streamClose .. => recordParts ++ [.streams, .streamBad]
  | .streamExtend .. => recordParts ++ [.streams]
  | .deadlineMiss .. => recordParts ++ [.streams]
  | .tideSwitch .. => recordParts ++ [.spadWins]
  | .flueWrite .. => recordParts ++ [.tallies, .flue]
  | .flueMerge .. => recordParts ++ [.tallies, .flue]
  | .flueAtomic .. => recordParts ++ [.tallies, .flue]
  | .flueRead .. => recordParts ++ [.flue]
  | .flueAck .. => resumeParts
  | .flueData .. => resumeParts
  | .flueErr .. => resumeParts
  | .flueForward .. => [.out, .flue]
  | .flueReadTimeout .. => resumeParts
  | .flueFlitReceive .. => resumeParts ++ [.group, .kindle, .trust]
  | .flueReplayFail .. => resumeParts ++ [.group, .kindle, .trust]
  | .flueErrrate .. => resumeParts ++ [.group, .kindle, .trust]
  | .flueLos .. => resumeParts ++ [.group, .kindle, .trust]
  | .flueLockLost .. => resumeParts ++ [.group, .kindle, .trust]
  | .flueRemoteDown .. => resumeParts ++ [.group, .kindle, .trust]
  | .flueRetrainTimer .. => recordParts ++ [.flue, .kindle]
  | .flueTrainingDone .. => resumeParts ++ [.group, .kindle, .trust]
  | .flueTrainingTimeout .. => resumeParts ++ [.group, .kindle, .trust]
  | .flueAttestDone .. => resumeParts ++ [.group, .kindle, .trust]
  | .probationEnd .. => resumeParts ++ [.group, .kindle, .trust]
  | .flueLinkUp .. => recordParts ++ [.flue, .kindle]
  | .flueKeyUpdate .. => resumeParts ++ [.group, .kindle, .trust]
  | .key .. => [.flue]
  | .fluLinkEn .. => resumeParts ++ [.group, .kindle, .trust]
  | .fluLinkRetrain .. => resumeParts ++ [.group, .kindle, .trust]
  | .fluLinkHoldctl .. => recordParts ++ [.flue, .kindle]
  | .fluLinkLoop .. => recordParts ++ [.flue, .group, .kindle]
  | .helloSend => [.out, .flue, .group]
  | .hello .. => resumeParts ++ [.group, .kindle, .trust]
  | .peerWatchdogExpiry .. => resumeParts ++ [.group, .kindle, .trust]
  | .syncSend => [.out, .flue, .group]
  | .sync .. => recordParts ++ [.tick, .streams, .flue, .group]
  | .formOffer .. => [.out, .group, .stoker]
  | .offerWindowEnd => recordParts ++ [.tick, .streams, .flue, .group]
  | .table .. => recordParts ++ [.tick, .streams, .flue, .group, .kindle]
  | .ack .. => [.out, .group, .stoker]
  | .ackWindowEnd => recordParts ++ [.flue, .group, .kindle]
  | .joinReq .. => [.out, .group, .stoker]
  | .group .. => recordParts ++ [.flue, .group, .kindle]
  | .dead .. => resumeParts ++ [.group, .kindle]
  | .membSetEmpty .. => recordParts ++ [.flue, .group, .kindle]
  | .membAdmit .. => recordParts ++ [.flue, .group, .kindle]
  | .timebaseTick .. => recordParts ++ [.tick, .elapsed, .spadWins, .tallies, .ctxs, .xlat, .ringCmd, .streams, .streamBad, .coefs, .flue, .group, .power, .trust]
  | .bundleBringUp .. => recordParts ++ [.fabric, .kindle]
  | .keptMapBringUp .. => recordParts ++ [.fabric, .kindle]
  | .bringUpDone .. => recordParts ++ [.fabric, .kindle]
  | .sidebandTimeout .. => recordParts ++ [.fabric, .kindle]
  | .bundleCrcError .. => [.free, .fabric]
  | .bundleReplayThreshold .. => recordParts ++ [.fabric, .kindle]
  | .bundleRetrain .. => recordParts ++ [.fabric, .kindle]
  | .bundleOff .. => recordParts ++ [.fabric, .kindle]
  | .routeDrainMarker .. => recordParts ++ [.fabric]
  | .dietestEn .. => recordParts ++ [.harts, .fabric, .group]
  | .dietestGo .. => recordParts ++ [.harts, .fabric]
  | .dietestDone .. => [.fabric]
  | .hostLinkUp .. => agentParts ++ [.kindle]
  | .hostLinkDown .. => resumeParts ++ [.kindle, .trust]
  | .genWordReadDone .. => agentParts
  | .hostRequestTimeout .. => resumeParts ++ [.kindle, .trust]
  | .hostSnoopTimeout .. => resumeParts ++ [.kindle, .trust]
  | .hostLinkForce .. => resumeParts ++ [.kindle, .trust]
  | .ideInsecure .. => resumeParts ++ [.kindle, .trust]
  | .hostInboundWrite .. => recordParts
  | .hostInboundRead .. => recordParts
  | .hostAtomicop .. => recordParts
  | .hostBar0Read .. => [.out, .stoker]
  | .cxlMemrd .. => agentParts
  | .cxlMemwr .. => agentParts
  | .cxlBirsp .. => [.coh, .hosts, .fabric]
  | .perstAssert .. => resumeParts ++ [.kindle, .trust]
  | .damperWindow .. => [.grates, .power]
  | .slewGovernorStep .. => resumeParts ++ [.owners, .rot, .group, .power, .kindle, .trust, .served]
  | .correctionUpdate .. => [.power]
  | .droopDetect .. => [.power]
  | .dipDetect .. => [.power, .stoker]
  | .dipRecover .. => [.power]
  | .dipHoldEnd => [.power]
  | .supplyResetLevel .. => partsBut [.pending, .elapsed]
  | .thermalStep .. => [.power]
  | .thermalTrip .. => partsBut [.pending, .elapsed, .free, .out, .nextReq]
  | .rootPllLock => [.power, .kindle]
  | .slavePllLockLost .. => partsBut [.pending, .elapsed]
  | .refclkLost => resumeParts ++ [.group, .power, .kindle, .trust]
  | .dmpCapCfgWrite .. => [.power, .stoker]
  | .dmpDroopCfgWrite .. => [.power, .stoker]
  | .dmpCorrWrite .. => [.power]
  | .feedApplied .. => recordParts ++ [.power, .kindle]
  | .softStartDone => [.power]
  | .senseOpen => partsBut [.pending, .elapsed, .out, .nextReq]
  | .supplyLoss => partsBut [.pending, .elapsed, .out, .nextReq]
  | .kindleK0 .. => recordParts ++ [.kindle, .trust]
  | .kindleK1 .. => partsBut [.pending, .elapsed, .nextReq]
  | .kindleK2 => recordParts ++ [.kindle, .trust]
  | .kindleK3 .. => recordParts ++ [.power, .kindle]
  | .kindleK4 .. => recordParts ++ [.kindle]
  | .kindleK5 .. => recordParts ++ [.owners, .kindle]
  | .kindleK6 => resumeParts ++ [.ports, .group, .kindle, .trust]
  | .kindleStageTimeout .. => partsBut [.pending, .elapsed]
  | .confirm => [.kindle]
  | .resetCluster .. => partsBut [.pending, .elapsed]
  | .resetHearth .. => partsBut [.pending, .elapsed]
  | .resetPackage .. => partsBut [.pending, .elapsed]
  | .moduleReset .. => partsBut [.pending, .elapsed, .nextReq]
  | .packageReset .. => partsBut [.pending, .elapsed, .nextReq]
  | .hearthDieReset .. => partsBut [.pending, .elapsed]
  | .clusterReset .. => agentParts ++ [.xlat, .kindle]
  | .arbRaise .. => [.trust, .stoker]
  | .arbRaiseDone .. => [.trust]
  | .keyGenerate .. => [.trust, .stoker]
  | .keyGenerateDone => [.trust]
  | .getMeasurements .. => [.free, .out]
  | .challenge .. => [.free, .out]
  | .keyExchange .. => [.free, .out, .trust]
  | .debugToken .. => [.out, .trust, .stoker]
  | .patrolScrub .. => [.mem, .badLines, .memCtl, .stoker]
  | .sensorSample .. => partsBut [.pending, .elapsed, .free, .nextReq]
  | .leakDetected => partsBut [.pending, .elapsed, .free, .out, .nextReq]
  | .orderlyPowerDown .. => partsBut [.pending, .elapsed, .free, .out, .nextReq]
  | .logMirror => [.stoker]
  | .heartbeatKick .. => recordParts ++ [.harts]
  | .heartbeatPeriod .. => recordParts ++ [.harts]
  | .heartbeatExpired => partsBut [.pending, .elapsed, .nextReq]
  | .logRead .. => [.out, .stoker]
  | .configWrite .. => [.out, .stoker]
  | .moduleResetMessage .. => partsBut [.pending, .elapsed, .nextReq]
  | .powerDown .. => [.out, .stoker]
  | .getSensorReading .. => [.out]
  | .pldmComponentWrite .. => [.free, .out, .kindle, .stoker]
  | .pldmVerify .. => [.out, .kindle, .stoker]
  | .pldmApply .. => [.out, .kindle]
  | .rstAssert => partsBut [.pending, .elapsed, .nextReq]
  | .rstRelease => [.kindle]
  | .checkpoint .. => [.out, .train]
  | .buddyCopyDone .. => [.train]
  | .stagingDone .. => [.train]
  | .recovery .. => [.stoker, .train]
  | .restoreReplay .. => [.stoker, .train]
  | .registerWrite .. => partsBut [.pending, .elapsed]
  | .matrixLastStepRead .. => recordParts ++ [.xlat]
  | .tileControllerCsrWrite .. => recordParts
  | .deviceContextWrite .. => [.harts]
  | .perstRelease .. => [.hosts]
  | .refclkReturn => [.power]
  | .hostCompletion .. => resumeParts
  | .ideKm .. => [.out, .reqs, .hosts, .stoker]
  | .msiXTableWrite .. => [.out, .hosts, .stoker]
  | .keyTableReinstallDone .. => agentParts ++ [.trust]

/-- What a command keeps, from a state r to a state s: the canonical form of the memory, the fuses that no command blows, and every
part that the mask m does not name (bit i for the i-th part); no anti-rollback counter falls (R520). -/
structure Kept (m : Nat) (r s : State) : Prop where
  mem : Mem.wf r.mem = true → Mem.wf s.mem = true
  fuses : s.trust.cstep = r.trust.cstep ∧ s.trust.hsteps = r.trust.hsteps ∧ s.trust.permlock = r.trust.permlock
  arb : ∀ i, arbValue r i ≤ arbValue s i
  frame : ∀ p : Part, m.testBit p.ctorIdx = false → p.same r s

end Sys2Proof
end

