-- ==== Sys2Proof/Certificates/Slice0/Obligations.lean ====
section
/-! DEFINITION. The obligations: what each command does, family by family, and what every step keeps. -/

open Sys2Proof Sys2Proof.Machine

/-- One step carries out the command at the front of the queue with the rest of the queue, and answers what it answers. -/
def Obligations.StepRunsTheFrontCommand : Prop :=
  ∀ (c : Instr) (rest : List Instr) (s : State), s.pending = c :: rest → step s = exec c { s with pending := rest }

/-- On an empty queue the block idles: the step changes nothing. This is the model's own choice, for the spec gives the block no step of
its own (log 1). -/
def Obligations.StepIdlesOnAnEmptyQueue : Prop := ∀ s : State, s.pending = [] → step s = .next s

/-- The state after reset: nothing is commanded, every ring is OFF and not valid, no context, window, tally counter or stream is valid, no
region of memory has an owner, every grate is IDLE, no unit is ready, every die's bundles are DOWN, every flue link is DOWN and not
enabled, the module is STANDALONE with nobody in its table, no host link is up, and kindling stands before K0 (R118, R140, R326, R416,
R489, R494, R582). The memory after reset has its canonical form. -/
def Obligations.ResetLeavesNothingSetUp : Prop :=
  (State.reset.pending = [] ∧ State.reset.mem = [] ∧ State.reset.tick = 0 ∧
   (∀ n, (State.reset.ring n).v = false ∧ (State.reset.ring n).st = .off) ∧ (∀ c, (State.reset.ctxE c).v = false) ∧
   (∀ i, (Tab.get {} State.reset.spadWins i : SpadWin).v = false) ∧ (∀ i, (State.reset.tally i).v = false) ∧
   (∀ i, (State.reset.stream i).v = false) ∧ (∀ r, (Tab.get {} State.reset.owners r : Owner).v = false) ∧
   (∀ g, (State.reset.gr g).st = .idle ∧ (State.reset.gr g).slots = []) ∧ State.reset.kindle.ready0 = 0 ∧
   (∀ d b, (State.reset.bundle d b).st = .down) ∧ (∀ f, (State.reset.fl f).st = .down ∧ (State.reset.fl f).en = false) ∧
   State.reset.group.gst = .standalone ∧ (∀ p, (State.reset.memb p).st = 0) ∧ (∀ h, (State.reset.host h).dlup = false) ∧
   State.reset.kindle.stage = 0) ∧
  (Mem.wf State.reset.mem = true)

/-- From every state whose memory has its canonical form (addresses rising, no byte listed that reads as an unlisted one does), every step
leaves a state whose memory has it: equal memories are equal data. -/
def Obligations.StepKeepsMemoryCanonical : Prop := StepKeeps (fun s => Mem.wf s.mem = true)

/-- No step changes the steppings and the debug lock that the fuses hold, and no step lowers the value of an anti-rollback counter,
whatever a torn raise leaves in its record (R513, R520 to R522). -/
def Obligations.StepKeepsFusesAndCounters : Prop :=
  ∀ s t : State, step s = .next t →
    t.trust.cstep = s.trust.cstep ∧ t.trust.hsteps = s.trust.hsteps ∧ t.trust.permlock = s.trust.permlock ∧
    ∀ i, arbValue s i ≤ arbValue t i

/-- Every command leaves each part of the state that Instr.mayWrite does not list for it exactly as it was, the queue among them. -/
def Obligations.EachCommandWritesOnlyItsParts : Prop :=
  ∀ (c : Instr) (s t : State), exec c s = .next t → ∀ p : Part, p ∉ c.mayWrite → p.same s t

/-- A command whose operands are not such as the command can carry never completes, in any state (R30, R246, R371, R420, R437). -/
def Obligations.IllFormedCommandsNeverComplete : Prop := ∀ (c : Instr) (s t : State), c.wf = false → exec c s ≠ .next t

/-- An address P in the interleaved alias names the same byte as the direct address D that R22 computes from it. -/
def Obligations.AliasNamesItsDirectAddress : Prop :=
  ∀ p a n l d : Nat, 0x020000000000 ≤ p → p < 0x020000000000 + 0x18000000000 → a = p - 0x020000000000 →
    n = a / 2 ^ 12 % 4 → l = a / 2 ^ 14 % 2 ^ 27 * 0x1000 + a % 2 ^ 12 → d = n * 0x6000000000 + l →
    placeOf p = .main n d ∧ placeOf d = .main n d ∧ keyOf p = keyOf d

/-- The doorbell of ring r is at 0xF100_0000_0000 + 8 × r (R32). -/
def Obligations.DoorbellsLieAtTheirAddresses : Prop := ∀ r : Nat, r < 65536 → placeOf (0xF10000000000 + 8 * r) = .bell (8 * r)

/-- An extent whose checks pass lies, byte for byte, where its context may go: in main memory in regions that the context owns, or context
0 where RT allows it, and in the scratchpad of another grate only with that grate RUNNING or STOPPED in the context, or IDLE for context 0
(R326, R327, R330). -/
def Obligations.PassedAccessesLieInTheirContext : Prop :=
  ∀ (s u : State) (agent : Agent) (ctx pa n : Nat) (acc : Acc3), checkExtent s agent ctx acc pa n = (.ok, u) → ∀ i, i < n →
    (∀ k d, placeOf (pa + i) = .main k d → mainAllows s d ctx = true) ∧
    (∀ g off, placeOf (pa + i) = .spad g off → agent ≠ .tile g → (s.gr g).clearing = false ∧
      (if ctx = 0 then (s.gr g).st = .idle else ((s.gr g).st = .running ∨ (s.gr g).st = .stopped) ∧ (s.gr g).ctx.toNat = ctx))

/-- A read, write or atomic that its checks refuse, or that must wait, is not performed: it changes no byte of memory (R328). -/
def Obligations.RefusedAccessesChangeNoMemory : Prop :=
  ∀ (s u : State) (agent : Agent) (ctx pa : Nat) (r : Resp), r ≠ .ok →
    (∀ n bs, physRead s agent ctx pa n = (r, bs, u) → u.mem = s.mem) ∧
    (∀ bs, physWrite s agent ctx pa bs = (r, u) → u.mem = s.mem) ∧
    (∀ n op v c old, physAtomic s agent ctx pa n op v c = (r, old, u) → u.mem = s.mem)

/-- The records of an anti-rollback counter: one is valid when its check equals the number of zero bits of its value and its top bits are
zero, and the counter's value is the largest value among its valid records, or 0 when none is valid (R520). -/
def Obligations.CounterValueIsTheLargestValidRecord : Prop :=
  (∀ r : BitVec 24, arbValid r = true ↔
    r.toNat / 2 ^ 16 % 32 = ((List.range 16).filter (fun i => !(r.getLsbD i))).length ∧ r.toNat / 2 ^ 21 = 0) ∧
  ∀ (s : State) (i : Nat),
    (∀ k, k < 16 → arbValid (arbRecord s i k) = true → (arbRecord s i k).toNat % 2 ^ 16 ≤ arbValue s i) ∧
    ((∃ k, k < 16 ∧ arbValid (arbRecord s i k) = true ∧ (arbRecord s i k).toNat % 2 ^ 16 = arbValue s i) ∨
      ((∀ k, k < 16 → arbValid (arbRecord s i k) = false) ∧ arbValue s i = 0))

/-- At training a link runs on all four lanes when all four pass, else on lanes 0 and 1 when both pass, or else on lanes 2 and 3 when both
pass; in any other case it goes down with cause WIDTH (R413). -/
def Obligations.TrainingTakesTheLanesThatPass : Prop :=
  ∀ (f : FlueLinkNo) (lanes : BitVec 4) (s : State), (s.fl f).st = .training →
    exec (.flueTrainingDone f lanes) s =
      if lanes = 15 then .next (putFl s f { s.fl f with st := .attest, width := 3, since := s.elapsed })
      else if lanes.getLsbD 0 = true ∧ lanes.getLsbD 1 = true then
        .next (putFl s f { s.fl f with st := .attest, width := 1, since := s.elapsed })
      else if lanes.getLsbD 2 = true ∧ lanes.getLsbD 3 = true then
        .next (putFl s f { s.fl f with st := .attest, width := 2, since := s.elapsed })
      else .next (linkDown s f 0xC)

/-- A lane map of n lanes taken from lanes found good has exactly n bits set, all of good lanes, and no good lane that it leaves out lies
below one that it takes (R394, R396). -/
def Obligations.LaneMapsTakeTheLowestGoodLanes : Prop :=
  ∀ (n : Nat) (good : BitVec 68), n ≤ popCount good →
    popCount (laneMap n good) = n ∧ laneMap n good &&& good = laneMap n good ∧
    ∀ i j, i < j → (laneMap n good).getLsbD j = true → good.getLsbD i = true → (laneMap n good).getLsbD i = true

/-- The image of a stream entry that READ stores loads, by WRITE, the same entry, with every field at every value (Table 6.1, Table 6.4);
the tick since which its deadlines are armed is the model's own field. -/
def Obligations.StreamImagesKeepEveryField : Prop :=
  ∀ e : Stream, e.v = true → streamOfImage (streamImage e) = { e with arm := none } ∧ imageReserved (streamImage e) = true

/-- The slot instructions complete where the slot and the role allow it: SLOT.SET writes its entry, SLOT.GET reads one, SLOT.CLEAR zeroes
the rows of its slot, SLOT.PUBLISH and SLOT.RETIRE make the transitions of Table 4.12 on a guarded slot; nothing else changes but the
program counter and, for the rows that SLOT.CLEAR writes, the conflict counters and what work still under way may have read before (R118,
R119, R122, R129, R132, R135). EVENT.READ reads an own counter into a register; EBREAK halts with cause 0x08, or stands still
in debug halt under invasive debug; an exception whose earlier work has not ended begins by stopping issue (R108, R142, R541). -/
def Obligations.SlotReadAndBreakInstructionsComplete : Prop :=
  ((∀ (p : Site) (rs1 rs2 : W64) (s : State), canIssue (s.gr p.g) = true →
     slotSettable (s.gr p.g) (field rs1.toNat 0 8) (slotOfWord rs2.toNat) = true →
     exec (.slotSet p rs1 rs2) s =
       .next (s.setGr p.g { setSlot (s.gr p.g) (field rs1.toNat 0 8) (slotOfWord rs2.toNat) with pc := nextPc p })) ∧
   (∀ (p : Site) (rd : Fin 32) (rs1 : W64) (s : State), canIssue (s.gr p.g) = true →
     exec (.slotGet p rd rs1) s = .next (s.setGr p.g
       { setX (s.gr p.g) rd (BitVec.ofNat 64 (slotWord (slotAt (s.gr p.g) (field rs1.toNat 0 8)))) with pc := nextPc p })) ∧
   (∀ (p : Site) (rs1 : W64) (s : State) (e : SlotEnt), e = slotAt (s.gr p.g) (field rs1.toNat 0 8) →
     canIssue (s.gr p.g) = true → e.v = true → roleCheck (s.gr p.g) (field rs1.toNat 0 8) 1 true ≠ .breach →
     exec (.slotClear p rs1) s = .next (bankConflicts (((notePast s p.g (e.base.toNat * 2048) ((e.len.toNat + 1) * 2048)).zeroBytes
       (spadKey p.g (e.base.toNat * 2048)) ((e.len.toNat + 1) * 2048)).modGr p.g (fun x => { x with pc := nextPc p })) p.g 4)) ∧
   (∀ (p : Site) (rs1 : W64) (s : State) (e : SlotEnt), e = slotAt (s.gr p.g) (field rs1.toNat 0 8) →
     canIssue (s.gr p.g) = true → e.v = true → (s.gr p.g).guardMode = true → e.guard = true → e.full = false →
     exec (.slotPublish p rs1) s = .next (s.setGr p.g { setSlot (s.gr p.g) (field rs1.toNat 0 8)
       { e with full := true, epoch := e.epoch + 1, remain := e.cons } with pc := nextPc p })) ∧
   (∀ (p : Site) (rs1 : W64) (s : State) (e : SlotEnt), e = slotAt (s.gr p.g) (field rs1.toNat 0 8) →
     canIssue (s.gr p.g) = true → e.v = true → (s.gr p.g).guardMode = true → e.guard = true → e.full = true →
     exec (.slotRetire p rs1) s = .next (s.setGr p.g { setSlot (s.gr p.g) (field rs1.toNat 0 8)
       { e with remain := e.remain - 1, full := decide (e.remain - 1 ≠ 0) } with pc := nextPc p }))) ∧
  ((∀ (p : Site) (rd : Fin 32) (rs1 : W64) (s : State), canIssue (s.gr p.g) = true →
     exec (.eventRead p rd rs1) s = .next (s.setGr p.g
       { setX (s.gr p.g) rd (Tab.get 0 (s.gr p.g).events (field rs1.toNat 0 5)) with pc := nextPc p })) ∧
   (∀ (p : Site) (s : State), canIssue (s.gr p.g) = true → s.trust.level = 2 →
     exec (.ebreak p) s = .next (s.setGr p.g { s.gr p.g with pc := p.pc, debugHalt := true })) ∧
   (∀ (p : Site) (s : State), canIssue (s.gr p.g) = true → s.trust.level ≠ 2 → exec (.ebreak p) s = .next (haltAt s p 8)) ∧
   (∀ (p : Site) (s : State), canIssue (s.gr p.g) = true → s.trust.level ≠ 2 → allDone (s.gr p.g) = false →
     exec (.ebreak p) s = .next (s.setGr p.g { s.gr p.g with
       pc := p.pc, stall := .halting { cause := 8, pc := p.pc, insn := p.insn } })))

/-- The instructions that wait stall issue at once, with the program counter past them (R123, R125, R126, R128, R605). What was waited for
comes: issue goes on with nothing else changed, except that a wait for the vector or the transcendental unit carries their queue out,
that the waits for a counter empty the read buffer, that a signal adds its
increment to the counter it names, that a boundary with a stop request and the end of a program leave the grate STOPPED, and that a wait
that outlasts its limit halts with cause 0x06 (R123, R125 to R128, R249, R357, R605). -/
def Obligations.WaitsStallAndEndByTheirConditions : Prop :=
  (∀ (p : Site) (rs1 rs2 : W64) (s : State), canIssue (s.gr p.g) = true →
     exec (.unitWait p rs1) s =
       .next (s.setGr p.g { s.gr p.g with stall := .unitWait (BitVec.ofNat 5 rs1.toNat) p.pc p.insn, pc := nextPc p }) ∧
     exec (.eventSignal p rs1 rs2) s = .next (s.setGr p.g { s.gr p.g with
       stall := .signal (field rs1.toNat 0 7) (field rs1.toNat 8 5) rs2 p.pc p.insn, pc := nextPc p }) ∧
     exec (.eventWait p rs1 rs2) s = .next (s.setGr p.g { s.gr p.g with
       stall := .eventWait (field rs1.toNat 0 5) rs2 s.elapsed p.pc p.insn, pc := nextPc p }) ∧
     exec (.tallyWait p rs1 rs2) s = .next (s.setGr p.g { s.gr p.g with
       stall := .tallyWait (field rs1.toNat 0 12) (bitAt rs1.toNat 12) rs2 s.elapsed p.pc p.insn, pc := nextPc p }) ∧
     exec (.schedBoundary p) s = .next (s.setGr p.g { s.gr p.g with stall := .boundary p.pc p.insn, pc := nextPc p }) ∧
     exec (.ecall p) s = .next (s.setGr p.g { s.gr p.g with stall := .ecall p.pc p.insn, pc := nextPc p })) ∧
  ((∀ (g : GrateNo) (s t : State) (m : BitVec 5) (pc : W64) (insn : W32), (s.gr g).stall = .unitWait m pc insn →
     t = (if m.getLsbD 2 || m.getLsbD 3 then vecRun s g else s) → (t.gr g).stall = .unitWait m pc insn →
     unitsDone (t.gr g) m = true → (m.getLsbD 4 = true → (t.gr g).lost = []) →
     exec (.unitWaitMet g) s = .next (t.setGr g { t.gr g with stall := .none })) ∧
   (∀ (g : GrateNo) (s : State) (n ctr : Nat) (inc pc : W64) (insn : W32), (s.gr g).stall = .signal n ctr inc pc insn →
     allDone (s.gr g) = true → (s.gr g).lost = [] → signalOk s n (s.gr g).ctx.toNat = true →
     exec (.eventSignalEffect g) s = .next (addEvent (s.setGr g { s.gr g with stall := .none }) n ctr inc)) ∧
   (∀ (g : GrateNo) (s : State) (ctr since : Nat) (target pc : W64) (insn : W32), (s.gr g).stall = .eventWait ctr target since pc insn →
     target.toNat ≤ (Tab.get 0 (s.gr g).events ctr).toNat →
     exec (.eventWaitMet g) s = .next (s.setGr g { s.gr g with stall := .none, readBuf := [] })) ∧
   (∀ (g : GrateNo) (s : State) (ctr since : Nat) (pkts : Bool) (target pc : W64) (insn : W32),
     (s.gr g).stall = .tallyWait ctr pkts target since pc insn → target.toNat ≤ tallyRead s ctr (s.gr g).ctx.toNat pkts →
     exec (.tallyWaitMet g) s = .next (s.setGr g { s.gr g with stall := .none, readBuf := [] })) ∧
   (∀ (g : GrateNo) (s : State) (ctr since : Nat) (target pc : W64) (insn : W32), (s.gr g).stall = .eventWait ctr target since pc insn →
     (s.gr g).waitLimit ≠ 0 → (s.gr g).waitLimit.toNat < s.elapsed - since →
     exec (.waitTimeout g) s = .next (haltOn s g pc insn 6 [(352, 64, target.toNat), (416, 12, ctr), (428, 1, 0)])) ∧
   (∀ (g : GrateNo) (s : State) (ctr since : Nat) (pkts : Bool) (target pc : W64) (insn : W32),
     (s.gr g).stall = .tallyWait ctr pkts target since pc insn →
     (s.gr g).waitLimit ≠ 0 → (s.gr g).waitLimit.toNat < s.elapsed - since →
     exec (.waitTimeout g) s = .next (haltOn s g pc insn 6 [(352, 64, target.toNat), (416, 12, ctr), (428, 1, 1)])) ∧
   (∀ (g : GrateNo) (s : State) (pc : W64) (insn : W32), (s.gr g).stall = .boundary pc insn → allDone (s.gr g) = true →
     (s.gr g).lost = [] → exec (.boundaryReached g) s = .next (s.setGr g (if (s.gr g).stopreq then
       { s.gr g with st := .stopped, stall := .none, stopreq := false } else { s.gr g with stall := .none }))) ∧
   (∀ (g : GrateNo) (s : State) (pc : W64) (insn : W32), (s.gr g).stall = .ecall pc insn → allDone (s.gr g) = true →
     (s.gr g).lost = [] → exec (.ecallStop g) s =
       .next (endLaunch (s.setGr g { s.gr g with st := .stopped, stall := .none, stopreq := false }) g 0 0)))

/-- A matrix instruction and a weight load that pass the checks of R109 and R111, and find room, are queued in issue order with what they
captured at issue; nothing else changes but the program counter and, for a matrix instruction, what the arrays hold (R82, R88, R104, R109,
R111). The work of the matrix unit ends: a weight load has filled its half from its slot, a matrix instruction has accumulated into its
arrays or, with a read-out, handed its words to the drain register and cleared its arrays, and a drain has written its rounded words to
its slot; then a halt that waited for this work is settled (R84, R86, R88 to R91, Table 4.8). -/
def Obligations.MatrixInstructionsAreQueuedAndEnd : Prop :=
  ((∀ (p : Site) (rs1 rs2 : W64) (s : State) (x : Grate) (c : Nat) (fa : Fmt) (ro : Option ReadOut) (a d : Nat),
     x = s.gr p.g → c = rs1.toNat + rs2.toNat * 2 ^ 64 → canIssue x = true → x.matQ.length < 8 →
     mcAfmt c = some fa → mcReadOut x c = some ro → mcMalformed c = false →
     (mcBegin c = 0 → heldMatches x c (modeOf fa) = true) →
     slotSpan x (mcAslot c) (mcAoff c) (mcAbytes c fa) = some a →
     (if mcUsesD c then slotSpan x (mcDslot c) 0 (mcDbytes c ((ro.map (·.ofmt)).getD .fp32)) else some 0) = some d →
     mcRoles x c = .ok →
     exec (.matrixMac p rs1 rs2) s = .next (s.setGr p.g { x with
       matQ := x.matQ ++ [{ seq := x.issued, pc := p.pc, insn := p.insn, cmd := c, abase := a, dbase := d, ro := ro }],
       issued := x.issued + 1, held := holdAfter x c (modeOf fa), pc := nextPc p })) ∧
   (∀ (p : Site) (rs1 rs2 : W64) (s : State) (x : Grate) (c : Nat) (f : Fmt) (base : Nat),
     x = s.gr p.g → c = rs1.toNat → canIssue x = true → x.wlQ.length < 4 → wlFmt c = some f → wlMalformed c = false →
     slotSpan x (wlSlot c) 0 0 = some base → wlOff c ≤ slotBytes (slotAt x (wlSlot c)) →
     (∀ e ∈ (wlArrays c).zipIdx,
       (slotSpan x (wlSlot c) (wlOff c + wlPartOff c f (field rs2.toNat 0 18) e.2) (wlPart c f)).isSome = true) →
     roleCheck x (wlSlot c) (wlRole c) false = .ok →
     exec (.weightLoad p rs1 rs2) s = .next (s.setGr p.g { x with
       wlQ := x.wlQ ++ [{ seq := x.issued, pc := p.pc, insn := p.insn, cmd := c, pstr := field rs2.toNat 0 18, base := base + wlOff c }],
       issued := x.issued + 1, pc := nextPc p }))) ∧
  ((∀ (g : GrateNo) (find : EccFind) (s : State) (x : Grate) (op : WlOp) (rest : List WlOp) (f : Fmt),
     x = s.gr g → x.wlQ = op :: rest → wlBlocked x op = false → find ≠ .uncorrectable → wlBad x op = false →
     roleBroken x (wlSlot op.cmd) (wlRole op.cmd) false = false → wlFmt op.cmd = some f →
     ∀ (v : Mem) (u : State), unitView s g op.seq = (v, u) →
     exec (.weightLoadComplete g find) s = .next (settleHalt (bankConflicts (countFind (u.setGr g (forgetPast (roleDone { x with
       wlQ := rest
       wstore := (wlArrays op.cmd).zipIdx.foldl (fun w e =>
         wlPartLoad w (Mem.read v (spadKey g (op.base + wlPartOff op.cmd f op.pstr e.2)) (wlPart op.cmd f)) op.cmd e.1 f) x.wstore }
       (wlSlot op.cmd) (wlRole op.cmd) false))) g find) g 2) g)) ∧
   (∀ (g : GrateNo) (find : MatFind) (s u : State) (v : Mem) (x y : Grate) (op : MatOp) (rest : List MatOp) (fa fb : Fmt) (t : Tab Acc)
     (wn : Bool) (cells : List Nat), x = s.gr g → x.matQ = op :: rest → matReady x op = true → find ≠ .scratchpad → find ≠ .weights →
     matBad x op = false → matBroken x op = none → mcAfmt op.cmd = some fa → mcBfmt op.cmd = some fb →
     unitView s g op.seq = (v, u) → matCompute v g x op fa fb = .ok (t, wn) →
     cells = (outCells op.cmd).map (fun e => e.1 * 1024 + e.2.1 * 32 + e.2.2) →
     y = roleDone { x with
       matQ := rest
       status := raiseFlags x.status { wn := wn }
       cubeSteps := x.cubeSteps + activeCubeSteps op.cmd fa fb
       accs := if op.ro.isSome then resetArrays t op.cmd else t
       drain := match op.ro with
         | some ro => some { op := op, ro := ro, words := t.filter (fun e => cells.contains e.1) }
         | none => x.drain } (mcAslot op.cmd) (mcArole op.cmd) false →
     exec (.matrixLastStepRead g find) s = .next (settleHalt (bankConflicts (countFind (u.setGr g
       (forgetPast (if 2 ≤ mcBegin op.cmd ∧ mcRo op.cmd = false then roleDone y (mcDslot op.cmd) (mcDrole op.cmd) false else y))) g
       (if find = .corrected then .corrected else .clean)) g 1) g)) ∧
   (∀ (g : GrateNo) (find : EccFind) (s u : State) (d : Drain) (fl : FlagSet),
     (s.gr g).drain = some d → find ≠ .uncorrectable → roleBroken (s.gr g) (mcDslot d.op.cmd) (mcDrole d.op.cmd) true = false →
     drainError d = none → drainWrite s g d = (fl, u) →
     exec (.matrixDrainComplete g find) s = .next (settleHalt (bankConflicts (u.setGr g (roleDone { u.gr g with
       drain := none, status := raiseFlags (u.gr g).status fl } (mcDslot d.op.cmd) (mcDrole d.op.cmd) true)) g 0) g)))

/-- A vector load, a vector store and a vector operation that pass their checks and find room enter the vector queue with what they
captured at issue. The oldest of the queue is carried out: a load fills its register from 2 KiB of its slot, a store writes its register
to its slot, an operation leaves its result and raises its flags. A CSR instruction that names a CSR of Table 4.11 reads its old value
and, where it writes, writes that CSR's fields (R62, R96, R97, R104, R108, R113, R127, R131, R135). -/
def Obligations.VectorInstructionsAndCsrWritesComplete : Prop :=
  (∀ (p : Site) (rd : Fin 32) (rs1 : W64) (role : BitVec 2) (find : EccFind) (s : State) (x : Grate) (off : Nat),
    x = s.gr p.g → canIssue x = true → x.vecQ.length < 16 → slotSpan x (vecSlot rs1) (vecOff rs1) 2048 = some off →
    roleCheck x (vecSlot rs1) role.toNat false = .ok →
    exec (.vecLoad p rd rs1 role find) s = .next (s.setGr p.g { x with
      vecQ := x.vecQ ++ [{ seq := x.issued, pc := p.pc, insn := p.insn, work := .load rd off (vecSlot rs1) role.toNat, key := vkey x,
                           find := find }]
      issued := x.issued + 1, pc := nextPc p })) ∧
  (∀ (p : Site) (rs2 : Fin 32) (rs1 : W64) (role : BitVec 2) (find : EccFind) (s : State) (x : Grate) (off : Nat),
    x = s.gr p.g → canIssue x = true → x.vecQ.length < 16 → slotSpan x (vecSlot rs1) (vecOff rs1) 2048 = some off →
    roleCheck x (vecSlot rs1) role.toNat true = .ok →
    exec (.vecStore p rs2 rs1 role find) s = .next (s.setGr p.g { x with
      vecQ := x.vecQ ++ [{ seq := x.issued, pc := p.pc, insn := p.insn, work := .store rs2 off (vecSlot rs1) role.toNat, key := vkey x,
                           find := find }]
      issued := x.issued + 1, pc := nextPc p })) ∧
  (∀ (p : Site) (rm : BitVec 3) (op : VecOp) (find : EccFind) (s : State) (x : Grate) (m : RMode),
    x = s.gr p.g → canIssue x = true → x.vecQ.length < 16 → vecFormatOk op = true → vecMode op rm x.status = some m →
    exec (.vecOp p ⟨rm, op⟩ find) s = .next (s.setGr p.g { x with
      vecQ := x.vecQ ++ [{ seq := x.issued, pc := p.pc, insn := p.insn, work := .op op m, key := vkey x, find := find }]
      issued := x.issued + 1, pc := nextPc p })) ∧
  (∀ (g : Nat) (s t : State) (v : VecInstr) (rest : List VecInstr), (s.gr g).vecQ = v :: rest → v.find ≠ .uncorrectable →
    vecBad (s.gr g) v.work = false → vecBroken (s.gr g) v.work = none →
    t = countFind (s.setGr g { s.gr g with vecQ := rest }) g v.find →
    (∀ op m y fl, v.work = .op op m → vecEval (t.gr g) op m v.key = .done y fl →
      vecStep s g = t.setGr g (forgetPast { y with status := raiseFlags y.status fl })) ∧
    (∀ rd off slot role a u, v.work = .load rd off slot role → unitView t g v.seq = (a, u) →
      vecStep s g = bankConflicts (u.setGr g (forgetPast (roleDone
        (vput (u.gr g) rd ((chunks 4 512 (Mem.read a (spadKey g off) 2048)).map ofBytes)) slot role false))) g 3) ∧
    (∀ rs2 off slot role, v.work = .store rs2 off slot role →
      vecStep s g = bankConflicts ((spadWrite t g off (vbytes (t.gr g) rs2)).modGr g
        (fun x => forgetPast (roleDone x slot role true))) g 3)) ∧
  (∀ (p : Site) (op : CsrOp) (csr : BitVec 12) (value : W64) (writes : Bool) (rd : Fin 32) (s : State) (x : Grate) (old v : W64),
    x = s.gr p.g → canIssue x = true → csrRead x p.g csr.toNat = some old →
    v = (match op with | .swap => value | .set => old ||| value | .clear => old &&& ~~~value) →
    (op ≠ .swap → writes = false →
      exec (.tileControllerCsrWrite p ⟨op, csr, writes, rd⟩ value) s = .next (s.setGr p.g { setX x rd old with pc := nextPc p })) ∧
    ((op = .swap ∨ writes = true) →
      (csr = 0x800 → exec (.tileControllerCsrWrite p ⟨op, csr, writes, rd⟩ value) s =
        .next (s.setGr p.g { setX x rd old with status := v.setWidth 32 &&& statusWriteMask, pc := nextPc p })) ∧
      (csr = 0x801 → exec (.tileControllerCsrWrite p ⟨op, csr, writes, rd⟩ value) s =
        .next (s.setGr p.g { setX x rd old with keyLo := v, pc := nextPc p })) ∧
      (csr = 0x802 → exec (.tileControllerCsrWrite p ⟨op, csr, writes, rd⟩ value) s =
        .next (s.setGr p.g { setX x rd old with keyHi := v, pc := nextPc p })) ∧
      (csr = 0x803 → exec (.tileControllerCsrWrite p ⟨op, csr, writes, rd⟩ value) s =
        .next (s.setGr p.g { setX x rd old with srBase := v, pc := nextPc p })) ∧
      (csr = 0x804 → exec (.tileControllerCsrWrite p ⟨op, csr, writes, rd⟩ value) s =
        .next (s.setGr p.g { setX x rd old with waitLimit := v.setWidth 48, pc := nextPc p })) ∧
      (csr = 0x805 → exec (.tileControllerCsrWrite p ⟨op, csr, writes, rd⟩ value) s =
        .next (s.setGr p.g { setX x rd old with conflicts := if v.getLsbD 0 then [] else x.conflicts, pc := nextPc p }))))

/-- A tile controller's access to package memory whose address is aligned and translated completes: a load with the value of its line
under the store buffer, the line coming from memory into the read buffer or from the read buffer where it is held there; a fetch with the
instruction at its address, the line coming from memory into the instruction cache or from that cache; a store in the store buffer; an
AMO, LR or SC with what memory held, with aq the read buffer being emptied first and with rl the store buffer empty (R106, R239, R240,
R242, R245 to R247, R249, R252). A load of the grate's own scratchpad delivers its bytes and leaves the read buffer alone (R115). -/
def Obligations.TileAccessesToMemoryComplete : Prop :=
  ((∀ (p : Site) (va : W64) (lg : BitVec 2) (signed : Bool) (rd : Fin 32) (find : EccFind) (s u : State) (pa d : Nat)
     (w : State) (line : List Byte),
     canIssue (s.gr p.g) = true → va.toNat % 2 ^ lg.toNat = 0 → inScope s (s.gr p.g).ctx.toNat va.toNat = false →
     xlate s (.tile p.g) (s.gr p.g).ctx.toNat va.toNat .read = (.ok pa, u) → placeOf pa = .main d pa →
     (u.gr p.g).readBuf.find? (fun e => decide (e.1 = rbKey pa)) = none →
     physRead u (.tile p.g) (u.gr p.g).ctx.toNat (pa / 128 * 128) 128 = (.ok, line, w) →
     exec (.tcLoad p va lg signed rd false find) s = .next (settleAll ((rbAdd w p.g pa line).modGr p.g (fun x =>
       { setX x rd (extend signed (forward ((rbAdd w p.g pa line).gr p.g).sb pa ((line.drop (pa % 128)).take (2 ^ lg.toNat)))) with
         pc := nextPc p, stall := .none })))) ∧
   (∀ (p : Site) (va : W64) (lg : BitVec 2) (signed : Bool) (rd : Fin 32) (find : EccFind) (s u : State) (pa k : Nat)
     (line : List Byte),
     canIssue (s.gr p.g) = true → va.toNat % 2 ^ lg.toNat = 0 → inScope s (s.gr p.g).ctx.toNat va.toNat = false →
     xlate s (.tile p.g) (s.gr p.g).ctx.toNat va.toNat .read = (.ok pa, u) →
     (u.gr p.g).readBuf.find? (fun e => decide (e.1 = rbKey pa)) = some (k, line) →
     exec (.tcLoad p va lg signed rd false find) s = .next (settleAll (u.modGr p.g (fun x =>
       { setX x rd (extend signed (forward (u.gr p.g).sb pa ((line.drop (pa % 128)).take (2 ^ lg.toNat)))) with
         pc := nextPc p, stall := .none })))) ∧
   (∀ (p : Site) (va : W64) (lg : BitVec 2) (signed : Bool) (rd : Fin 32) (find : EccFind) (s u v w : State) (pa off : Nat)
     (a : Mem) (bs : List Byte),
     find ≠ .uncorrectable → canIssue (s.gr p.g) = true → va.toNat % 2 ^ lg.toNat = 0 →
     inScope s (s.gr p.g).ctx.toNat va.toNat = false →
     xlate s (.tile p.g) (s.gr p.g).ctx.toNat va.toNat .read = (.ok pa, u) → placeOf pa = .spad p.g off →
     (u.gr p.g).readBuf.find? (fun e => decide (e.1 = rbKey pa)) = none →
     unitView (countFind u p.g find) p.g (u.gr p.g).issued = (a, v) →
     physRead v (.tile p.g) (u.gr p.g).ctx.toNat (pa / 128 * 128) 128 = (.ok, bs, w) →
     exec (.tcLoad p va lg signed rd false find) s = .next (settleAll (w.modGr p.g (fun x =>
       { setX x rd (extend signed (forward (w.gr p.g).sb pa
           (((Mem.read a (pa / 128 * 128) 128).drop (pa % 128)).take (2 ^ lg.toNat)))) with pc := nextPc p, stall := .none }))))) ∧
  ((∀ (p : Site) (va : W64) (lg : BitVec 2) (rd : Fin 32) (find : EccFind) (s u : State) (pa d word : Nat) (w : State)
     (line : List Byte), canIssue (s.gr p.g) = true → inScope s (s.gr p.g).ctx.toNat va.toNat = false →
     xlate s (.tile p.g) (s.gr p.g).ctx.toNat va.toNat .fetch = (.ok pa, u) → placeOf pa = .main d pa →
     (u.gr p.g).icache.find? (fun e => decide (e.1 = rbKey pa)) = none →
     physRead u (.tile p.g) (u.gr p.g).ctx.toNat (pa / 128 * 128) 128 = (.ok, line, w) →
     word = ofBytes ((line.drop (pa % 128)).take 4) → unlisted word = false →
     exec (.tcLoad p va lg false rd true find) s = .next (settleAll ((icAdd w p.g pa line).modGr p.g (fun x =>
       { x with pc := p.pc, stall := .none, ir := BitVec.ofNat 32 word })))) ∧
   (∀ (p : Site) (va : W64) (lg : BitVec 2) (rd : Fin 32) (find : EccFind) (s u : State) (pa k word : Nat)
     (line : List Byte), canIssue (s.gr p.g) = true → inScope s (s.gr p.g).ctx.toNat va.toNat = false →
     xlate s (.tile p.g) (s.gr p.g).ctx.toNat va.toNat .fetch = (.ok pa, u) →
     (u.gr p.g).icache.find? (fun e => decide (e.1 = rbKey pa)) = some (k, line) →
     word = ofBytes ((line.drop (pa % 128)).take 4) → unlisted word = false →
     exec (.tcLoad p va lg false rd true find) s = .next (settleAll ((icAdd u p.g pa line).modGr p.g (fun x =>
       { x with pc := p.pc, stall := .none, ir := BitVec.ofNat 32 word }))))) ∧
  (∀ (p : Site) (va : W64) (lg : BitVec 2) (value : W64) (s u : State) (pa : Nat) (e : SbEnt),
    canIssue (s.gr p.g) = true → va.toNat % 2 ^ lg.toNat = 0 → inScope s (s.gr p.g).ctx.toNat va.toNat = false →
    xlate s (.tile p.g) (s.gr p.g).ctx.toNat va.toNat .write = (.ok pa, u) → isDevice pa = false → (u.gr p.g).sb.length < 8 →
    e = { seq := (u.gr p.g).issued, pc := p.pc, insn := p.insn, va := va, pa := pa, size := 2 ^ lg.toNat, value := value,
          ctx := (u.gr p.g).ctx.toNat } →
    exec (.tcStore p va lg value) s = .next (settleAll (pumpSb (u.setGr p.g { u.gr p.g with
      sb := (u.gr p.g).sb ++ [e], pc := nextPc p, stall := .none }) (.tile p.g)))) ∧
  (∀ (p : Site) (va : W64) (wide : Bool) (op : AmoOp) (value : W64) (rd : Fin 32) (aq rl : Bool) (find : EccFind)
    (s r u : State) (pa n d old : Nat) (w : State),
    op ≠ .amo .cas → canIssue (s.gr p.g) = true → (rl = true → (s.gr p.g).sb = []) → n = (if wide then 8 else 4) →
    va.toNat % n = 0 → r = (if aq then s.modGr p.g (fun x => { x with readBuf := [] }) else s) →
    inScope r (r.gr p.g).ctx.toNat va.toNat = false →
    xlate r (.tile p.g) (r.gr p.g).ctx.toNat va.toNat .atomic = (.ok pa, u) → placeOf pa = .main d pa →
    sbTouches (u.gr p.g).sb pa n = false →
    amoDo u (.tile p.g) (u.gr p.g).ctx.toNat pa n op (if op = .lr then 0 else value.toNat) = (.ok, old, w) →
    exec (.tcAmo p va wide op value rd ⟨aq, rl⟩ find) s = .next (settleAll ((rbDrop w p.g pa).setGr p.g
      { setX ((rbDrop w p.g pa).gr p.g) rd (extend (decide (op ≠ .sc)) (toBytes n old)) with pc := nextPc p, stall := .none })))

/-- A core's loads, stores, AMOs and full-line zeroing of package memory complete, where no earlier load of the hart waits for the same
line: a load that hits delivers its bytes under the hart's store buffer, a store enters the buffer, an AMO, LR or SC delivers what memory
held, with rl once no earlier store or load is outstanding, and cbo.zero writes a line of zeros; the device-context CSR takes its value
(R238 to R240, R245 to R247, R250, R292, R300). -/
def Obligations.CoreAccessesToMemoryComplete : Prop :=
  (∀ (h : HartNo) (va : W64) (pa : BitVec 52) (lg : BitVec 2) (signed : Bool) (s : State) (d : Nat),
    placeOf pa.toNat = .main d pa.toNat → hartReady s h = true → behindLoad s h pa.toNat (2 ^ lg.toNat) = false →
    ovfMeets s (s.ht h).dctx.toNat pa.toNat (2 ^ lg.toNat) = false →
    loadMiss s (h.val / 8) (chunksOf pa.toNat (2 ^ lg.toNat)) = none →
    ∀ v, v = extend signed (forward (s.ht h).sb pa.toNat (coreBytes s (h.val / 8) pa.toNat (2 ^ lg.toNat))) →
    exec (.coreLoad h va pa lg signed) s = .next (settleAll ((s.setHt h { s.ht h with loaded := v }).emit (.coreData h v)))) ∧
  (∀ (h : HartNo) (va : W64) (pa : BitVec 52) (lg : BitVec 2) (value : W64) (s : State),
    isDevice pa.toNat = false → hartReady s h = true → (s.ht h).sb.length < 32 →
    behindLoad s h pa.toNat (2 ^ lg.toNat) = false →
    exec (.coreStore h va pa lg value) s = .next (pumpSb (s.setHt h { s.ht h with
      sb := (s.ht h).sb ++ [{ va := va, pa := pa.toNat, size := 2 ^ lg.toNat, value := value, ctx := (s.ht h).dctx.toNat }] })
      (.core h))) ∧
  (∀ (h : HartNo) (va : W64) (pa : BitVec 52) (wide : Bool) (op : AmoOp) (value : W64) (aq rl : Bool) (s : State) (n d old : Nat)
    (w u : State) (v : W64), op ≠ .amo .cas → n = (if wide then 8 else 4) → placeOf pa.toNat = .main d pa.toNat →
    hartReady s h = true → sbTouches (s.ht h).sb pa.toNat n = false → behindLoad s h pa.toNat n = false → pa.toNat % n = 0 →
    (rl = true → (s.ht h).sb = [] ∧ hartLoads s h = [] ∧ (s.ht h).lost = []) →
    amoDo s (.core h) (s.ht h).dctx.toNat pa.toNat n op value.toNat = (.ok, old, w) →
    v = extend (decide (op ≠ .sc)) (toBytes n old) → u = (w.setHt h { w.ht h with loaded := v }).emit (.coreData h v) →
    (aq = true → hartLoads u h = []) → (rl = true → (u.ht h).lost = []) →
    exec (.coreAmo h va pa wide op value aq rl) s = .next (settleAll (wakeHomes u))) ∧
  (∀ (h : HartNo) (va : W64) (pa : BitVec 52) (s u : State), hartReady s h = true → isDevice (pa.toNat / 128 * 128) = false →
    sbTouches (s.ht h).sb (pa.toNat / 128 * 128) 128 = false → behindLoad s h (pa.toNat / 128 * 128) 128 = false →
    physWrite s (.core h) (s.ht h).dctx.toNat (pa.toNat / 128 * 128) (List.replicate 128 0) = (.ok, u) →
    exec (.cboZero h va pa) s = .next (settleAll (wakeHomes u))) ∧
  (∀ (h : HartNo) (ctx : Ctx) (s : State), hartReady s h = true →
    exec (.deviceContextWrite h ctx) s = .next (s.setHt h { s.ht h with dctx := ctx }))

/-- A FENCE of a core completes at once where nothing it orders is outstanding: no buffered store where W is in its predecessor set, no
load where R is; otherwise it waits for these. A FENCE of a tile controller waits only for its store buffer, with W in the predecessor
set, and empties the read buffer where R is in its successor set (R238, R250, R252). The oldest store leaves: performed at its place, or,
sent to another module, by its acknowledgement, its error response or its timeout of 225,000 ticks, the last two as a lost store (R240,
R252, R253, R263, R264). -/
def Obligations.FencesAndStoresLeaveInOrder : Prop :=
  ((∀ (h : HartNo) (pred succ : BitVec 4) (s : State), hartReady s h = true → (pred.getLsbD 0 = true → (s.ht h).lost = []) →
     (pred.getLsbD 0 = true → (s.ht h).sb = []) → (pred.getLsbD 1 = true → hartLoads s h = []) →
     exec (.fence (.core h) pred succ) s = .next (s.setHt h { s.ht h with fence := none })) ∧
   (∀ (h : HartNo) (pred succ : BitVec 4) (s : State), hartReady s h = true →
     ((pred.getLsbD 0 = true ∧ (s.ht h).sb ≠ []) ∨ (pred.getLsbD 1 = true ∧ hartLoads s h ≠ [])) →
     exec (.fence (.core h) pred succ) s = .next (s.setHt h { s.ht h with
       fence := some { stores := pred.getLsbD 0, loads := pred.getLsbD 1 } })) ∧
   (∀ (p : Site) (pred succ : BitVec 4) (s : State), canIssue (s.gr p.g) = true → (s.gr p.g).lost = [] →
     exec (.fence (.tile p) pred succ) s = .next (s.setGr p.g (if pred.getLsbD 0 ∧ (s.gr p.g).sb ≠ [] then
       { s.gr p.g with stall := .fence (succ.getLsbD 1) p.pc p.insn, pc := nextPc p }
       else { s.gr p.g with
         stall := .none, pc := nextPc p, readBuf := if succ.getLsbD 1 then [] else (s.gr p.g).readBuf })))) ∧
  ((∀ (h : HartNo) (s u : State) (e : SbEnt) (rest : List SbEnt) (d : Nat), (s.ht h).sb = e :: rest →
     placeOf e.pa = .main d e.pa → ovfMeets s e.ctx e.pa e.size = false → storeLines s h e.ctx (chunksOf e.pa e.size) = (true, u) →
     exec (.storePerformed (.core h)) s = .next (settleAll (hartDrained (pumpSb
       (setSb (coreWrite u (h.val / 8) e.pa (toBytes e.size e.value.toNat)) (.core h) rest) (.core h)) h))) ∧
   (∀ (g : GrateNo) (s u : State) (e : SbEnt) (rest : List SbEnt) (d : Nat), (s.gr g).sb = e :: rest →
     placeOf e.pa = .main d e.pa → physWrite s (.tile g) e.ctx e.pa (toBytes e.size e.value.toNat) = (.ok, u) →
     exec (.storePerformed (.tile g)) s = .next (settleAll (sbMoved (rbDrop (setSb u (.tile g) rest) g e.pa) (.tile g)))) ∧
   (∀ (who : Holder) (s : State) (e : SbEnt) (rest : List SbEnt) (t id p off : Nat), holderSb s who = e :: rest →
     e.sent = some (t, id) → placeOf e.pa = .remote p off →
     exec (.storePerformed who) s = .next (settleAll (storeAcked s who id))) ∧
   (∀ (who : Holder) (s : State) (t id : Nat), refusable s who = some (t, id) →
     exec (.storeErrorResponse who) s = .next (settleAll (storeLost s who id))) ∧
   (∀ (who : Holder) (s : State) (t id : Nat), sentOf s who = some (t, id) → 225000 ≤ s.elapsed - t →
     exec (.storeResponseTimeout who) s = .next (settleAll (storeLost s who id))))

/-- The runtime's control of a grate of a ready die: STOPREQ is set or cleared, a STOPPED grate that is not clearing runs on, a STOPPED or
HALTED one begins its clear, the end of the clear leaves the state of IDLE and a scratchpad of zeros, and the slot-guard mode of an idle
grate is written; nothing else of the machine changes (R141, R140, R586). A control request that Table 14.14 does not allow in the grate's
state changes nothing but the grate's control error (R586). The steps of a tide switch: a running grate is asked to stop, then its remote
windows close, and once they and the accesses to the grate are done its clear begins; a program of the same context needs no clear (Table
6.9, R201 to R203). -/
def Obligations.GratesAreControlledAndSwitched : Prop :=
  (∀ (g : GrateNo) (s : State), readyHth s (g.val / 24) = true →
     (∀ set, exec (.stopreq g set) s = .next (s.setGr g { s.gr g with stopreq := set })) ∧
     ((s.gr g).st = .stopped → (s.gr g).clearing = false →
       exec (.grateResume g) s = .next (s.setGr g { s.gr g with st := .running })) ∧
     ((s.gr g).st = .stopped ∨ (s.gr g).st = .halted → (s.gr g).clearing = false → (s.gr g).launch = none →
       exec (.toidle g) s = .next (s.setGr g { s.gr g with clearing := true })) ∧
     ((s.gr g).clearing = true → ∃ t, exec (.idleClearDone g) s = .next t ∧
       t.gr g = { errCount := (s.gr g).errCount, ctlErr := (s.gr g).ctlErr, cubeSteps := (s.gr g).cubeSteps } ∧
       (∀ k, k ≠ g.val → t.gr k = s.gr k) ∧
       ∀ a, Tab.get 0 t.mem a =
         if spadKey g 0 ≤ a ∧ a < spadKey g 0 + 0x600000 then 0 else Tab.get 0 s.mem a) ∧
     (∀ en, (s.gr g).st = .idle → (s.gr g).clearing = false →
       exec (.guardModeWrite g en) s = .next (s.setGr g { s.gr g with guardMode := en }))) ∧
  (∀ (g : GrateNo) (s : State), readyHth s (g.val / 24) = true →
     ((s.gr g).st ≠ .stopped ∨ (s.gr g).clearing = true →
       exec (.grateResume g) s = .next (s.setGr g { s.gr g with ctlErr := true })) ∧
     ((s.gr g).st = .running ∨ (s.gr g).st = .idle ∨ (s.gr g).clearing = true →
       exec (.toidle g) s = .next (s.setGr g { s.gr g with ctlErr := true }))) ∧
  (∀ (g : GrateNo) (ctx : Ctx) (s : State), (s.gr g).clearing = false →
     ((s.gr g).st = .running → (s.gr g).stopreq = false →
       exec (.tideSwitch g ctx) s = .next (s.setGr g { s.gr g with stopreq := true })) ∧
     ((s.gr g).st = .stopped → s.spadWins.any (fun e => decide (e.2.grate.toNat = g.val) && e.2.v) = true →
       exec (.tideSwitch g ctx) s = .next { s with spadWins := s.spadWins.map (fun e =>
         if e.2.v && decide (e.2.grate.toNat = g.val) then (e.1, { e.2 with v := false, busy := true }) else e) }) ∧
     ((s.gr g).st = .stopped → s.spadWins.any (fun e => decide (e.2.grate.toNat = g.val) && (e.2.v || e.2.busy)) = false →
       tideBusy s g = false → (s.gr g).launch = none →
       exec (.tideSwitch g ctx) s = .next (if (s.gr g).ctx = ctx then s else s.setGr g { s.gr g with clearing := true })))

/-- An agent outside a grate that R328 and R330 let in reads, writes or updates its scratchpad, a corrected word being counted, and a core
gets the data; a remote window clears BUSY when its last access has completed (R26, R116, R139, R330, R435). -/
def Obligations.WindowAccessesComplete : Prop :=
  (∀ (who : ExtAgent) (ctx : Ctx) (g : GrateNo) (off : BitVec 23) (n : Nat) (find : EccFind) (s u : State) (bs : List Byte),
    find ≠ .uncorrectable → physRead s (extAgent who) ctx.toNat (spadKey g off.toNat) n = (.ok, bs, u) →
    exec (.externalScratchpadAccess who ctx g off (.read n) find) s = .next (match who with
      | .core h => deliverLoad (countFind u g find) h (spadKey g off.toNat) false bs
      | _ => countFind u g find)) ∧
  (∀ (who : ExtAgent) (ctx : Ctx) (g : GrateNo) (off : BitVec 23) (bs : List Byte) (find : EccFind) (s u : State),
    physWrite s (extAgent who) ctx.toNat (spadKey g off.toNat) bs = (.ok, u) →
    exec (.externalScratchpadAccess who ctx g off (.write bs) find) s = .next (countFind u g find)) ∧
  (∀ (who : ExtAgent) (ctx : Ctx) (g : GrateNo) (off : BitVec 23) (op : AOp) (wide : Bool) (v c : W64) (find : EccFind) (s u : State)
    (n old : Nat), find ≠ .uncorrectable → n = (if wide then 8 else 4) →
    physAtomic s (extAgent who) ctx.toNat (spadKey g off.toNat) n op v.toNat c.toNat = (.ok, old, u) →
    exec (.externalScratchpadAccess who ctx g off (.atomic op wide v c) find) s = .next (match who with
      | .core h => deliverLoad (countFind u g find) h (spadKey g off.toNat) true (toBytes n old)
      | _ => countFind u g find)) ∧
  (∀ (i : Fin 512) (s : State) (x : SpadWin), x = Tab.get {} s.spadWins i.val → x.busy = true → x.inflight = 0 →
    exec (.remoteWindowBusyClear (.spad i)) s = .next { s with spadWins := Tab.put {} s.spadWins i.val { x with busy := false } }) ∧
  (∀ (i : Fin 63) (s : State), (Tab.get {} s.flue.inwin i.val).busy = true →
    exec (.remoteWindowBusyClear (.inbound i)) s = .next { s with flue := { s.flue with
      inwin := Tab.put {} s.flue.inwin i.val { Tab.get {} s.flue.inwin i.val with busy := false } } })

/-- A walk read that brings a leaf which allows the access ends the walk, fills the buffers of its die and its engine, and lets the engine
go on; one that brings a pointer takes the walk down a level; a reply of the runtime ends the stalled fault it names, by a new translation
or by a refusal, and one that names none is logged (R303, R310, R316, R317). -/
def Obligations.WalksAndRepliesMoveTheirAgentOn : Prop :=
  (∀ (x : XAgent) (s u : State) (w : Walk) (l : Leaf) (bs : List Byte) (e n : Nat), walkOf s (xagent x) = some w →
    walkHasWalker s w = true → physRead s w.agent 0 (w.node + 8 * levelIndex w.level w.va) 8 = (.ok, bs, u) → e = ofBytes bs →
    pteV e = true → pteMalformed e w.level = false → pteLeaf e = true → n = levelBits w.level →
    l = { ctx := w.ctx, vbase := w.va / 2 ^ n * 2 ^ n, bits := n, pbase := ptePa e, rd := bitAt e 2, wr := bitAt e 3, at_ := bitAt e 4,
          level := w.level, entry := e } → leafAllows l w.acc = true →
    exec (.walkReadReturn x) s = .next (settleAll (resumeAgent (fillMicro (fillL2 ((if w.keeps then w.seen else []).foldl
      (fun s p => fillPtr s (agentDie w.agent) p) (endWalk u w.agent)) (agentDie w.agent) l) w.agent l) (xagent x)))) ∧
  (∀ (x : XAgent) (s u : State) (w w' : Walk) (bs : List Byte) (e : Nat), walkOf s (xagent x) = some w → walkHasWalker s w = true →
    physRead s w.agent 0 (w.node + 8 * levelIndex w.level w.va) 8 = (.ok, bs, u) → e = ofBytes bs →
    pteV e = true → pteMalformed e w.level = false → pteLeaf e = false →
    w' = { w with
      level := w.level + 1, node := ptePa e, lastEntry := e
      seen := w.seen ++ [{ ctx := w.ctx, level := w.level + 1, vbase := w.va / 2 ^ levelBits w.level * 2 ^ levelBits w.level,
                           node := ptePa e }] } →
    exec (.walkReadReturn x) s = .next { u with xlat := { u.xlat with
      walks := u.xlat.walks.map (fun v => if v.agent = w.agent then w' else v) } }) ∧
  (∀ (token : BitVec 16) (s : State) (f : XFault), s.xlat.faults.find? (fun f => decide (f.token = token.toNat)) = some f →
    exec (.xlatReplyReplay token) s =
      .next (settleAll (resumeAgent (forgetLeaf (dropFault s f.token) f.agent f.ctx f.va) f.agent)) ∧
    exec (.xlatReplyRefuse token) s = .next (settleAll (refuseAgent (dropFault s f.token) f.agent))) ∧
  (∀ (token : BitVec 16) (s : State), s.xlat.faults.find? (fun f => decide (f.token = token.toNat)) = none →
    exec (.xlatReplyReplay token) s = .next (s.logTag .chm 0 316 token.toNat) ∧
    exec (.xlatReplyRefuse token) s = .next (s.logTag .chm 0 316 token.toNat))

/-- An invalidation starts when none runs and its range fits: BUSY is set, the scope is latched, and every buffered translation and walk
in scope is gone; a second start sets ERR and changes nothing else; when every access that used a translation in scope has finished, BUSY
clears and what was held goes on (R319 to R323, R581). A region-owner change of a ready die whose range lies in the die and off the
table's area latches its operands, sets BUSY, and makes every region that changes its owner refuse requests; one that is refused sets ERR;
its controller snoops the copies of their lines, and when no line of the regions is in use the regions are zeroed and installed and BUSY
clears (R332, R333, R581). -/
def Obligations.InvalidationsAndOwnerChangesRunToTheirEnd : Prop :=
  ((∀ (ctx : Ctx) (npg : W32) (s : State) (x : XInv), s.xlat.inv.busy = false →
     s.xlat.inv.page.toNat + npg.toNat + 1 ≤ 2 ^ 39 →
     x = { s.xlat.inv with scope := 0, ctx := ctx, npg := npg, busy := true, va := s.xlat.inv.page } →
     ∀ y, y = { x with dropped := droppedPages s x } →
     exec (.xlatInvRange ctx npg) s = .next (dropWalks (dropScope { s with xlat := { s.xlat with inv := y } } y))) ∧
   (∀ (ctx : Ctx) (s : State) (x : XInv), s.xlat.inv.busy = false →
     x = { s.xlat.inv with scope := 1, ctx := ctx, busy := true, va := s.xlat.inv.page } →
     ∀ y, y = { x with dropped := droppedPages s x } →
     exec (.xlatInvContext ctx) s = .next (dropWalks (dropScope { s with xlat := { s.xlat with inv := y } } y))) ∧
   (∀ (s : State) (x : XInv), s.xlat.inv.busy = false → x = { s.xlat.inv with scope := 2, busy := true, va := s.xlat.inv.page } →
     ∀ y, y = { x with dropped := droppedPages s x } →
     exec .xlatInvAll s = .next (dropWalks (dropScope { s with xlat := { s.xlat with inv := y } } y))) ∧
   (∀ (ctx : Ctx) (npg : W32) (s : State), s.xlat.inv.busy = false → 2 ^ 39 < s.xlat.inv.page.toNat + npg.toNat + 1 →
     exec (.xlatInvRange ctx npg) s = .next { s with xlat := { s.xlat with inv := { s.xlat.inv with
       scope := 0, ctx := ctx, npg := npg, err := true } } }) ∧
   (∀ (ctx : Ctx) (npg : W32) (s t : State), s.xlat.inv.busy = true →
     t = { s with xlat := { s.xlat with inv := { s.xlat.inv with err := true } } } →
     exec (.xlatInvRange ctx npg) s = .next t ∧ exec (.xlatInvContext ctx) s = .next t ∧ exec .xlatInvAll s = .next t) ∧
   (∀ (s : State), s.xlat.inv.busy = true → invPending s = false →
     exec .xlatInvDone s =
       .next (settleAll (resumeHeld { s with xlat := { s.xlat with inv := { s.xlat.inv with busy := false, dropped := [] } } })))) ∧
  ((∀ (d : DieNo) (owner : Ctx) (v rt : Bool) (nreg : BitVec 23) (s : State) (old x : RotReg), old = Tab.get {} s.rot d.val →
     readyHth s d = true → old.busy = false → d.val * 0x600000 ≤ old.page.toNat →
     old.page.toNat + nreg.toNat + 1 ≤ (d.val + 1) * 0x600000 - 0xC0 →
     x = { old with addr := old.page, owner := owner, v := v, rt := rt, nreg := nreg, busy := true } →
     exec (.rotChange d owner v rt nreg) s = .next (rotSnoop { s with
       rot := Tab.put {} s.rot d.val x
       owners := mapOwners s.owners old.page.toNat (nreg.toNat + 1) (fun _ (o : Owner) =>
         if o.owner = owner ∧ o.v = v then { o with rt := rt } else { moving := true }) } x)) ∧
   (∀ (d : DieNo) (owner : Ctx) (v rt : Bool) (nreg : BitVec 23) (s : State), readyHth s d = true →
     (Tab.get {} s.rot d.val : RotReg).busy = true →
     exec (.rotChange d owner v rt nreg) s =
       .next { s with rot := Tab.put {} s.rot d.val { Tab.get {} s.rot d.val with err := true } }) ∧
   (∀ (d : DieNo) (s t u : State) (x : RotReg), x = Tab.get {} s.rot d.val → x.busy = true → t = rotSnoop s x →
     rotBusyLines t x = false → u = (movingRegions t x).foldl (rotRegion { owner := x.owner, v := x.v, rt := x.rt }) t →
     exec (.rotChangeDone d) s = .next { u with rot := Tab.put {} u.rot d.val { x with busy := false } }) ∧
   (∀ (d : DieNo) (s t : State) (x : RotReg), x = Tab.get {} s.rot d.val → x.busy = true → t = rotSnoop s x →
     rotBusyLines t x = true → exec (.rotChangeDone d) s = .next t))

/-- A request of a live caching agent that has none open for the line, whose cluster's context it carries and whose entries at the home are
not all taken, puts the agent into the request's transient state and reaches the home of the line, which takes it up as soon as the line
is free; one for a line of the CXL host goes to the host; the last-level cache, and an agent that does not cache, are accepted by the home
where the line and a tracker entry are free, and are refused with a reservation otherwise; the agent learns of the refusal by RETRY, and a
GRANT for the oldest reservation whose line is free has it accepted (R269, R276, R278 to R280, R283 to R285, R287, R300). -/
def Obligations.RequestsReachTheirHome : Prop :=
  (∀ (b : CacheBit) (ctx : Ctx) (line : BitVec 45) (s u : State) (a : ALine) (l : Nat), l = line.toNat → a = u.al l b →
     isHosted s (l * 128) = false → ((s.al l b).st ≠ .i ∧ u = s ∨ (s.al l b).st = .i ∧ agentPlace s b l = some u) →
     u.coh.dead.getLsbD b = false → requestOpen u l b = false → entriesOf u (lineDie l) b < entriesFor b →
     b ≠ 12 → requestCtx s l b ctx.toNat = true →
       (a.st = .i ∨ a.st = .s ∨ a.st = .isd → exec (.rds b ctx line .clean) s =
         .next (settleAll (homeRequest (u.setAl l b { a with st := .isd }) l .rdS b ctx.toNat {}))) ∧
       (a.st = .isdi → u = s → exec (.rds b ctx line .clean) s =
         .next (settleAll (homeRequest (u.setAl l b { a with st := .isdi }) l .rdS b ctx.toNat {}))) ∧
       (a.st = .i ∨ a.st = .s ∨ a.st = .imd → exec (.rdx b ctx line) s =
         .next (settleAll (homeRequest (u.setAl l b { a with st := .imd }) l .rdX b ctx.toNat {})))) ∧
  (∀ (b : CacheBit) (ctx : Ctx) (line : BitVec 45) (s : State) (a : ALine) (l : Nat), l = line.toNat → a = s.al l b →
     isHosted s (l * 128) = false → s.coh.dead.getLsbD b = false → requestOpen s l b = false → entriesOf s (lineDie l) b < entriesFor b →
     (b ≠ 12 → requestCtx s l b ctx.toNat = true →
       (a.st = .s ∨ a.st = .sma → exec (.upg b ctx line) s =
         .next (settleAll (homeRequest (s.setAl l b { a with st := .sma }) l .upg b ctx.toNat {}))) ∧
       (a.st = .imd → exec (.upg b ctx line) s =
         .next (settleAll (homeRequest (s.setAl l b { a with st := .imd }) l .upg b ctx.toNat {})))) ∧
     (∀ data, (a.st = .m ∨ b = 13 ∧ a.st = .e) → exec (.wbm b line data) s =
       .next (settleAll (homeRequest (s.setAl l b { a with st := .xia }) l .wbM b 0
         { data := data.getD 0, hasData := data.isSome }))) ∧
     (a.st = .e → exec (.eve b line) s =
       .next (settleAll (homeRequest (s.setAl l b { a with st := .xia }) l .evE b 0 {})))) ∧
  (∀ (b : CacheBit) (ctx : Ctx) (line : BitVec 45) (s u : State) (l : Nat), l = line.toNat → isHosted s (l * 128) = true → b.val < 12 →
     s.coh.dead.getLsbD b = false → (∀ r ∈ s.reqs, r.agent = .cluster b → r.addr ≠ l * 128) → (s.al l b).incoming = none →
     (s.al l b).ackDue = false → requestCtx s l b ctx.toNat = true →
     ((s.al l b).st ≠ .i ∧ u = s ∨ (s.al l b).st = .i ∧ agentPlace s b l = some u) →
     ((s.al l b).st = .i ∨ (s.al l b).st = .s ∨ (s.al l b).st = .isd →
       exec (.rds b ctx line .clean) s = .next (d2hRequest u b l ctx.toNat 7 .isd)) ∧
     ((s.al l b).st = .i ∨ (s.al l b).st = .s ∨ (s.al l b).st = .imd →
       exec (.rdx b ctx line) s = .next (d2hRequest u b l ctx.toNat 8 .imd)) ∧
     ((s.al l b).st = .isdi → exec (.rds b ctx line .clean) s = .next (d2hRequest u b l ctx.toNat 7 .isdi)) ∧
     ((s.al l b).st = .s ∨ (s.al l b).st = .sma → exec (.upg b ctx line) s = .next (d2hRequest u b l ctx.toNat 8 .sma)) ∧
     ((s.al l b).st = .imd → exec (.upg b ctx line) s = .next (d2hRequest u b l ctx.toNat 8 .imd)) ∧
     (∀ data w, (s.al l b).st = .m → w = setHosted (s.setAl l b { s.al l b with st := .xia }) l b 0 →
       exec (.wbm b line (some data)) s = .next (cxlSend (countHost w 0 0 128) 10 (l * 128) (toBytes 128 data.toNat))) ∧
     (∀ w, (s.al l b).st = .e → w = setHosted (s.setAl l b { s.al l b with st := .xia }) l b 0 →
       exec (.eve b line) s = .next (cxlSend (countHost w 0 0 0) 11 (l * 128) []))) ∧
  (∀ (ctx : Ctx) (line : BitVec 45) (s u : State) (l : Nat) (w : WaitReq), l = line.toNat → isHosted s (l * 128) = false →
     retryBusy s l (.caching 12) = false → (s.al l 12).incoming = none → agentPlace s 12 l = some u →
     w = { line := l, req := .rdS, who := .caching 12, ctx := ctx.toNat, payload := {}, tick := u.tick.toNat } →
     exec (.rds 12 ctx line .clean) s =
       .next (settleAll (if (u.txn l).isSome || trackerFull u l then addRetry u w else homeAccept u w))) ∧
  ((∀ (who : RetryAgent) (ctx : Ctx) (line : BitVec 45) (s : State) (l : Nat) (c : Instr) (w : WaitReq), l = line.toNat →
     retryBusy s l (.retry (retryAgent who)) = false →
     w.line = l → w.who = .retry (retryAgent who) → w.ctx = ctx.toNat → w.tick = s.tick.toNat → w.told = false →
     (c = .readonce who ctx line .clean ∧ w.req = .readOnce ∧ w.payload = {} ∨
      (∃ data, c = .writefull who ctx line data ∧ w.req = .writeFull ∧ w.payload = { data := data }) ∨
      (∃ mask data, c = .writepart who ctx line mask data ∧ w.req = .writePart ∧ w.payload = { mask := mask, data := data }) ∨
      (∃ (off : BitVec 7) (op : AOp) (wide : Bool) (v x : W64), off.toNat % (if wide then 8 else 4) = 0 ∧
        c = .cohAtomic who ctx line off op wide v x ∧ w.req = .atomic ∧
        w.payload = { op := op, offset := off.toNat, size := if wide then 8 else 4, opnd := v, cmp := x })) →
     exec c s = .next (settleAll (if (s.txn l).isSome || trackerFull s l then addRetry s w else homeAccept s w))) ∧
   (∀ (who : Retrier) (line : BitVec 45) (s : State) (w : WaitReq), reserved s line.toNat who = some w →
     (∀ u, w.told = false → fabTake s .completion w.who.die line.toNat w.who.num = some u → exec (.retry who line) s =
       .next { u with coh := { u.coh with waits := u.coh.waits.map (fun v => if v = w then { w with told := true } else v) } }) ∧
     (w ∈ readyReservations s (lineDie line.toNat) → (∀ x ∈ readyReservations s (lineDie line.toNat), older x w = false) →
       trackerFull s line.toNat = false → onWay s .completion w.who.die line.toNat w.who.num = none → exec (.grant who line) s =
       .next (settleAll (ringsGo (homeAccept { s with coh := { s.coh with waits := s.coh.waits.erase w } } w))))))

/-- A snoop that its home has sent does at the agent what Table 9.4 gives for the agent's state, and so does one of the CXL host for a line
of its own; a response that the agent has sent closes its part of the transaction at the home (R282, R283, R286, R287). A grant, an
upgrade's acknowledgement and a completion that the home has sent bring the agent's line into its stable state and let the accesses that
waited for it go on; Done closes a retry agent's transaction and frees the line (R281, R283). Messages of one channel and flow arrive in
the order they were sent (R407). -/
def Obligations.SnoopsGrantsAndCompletionsAreTakenUp : Prop :=
  (∀ (b : CacheBit) (line : BitVec 45) (s : State) (l : Nat), l = line.toNat →
     (∀ (sn : Snoop) (c : Instr), (c = Instr.snps b line ∧ sn = .snpS ∨ c = .snpx b line ∧ sn = .snpX ∨
         c = .snpxi b line ∧ sn = .snpXI ∨ c = .snpinv b line ∧ sn = .snpInv) →
       (∀ u v w : State, isHosted s (l * 128) = false → snoopDue s l b sn = true → fabTake s .snoop 4 l b = some u →
         (if b = 13 then snoopHost (snoopArrived s l b) l sn else snoopAt (snoopArrived s l b) l b sn) = some v →
         (if b = 13 then snoopHost (snoopArrived u l b) l sn else snoopAt (snoopArrived u l b) l b sn) = some w →
         exec c s = .next (serveRoom w b)) ∧
       (∀ w : State, isHosted s (l * 128) = true → b.val < 12 → hostedSnoop s l b sn = some w → exec c s = .next (serveRoom w b))) ∧
     (∀ (t : Txn) (rsp : SnpRsp) (u : State), s.txn l = some t → (b.val, rsp) ∈ t.rsps →
       fabTake s .response (lineDie l) l b = some u →
       exec (.snoopResponse b line rsp) s = .next (settleAll (ringsGo (homeResponse u l b rsp))))) ∧
  ((∀ (b : CacheBit) (line : BitVec 45) (s u : State) (a : ALine) (l : Nat), l = line.toNat → a = s.al l b →
     (isHosted s (l * 128) = false → fabTake s .response 4 l b = some u →
       (∀ (g : Grant) (d : LineData), a.incoming = some (g, d) → b ≠ 12 → a.st = .isd →
         exec (.cohData b line g) s = .next (settleAll (stableNow u l b (match g with | .s => .s | .e => .e | .m => .m)))) ∧
       (∀ (g : Grant) (d : LineData), a.incoming = some (g, d) → b ≠ 12 → a.st = .isdi → exec (.cohData b line g) s =
         .next (settleAll (if b = 13 then cxlAnswer (u.setAl l b {}) 3 l else serveStale u l b d))) ∧
       (∀ (d : LineData), a.incoming = some (.m, d) → b ≠ 12 → a.st = .imd →
         exec (.cohData b line .m) s = .next (settleAll (stableNow u l b .m))) ∧
       (∀ (g : Grant) (d : LineData), a.incoming = some (g, d) → b = 12 →
         exec (.cohData b line g) s = .next (u.setAl l 12 { a with st := .s, incoming := none }))) ∧
     (fabTake s .response 4 l b = some u → a.st = .sma → a.ackDue = true →
       exec (.acku b line) s = .next (settleAll (stableNow u l b .m))) ∧
     (fabTake s .completion 4 l b = some u → a.st = .xia ∨ a.st = .iia → requestOpen s l b = false →
       exec (.cmp b line) s = .next (settleAll (if b = 13 then cxlAnswer (u.setAl l b { a with st := .i }) 6 l
         else serveRoom (serveWaiting (u.setAl l b { a with st := .i }) l b) b)))) ∧
   (∀ (who : Retrier) (line : BitVec 45) (s : State) (l : Nat) (t : Txn), l = line.toNat → s.txn l = some t →
     (retrierAs who).contains t.who = true →
     (t.ready = true → exec (.done who line) s = .next (settleAll (ringsGo (wakeHomes
       ((if t.req = .writeFull then restoreStale s l else s).setTxn l none))))) ∧
     (∀ a : Agent, t.ready = false → t.awaitDone = true → t.who = .unit a →
       exec (.done who line) s = .next (settleAll (ringsGo (wakeHomes (s.setTxn l none))))) ∧
     (∀ (a : RetryAgent) (x : HomeAns), t.ready = false → t.awaitDone = true → who = .agent a → t.who = .retry (retryAgent a) →
       s.coh.answers.find? (fun x => decide (x.agent = retryAgent a) && decide (x.line = l)) = some x →
       exec (.done who line) s = .next (settleAll (ringsGo (wakeHomes
         ({ s with coh := { s.coh with answers := s.coh.answers.erase x } }.setTxn l none))))) ∧
     (t.ready = false → t.awaitDone = true → who = .lastLevel → (s.al l 12).incoming = none →
       exec (.done who line) s = .next (settleAll (ringsGo (wakeHomes (s.setTxn l none)))))))

/-- The oldest line of a home's eviction buffer leaves it for memory, encrypted and tagged, and what waited for its place goes on; a
cluster that leaves a snoop unanswered for 225,000 ticks is dead; when the homes have walked their tags for a dead agent, the walk ends,
the CXL.cache agent may act again if its link is up, and the event goes to the log and the runtime's fault ring as a record that the spec
does not lay out (R155, R288, R289, R298, R299, R510; log 24). -/
def Obligations.EvictionsAndDeadAgentsAreDealtWith : Prop :=
  (∀ (d : DieNo) (s u : State) (l : Nat) (o : Owner), s.coh.evict.find? (fun l => decide (lineDie l = d.val)) = some l →
    o = Tab.get {} s.owners (regionOf (l * 128)) → u = storeLine (countMem s (l * 128) o.owner.toNat 128) l →
    exec (.evictionWriteback d) s =
      .next (settleAll (ringsGo (wakeHomes { u with coh := { u.coh with evict := u.coh.evict.erase l } })))) ∧
  (∀ (b : CacheBit) (line : BitVec 45) (s : State) (t : Txn), b.val < 12 → s.txn line.toNat = some t → t.owed.getLsbD b.val = true →
    225000 ≤ s.elapsed - t.since → exec (.snoopTimeout b line) s = .next (settleAll (declareDead s b))) ∧
  (∀ (b : CacheBit) (s u v : State) (rec : BitVec 512), s.coh.walking.getLsbD b.val = true →
    u = { s with coh := { s.coh with
      walking := s.coh.walking &&& ~~~(bitMask b.val)
      dead := if b.val = 13 ∧ (s.host 0).cxlup = true then s.coh.dead &&& ~~~(bitMask 13) else s.coh.dead } } →
    takeFree 512 (u.logTag .hth 0 289 b.val) = (rec, v) →
    exec (.reclaimWalkDone b) s = .next (match fringOf v 0 with | some rn => post v (qFault 4) rn rec | none => v))

/-- CLEAN, FLUSH and ASHCLR start on a range that stays in their ready die's memory: the range is latched, BUSY set, and CLEAN and FLUSH
take the range's lines to go through; a range that does not, or a second start, sets ERR and changes nothing else. LOCK starts on at most
eight ways in a die that is not in pool mode, with a range to preload where it does not fill with zeros: fewer ways unback the removed
ways at once and their contents are gone, more ways wait for their fill; another start sets ERR; a start in a die that is not ready
changes nothing (R295 to R297, R583). MAINT_COMPLETE takes the running operation on, and ends it: ASHCLR removes the entries of its range
from the ash list and counts them; CLEAN and FLUSH give the copies up, write the dirty lines back and clear BUSY once no line is due; LOCK
to as many or fewer ways backs the ways it was given (R293, R295 to R299). -/
def Obligations.MaintenanceStartsAndEnds : Prop :=
  (∀ (d : DieNo) (s : State) (c : Instr) (op : BitVec 3) (m : Maint),
    (c = .clean d ∧ op = 1 ∨ c = .flush d ∧ op = 2 ∨ c = .ashclr d ∧ op = 3) →
    m = { s.maint d with runBase := (s.maint d).base, runLen := (s.maint d).len } →
    (readyHth s d = true → (s.maint d).busy = false → rangeOfDie d (m.runBase.toNat * 128) ((m.runLen.toNat + 1) * 128) = true →
      exec c s = .next (s.setMaint d { m with op := op, busy := true, todo := (if op = 3 then [] else
        (s.coh.dir.map (·.1)).filter (fun l => decide (lineDie l = d.val) &&
          inRange (m.runBase.toNat * 128) ((m.runLen.toNat + 1) * 128) l)) })) ∧
    (readyHth s d = true → (s.maint d).busy = true ∨ rangeOfDie d (m.runBase.toNat * 128) ((m.runLen.toNat + 1) * 128) = false →
      exec c s = .next (s.setMaint d { s.maint d with err := true })) ∧
    (readyHth s d = false → exec c s = .next s)) ∧
  (∀ (d : DieNo) (ways : BitVec 4) (fill : Bool) (s : State) (m : Maint) (now n : Nat) (good : Bool),
    now = (s.maint d).locked.toNat → n = ways.toNat →
    m = { s.maint d with
      runBase := (s.maint d).base, runLen := (s.maint d).len, op := 4, busy := true, ways := ways, fill := fill } →
    good = (!(s.maint d).busy && decide (n ≤ 8) && !(s.pool d).mode &&
      (fill || decide (n ≤ now) || rangeOfDie d (m.runBase.toNat * 128) ((n - now) * nearWayBytes))) →
    (readyHth s d = true → good = true → n < now → exec (.lock d ways fill) s =
      .next ((s.setMaint d { m with locked := ways }).zeroBytes (nearKey d (n * nearWayBytes)) ((now - n) * nearWayBytes))) ∧
    (readyHth s d = true → good = true → now ≤ n → exec (.lock d ways fill) s = .next (s.setMaint d m)) ∧
    (readyHth s d = true → good = false → exec (.lock d ways fill) s = .next (s.setMaint d { s.maint d with err := true })) ∧
    (readyHth s d = false → exec (.lock d ways fill) s = .next s)) ∧
  (∀ (d : DieNo) (s u : State) (keep : Nat × AshEnt → Bool), (s.maint d).busy = true → (s.maint d).op = 3 →
    keep = (fun e => !(decide (e.1 / 4096 = d.val) &&
      inRange ((s.maint d).runBase.toNat * 128) (((s.maint d).runLen.toNat + 1) * 128) e.2.addr.toNat)) →
    u = (s.coh.ash.filter (fun e => !(keep e))).foldl (fun s _ => ashBump s d) s →
    exec (.maintComplete d) s = .next (settleAll (ringsGo
      ({ u with coh := { u.coh with ash := u.coh.ash.filter keep } }.setMaint d { s.maint d with busy := false })))) ∧
  (∀ (d : DieNo) (s u : State) (inv : Bool), (s.maint d).busy = true → (s.maint d).op = (if inv then 2 else 1) →
    u = (s.maint d).todo.foldl (fun s l => cleanLine s inv l) s → (∀ l ∈ (u.maint d).todo, cleanDue u inv l = false) →
    exec (.maintComplete d) s = .next (settleAll (ringsGo (wakeHomes ((if inv then u.setPool d { u.pool d with
      lines := (u.pool d).lines.filter (fun e => !((u.maint d).todo.contains e.1)) } else u).setMaint d
        { u.maint d with todo := [], busy := false }))))) ∧
  (∀ (d : DieNo) (s : State), (s.maint d).busy = true → (s.maint d).op = 4 →
    (s.maint d).ways.toNat ≤ (s.maint d).locked.toNat → crowded s d = [] → exec (.maintComplete d) s =
      .next (settleAll (ringsGo (wakeHomes (s.setMaint d { s.maint d with busy := false, locked := (s.maint d).ways })))))

/-- The ash list's registers of a ready die: a write of ASH_CLR with a line of the die takes its entry out, one with a line of another die
is logged, and ones written to ASH_OVF clear the contexts they name (R294, R584). A ready die enters pool mode with ways and ranges that
R585 allows, and otherwise sets ERR; it leaves by setting BUSY, and when every dirty pool line is written back MODE and BUSY are clear; once in
each period of 65,536 ticks the sweep ages every pool line of the four dies by one step, at most to 15 (R156, R158, R585, Table 5.3; log
25). -/
def Obligations.AshListAndPoolModeCommandsComplete : Prop :=
  (∀ (d : DieNo) (s : State), readyHth s d = true →
     (∀ value : W64, lineDie (field value.toNat 7 45) = d.val →
       exec (.ashClr d value) s = .next (ashRemove s (field value.toNat 7 45))) ∧
     (∀ value : W64, lineDie (field value.toNat 7 45) ≠ d.val →
       exec (.ashClr d value) s = .next (s.logTag .hth d 584 (field value.toNat 7 45))) ∧
     (∀ (i : Fin 64) (mask : W64), ∃ t, exec (.ashOvfClear d i mask) s = .next t ∧ t.mem = s.mem ∧ t.coh.ash = s.coh.ash ∧
       ∀ k, Tab.get false t.coh.ashOvf k =
         (Tab.get false s.coh.ashOvf k && !(decide (k / 64 = d.val * 64 + i.val) && mask.getLsbD (k % 64))))) ∧
  ((∀ (d : DieNo) (pways : BitVec 4) (rv : BitVec 8) (s : State), readyHth s d = true →
     (s.pool d).mode = false → (s.pool d).busy = false →
     (poolRefused s d pways.toNat rv = false → exec (.poolModeEnter d pways rv) s = .next (s.setPool d { s.pool d with
       mode := true, ways := pways, ranges := Tab.put 0 (s.pool d).ranges 16 (BitVec.ofNat 64 rv.toNat) })) ∧
     (poolRefused s d pways.toNat rv = true → exec (.poolModeEnter d pways rv) s = .next (s.setPool d { s.pool d with err := true }))) ∧
   (∀ (d : DieNo) (s : State), readyHth s d = true → (s.pool d).mode = true → (s.pool d).busy = false →
     exec (.poolModeLeave d) s = .next (s.setPool d { s.pool d with busy := true })) ∧
   (∀ (d : DieNo) (s : State), (s.pool d).busy = true →
     (∀ e ∈ (s.pool d).lines, (s.dirE e.1).dirty = false ∧ e.1 ∉ s.coh.evict) →
     exec (.poolLeaveDone d) s =
       .next (settleAll (ringsGo (wakeHomes (s.setPool d { s.pool d with mode := false, busy := false, lines := [] }))))) ∧
   (∀ (d : DieNo) (s u : State), (s.pool d).busy = true →
     u = ((s.pool d).lines.map (·.1)).foldl (fun s l => if evictFull s d then s else evictLine s l) s →
     (∃ e ∈ (s.pool d).lines, (u.dirE e.1).dirty = true ∨ e.1 ∈ u.coh.evict) → exec (.poolLeaveDone d) s = .next u) ∧
   (∀ s : State, s.coh.swept < s.elapsed / 65536 * 65536 → ∃ t, exec .poolAgeSweep s = .next t ∧
     t.coh.swept = s.elapsed / 65536 * 65536 ∧ ∀ d : DieNo, t.pool d = { s.pool d with
     lines := (s.pool d).lines.map (fun e => (e.1, if e.2 < 256 then e.2 + 16 else e.2)) }))

/-- Ring set-up and ring commands: an entry that is OFF takes the writes of its words, and one that is not takes only the POLICY of a record
ring and logs other writes; ENABLE of a permitted entry makes it ACTIVE with HEAD and TAIL zero, PAUSE and RESUME move an entry between
ACTIVE and PAUSED, DISABLE turns a ring OFF, completes its fetched descriptors with aborted status and, of a record ring, drops the
waiting records; a command that its state does not allow sets ERR (R335 to R338). A doorbell of a ring's submitter: on a submission ring a
count ahead of TAIL by less than half the counter's range becomes TAIL, one that would overfill the ring makes it ERROR with its event,
and one behind TAIL is ignored; on a record ring the slots returned advance HEAD and waiting records are written, and more slots than were
written are logged; one of another source, one with the upper bits set and one to a ring in ERROR are logged; a core's and a tile
controller's doorbell leaves after their earlier stores (R241, R252, R339 to R341). -/
def Obligations.RingCommandsAndDoorbellsComplete : Prop :=
  (∀ (n : RingNo) (s : State) (r : Ring) (q : RingQ), r = s.ring n.toNat → q = s.rq n.toNat →
     (∀ v : W64, r.st = .off → exec (.ringCfgWrite n 0 v) s = .next (s.setRing n.toNat { r with
         v := bitAt v.toNat 0, kind := bitAt v.toNat 1, role := BitVec.ofNat 2 (field v.toNat 3 2), die := BitVec.ofNat 2 (field v.toNat 5 2)
         sub := BitVec.ofNat 3 (field v.toNat 8 3), policy := BitVec.ofNat 2 (field v.toNat 11 2), inten := bitAt v.toNat 13
         ctx := BitVec.ofNat 12 (field v.toNat 16 12), log2sz := BitVec.ofNat 5 (field v.toNat 28 5)
         cring := BitVec.ofNat 16 (field v.toNat 48 16) }) ∧
       exec (.ringCfgWrite n 1 v) s = .next (s.setRing n.toNat
         { r with ivec := BitVec.ofNat 16 (field v.toNat 0 16), base := BitVec.ofNat 40 (field v.toNat 24 40) }) ∧
       exec (.ringCfgWrite n 2 v) s = .next s ∧ exec (.ringCfgWrite n 3 v) s = .next s) ∧
     (∀ (w : Fin 4) (v : W64), r.st ≠ .off → exec (.ringCfgWrite n w v) s = .next (if w = 0 ∧ r.kind = true then
       s.setRing n.toNat { r with policy := BitVec.ofNat 2 (field v.toNat 11 2) } else s.logTag .chm 0 335 n.toNat)) ∧
     (r.st = .off → enableBad s r = false → exec (.ringEnable n) s =
       .next (((noteCmd s n.toNat 1).setRing n.toNat { r with head := 0, tail := 0, st := .active }).setRq n.toNat
         { q with fetched := [], waitMet := false, stale := false, refetches := 0, returns := 0, written := [], launchRec := none
                  launchReq := none })) ∧
     (r.st ≠ .off ∨ enableBad s r = true → exec (.ringEnable n) s = .next (ringCmdErr (noteCmd s n.toNat 1))) ∧
     (r.st = .active → exec (.ringPause n) s = .next ((noteCmd s n.toNat 2).setRing n.toNat { r with st := .paused })) ∧
     (r.st = .paused → exec (.ringResume n) s =
       .next (flushRing (((noteCmd s n.toNat 3).setRing n.toNat { r with st := .active }).setRq n.toNat
         { q with stale := false, refetches := 0, returns := 0 }) n.toNat)) ∧
     (r.st ≠ .active → exec (.ringPause n) s = .next (ringCmdErr (noteCmd s n.toNat 2))) ∧
     (r.st ≠ .paused → exec (.ringResume n) s = .next (ringCmdErr (noteCmd s n.toNat 3))) ∧
     (∀ u, u = ((noteCmd s n.toNat 4).setRing n.toNat { r with st := .off }).setRq n.toNat
         { q with fetched := [], waitMet := false, stale := false, refetches := 0, returns := 0, stalled := false, faulting := false
                  launchRec := none, launchReq := none } →
       r.st ≠ .off → exec (.ringDisable n) s = .next (q.fetched.foldl (fun s d => completeDesc s n.toNat d { status := 0x17 })
         (if r.kind then flushRing u n.toNat else u))) ∧
     (r.st = .off → exec (.ringDisable n) s = .next (ringCmdErr (noteCmd s n.toNat 4)))) ∧
  (∀ (who : BellAgent) (n : RingNo) (v : W64) (s u : State) (r : Ring) (t : W32), r = s.ring n.toNat → t = BitVec.ofNat 32 v.toNat →
     (2 ^ 32 ≤ v.toNat ∧ u = s.logTag .chm (bellSource who) 339 n.toNat ∨
      v.toNat < 2 ^ 32 ∧ isSubmitter s r who = false ∧ u = s.logTag .chm (bellSource who) 341 n.toNat ∨
      v.toNat < 2 ^ 32 ∧ isSubmitter s r who = true ∧ r.st = .off ∧ u = s ∨
      v.toNat < 2 ^ 32 ∧ isSubmitter s r who = true ∧ r.st = .error ∧ u = s.logTag .chm (bellSource who) 341 n.toNat ∨
      v.toNat < 2 ^ 32 ∧ isSubmitter s r who = true ∧ r.st ≠ .off ∧ r.st ≠ .error ∧
        (r.kind = false ∧ 2 ^ 31 ≤ (t - r.tail).toNat ∧ u = s ∨
         r.kind = false ∧ (t - r.tail).toNat < 2 ^ 31 ∧ (t - r.head).toNat ≤ ringSize r ∧ u = s.setRing n.toNat { r with tail := t } ∨
         r.kind = false ∧ (t - r.tail).toNat < 2 ^ 31 ∧ ringSize r < (t - r.head).toNat ∧
           u = ringEvent (s.setRing n.toNat { r with st := .error }) n.toNat 2 r.tail.toNat ∨
         r.kind = true ∧ (t - r.head).toNat ≤ (r.tail - r.head).toNat ∧
           u = flushRing ((s.setRing n.toNat { r with head := t }).setRq n.toNat
             { s.rq n.toNat with written := (s.rq n.toNat).written.drop (t - r.head).toNat }) n.toNat ∨
         r.kind = true ∧ (r.tail - r.head).toNat < (t - r.head).toNat ∧ u = s.logTag .chm 0 340 n.toNat)) →
     ∀ c, (c = Instr.doorbell who n v ∨ c = .recordDoorbell who n v) →
       (∀ h : HartNo, who = .core h → hartReady s h = true → (s.ht h).sb = [] → (u.ht h).lost = [] → exec c s = .next u) ∧
       (∀ h : HartNo, who = .core h → hartReady s h = true → (s.ht h).sb ≠ [] → exec c s = .next s) ∧
       (∀ p : Site, who = .tile p → canIssue (s.gr p.g) = true → (s.gr p.g).sb = [] → (u.gr p.g).lost = [] →
         exec c s = .next (u.modGr p.g (fun x => { x with pc := nextPc p }))) ∧
       (∀ p : Site, who = .tile p → canIssue (s.gr p.g) = true → (s.gr p.g).sb ≠ [] → exec c s = .next s) ∧
       (∀ h : HostLinkNo, who = .host h → (s.host h).dlup = true → ideHeld s h = false → exec c s = .next u))

/-- Descriptors of an ACTIVE submission ring are fetched in order, each with its continuation slots; a head slot with a stale lap is
fetched again at most 64 times and the 64th stale return pauses the ring with its event; a wait that is met lets the descriptor start; a
NOP and a reserved operation end at the fetch unit (R343, R346, R348). -/
def Obligations.DescriptorsAreFetchedAndWaited : Prop :=
  ∀ (n : RingNo) (s : State) (r : Ring) (q : RingQ), r = s.ring n.toNat → q = s.rq n.toNat →
    (∀ (host : List Slot) (d : Slot) (u v : State) (cs : List Slot), fetchable r = true → q.stale = false → q.fetched.length < 16 →
      readSlot s r r.head.toNat host 0 = (.data d, u) → hdLap d = lapOf r r.head.toNat → contSlots d < (r.tail - r.head).toNat →
      readCont (contSlots d) u r (r.head.toNat + 1) host 1 = (.ok cs, v) →
      exec (.descriptorFetchReturn n host) s = .next (fetchSlots 15
        ((v.setRing n.toNat { r with head := r.head + BitVec.ofNat 32 (contSlots d + 1) }).setRq n.toNat { q with
          fetched := q.fetched ++ [{ idx := r.head, head := d, cont := cs, serial := q.count }]
          count := q.count + 1, stale := false, refetches := 0, returns := 0 }) n.toNat host (1 + contSlots d))) ∧
    (∀ (host : List Slot) (d : Slot) (u : State), fetchable r = true → q.stale = false → q.fetched.length < 16 →
      readSlot s r r.head.toNat host 0 = (.data d, u) → hdLap d ≠ lapOf r r.head.toNat →
      exec (.descriptorFetchReturn n host) s = .next (u.setRq n.toNat { q with stale := true, refetches := 0, returns := 0 })) ∧
    (∀ (host : List Slot) (d : Slot) (u : State), fetchable r = true → q.stale = true → q.returns < q.refetches →
      readSlot s r r.head.toNat host 0 = (.data d, u) → hdLap d ≠ lapOf r r.head.toNat →
      (q.returns < 63 → exec (.descriptorFetchReturn n host) s = .next (u.setRq n.toNat { q with returns := q.returns + 1 })) ∧
      (q.returns = 63 → exec (.descriptorFetchReturn n host) s =
        .next (ringEvent ((u.setRq n.toNat { q with stale := false, refetches := 0, returns := 0 }).setRing n.toNat
          { r with st := .paused }) n.toNat 1 r.head.toNat))) ∧
    (fetchable r = true → q.stale = true → q.refetches < 64 →
      exec (.descriptorRefetch n) s = .next (s.setRq n.toNat { q with refetches := q.refetches + 1 })) ∧
    (∀ (d : Desc) (ds : List Desc), q.fetched = d :: ds → r.st = .active → hdWait d.head ≠ 0 → q.waitMet = false →
      waitMetNow s n.toNat d.head = true → exec (.descriptorWaitMet n) s = .next (s.setRq n.toNat { q with waitMet := true })) ∧
    (∀ (d : Desc), startable s n.toNat (hdOp d.head) = some d → q.fetched.head? = some d → hdOp d.head = 0 ∨ 9 ≤ hdOp d.head →
      exec (.nop n) s = .next (completeDesc (takeStart s n.toNat d) n.toNat d
        { status := if descBad r d.head || decide (body d.head ≠ 0) then 3 else 0 }))

/-- A descriptor of a copy engine's operation that may start, keeps the rules of its form, and has a destination whose translation is at
hand and that its context may use, is given in its ring's turn to a free engine of its die, inbound where the destination lies in the
die's memory, near memory or scratchpads and outbound otherwise; the engine then moves it on as far as it goes; where no engine is free or
another ring has its turn it waits; a context that is not valid ends it (R350, R351, R354, R356). TILEMOVE goes to a free mover of its die
and FULLER, in its ring's turn, to its die's units when they are free, which report that they have accepted it; a form that breaks its
rules ends with invalid status (R167, R205, R225). -/
def Obligations.EnginesTakeTheirDescriptors : Prop :=
  (∀ (n : RingNo) (s : State) (d : Desc) (r : Ring) (c : Instr) (op : Nat) (run : State → Nat → Job → State), r = s.ring n.toNat →
     (c = .copy n ∧ op = 1 ∧ run = copyRun ∨ c = .inlineOp n ∧ op = 2 ∧ run = inlineRun ∨ c = .reduce n ∧ op = 3 ∧ run = reduceRun ∨
      c = .atomic n ∧ op = 8 ∧ run = atomicRun) →
     startable s n.toNat op = some d →
     (descBad r d.head = true ∨ copyOpBad s d = true →
       exec c s = .next (completeDesc (takeStart s n.toNat d) n.toNat d { status := 3 })) ∧
     (∀ (va : Nat) (acc : Acc3) (die : Nat), descBad r d.head = false → copyOpBad s d = false → copyOpDest d.head = (va, acc) →
       die = r.die.toNat → xlatBusy s (.dispatch die 0) = false → inScope s r.ctx.toNat va = false →
       (∀ (l : Leaf) (kind : Nat) (u : State), findLeaf s (.dispatch die 0) r.ctx.toNat (va % 2 ^ 55) = some l →
         leafAllows l acc = true → u = fillMicro s (.dispatch die 0) l →
         kind = (if inboundPlace die (l.pbase + va % 2 ^ 55 % 2 ^ l.bits) then 0 else 1) →
         (∀ k, copyTurn s die (decide (kind = 0)) = some n.toNat → freeEngine s die kind = some k →
           exec c s = .next (settleAll (run (takeStart (setServed u die kind n.toNat) n.toNat d) k
             { ring := n.toNat, desc := d, ctx := r.ctx.toNat }))) ∧
         (copyTurn s die (decide (kind = 0)) ≠ some n.toNat ∨ freeEngine s die kind = none → exec c s = .next u)) ∧
       (findLeaf s (.dispatch die 0) r.ctx.toNat (va % 2 ^ 55) = none → (s.ctxE r.ctx.toNat).v = false →
         ∀ u, u = s.logE { src := agentLogSrc (.dispatch die 0), unit := agentUnit (.dispatch die 0), kind := 0x10, code := 6
                           ctx := some r.ctx.toNat, addr := va % 2 ^ 55 } →
         exec c s = .next (completeDesc (takeStart u n.toNat d) n.toNat d { status := 0x0E })))) ∧
  (∀ (n : RingNo) (s : State) (d : Desc) (r : Ring), r = s.ring n.toNat → startable s n.toNat 4 = some d →
     (descBad r d.head = false → tileBad s d = false →
       (∀ k, freeEngine s r.die.toNat 2 = some k → exec (.tilemove n) s =
         .next (settleAll (tileRun (takeStart s n.toNat d) k { ring := n.toNat, desc := d, ctx := r.ctx.toNat }))) ∧
       (freeEngine s r.die.toNat 2 = none → exec (.tilemove n) s = .next s)) ∧
     (descBad r d.head = true ∨ tileBad s d = true →
       exec (.tilemove n) s = .next (completeDesc (takeStart s n.toNat d) n.toNat d { status := 3 }))) ∧
  (∀ (n : RingNo) (s u : State) (d : Desc) (r : Ring) (die k : Nat) (tb : List W32), r = s.ring n.toNat → die = r.die.toNat →
     k = jobKey die 3 0 → tb = copyTable s (fuTable d.head) → u = takeStart (setServed s die 3 n.toNat) n.toNat d →
     startable s n.toNat 6 = some d →
     (descBad r d.head = true → exec (.fuller n) s = .next (completeDesc (takeStart s n.toNat d) n.toNat d { status := 3 })) ∧
     (descBad r d.head = false → (s.job k).isSome = true ∨ fullerTurn s die ≠ some n.toNat → exec (.fuller n) s = .next s) ∧
     (descBad r d.head = false → s.job k = none → fullerTurn s die = some n.toNat →
       (fullerBad d.head tb r.ctx.toNat = true → exec (.fuller n) s = .next (completeDesc u n.toNat d { status := 3 })) ∧
       (fullerBad d.head tb r.ctx.toNat = false → exec (.fuller n) s = .next (settleAll (fullerRun
         (fulStatAll u die (fulAccept (fuTable d.head) r.ctx.toNat)) k
         { ring := n.toNat, desc := d, ctx := r.ctx.toNat, table := tb })))))

/-- A LAUNCH whose record has been read and is good starts an IDLE grate's program, with the context, the entry address, the argument and
the sources that the record gives; for a RUNNING or HALTED grate it ends with busy status, and for a STOPPED one it starts at once in the
same context and begins a clear in another, the launch that was pending there ending as aborted; a bad record ends it with invalid status,
and a clear makes it wait (R113, R141, R357, R358, R586). An engine whose work has reached its ending posts its record, adds its signal
where it succeeded, and becomes free; while a record is due and the CRING cannot take it the engine waits; an engine that a home held goes
on; the return of a zero-length host read of a job ends its flush of that host and the link's run of timeouts (R173, R360, R361, R365,
R382). -/
def Obligations.LaunchesStartAndEnginesEnd : Prop :=
  (∀ (n : RingNo) (s u v : State) (d : Desc) (bs : List Byte) (w k : Nat) (g : Grate), startable s n.toNat 7 = some d →
     descBad (s.ring n.toNat) d.head = false → launchBad d.head = false →
     launchRead s n.toNat (s.ring n.toNat).die.toNat (laAddr d.head) = .got bs u → w = ofBytes bs →
     v = u.setRq n.toNat { u.rq n.toNat with launchRec := none, launchReq := none } → k = laGrate d.head → g = v.gr k →
     (recordBad u w = true → exec (.launch n) s = .next (completeDesc (takeStart v n.toNat d) n.toNat d { status := 3 })) ∧
     (recordBad u w = false → g.clearing = true → exec (.launch n) s = .next v) ∧
     (recordBad u w = false → g.clearing = false →
       (∀ t, g.st = .idle ∧ t = takeStart v n.toNat d ∨
           g.st = .stopped ∧ g.ctx.toNat = field w 320 12 ∧ t = takeStart (endLaunch v k 0x17 0) n.toNat d →
         exec (.launch n) s = .next (t.setGr k (startGrate (t.gr k)
           (BitVec.ofNat 12 (field w 320 12)) (BitVec.ofNat 64 (field w 0 64)) (BitVec.ofNat 64 (laArg d.head))
           (BitVec.ofNat 64 (field w 64 64)) (BitVec.ofNat 64 (field w 128 64)) (BitVec.ofNat 64 (field w 192 64))
           (BitVec.ofNat 64 (field w 256 64)) (some (n.toNat, d.serial))))) ∧
       (g.st = .running ∨ g.st = .halted →
         exec (.launch n) s = .next (completeDesc (takeStart v n.toNat d) n.toNat d { status := 4 })) ∧
       (g.st = .stopped → g.ctx.toNat ≠ field w 320 12 → exec (.launch n) s = .next
         ((endLaunch v k 0x17 0).modGr k (fun x => { x with clearing := true }))))) ∧
  ((∀ (n : RingNo) (idx : W32) (s : State) (k : Nat) (j : Job), jobWith jobReady s n.toNat idx.toNat = some (k, j) →
     (j.ending = none → exec (.engineCompletion n idx) s = .next (settleAll (jobGo s k))) ∧
     (∀ (e : Ending) (u v : State), j.ending = some e → u = completeDesc (s.setJob k none) j.ring j.desc e →
       v = (if e.status = 0 then descSignal u j.ring j.desc else u) →
       (recordDue j.desc e = false ∨ cringTakes s j.ring = true →
         exec (.engineCompletion n idx) s = .next (if k % 64 / 16 = 3 then fulStatAll v (k / 64) fulDone else v)) ∧
       (recordDue j.desc e = true → cringTakes s j.ring = false → exec (.engineCompletion n idx) s = .next s))) ∧
   (∀ (h : HostLinkNo) (n : RingNo) (idx : W32) (s : State) (k : Nat) (j : Job) (q : OutReq) (m : BitVec 4),
     jobWith (jobFlushes h) s n.toNat idx.toNat = some (k, j) →
     s.reqs.find? (fun q => j.reqs.contains q.id && decide (q.target = h.val) && decide (q.len = 0)) = some q →
     heldAt s h q.id = false → m = j.hostMask ^^^ BitVec.ofNat 4 (2 ^ h.val) →
     exec (.hostFlushReadReturn h n idx) s = .next ((dropReq (s.setHost h { s.host h with timeouts := 0 }) q.id).setJob k
       (some { j with hostMask := m, flushed := decide (m = 0), reqs := j.reqs.filter (· ≠ q.id)
                      wait := if m = 0 then EWait.run else .flush }))))

/-- Stream operations that succeed: WRITE loads an unused entry from its image, READ stores the entry's image, APPEND reads the chain and
raises NBLK, DEADLINE sets the fields that its mask selects, PAUSE and RESUME move the state, EXTEND raises LEN, CLOSE empties the entry;
each ends its descriptor with success, and a body that breaks R182 ends with invalid status (R179, R181 to R188, Table 6.4). A COMMIT of n
tokens on a CREATED or ACTIVE stream with room for them whose ring takes records: LEN rises by n, the last commit is now, the random
counter rises by DRAWS, LATE clears, the next deadline is n intervals from now, the state is ACTIVE or, with FINAL, FINISHED, and the
token record is posted with the entry as the commit leaves its counters; the ABANDONED state ends it with its status (R184, R186, R189,
R191, R196). A deadline that has passed: MISSES rises, LATE (or RQMISS) is set, the miss record goes to the fault ring of the stream's
context, and under POLICY 0b01 the stream is abandoned with a record of its own (R193 to R195). -/
def Obligations.StreamOperationsAndDeadlines : Prop :=
  (∀ (r : RingNo) (s u : State) (d : Desc) (i : Nat) (e : Stream) (ctx : Nat) (fin : State → List (Nat × Nat × Nat) → Res),
     startable s r.toNat 5 = some d → descBad (s.ring r.toNat) d.head = false → cringTakes s r.toNat = true →
     streamBodyBad d.head = false → i = stStream d.head → u = missesTo s i → Tab.get false u.streamBad i = false → e = u.stream i →
     ctx = (s.ring r.toNat).ctx.toNat →
     fin = (fun v extra => .next (completeDesc (takeStart v r.toNat d) r.toNat d { status := 0 } extra)) →
     (stOp d.head = 1 → e.st = 0 → ∀ bs w, physRead u .streamTable ctx (stArea d.head) 128 = (.ok, bs, w) →
       imageOk w (ofBytes bs) = true →
       exec (.streamWrite r) s = fin (w.setStream i { streamOfImage (ofBytes bs) with arm := some w.tick }) []) ∧
     (stOp d.head = 2 → e.st ≠ 0 → ∀ w, physWrite u .streamTable ctx (stArea d.head) (toBytes 128 (streamImage e)) = (.ok, w) →
       exec (.streamRead r) s = fin w []) ∧
     (stOp d.head = 3 → e.v = true → e.st = 1 ∨ e.st = 2 ∨ e.st = 3 → ∀ n node w, n = stCount d.head * (e.bps.toNat + 1) →
       e.nblk.toNat + n ≤ 16777215 → chainRead e.ctx.toNat n u (chainFrom e).1 (chainFrom e).2 = .done node w →
       exec (.streamAppend r) s =
         fin (w.setStream i { e with nblk := e.nblk + BitVec.ofNat 24 n, last := BitVec.ofNat 52 node }) []) ∧
     (stOp d.head = 5 → e.v = true → e.st = 1 ∨ e.st = 2 ∨ e.st = 3 → exec (.streamDeadline r) s = fin (u.setStream i { e with
       ndl := if bitAt (stMask d.head) 0 then BitVec.ofNat 64 (stArea d.head) else e.ndl
       late := if bitAt (stMask d.head) 0 then false else e.late
       rqd := if bitAt (stMask d.head) 1 then BitVec.ofNat 64 (stArea d.head / 2 ^ 64) else e.rqd
       tdi := if bitAt (stMask d.head) 2 then BitVec.ofNat 32 (stArea d.head / 2 ^ 128) else e.tdi
       arm := some u.tick }) []) ∧
     (stOp d.head = 6 → e.v = true → e.st = 1 ∨ e.st = 2 → exec (.streamPause r) s = fin (u.setStream i { e with st := 3 }) []) ∧
     (stOp d.head = 7 → e.v = true → e.st = 3 →
       exec (.streamResume r) s = fin (u.setStream i { e with st := if e.tok then 2 else 1 }) []) ∧
     (stOp d.head = 8 → e.st ≠ 0 → exec (.streamClose r) s =
       fin (({ u with streamBad := Tab.put false u.streamBad i false } : State).setStream i {})
         [(256, 52, e.first.toNat), (320, 24, e.nblk.toNat)]) ∧
     (stOp d.head = 9 → e.v = true → e.st = 1 ∨ e.st = 2 ∨ e.st = 3 → lenRefusal e (stCount d.head) = none →
       exec (.streamExtend r) s = fin (u.setStream i { e with len := e.len + BitVec.ofNat 22 (stCount d.head) }) [])) ∧
  (∀ (r : RingNo) (s u : State) (d : Desc) (i n : Nat) (e e1 e2 : Stream),
     startable s r.toNat 5 = some d → descBad (s.ring r.toNat) d.head = false → cringTakes s r.toNat = true →
     streamBodyBad d.head = false → stOp d.head = 4 → i = stStream d.head → u = missesTo s i →
     Tab.get false u.streamBad i = false → e = u.stream i → n = stCount d.head → e.v = true →
     (e.st = 1 ∨ e.st = 2 → lenRefusal e n = none → ringHoldsBack u e = false →
       e1 = { e with len := e.len + BitVec.ofNat 22 n, tok := true, lastc := u.tick, rctr := e.rctr + BitVec.ofNat 64 (stDraws d.head) } →
       e2 = { e1 with late := false, st := if stFinal d.head then 4 else 2
                      ndl := if e.tdi = 0 then 0 else u.tick + BitVec.ofNat 64 (n * e.tdi.toNat) } →
       exec (.streamCommit r) s = .next (completeDesc (takeStart (postStream (u.setStream i e2) qDone i e2
         (tokenRec 2 (boolNat (e.late || e.rqmiss)) i e1 n (stFinal d.head) (stArea d.head))) r.toNat d) r.toNat d { status := 0 })) ∧
     (e.st = 5 → exec (.streamCommit r) s = .next (completeDesc (takeStart u r.toNat d) r.toNat d { status := 9 }))) ∧
  ((∀ (i : StreamNo) (s : State), tokenDue s (s.stream i.toNat) = true ∨ requestDue s (s.stream i.toNat) = true →
     exec (.deadlineMiss i) s =
       .next (s.streams.foldl (fun (v : State) e => if e.1 ≤ i.toNat then missEntry v e.1 else v) s)) ∧
   (∀ (i : Nat) (s : State) (e : Stream), e = s.stream i → tokenDue s e = true → requestDue s e = false → e.misses.toNat < 255 →
     (s.ring e.ring.toNat).policy.toNat ≠ 1 → (s.ring e.ring.toNat).policy.toNat ≠ 2 →
     missEntry s i = postFring (s.setStream i { e with misses := e.misses + 1, late := true }) qDeadline e.ctx.toNat
       (faultRec 0x11 1 e.ctx.toNat .streamTable false none s.tick.toNat 0
         [(256, 14, i), (272, 2, 0), (276, 22, e.len.toNat), (320, 64, e.ndl.toNat), (384, 8, e.misses.toNat + 1)])))

/-- A packet on an UP link whose window admits it is performed in the window's context and answered: a write, all bytes or those that its
mask names, and a merge are counted by the window's tally and acknowledged, an atomic returns the old value and a read the bytes; a packet
that no window admits performs nothing, is logged and is refused with cause 0 (R137, R256, R257, R420, R434 to R437). An answer to this
module's own request is given to the agent that asked, an acknowledgement to a writer and data to a reader; an error, and 225,000 ticks
without an answer, end the request in failure; a packet for another position goes on to a link of its route with its hop class raised and
counted, and is discarded with an error to its sender after the last hop class (R253, R263, R422, R438). -/
def Obligations.PacketsAndAnswersAreCarriedOut : Prop :=
  (∀ (p : Pkt) (s u : State) (a : Admit) (answer : State → FlueMsg → State), linkUp s p.f = true →
     answer = (fun v m => flueSend v p.f (.flue p.f p.spos m)) →
     (∀ data en n, n = ((List.range data.length).filter (fun i => en.getLsbD (p.off.toNat % 128 + i))).length →
       0 < data.length → p.off.toNat % 128 + data.length ≤ 128 → pktAdmit s p data.length .write = some a →
       (n = data.length → checkExtent s (.flueLink p.f) a.ctx .write a.pa data.length = (.ok, u) →
         exec (.flueWrite p en data) s =
           .next (settleAll (answer (countTally (rawWrite u a.pa data) a.tally data.length) (.ack p.id)))) ∧
       (∀ acc : Acc3, n < data.length → ((∃ g off, placeOf a.pa = .spad g off) → acc = .write) →
         ((∀ g off, placeOf a.pa ≠ .spad g off) → acc = .atomic) → checkExtent s (.flueLink p.f) a.ctx acc a.pa data.length = (.ok, u) →
         exec (.flueWrite p en data) s = .next (settleAll (answer (countTally
           (rawWrite u a.pa (mergeMask (rawRead u a.pa data.length) data en (p.off.toNat % 128))) a.tally n) (.ack p.id))))) ∧
     (∀ norm data bs, 0 < data.length → p.off.toNat % 128 + data.length ≤ 128 → data.length % 32 = 0 → p.off.toNat % 32 = 0 →
       (norm = true → data.length = 128) → pktAdmit s p data.length (.merge norm) = some a →
       checkExtent s (.flueLink p.f) a.ctx .atomic a.pa data.length = (.ok, u) →
       mergeWords norm (rawRead u a.pa data.length) data = some bs →
       exec (.flueMerge p norm data) s =
         .next (settleAll (answer (countTally (rawWrite u a.pa bs) a.tally data.length) (.ack p.id)))) ∧
     (∀ (op : AOp) (wide : Bool) (v c : W64) (n old : Nat), n = (if wide then 8 else 4) → p.off.toNat % n = 0 → pktAdmit s p n .atomic = some a →
       physAtomic s (.flueLink p.f) a.ctx a.pa n op v.toNat c.toNat = (.ok, old, u) →
       exec (.flueAtomic p op wide v c) s =
         .next (settleAll (answer (countTally u a.tally n) (.data p.id (toBytes n old))))) ∧
     (∀ len : BitVec 8, 0 < len.toNat → p.off.toNat % 128 + len.toNat ≤ 128 → pktAdmit s p len.toNat .read = some a →
       ∀ bs, physRead s (.flueLink p.f) a.ctx a.pa len.toNat = (.ok, bs, u) →
       exec (.flueRead p len) s = .next (settleAll (answer u (.data p.id bs))))) ∧
  (∀ (p : Pkt) (s t : State), linkUp s p.f = true →
     t = flueSend (s.logE { src := .flu, unit := p.f, tag := 137, addr := p.off.toNat, data := p.spos }) p.f
       (.flue p.f p.spos (.err p.id 0)) →
     (∀ data en, 0 < data.length → p.off.toNat % 128 + data.length ≤ 128 → pktAdmit s p data.length .write = none →
       exec (.flueWrite p en data) s = .next t) ∧
     (∀ norm data, 0 < data.length → p.off.toNat % 128 + data.length ≤ 128 → data.length % 32 = 0 → p.off.toNat % 32 = 0 →
       (norm = true → data.length = 128) → pktAdmit s p data.length (.merge norm) = none → exec (.flueMerge p norm data) s = .next t) ∧
     (∀ (op : AOp) (wide : Bool) (v c : W64) (n : Nat), n = (if wide then 8 else 4) → p.off.toNat % n = 0 → pktAdmit s p n .atomic = none →
       exec (.flueAtomic p op wide v c) s = .next t) ∧
     (∀ len : BitVec 8, 0 < len.toNat → p.off.toNat % 128 + len.toNat ≤ 128 → pktAdmit s p len.toNat .read = none →
       exec (.flueRead p len) s = .next t)) ∧
  ((∀ (id : Nat) (s : State) (r : OutReq), reqOf s id = some r → r.toHost = false →
     (r.kind = .write → exec (.flueAck id) s = .next (settleAll (giveAck s r))) ∧
     (∀ data, r.kind ≠ .write → data.length = r.len → exec (.flueData id data) s = .next (settleAll (giveData s r data))) ∧
     exec (.flueErr id .noRoute) s = .next (settleAll (giveErr s r .targetLost false)) ∧
     exec (.flueErr id .refused) s = .next (settleAll (giveErr s r .remoteErr false)) ∧
     exec (.flueErr id .residue) s = .next (settleAll (giveErr s r .remoteErr true)) ∧
     (225000 ≤ s.elapsed - r.since → exec (.flueReadTimeout id) s = .next (settleAll (giveErr s r .targetLost false)))) ∧
   (∀ (id : Nat) (s : State) (data : List Byte) (why : FlueErrWhy), reqOf s id = none → id < s.nextReq →
     exec (.flueAck id) s = .next s ∧ exec (.flueData id data) s = .next s ∧ exec (.flueErr id why) s = .next s) ∧
   (∀ (f : FlueLinkNo) (src dest : Position) (hop : BitVec 2) (addr : BitVec 52) (len : BitVec 8) (id : Nat) (s : State),
     ¬ (s.group.mv = true ∧ s.group.mypos.toNat = dest.val) → linkUp s f = true →
     (∀ out key, pickLink s dest addr.toNat = some out → hop.toNat < 2 → key = out * 16 + s.flue.fwdClass.toNat →
       exec (.flueForward f src dest hop addr len id) s = .next (flueSend { s with flue := { s.flue with
         clsBytes := Tab.put 0 s.flue.clsBytes key (Tab.get 0 s.flue.clsBytes key + BitVec.ofNat 64 len.toNat) } } out
         (.flue out dest (.ctrl 0x46 [src, hop.toNat + 1, addr.toNat, len.toNat, id])))) ∧
     (pickLink s dest addr.toNat = none ∨ 2 ≤ hop.toNat →
       exec (.flueForward f src dest hop addr len id) s = .next (flueSend s f (.flue f src (.err id 1))))))

/-- A link comes up in the steps of Table 14.5: the retrain timer starts training 10 ms after it went down, training ends with the width
of the lanes that passed, attestation sets keys and enters PROBATION with cleared statistics, probation of 1 s with clean statistics ends
in CTRLONLY, and a link whose ends are members of one table becomes UP (R413, R416, R417, R432, R536, R537). A link goes down with the
cause that R416 and Table 14.5 give: a flit whose eight replays failed, two second replays within 2^30 flits, loss of signal or lock, the
far end, no lanes, a training of 250 ms, a failed attestation, a probation with errors, a flit whose tag fails, and the count of flits
that keys may carry (R413, R415 to R417, R539, R540). -/
def Obligations.FlueLinksComeUpAndGoDown : Prop :=
  (∀ (f : FlueLinkNo) (s : State) (x : FlueLink), x = s.fl f →
     (x.st = .down → x.en = true → 2250000 ≤ s.elapsed - x.since → exec (.flueRetrainTimer f) s =
       .next (putFl s f { x with st := .training, since := s.elapsed })) ∧
     (∀ lanes, x.st = .training → widthOf lanes ≠ 0 → exec (.flueTrainingDone f lanes) s =
       .next (putFl s f { x with st := .attest, width := widthOf lanes, since := s.elapsed })) ∧
     (∀ a : AttestIn, x.st = .attest → a.chainOk = true → a.listed = true → a.invasive = false → a.idh ≠ Config.ownIdh →
       exec (.flueAttestDone f a) s = .next (putFl s f { x with
         st := .probation, keyed := true, idh := a.idh, flits := 0, replays := 0, second := 0, secondAt := [], crcRun := 0
         sentFlits := 0, keyGen := x.keyGen + 1, keyNext := none, since := s.elapsed })) ∧
     (x.st = .probation → 225000000 ≤ s.elapsed - x.since → x.second = 0 → x.replays.toNat < 4096 →
       exec (.probationEnd f) s = .next (putFl s f { x with st := .ctrlonly })) ∧
     (x.st = .ctrlonly → x.admitted = true → x.pv = true → isMember s = true → (s.memb x.peerpos.toNat).st = 1 →
       (s.memb x.peerpos.toNat).idh = x.idh → x.holdctl = false →
       exec (.flueLinkUp f true true false) s = .next (putFl s f { x with st := .up, farHold := false }))) ∧
  (∀ (f : FlueLinkNo) (s : State) (x : FlueLink), x = s.fl f →
     (trainedSt x.st = true → 9 ≤ x.crcRun → exec (.flueReplayFail f) s = .next (linkDown s f 5)) ∧
     (x.st = .ctrlonly ∨ x.st = .up → ∀ a b rest, x.secondAt = a :: b :: rest → a - b < 2 ^ 30 →
       exec (.flueErrrate f) s = .next (linkDown s f 7)) ∧
     (x.st = .training ∨ trainedSt x.st = true → exec (.flueLos f) s = .next (linkDown s f 1) ∧
       exec (.flueLockLost f) s = .next (linkDown s f 2) ∧ exec (.flueRemoteDown f) s = .next (linkDown s f 9)) ∧
     (∀ lanes, x.st = .training → widthOf lanes = 0 → exec (.flueTrainingDone f lanes) s = .next (linkDown s f 0xC)) ∧
     (x.st = .training → 56250000 ≤ s.elapsed - x.since → exec (.flueTrainingTimeout f) s = .next (linkDown s f 3)) ∧
     (∀ a : AttestIn, x.st = .attest → a.chainOk = false ∨ a.listed = false ∨ a.invasive = true ∨ a.idh = Config.ownIdh →
       exec (.flueAttestDone f a) s = .next (linkDown s f 4)) ∧
     (x.st = .probation → 225000000 ≤ s.elapsed - x.since → x.second ≠ 0 ∨ 4096 ≤ x.replays.toNat →
       exec (.probationEnd f) s = .next (linkDown s f 8)) ∧
     (∀ kind hdr second, trainedSt x.st = true → x.keyed = true →
       exec (.flueFlitReceive f ⟨kind, hdr⟩ true false second) s = .next (linkDown s f 6)) ∧
     (x.keyed = true → 2 ^ 40 ≤ x.sentFlits + 1 → exec (.flueKeyUpdate f) s = .next (linkDown s f 6)))

/-- Flits and keys of a trained link: a flit that fails its CRC is counted and its replay asked for, and one that needed a second replay is
noted with the count of flits; one that passes under keys is counted, has the next sequence number, acknowledges what was sent and may ask
for the rest again, and the flit that the KEY packet named is the first under the new key; without keys only an attestation's flits are
taken; at 2^39 flits the end of the lower IDH names the number of its new key, and the other waits for it (R415 to R417, R536, R539,
R540). The link control register: EN 1 enables a link and starts the training of a DISABLED one, EN 0 disables it with cause CTRL,
RETRAIN takes a working link down with the same cause, HOLDCTL holds an UP link in CTRLONLY, and LOOP puts a DOWN or DISABLED link into
LOOPBACK and takes it back, while elsewhere a 1 is ignored and logged (R416, R418, R432; log 33, log 35). -/
def Obligations.FlueFlitsKeysAndControl : Prop :=
  (∀ (f : FlueLinkNo) (s : State) (x : FlueLink), x = s.fl f →
     (∀ kind hdr tagOk second, trainedSt x.st = true ∨ x.st = .loopback →
       exec (.flueFlitReceive f ⟨kind, hdr⟩ false tagOk second) s = .next ((s.setFl f { x with
         replays := satAdd x.replays 1, crcRun := x.crcRun + 1, second := if second then satAdd x.second 1 else x.second
         secondAt := if second then (x.flits.toNat :: x.secondAt).take 2 else x.secondAt }).emit
         (.flue f 64 (.replay (x.rxSeq + 1).toNat)))) ∧
     (∀ kind hdr tagOk second, x.st = .loopback →
       exec (.flueFlitReceive f ⟨kind, hdr⟩ true tagOk second) s = .next (s.setFl f { x with flits := x.flits + 1 })) ∧
     (∀ kind hdr tagOk second, trainedSt x.st = true → x.keyed = false → x.st ≠ .attest ∨ kind ≠ 1 →
       exec (.flueFlitReceive f ⟨kind, hdr⟩ true tagOk second) s = .next s) ∧
     (∀ kind hdr tagOk second v, trainedSt x.st = true → x.keyed = true ∧ tagOk = true ∨ x.keyed = false ∧ x.st = .attest ∧ kind = 1 →
       (x.keyNext ≠ some (x.rxSeq + 1).toNat →
         v = flueAcked (s.setFl f { x with flits := x.flits + 1, rxSeq := x.rxSeq + 1, crcRun := 0 }) f hdr.ack →
         exec (.flueFlitReceive f ⟨kind, hdr⟩ true tagOk second) s = .next (if hdr.replay then flueReplay v f else v)) ∧
       (x.keyNext = some (x.rxSeq + 1).toNat →
         v = flueAcked (s.setFl f { x with flits := x.flits + 1, rxSeq := x.rxSeq + 1, crcRun := 0, keyGen := x.keyGen + 1
                                           keyNext := none }) f hdr.ack →
         exec (.flueFlitReceive f ⟨kind, hdr⟩ true tagOk second) s = .next (if hdr.replay then flueReplay v f else v))) ∧
     (∀ seq : BitVec 12, trainedSt x.st = true → x.keyed = true →
       exec (.key f seq) s = .next (s.setFl f { x with keyNext := some seq.toNat })) ∧
     (x.keyed = true → 2 ^ 39 ≤ x.sentFlits → x.sentFlits + 1 < 2 ^ 40 →
       exec (.flueKeyUpdate f) s = .next (if Config.ownIdh.toNat ≤ x.idh.toNat then
         flueSend (s.setFl f { x with sentFlits := 0, keyGen := x.keyGen + 1 }) f (.flue f 64 (.key (x.txSeq + 2).toNat)) else s))) ∧
  (∀ (f : FlueLinkNo) (s : State) (x : FlueLink), x = s.fl f →
     (x.st = .disabled → exec (.fluLinkEn f true) s = .next (putFl s f { x with en := true, st := .training, since := s.elapsed }) ∧
       exec (.fluLinkEn f false) s = .next (s.setFl f { x with en := false })) ∧
     (x.st ≠ .disabled → exec (.fluLinkEn f true) s = .next (putFl s f { x with en := true }) ∧
       exec (.fluLinkEn f false) s = .next (linkDown (s.setFl f { x with en := false }) f 0xA .disabled)) ∧
     (x.st ≠ .down → x.st ≠ .disabled → exec (.fluLinkRetrain f) s = .next (linkDown s f 0xA)) ∧
     (x.st = .down ∨ x.st = .disabled → exec (.fluLinkRetrain f) s = .next s) ∧
     (x.st = .up → exec (.fluLinkHoldctl f true) s = .next (putFl s f { x with holdctl := true, st := .ctrlonly })) ∧
     (∀ hold, hold = false ∨ x.st ≠ .up → exec (.fluLinkHoldctl f hold) s = .next (putFl s f { x with holdctl := hold })) ∧
     (x.st = .down ∨ x.st = .disabled → exec (.fluLinkLoop f true) s =
       .next (settleTest (putFl s f { x with loop := true, st := .loopback }))) ∧
     (x.st = .loopback → exec (.fluLinkLoop f true) s = .next s ∧ exec (.fluLinkLoop f false) s = .next (settleTest (putFl s f { x with
       loop := false, st := if x.en then .down else .disabled, since := s.elapsed }))) ∧
     (x.st ≠ .loopback → exec (.fluLinkLoop f false) s = .next s) ∧
     (x.st = .training ∨ trainedSt x.st = true → exec (.fluLinkLoop f true) s = .next (s.logTag .flu f 418 0)))

/-- A group forms: a forming module collects the authenticated offers of configured positions of its own group, an own offer that is the
lowest makes it the master of the founding table when every position has offered or the window of 5 s is over, a founder that the table
names adopts it, steps to its start and acknowledges it, the master notes each acknowledgement and ends the window with the positions that
sent none EMPTY in the next epoch (R424, R425, Table 14.8). Changes of the membership table: a member takes the master's next change in
epoch order and ignores an older one, a report of a dead position makes it dead here, the master holds a join request until its runtime
admits it, admits the oldest joiner of a free position and empties a position, and a module that is not the master sets the command's
error instead; a message that fails its authentication is refused and changes no table (R426 to R429, R557, R609). -/
def Obligations.GroupsFormAndChangeInOrder : Prop :=
  ((∀ (m : OfferMsg) (s : State), m.auth = true → s.group.gst = .forming → m.gid = s.stoker.cfg.gid → m.gpv = s.kindle.gpv →
     s.stoker.cfg.pmask.getLsbD m.pos.val = true → exec (.formOffer m) s = .next { s with group := { s.group with
       offers := s.group.offers.filter (fun o => decide (o.pos ≠ m.pos.val)) ++
         [{ pos := m.pos.val, idh := m.idh, count := m.count }] } }) ∧
   (∀ (s : State) (t : Nat), s.group.offerSent = some t → s.group.gst = .forming →
     allOffered s = true ∨ 1125000000 ≤ s.elapsed - t →
     (s.group.offers.foldl (fun n o => min n o.pos) 64 = s.group.mypos.toNat → exec .offerWindowEnd s = .next (foundTable s)) ∧
     (s.group.offers.foldl (fun n o => min n o.pos) 64 ≠ s.group.mypos.toNat →
       exec .offerWindowEnd s = .next { s with group := { s.group with offerSent := none } })) ∧
   (∀ (epoch : W32) (mpos : Position) (start : W64) (l : List MembIn) (s u : State), l.length ≤ 64 → s.group.gst = .forming →
     (Tab.get {} (tableOf l) s.group.mypos.toNat : Memb).st = 1 →
     u = { s with group := { s.group with gst := .member, epoch := epoch, mpos := BitVec.ofNat 6 mpos.val, mv := true,
                                          memb := tableOf l, tbSync := true, tbLock := true } } →
     exec (.table epoch mpos start l true) s =
       .next (sendCtrl (stepTick u start) mpos 3 [epoch.toNat, s.group.mypos.toNat])) ∧
   (∀ (epoch : W32) (pos : Position) (s : State), s.group.tableSent.isSome = true → epoch = s.group.epoch →
     exec (.ack epoch pos true) s = .next { s with group := { s.group with acks := s.group.acks ++ [pos.val] } }) ∧
   (∀ (s u : State) (t : Nat) (missing : List Nat), s.group.tableSent = some t →
     missing = (members s).filter (fun p => decide (p ≠ s.group.mypos.toNat) && !(s.group.acks.contains p)) →
     u = { s with group := { s.group with tableSent := none, acks := [] } } →
     (missing = [] → exec .ackWindowEnd s = .next u) ∧
     (missing ≠ [] → 225000000 ≤ s.elapsed - t → exec .ackWindowEnd s =
       .next (missing.foldl (fun s p => sendMembers s 5 [(u.group.epoch + 1).toNat, p, 0, 0])
         (missing.foldl (fun s p => putMemb s p 0 (u.group.epoch + 1) 0) u))))) ∧
  ((∀ (src : Position) (epoch : W32) (pos : Position) (st : BitVec 2) (idh : W64) (s : State), s.group.gst = .member → st ≠ 3 →
     s.group.mv = true → s.group.mpos.toNat = src.val →
     (epoch = s.group.epoch + 1 → exec (.group src epoch pos st idh true) s =
       .next (newMaster (applyHeld (s.group.held.length + 1) (putMemb s pos st epoch idh)))) ∧
     (epoch.toNat < s.group.epoch.toNat → s.group.epoch.toNat < 2 ^ 32 - 1 → exec (.group src epoch pos st idh true) s = .next s) ∧
     exec (.group src epoch pos st idh false) s = .next ((s.emit (.mgmt 0xFF [5])).logStk 9 5)) ∧
   (∀ (pos reporter : Position) (s : State), isMember s = true → (s.memb reporter.val).st = 1 →
     exec (.dead pos reporter true) s = .next (settleAll (positionLost s pos false))) ∧
   (∀ (m : OfferMsg) (s : State), m.auth = true → isMaster s = true → m.gid = s.stoker.cfg.gid → m.gpv = s.kindle.gpv →
     (s.memb m.pos.val).st ≠ 1 → exec (.joinReq m) s = .next { s with group := { s.group with
       joins := s.group.joins ++ [{ pos := m.pos.val, idh := m.idh, count := m.count }] } }) ∧
   (∀ (pos : Position) (s : State),
     (isMaster s = true → exec (.membSetEmpty pos) s = .next (membChange (cmdErr s pos 1 false) pos 0 0)) ∧
     (isMaster s = false → exec (.membSetEmpty pos) s = .next (cmdErr s pos 1 true)) ∧
     (isMaster s = false ∨ (s.memb pos.val).st = 1 ∨ s.group.joins.filter (fun j => decide (j.pos = pos.val)) = [] →
       exec (.membAdmit pos) s = .next (cmdErr s pos 2 true))) ∧
   (∀ (pos : Position) (s : State) (j : Offer) (rest : List Offer), isMaster s = true → (s.memb pos.val).st ≠ 1 →
     s.group.joins.filter (fun j => decide (j.pos = pos.val)) = j :: rest →
     exec (.membAdmit pos) s = .next (rest.foldl (fun s x => s.logTag .flu 0 609 x.pos)
       (membChange (cmdErr s pos 2 false) pos 1 j.idh))))

/-- Hellos and the peers they keep alive: every 10 ms a hello with this module's role, position, policy, count, identity and master leaves
on every trained link with keys; a hello of the link's peer keeps the peer alive and sets the link's position, one of a new peer of
another policy is refused with an event, one that says goodbye departs the peer, one that names another master takes an UP link back, and
a peer that has sent none for 6,750,001 ticks is dead (R385 to R389, R430). The timebase: a tick, after the misses and the array errors of
it, of a locked reference raises the count by one, a held count does not rise, a follower that lags adds one count each 4,096 ticks and
one that leads suppresses one; the master sends its count on every trained link each millisecond, and a follower takes the count of a
neighbour and passes its own on (R431, R433). -/
def Obligations.HellosAndTheTimebase : Prop :=
  ((∀ (s : State) (pv : Bool), 2250000 ≤ s.elapsed - s.group.lastHello → (pv = true ↔ s.group.gst = .member ∨ s.group.gst = .forming) →
     exec .helloSend s = .next (flueSendAll { s with group := { s.group with lastHello := s.elapsed, helloSeq := s.group.helloSeq + 1 } }
       ((trainedLinks s).filter (fun f => (s.fl f).keyed))
       (.hello [1, helloRole s, boolNat pv, if pv then s.group.mypos.toNat else 0, s.kindle.gpv.toNat, s.group.helloSeq.toNat,
         s.tick.toNat, Config.ownIdh.toNat, s.group.mpos.toNat, boolNat s.group.mv]))) ∧
   (∀ (f : FlueLinkNo) (p : BitVec 256) (s : State) (l : FlueLink), l = s.fl f → trainedSt l.st = true → l.keyed = true →
     field p.toNat 0 8 = 1 → field p.toNat 18 14 = 0 → field p.toNat 48 16 = 0 → field p.toNat 231 25 = 0 →
     BitVec.ofNat 64 (field p.toNat 160 64) = l.idh →
     ((peerOf s l.idh).isSome = true ∨ field p.toNat 32 16 = s.kindle.gpv.toNat →
       (field p.toNat 8 3 = 3 → exec (.hello f p) s = .next (settleAll (peerGone s l.idh true))) ∧
       (field p.toNat 8 3 = 0 ∨ field p.toNat 8 3 = 2 →
         exec (.hello f p) s = .next (helloPeer s f l.idh (bitAt p.toNat 11) (field p.toNat 12 6) (decide (field p.toNat 8 3 = 2)))) ∧
       (field p.toNat 8 3 = 1 → ∀ v, v = (if bitAt p.toNat 230 then
           joinGroup (helloPeer s f l.idh (bitAt p.toNat 11) (field p.toNat 12 6) false) (field p.toNat 224 6)
           else helloPeer s f l.idh (bitAt p.toNat 11) (field p.toNat 12 6) false) →
         (isMember v = false ∨ v.group.mv = false ∨ bitAt p.toNat 230 = false ∨ field p.toNat 224 6 = v.group.mpos.toNat →
           exec (.hello f p) s = .next v) ∧
         (isMember v = true → v.group.mv = true → bitAt p.toNat 230 = true → field p.toNat 224 6 ≠ v.group.mpos.toNat →
           exec (.hello f p) s = .next (State.logTag (if (v.fl f).st = .up then putFl v f { v.fl f with st := .ctrlonly } else v)
             .flu f 430 (field p.toNat 224 6))))) ∧
     (peerOf s l.idh = none → field p.toNat 8 3 ≤ 3 → field p.toNat 32 16 ≠ s.kindle.gpv.toNat →
       exec (.hello f p) s = .next (partnerEvent s .flu 0x15 (field p.toNat 12 6) 0))) ∧
   (∀ (idh : W64) (s : State) (x : Peer), peerOf s idh = some x → 6750001 ≤ s.elapsed - x.last →
     exec (.peerWatchdogExpiry idh) s = .next (settleAll (peerGone s idh false)))) ∧
  ((∀ (upset : Option ArrayUpset) (s w u : State),
     w = upset.elim (vecRunAll (missesTo s 16383)) (arrayUpset (vecRunAll (missesTo s 16383))) →
     u = offerDue (runBursts { w with elapsed := w.elapsed + 1 }) →
     (u.power.clk.rlock = false → exec (.timebaseTick upset) s = .next u) ∧
     (u.power.clk.rlock = true → u.group.tbHold = false → u.group.slew = 0 ∨ u.elapsed - u.group.slewFrom < 4096 →
       exec (.timebaseTick upset) s = .next { u with tick := u.tick + 1 }) ∧
     (u.power.clk.rlock = true → u.group.tbHold = true → exec (.timebaseTick upset) s =
       .next { u with group := { u.group with slew := u.group.slew + 1, tbHold := decide (u.group.slew + 1 < 0) } }) ∧
     (u.power.clk.rlock = true → u.group.tbHold = false → 0 < u.group.slew → 4096 ≤ u.elapsed - u.group.slewFrom →
       exec (.timebaseTick upset) s =
         .next { u with tick := u.tick + 2, group := { u.group with slew := u.group.slew - 1, slewFrom := u.elapsed } }) ∧
     (u.power.clk.rlock = true → u.group.tbHold = false → u.group.slew < 0 → 4096 ≤ u.elapsed - u.group.slewFrom →
       exec (.timebaseTick upset) s =
         .next { u with group := { u.group with slew := u.group.slew + 1, slewFrom := u.elapsed } })) ∧
   (∀ s : State, isMaster s = true → 225000 ≤ s.elapsed - s.group.lastSync → exec .syncSend s =
     .next (flueSendAll { s with group := { s.group with lastSync := s.elapsed } } (trainedLinks s) (.sync s.tick))) ∧
   (∀ (f : FlueLinkNo) (count : W64) (s u : State), trainedSt (s.fl f).st = true →
     (isMaster s = true ∨ (s.group.gst ≠ .member ∧ s.group.gst ≠ .joining) → exec (.sync f count) s = .next s) ∧
     (isMaster s = false → s.group.gst = .member ∨ s.group.gst = .joining → u = follow s count →
       exec (.sync f count) s = .next (flueSendAll u ((trainedLinks u).filter (fun k => decide (k ≠ f.val))) (.sync u.tick)))))

/-- A bundle comes up: a full bring-up puts both its sides into TRAINING, one after a reset keeps the map of the side that did not reset,
a bundle that OFF holds stays DISABLED, and at the end both sides have the width that the lanes good in both directions allow, their lane
maps and no replays, UP or, below 16 lanes, DISABLED (R396, R411, Table 13.4, Table 13.10). A bundle in service: an error at one side
makes the far end replay a number of flits that the spec leaves open within its replay buffer, eight replays or a request retrain it with
its event, a handshake that takes 10 ms and OFF disable it, and a route whose markers have come back carries messages again (R393, R396,
R405, R408, R410; log 36, log 37). -/
def Obligations.BundlesComeUpAndAreRetrained : Prop :=
  (∀ (x : Side) (s : State) (d b : Nat), sideOk x = true → (d, b) = farEnd x.die x.b →
     ((s.bundle x.die x.b).st = .down ∨ (s.bundle x.die x.b).st = .disabled → (s.bundle d b).st = .down ∨ (s.bundle d b).st = .disabled →
       (heldOff s x.die x.b = false → exec (.bundleBringUp x) s =
         .next (restripe s (bothSides s x.die x.b (fun y => { y with st := .training, width := 0, kept := false })))) ∧
       (heldOff s x.die x.b = true → exec (.bundleBringUp x) s = .next (bothSides s x.die x.b toDisabled))) ∧
     ((s.bundle d b).st = .down → (s.bundle x.die x.b).st ≠ .loopback → (s.bundle x.die x.b).st = .disabled ∨ heldOff s x.die x.b = true →
       exec (.keptMapBringUp x) s = .next (bothSides s x.die x.b toDisabled)) ∧
     ((s.bundle d b).st = .down → (s.bundle x.die x.b).st ≠ .loopback → (s.bundle x.die x.b).st ≠ .disabled → heldOff s x.die x.b = false →
       exec (.keptMapBringUp x) s = .next (restripe s (setBundleSt
         (bothSides s x.die x.b (fun y => { y with st := .training, width := 0, kept := false })) x.die x.b
         (fun y => { y with kept := true })))) ∧
     (∀ rx tx, (s.bundle x.die x.b).st = .training → exec (.bringUpDone x rx tx) s = .next (endTraining s x.die x.b rx tx)) ∧
     (∀ rx tx t w, exec (.bringUpDone x rx tx) s = .next t → (s.bundle x.die x.b).kept = false → (s.bundle d b).kept = false →
       w = widthFor (min (popCount rx) (popCount tx)) →
       (t.bundle d b).st = (if w = 0 then .disabled else .up) ∧ (t.bundle d b).width = BitVec.ofNat 2 w ∧
       (t.bundle d b).replays = 0 ∧ (t.bundle d b).rxmap = laneMap (widthLanes w) tx)) ∧
  (∀ (x : Side) (s : State) (d b : Nat), sideOk x = true → (d, b) = farEnd x.die x.b →
     (∀ n u, (s.bundle x.die x.b).st = .up → takeFree 9 s = (n, u) → exec (.bundleCrcError x) s =
       .next (setBundleSt u d b (fun y => { y with replays := satAdd y.replays (n.toNat + 1) }))) ∧
     (heldOff s x.die x.b = false → (s.bundle x.die x.b).st ≠ .training → (s.bundle x.die x.b).st ≠ .loopback →
       exec (.bundleRetrain x) s = .next (beginTraining (fabricEvent s x.die x.b 0 4) x.die x.b) ∧
       ((s.bundle x.die x.b).st = .up → 8 ≤ (s.bundle x.die x.b).replays.toNat →
         exec (.bundleReplayThreshold x) s = .next (beginTraining (fabricEvent s x.die x.b 0 4) x.die x.b))) ∧
     (heldOff s x.die x.b = true ∨ (s.bundle x.die x.b).st = .training ∨ (s.bundle x.die x.b).st = .loopback →
       exec (.bundleRetrain x) s = .next s) ∧
     ((s.bundle x.die x.b).st = .training →
       exec (.sidebandTimeout x) s = .next (restripe s (fabricEvent (bothSides s x.die x.b toDisabled) x.die x.b 0 3))) ∧
     (exec (.bundleOff x false) s = .next (setBundleSt s x.die x.b (fun y => { y with off := false }))) ∧
     (∀ u, u = setBundleSt s x.die x.b (fun y => { y with off := true }) → 
       (u.bundle x.die x.b).st ≠ .loopback → exec (.bundleOff x true) s = .next (disableBundle u x.die x.b)) ∧
     (∀ u, u = setBundleSt s x.die x.b (fun y => { y with off := true }) → (u.bundle x.die x.b).st = .loopback →
       exec (.bundleOff x true) s = .next u) ∧
     (∀ (i j : Fin 5), draining s i j = true →
       exec (.routeDrainMarker i j) s = .next (fabricGo (routeEvent (setDraining s i j false) i 5))))

/-- The stand-alone die test: Stoker or Thirun enables it on a die whose bundles are all DOWN or DISABLED, which loops them back, and ends
it, which takes them DOWN; GO within the permitted count of bits sets BUSY, and at its end BUSY clears with the count of bundles with too
few good lanes; EN with another bundle in use and GO without EN or outside the count set ERR (R399, R400). -/
def Obligations.DieTestsRunToTheirEnd : Prop :=
  ∀ (die : Fin 5) (who : DevAgent) (s : State) (x : DieTest), x = s.test die → x.busy = false → who = .stoker ∨ who = .thirun →
    (x.en = false → (∀ b ∈ bundlesOf die, (s.bundle die b).st = .down ∨ (s.bundle die b).st = .disabled) →
      exec (.dietestEn die who true) s = .next (settleAll (settleTest ((bundlesOf die).foldl
        (fun s b => setBundleSt s die b (fun y => { y with st := .loopback, width := 0 })) (s.setTest die { x with en := true }))))) ∧
    (x.en = false → ∀ b ∈ bundlesOf die, (s.bundle die b).st ≠ .down → (s.bundle die b).st ≠ .disabled →
      exec (.dietestEn die who true) s = .next (settleAll (s.setTest die { x with err := true }))) ∧
    (x.en = true → exec (.dietestEn die who false) s = .next (settleAll (settleTest ((bundlesOf die).foldl
      (fun s b => setBundleSt s die b (fun y => { y with st := .down, width := 0, rxmap := 0, txmap := 0 }))
      (s.setTest die { x with en := false }))))) ∧
    (exec (.dietestEn die who x.en) s = .next (settleAll s)) ∧
    (x.en = true → 20 ≤ x.log2ui.toNat → x.log2ui.toNat ≤ 30 →
      exec (.dietestGo die who) s = .next (settleAll (s.setTest die { x with busy := true }))) ∧
    (x.en = false ∨ x.log2ui.toNat < 20 ∨ 30 < x.log2ui.toNat →
      exec (.dietestGo die who) s = .next (settleAll (s.setTest die { x with err := true }))) ∧
    (∀ (t u : State) (good : List (BitVec 68)), t.test die = { x with busy := true } → good.length = (bundlesOf die).length →
      u = good.zipIdx.foldl (fun s (e : BitVec 68 × Nat) => setBundleSt s die e.2 (fun y => { y with rxmap := e.1 })) t →
      exec (.dietestDone die good) t = .next (u.setTest die { x with
        busy := false, fails := BitVec.ofNat 7 (good.filter (fun v => decide (popCount v < 64))).length }))

/-- A host's link comes up where its port lets it train at its rate and width and it is then asked for its generation word; the word that
comes is kept, and one that is unchanged after a loss lets the host's rings go on while another turns them OFF (R366, R367, R383, Table
11.14; log 38, log 39). A host is lost with the cause of Table 12.7: its link goes down, a snoop stays unanswered beyond 225,000 ticks, a
request is the third in a row to do so, the runtime forces it, one of its secure streams is found insecure, or the PERST# of its own port
is asserted, which also holds its link (R367, R370, R374, R382, R534). -/
def Obligations.HostsComeReturnAndAreLost : Prop :=
  ((∀ (h : HostLinkNo) (speed : BitVec 3) (width : BitVec 5) (flit cxl on : Bool) (s u v : State) (l : HostLink), l = s.host h →
     speed.toNat ≤ 5 → l.dlup = false → mayTrain s h speed.toNat = true → widthOk s h width.toNat = true →
     (on = true ↔ cxl = true ∧ h = 0 ∧ (s.port 0).cxl = true ∧ speed = 5 ∧ flit = true) →
     u = s.setHost h { l with dlup := true, speed := speed, width := width, flit := flit, cxlup := on, lost := false, seen := true } →
     v = (if on = true ∧ s.coh.walking.getLsbD 13 = false then { u with coh := { u.coh with dead := u.coh.dead &&& ~~~(bitMask 13) } } else u) →
     exec (.hostLinkUp h speed width flit cxl) s =
       .next (settleAll (askGen (partnerEvent (setReady v (28 + h.val) true) .hlk (if l.seen then 3 else 1) h 0) h))) ∧
   (∀ (h : HostLinkNo) (s u : State) (l : HostLink) (v : W64), l = s.host h → l.genReading = true →
     u = s.setHost h { l with genReading := false } →
     exec (.genWordReadDone h none) s = .next u ∧
     (l.suspended = false → exec (.genWordReadDone h (some v)) s = .next (u.setHost h { l with genReading := false, genSeen := v })) ∧
     (l.suspended = true → exec (.genWordReadDone h (some v)) s = .next
       (if v = l.genSeen then resumeRings (u.setHost h { l with genReading := false, genSeen := v }) h
        else staleHost (u.setHost h { l with genReading := false, genSeen := v }) h)))) ∧
  ((∀ (h : HostLinkNo) (s : State),
     ((s.host h).dlup = true → exec (.hostLinkDown h) s = .next (hostLost s h 1)) ∧
     exec (.hostLinkForce h) s = .next (hostLost s h 4) ∧
     (∀ stream, (s.host h).dlup = true → (s.host h).stream stream = .secure → exec (.ideInsecure ⟨h, stream⟩) s = .next (hostLost s h 5)) ∧
     (h.val % 2 = 0 ∨ (s.port (h.val / 2)).bifur = true →
       exec (.perstAssert h) s = .next (hostLost (s.setHost h { s.host h with perst := true }) h 1)) ∧
     (h.val % 2 = 1 → (s.port (h.val / 2)).bifur = false →
       exec (.perstAssert h) s = .next (s.setHost h { s.host h with perst := true })) ∧
     ((s.host h).perst = true → exec (.perstRelease h) s = .next (s.setHost h { s.host h with perst := false }))) ∧
   (∀ (line : BitVec 45) (s : State) (e : Nat × Nat), (s.host 0).snoops.find? (fun e => decide (e.1 = line.toNat)) = some e →
     225000 < s.elapsed - e.2 → exec (.hostSnoopTimeout line) s = .next (hostLost s 0 2)) ∧
   (∀ (id : Nat) (s u : State) (r : OutReq) (n : Nat), reqOf s id = some r → r.toHost = true → heldAt s r.target id = false →
     225000 ≤ s.elapsed - r.since → n = (s.host r.target).timeouts + 1 →
     u = giveErr (s.setHost r.target { s.host r.target with timeouts := n }) r .hostLost false →
     exec (.hostRequestTimeout id) s = .next (settleAll (if 3 ≤ n then hostLost u r.target 3 else u))) ∧
   (∀ (h : HostLinkNo) (s t u : State) (cause : Nat), (s.host h).dlup = true → cause < 8 → (s.host h).downcnt.toNat < 255 →
     t = s.setHost h { s.host h with
       dlup := false, speed := 0, width := 0, flit := false, cxlup := false, ide := .none, ideSel := .none, ideCxl := .none
       lost := true, suspended := true, cause := BitVec.ofNat 3 cause, downcnt := (s.host h).downcnt + 1, timeouts := 0
       genReading := false, heldTlps := [], snoops := [] } →
     u = failHostReads (failHostJobs (holdRings (partnerEvent (setReady (dropSessions t h) (28 + h.val) false) .hlk 2 h cause) h) h) h →
     hostLost s h cause = settleAll (if (s.host h).cxlup then dropHosted (declareDead u 13) else u)))

/-- What a host has to say of its link and of the module's requests: a secure stream lets what was held go out in order, a successful
completion is given to its requester and ends the run of timeouts, an unsuccessful one ends its request as the loss of the host does, and
writes of the MSI-X table set the vector's entry and send what it holds back no longer (R375, R380, R382, R533, R534; log 41). An access
of a host through a window that admits it is performed in the window's context, counted and, where it is a read or an atomic, completed
with its data; one that no window admits is dropped or completed as unsupported with its cause in the log, as is every read of BAR0 (R375
to R378, R246). -/
def Obligations.HostAccessesCompletionsAndVectors : Prop :=
  ((∀ (h : HostLinkNo) (s : State) (l : HostLink), l = s.host h → l.dlup = true →
     exec (.ideKm ⟨h, .link⟩) s = .next (l.heldTlps.foldl (fun s t => releaseTlp s h t) (s.setHost h { l with ide := .secure, heldTlps := [] })) ∧
     exec (.ideKm ⟨h, .selective⟩) s =
       .next (l.heldTlps.foldl (fun s t => releaseTlp s h t) (s.setHost h { l with ideSel := .secure, heldTlps := [] })) ∧
     (l.cxlup = true → exec (.ideKm ⟨h, .cxl⟩) s =
       .next (l.heldTlps.foldl (fun s t => releaseTlp s h t) (s.setHost h { l with ideCxl := .secure, heldTlps := [] })))) ∧
   (∀ (id : Nat) (s : State) (r : OutReq), reqOf s id = some r → r.toHost = true → heldAt s r.target id = false →
     (∀ data, data.length = r.len → r.len ≠ 0 → exec (.hostCompletion id true data) s =
       .next (settleAll (giveData (s.setHost r.target { s.host r.target with timeouts := 0 }) r data))) ∧
     (∀ v, v = s.setHost r.target { s.host r.target with timeouts := 0 } → r.len = 0 →
       (∀ k j, agentJob r.agent = some k → v.job k = some j →
         exec (.hostCompletion id true []) s = .next (flushReturned v k j r.target id)) ∧
       ((agentJob r.agent).bind v.job = none → exec (.hostCompletion id true []) s = .next (dropReq v id))) ∧
     (∀ data, exec (.hostCompletion id false data) s = .next (settleAll (giveErr s r .hostLost false)))) ∧
   (∀ (h : HostLinkNo) (s : State) (l : HostLink), l = s.host h → l.dlup = true →
     exec (.msiXTableWrite h (.functionMask true)) s = .next (s.setHost h { l with fmask := true }) ∧
     exec (.msiXTableWrite h (.functionMask false)) s =
       .next (sendPending (s.setHost h { l with fmask := false }) h (l.msix.map (·.1))) ∧
     (∀ (off : BitVec 16) (v : W64), off.toNat % 8 = 0 → ideHeld s h = true →
       exec (.msiXTableWrite h (.table off v)) s = .next (barRefused s h off.toNat)) ∧
     (∀ (off : BitVec 16) (v : W64), off.toNat % 8 = 0 → ideHeld s h = false → 0x8000 ≤ off.toNat →
       exec (.msiXTableWrite h (.table off v)) s = .next s) ∧
     (∀ (off : BitVec 16) (v : W64) (x : MsixVec), ideHeld s h = false → off.toNat < 0x8000 → x = Tab.get {} l.msix (off.toNat / 16) →
       (off.toNat % 16 = 0 → exec (.msiXTableWrite h (.table off v)) s = .next (sendPending
         (s.setHost h { l with msix := Tab.put {} l.msix (off.toNat / 16) { x with addr := v } }) h [off.toNat / 16])) ∧
       (∀ y : MsixVec, y = { x with data := BitVec.ofNat 32 v.toNat, masked := bitAt v.toNat 32 } → off.toNat % 16 = 8 →
         exec (.msiXTableWrite h (.table off v)) s = .next (sendPending
           (s.setHost h { l with msix := Tab.put {} l.msix (off.toNat / 16) y }) h [off.toNat / 16]))))) ∧
  (∀ (h : HostLinkNo) (off : BitVec 38) (ide : Bool) (s u : State) (pa ctx : Nat), (s.host h).dlup = true →
     (∀ data, 0 < data.length → data.length ≤ 512 → off.toNat % 4096 + data.length ≤ 4096 →
       (barAdmit s h off.toNat data.length (·.wr) ide = some (pa, ctx) → physWrite s (.hostLink h) ctx pa data = (.ok, u) →
         exec (.hostInboundWrite h off data ide) s = .next (settleAll (countHost u h ctx data.length))) ∧
       (barAdmit s h off.toNat data.length (·.wr) ide = none →
         exec (.hostInboundWrite h off data ide) s = .next (barRefused s h off.toNat))) ∧
     (∀ (len : BitVec 13) (bs : List Byte), 0 < len.toNat → len.toNat ≤ 4096 → off.toNat % 4096 + len.toNat ≤ 4096 →
       (barAdmit s h off.toNat len.toNat (·.rd) ide = some (pa, ctx) → physRead s (.hostLink h) ctx pa len.toNat = (.ok, bs, u) →
         exec (.hostInboundRead h off len ide) s =
           .next (settleAll (answerHost (countHost u h ctx len.toNat) h (.hostCpl h true bs)))) ∧
       (barAdmit s h off.toNat len.toNat (·.rd) ide = none →
         exec (.hostInboundRead h off len ide) s = .next (answerHost (barRefused s h off.toNat) h (.hostUr h)))) ∧
     (∀ (op : HostOp) (lg : BitVec 3) (v c : W64) (old n : Nat), lg = 2 ∨ lg = 3 → n = 2 ^ lg.toNat → off.toNat % n = 0 →
       barAdmit s h off.toNat n (·.at_) ide = some (pa, ctx) →
       physAtomic s (.hostLink h) ctx pa n (hostAop op) v.toNat c.toNat = (.ok, old, u) →
       exec (.hostAtomicop h off op lg v c ide) s =
         .next (settleAll (answerHost (countHost u h ctx n) h (.hostCpl h true (toBytes n old))))) ∧
     (∀ (op : HostOp) (lg : BitVec 3) (v c : W64) (n : Nat), lg = 2 ∨ lg = 3 → n = 2 ^ lg.toNat → off.toNat % n = 0 →
       barAdmit s h off.toNat n (·.at_) ide = none →
       exec (.hostAtomicop h off op lg v c ide) s = .next (answerHost (barRefused s h off.toNat) h (.hostUr h))) ∧
     (∀ (v c : W64), off.toNat % 16 = 0 →
       exec (.hostAtomicop h off .cas 4 v c ide) s = .next (answerHost (barRefused s h off.toNat) h (.hostUr h))) ∧
     (∀ o : BitVec 19, exec (.hostBar0Read h o) s = .next (answerHost (barRefused s h o.toNat) h (.hostUr h))))

/-- CXL.mem at link 0: a read that lets the host cache its line is a request of the CXL.cache agent and one that does not returns the
line's bytes; a write with data gives up the line, one without gives it up unwritten, one under a back-invalidation snoop brings the dirty
data ahead of the response; an offset outside the host-managed range is answered as unsupported, and a response answers the home's snoop,
keeping the line shared or not (R286, R287, R373, Table 9.6). -/
def Obligations.CxlAccessesActForTheHost : Prop :=
  (∀ (off : BitVec 40) (s : State), (s.host 0).cxlup = true → hdmLine s off.toNat = none →
    (∀ mv, exec (.cxlMemrd off mv) s = .next (cxlSend s 4 off.toNat [])) ∧
    (∀ data, exec (.cxlMemwr off data) s = .next (cxlSend s 4 off.toNat []))) ∧
  (∀ (off : BitVec 40) (s : State) (line ctx : Nat) (a : ALine), (s.host 0).cxlup = true → hdmLine s off.toNat = some (line, ctx) →
    a = s.al line 13 →
    (∀ bs u, physRead s (.hostLink 0) ctx (line * 128) 128 = (.ok, bs, u) →
      exec (.cxlMemrd off .invalid) s = .next (settleAll (cxlSend u 3 (line * 128) bs))) ∧
    (s.coh.dead.getLsbD 13 = false → requestOpen s line 13 = false → entriesOf s (lineDie line) 13 < entriesFor 13 →
      (a.st = .i ∨ a.st = .imd ∨ a.st = .s → exec (.cxlMemrd off .any) s =
        .next (settleAll (homeRequest (s.setAl line 13 { a with st := .imd }) line .rdX 13 ctx {}))) ∧
      (a.st = .i ∨ a.st = .isd ∨ a.st = .s → exec (.cxlMemrd off .shared) s =
        .next (settleAll (homeRequest (s.setAl line 13 { a with st := .isd }) line .rdS 13 ctx {}))) ∧
      (a.st = .isdi → exec (.cxlMemrd off .shared) s =
        .next (settleAll (homeRequest (s.setAl line 13 { a with st := .isdi }) line .rdS 13 ctx {}))) ∧
      (biOpen s line = false → a.st = .m ∨ a.st = .e ∨ a.st = .s ∨ a.st = .i →
        (∀ d, exec (.cxlMemwr off (some d)) s =
          .next (settleAll (homeRequest (s.setAl line 13 { a with st := .xia }) line .wbM 13 0 { data := d }))) ∧
        exec (.cxlMemwr off none) s = .next (settleAll (homeRequest (s.setAl line 13 { a with st := .xia }) line .evE 13 0 {})))) ∧
    (biOpen s line = true → exec (.cxlMemwr off none) s = .next (cxlAnswer s 6 line) ∧
      ∀ d u v, u = dropStale (putLine s line d) line → v = u.setDir line { u.dirE line with dirty := true } →
        exec (.cxlMemwr off (some d)) s = .next (cxlAnswer
          (v.setAl line 13 { v.al line 13 with st := if (v.al line 13).st = .m then .e else (v.al line 13).st }) 6 line))) ∧
  (∀ (line : BitVec 45) (s u : State), biOpen s line.toNat = true →
    u = s.setHost 0 { s.host 0 with snoops := (s.host 0).snoops.filter (fun e => decide (e.1 ≠ line.toNat)) } →
    (∀ t sn, s.txn line.toNat = some t → t.owed.getLsbD 13 = true → t.asked = some sn →
      exec (.cxlBirsp line false) s = .next (biRespond u line.toNat sn false) ∧
      (sn = .snpS → exec (.cxlBirsp line true) s = .next (biRespond u line.toNat .snpS true))) ∧
    (s.txn line.toNat = none ∨ (∃ t, s.txn line.toNat = some t ∧ (t.owed.getLsbD 13 = false ∨ t.asked = none)) →
      ∀ keepS : Bool, exec (.cxlBirsp line keepS) s =
        .next (u.setAl line.toNat 13 { u.al line.toNat 13 with st := if keepS then .s else .i })))

/-- The power estimate and the cap: a window leaves the estimate of the cube steps counted, the other counts and the leakage, the domains
that no window has counted and the correction, shares the cap by it and starts the counters again; with an estimate within 64 W below the
cap no target moves; a configuration write outside its ranges changes nothing but its error (R467, R468, R470, R472, R475, R488). The
Damper's fast actions: a droop counts and, where the limit allows, starts its bubbles; a governor's step with slack moves a unit's level
by one toward its demand within the domain's level, and without slack not at all, and fills the rest with ballast; a dip sets the clamp and
is counted and logged, its recovery starts the hold once no supply is in a dip, the hold of 100 µs ends both, and a die's thermal ceiling
follows its hottest sensor (R474, R476 to R480, R482, R483, R486). -/
def Obligations.DamperEstimatesSharesAndProtects : Prop :=
  ((∀ (w : WindowIn) (s : State), w.powers.length = 5 → s.power.pkgPower = true →
     exec (.damperWindow w) s = .next (newWindow { s with power := { shareCap s.power w.powers (estimate s w) with
       est := BitVec.ofNat 12 (satNat 12 (estimate s w)), counted := 0x7F } })) ∧
   (∀ (s : State) (w : WindowIn),
     (s.power.counted = 0x7F → estimate s w = cubeWatts s + w.others + w.leakage + s.power.corr.toNat) ∧
     (s.power.counted = 0 → estimate s w = 3387 + s.power.corr.toNat)) ∧
   (∀ (p : PowerSt) (powers : List Nat) (e : Nat), e ≤ p.cap.toNat → p.cap.toNat ≤ e + 64 → shareCap p powers e = p) ∧
   (∀ (v : W64) (s : State), 1800 ≤ field v.toNat 0 12 → field v.toNat 0 12 ≤ 3200 → ranksClash v.toNat = false →
     exec (.dmpCapCfgWrite v) s = .next { s with power := { s.power with
       cap := BitVec.ofNat 12 (field v.toNat 0 12), rlink := BitVec.ofNat 2 (field v.toNat 16 2)
       rmem := BitVec.ofNat 2 (field v.toNat 18 2), rcore := BitVec.ofNat 2 (field v.toNat 20 2)
       rgrate := BitVec.ofNat 2 (field v.toNat 22 2), capErr := s.power.capErr && !(bitAt v.toNat 63) } }) ∧
   (∀ (v : W64) (s : State), field v.toNat 0 12 < 1800 ∨ 3200 < field v.toNat 0 12 ∨ ranksClash v.toNat = true →
     exec (.dmpCapCfgWrite v) s =
       .next (({ s with power := { s.power with capErr := true } } : State).logTag .dmp 0 470 (field v.toNat 0 12))) ∧
   (∀ (v : W64) (s : State),
     (2 ≤ field v.toNat 0 4 → field v.toNat 0 4 ≤ 8 → 8 ≤ field v.toNat 4 6 →
       exec (.dmpDroopCfgWrite v) s = .next { s with power := { s.power with
         droopThr := BitVec.ofNat 4 (field v.toNat 0 4), droopLen := BitVec.ofNat 6 (field v.toNat 4 6) } }) ∧
     (field v.toNat 0 4 < 2 ∨ 8 < field v.toNat 0 4 ∨ field v.toNat 4 6 < 8 →
       exec (.dmpDroopCfgWrite v) s = .next (s.logTag .dmp 0 475 v.toNat))) ∧
   (∀ (v : W64) (s : State), exec (.dmpCorrWrite v) s = .next { s with power := { s.power with
     corr := BitVec.ofNat 8 (min (field v.toNat 0 8) 200), corrSeen := true } }) ∧
   (∀ (m : BitVec 12) (s : State), readyStk s = true → s.power.pkgPower = true →
     exec (.correctionUpdate m) s = .next { s with power := { s.power with
       corr := BitVec.ofNat 8 (min (m.toNat + s.power.corr.toNat - s.power.est.toNat) 200), corrSeen := true } })) ∧
  ((∀ (g : GrateNo) (limited : Bool) (s : State), readyHth s (g.val / 24) = true →
     exec (.droopDetect g limited) s = .next { s with power := { s.power with
       droops := satAdd s.power.droops 1
       bursts := if limited then s.power.bursts else Tab.put 0 s.power.bursts g.val s.power.droopLen.toNat } }) ∧
   (∀ (u : GovUnit) (demand : BitVec 7) (slack : Bool) (s : State) (k old aim new : Nat), demand.toNat ≤ 64 → k = govUnit u →
     old = Tab.get 0 s.power.governed k → aim = min demand.toNat (unitLevel s.power u) →
     (slack = false ∨ aim = old → new = old) → (slack = true → old < aim → new = old + 1) →
     (slack = true → aim < old → new + 1 = old) →
     exec (.slewGovernorStep u demand slack) s = .next (endTapers { s with power := { s.power with
       governed := Tab.put 0 s.power.governed k new
       ballast := Tab.put 0 s.power.ballast k (new - min demand.toNat new) } })) ∧
   (∀ (x : Supply) (m : W32) (s : State), s.power.feedOn = true → x = .feed ∨ s.power.pkgPower = true →
     supplyCode x ∉ s.power.dipping →
     exec (.dipDetect x m) s = .next (({ s with power := { s.power with
       clamp := true, hold := false, dips := satAdd s.power.dips 1, dipping := s.power.dipping ++ [supplyCode x] } } : State).logTag
         .dmp (supplyCode x) 483 m.toNat)) ∧
   (∀ (x : Supply) (s : State) (rest : List Nat), supplyCode x ∈ s.power.dipping →
     rest = s.power.dipping.filter (fun k => decide (k ≠ supplyCode x)) → exec (.dipRecover x) s =
     .next { s with power := { s.power with dipping := rest, hold := rest.isEmpty, holdFrom := s.elapsed } }) ∧
   (∀ s : State, s.power.hold = true → 22500 ≤ s.elapsed - s.power.holdFrom →
     exec .dipHoldEnd s = .next { s with power := { s.power with hold := false, clamp := false } }) ∧
   (∀ (die : Fin 5) (hot : BitVec 16) (s : State) (n new : Nat), s.power.pkgPower = true → n = ceilSteps die →
     (hot.toInt < 92 * 16 → new = min n (ceiling s.power die + 1)) →
     (92 * 16 ≤ hot.toInt → hot.toInt < 95 * 16 → new = ceiling s.power die) →
     (95 * 16 ≤ hot.toInt → hot.toInt < 105 * 16 → new = max (if die.val = 4 then 4 else 2) (ceiling s.power die - 1)) →
     (105 * 16 ≤ hot.toInt → new = n / 4) →
     exec (.thermalStep die hot) s = .next { s with power := { s.power with ceilings := Tab.put n s.power.ceilings die.val new } }) ∧
   (∀ (die : Fin 5) (s u : State), s.power.pkgPower = true → u = removePower (s.logTag .dmp die 486 0) →
     exec (.thermalTrip die) s = .next (mirrorLog { u with power := { u.power with tripped := some u.elapsed } })))

/-- Clocks and the feed: soft-start begins with the feed and ends with the root PLL free to lock, a die whose PLL loses its lock is reset
alone, a lost reference holds over and begins an orderly power-down, a supply below its reset level resets its scope, a lost feed or an
open sense pair removes all power, and an orderly power-down waits for the buffers and engines, has every dirty line written back, and
then removes package power (R463 to R465, R484, R485, R550, R591, R599, Table 16.6, Table 8.4). -/
def Obligations.ClocksAndTheFeedAreFollowed : Prop :=
  (∀ (mv : W32) (s u : State), s.power.feedOn = false → 39000 < mv.toNat →
    u = { s with power := { s.power with feedOn := true, sense := true, softStart := true, pkgPower := true, lossSeen := false }
                 kindle := { s.kindle with lastKind := 0 } } →
    exec (.feedApplied mv) s = .next (resetEvent u 0 0 (if s.power.lossSeen then 2 else 1))) ∧
  (∀ s : State, s.power.feedOn = true → s.power.softStart = true →
    exec .softStartDone s = .next { s with power := { s.power with softStart := false } }) ∧
  (∀ s : State, s.power.feedOn = true → s.power.softStart = false → s.power.clk.rlock = false →
    exec .rootPllLock s =
      .next (entered { s with power := { s.power with clk := { s.power.clk with rlock := true, refok := true } } } 200)) ∧
  (∀ (d : DieNo) (s : State), s.power.clk.slock.getLsbD d.val = true → exec (.slavePllLockLost d) s =
    .next (hearthReset { s with power := { s.power with clk := { s.power.clk with
      slost := s.power.clk.slost ||| BitVec.ofNat 4 (2 ^ d.val) } } } d 0x0B)) ∧
  (∀ s u v : State, s.power.clk.refok = true →
    u = { s with power := { s.power with clk := { s.power.clk with refok := false, reflost := true, hold := true } } } →
    v = (List.range 4).foldl (fun s h => hostLost s h 1) u →
    exec .refclkLost s = .next (startDown
      ((List.range 18).foldl (fun s f => if alive (s.fl f).st then linkDown s f 2 else s) v) 3)) ∧
  (∀ s : State, s.power.clk.hold = true → s.power.clk.refok = false → exec .refclkReturn s =
    .next { s with power := { s.power with clk := { s.power.clk with refok := true, hold := false } } }) ∧
  (∀ s : State, s.power.feedOn = true → exec .supplyLoss s = .next (feedLost s) ∧
    (s.power.sense = true → exec .senseOpen s = .next (feedLost s)) ∧
    (exec (.supplyResetLevel .feed) s = .next (feedLost (s.logTag .dmp 0 484 0))) ∧
    (s.power.pkgPower = true →
      (∀ d, exec (.supplyResetLevel (.hearth d)) s = .next (hearthReset (s.logTag .dmp (1 + d.val) 484 0) d 0x0C)) ∧
      exec (.supplyResetLevel .chimney) s = .next (packageReset (s.logTag .dmp 5 484 0) 6) ∧
      (∀ d, exec (.supplyResetLevel (.lpddr d)) s = .next (packageReset (s.logTag .dmp (6 + d.val) 484 0) 6)))) ∧
  (∀ (why : BitVec 3) (s : State), 1 ≤ why.toNat → why.toNat ≤ 4 → s.power.pkgPower = true → s.stoker.downFor = why.toNat →
    (drained s = true → writtenBack s = true → exec (.orderlyPowerDown why) s = .next (removePower s)) ∧
    (drained s = true → writtenBack s = false → exec (.orderlyPowerDown why) s = .next (writeBackAll s)) ∧
    (drained s = false → exec (.orderlyPowerDown why) s = .next s))

/-- The stages of kindling before the dies: Thirun's self-tests end K0 or hold, K1 starts Stoker from its preferred slot or the other and
holds without either, or verifies the slot in use again after a package reset, K2 takes the manifest and the first listed combination of
images, whose group version and slots it sets, and holds or tries the other Stoker slot without one (R489, R495, R499 to R502, R504,
R512). The stages of kindling at the dies: a reachable die is cleared, locked and loaded at K3, its trained channels become ready at K4,
K5 makes the lowest whole die the runtime's home with its first GiB and the image at its start, starts the clusters that passed and arms
the heartbeat, K6 opens the links; a stage that exceeds its limit holds, is logged, gives a channel up, or resets its die once (R490 to
R494, R368, R558, Table 17.1). -/
def Obligations.KindlingGoesThroughItsStages : Prop :=
  ((∀ s u : State, inStage s 0 = true → s.power.clk.rlock = true → s.power.softStart = false → s.kindle.rstLow = false →
     readyThn s = false → u = measure (setReady s 0 true) [1, 2, 9, 10] →
     exec (.kindleK0 true) s = .next (toStage { u with trust := { u.trust with challenge := u.trust.challenge + 1 } } 1) ∧
     exec (.kindleK0 false) s = .next (holdAt s 1)) ∧
   (∀ (ok : Bool) (s u v : State) (p used : Nat), inStage s 1 = true → readyThn s = true →
     u = { s with trust := { s.trust with certOk := ok } } → v = writeSel u (trialStep s.kindle.sel 0) →
     p = boolNat (v.kindle.sel.pref.getLsbD 0) → used = boolNat (s.kindle.slots.getLsbD 0) →
     (readyStk s = true → exec (.kindleK1 ok) s = .next (if imgOk u 0 used then toStage (loadConfig u) 2 else moduleReset u 5)) ∧
     (readyStk s = false → s.kindle.altTried = true →
       exec (.kindleK1 ok) s = .next (if imgOk u 0 used then startStoker u used else holdAt u 2)) ∧
     (readyStk s = false → s.kindle.altTried = false → exec (.kindleK1 ok) s =
       .next (if imgOk v 0 p then startStoker v p else if imgOk v 0 (1 - p) then startStoker v (1 - p) else holdAt v 2))) ∧
   (∀ (s u v : State) (m : Nat), inStage s 2 = true → readyStk s = true → s.kindle.combo = false →
     u = writeSel s ([1, 2, 3].foldl trialStep s.kindle.sel) →
     (manSlot u = none → exec .kindleK2 s = .next (holdAt u 3)) ∧
     (manSlot u = some m → hstep u 1 ≠ hstep u 0 ∨ hstep u 2 ≠ hstep u 0 ∨ hstep u 3 ≠ hstep u 0 →
       exec .kindleK2 s = .next (holdAt u 4)) ∧
     (manSlot u = some m → (hstep u 1 = hstep u 0 ∧ hstep u 2 = hstep u 0 ∧ hstep u 3 = hstep u 0) →
       (selectPairing u (Tab.get {} u.kindle.manifests m) (imgOf u 0 (boolNat (u.kindle.slots.getLsbD 0))).ver = none →
         exec .kindleK2 s = .next (noPairing u)) ∧
       ∀ (sl : List Nat) (gpv : BitVec 16) (slots : BitVec 4), selectPairing u (Tab.get {} u.kindle.manifests m) (imgOf u 0 (boolNat (u.kindle.slots.getLsbD 0))).ver = some (sl, gpv) →
       slots = (List.range 3).foldl (fun v i => setBit4 v (i + 1) (decide (nth 0 sl i = 1))) u.kindle.slots →
       v = { u with kindle := { u.kindle with combo := true, manUsed := some m, gpv := gpv, slots := slots } } →
       exec .kindleK2 s = .next ([16, 17, 18, 19].foldl entered (toStage (measure v [4, 5, 6, 7, 8]) 3)))) ∧
   (∀ s : State, exec .confirm s = .next (confirmSel s) ∧ (s.kindle.sel.pend = 0 → confirmSel s = s))) ∧
  ((∀ (d : DieNo) (s u : State), s.kindle.combo = true → Tab.get false s.kindle.loaded d.val = false → reachable s 4 d = true →
     s.power.pkgPower = true →
     u = { s with
       kindle := { s.kindle with loaded := Tab.put false s.kindle.loaded d.val true, dieWait := Tab.put false s.kindle.dieWait d.val false }
       power := { s.power with clk := { s.power.clk with slock := s.power.clk.slock ||| BitVec.ofNat 4 (2 ^ d.val) } } } →
     exec (.kindleK3 d) s = .next (entered (toStage (refreshHth (setReady u 2 true) d) 4) (20 + d.val))) ∧
   (∀ (d : DieNo) (trained : W32) (s u : State), readyHth s d = true →
     u = refreshHth ((List.range 32).foldl (fun v c => tryChannel v (32 * d.val + c) (trained.getLsbD c)) s) d →
     exec (.kindleK4 d trained) s = .next (if dieWhole u d then toStage u 5 else u)) ∧
   (∀ (s u : State) (ch : Nat),
     (readyCh s ch = false → Tab.get 0 s.kindle.chTries ch < 3 → tryChannel s ch true = setReady s (64 + ch) true) ∧
     (readyCh s ch = true ∨ 3 ≤ Tab.get 0 s.kindle.chTries ch → ∀ ok, tryChannel s ch ok = s) ∧
     (readyCh s ch = false → Tab.get 0 s.kindle.chTries ch < 3 → u = tryChannel s ch false →
       u = { s with kindle := { s.kindle with chTries := Tab.put 0 s.kindle.chTries ch (Tab.get 0 s.kindle.chTries ch + 1) } })) ∧
   (∀ (image : List Byte) (s u w : State) (n : Nat), (List.range 4).find? (dieWhole s) = some n →
     (s.kindle.rtSet = true → u = s) →
     (s.kindle.rtSet = false → u = [4, 5, 6, 7, 8, 9, 10, 11, 12, 13, 14, 15].foldl entered
       ((installRuntime { s with kindle := { s.kindle with rtSet := true, rtdie := BitVec.ofNat 2 n } } n).putBytes
         (n * dieSize) (image.take 0x3FFF000))) →
     (∀ passed, exec (.kindleK5 ⟨image, false⟩ passed) s = .next u) ∧
     exec (.kindleK5 ⟨image, true⟩ 0) s = .next u ∧
     (∀ passed : BitVec 12, passed ≠ 0 → w = (List.range 12).foldl (fun v c => if passed.getLsbD c && !(readyClu v c) then
         setReady { v with kindle := { v.kindle with cluWait := Tab.put false v.kindle.cluWait c false }
                           coh := { v.coh with dead := v.coh.dead &&& ~~~(bitMask c) } } (4 + c) true else v) u →
       (u.stoker.armed = false → (∀ c : Fin 12, readyClu u c.val = false) →
         exec (.kindleK5 ⟨image, true⟩ passed) s = .next (toStage (armHeartbeat w) 6)) ∧
       (u.stoker.armed = true ∨ (∃ c : Fin 12, readyClu u c.val = true) →
         exec (.kindleK5 ⟨image, true⟩ passed) s = .next (toStage w 6)))) ∧
   (∀ (image : List Byte) (s u : State) (n : Nat), (List.range 4).find? (dieWhole s) = some n → s.kindle.rtSet = false →
     u = (installRuntime { s with kindle := { s.kindle with rtSet := true, rtdie := BitVec.ofNat 2 n } } n).putBytes
       (n * dieSize) (image.take 0x3FFF000) →
     ∀ passed : BitVec 12, passed ≠ 0 → (∀ c : Fin 12, readyClu s c.val = false) → ∃ t, exec (.kindleK5 ⟨image, true⟩ passed) s = .next t ∧
       (∀ c : Fin 12, readyClu t c.val = passed.getLsbD c.val) ∧ (fringOf u 0 = none → t.mem = u.mem) ∧ t.owners = u.owners ∧ t.stoker.armed = true ∧
       t.kindle.rtSet = true ∧ t.kindle.rtdie.toNat = n) ∧
   (∀ s : State, s.kindle.stage = 6 → s.kindle.opened = false → ∃ t, exec .kindleK6 s = .next t ∧
     t = offerDue ((List.range 18).foldl (fun v f => if s.stoker.cfg.fluen.getLsbD f then linkEn v f true else v) { s with
       ports := Tab.put {} (Tab.put {} s.ports 0 (portOf 0 s.stoker.cfg.port0.toNat)) 1 (portOf 1 s.stoker.cfg.port1.toNat)
       kindle := { s.kindle with opened := true } }) ∧
     t.kindle.opened = true ∧
     t.ports = Tab.put {} (Tab.put {} s.ports 0 (portOf 0 s.stoker.cfg.port0.toNat)) 1 (portOf 1 s.stoker.cfg.port1.toNat) ∧
     ∀ f : Fin 18, s.stoker.cfg.fluen.getLsbD f.val = true → (t.fl f.val).en = true) ∧
   (∀ s : State,
     (inStage s 0 = true → s.power.clk.rlock = true → readyThn s = false → overdue s 200 1125000 = true →
       exec (.kindleStageTimeout .k0) s = .next (holdAt s 1)) ∧
     (inStage s 1 = true → overdue s 201 45000000 = true → exec (.kindleStageTimeout .k1) s = .next (holdAt s 2)) ∧
     (inStage s 2 = true → s.kindle.combo = false → overdue s 202 450000000 = true →
       exec (.kindleStageTimeout .k2) s = .next (holdAt s (k2Reason s))) ∧
     (∀ d : DieNo, s.kindle.combo = true → Tab.get false s.kindle.loaded d.val = false → overdue s (16 + d.val) 11250000 = true →
       (Tab.get false s.kindle.dieRetry d.val = false → exec (.kindleStageTimeout (.k3 d)) s = .next (hearthReset { s with
         kindle := { s.kindle with dieRetry := Tab.put false s.kindle.dieRetry d.val true } } d 0x0E)) ∧
       (Tab.get false s.kindle.dieRetry d.val = true →
         exec (.kindleStageTimeout (.k3 d)) s = .next (s.logTag .chm (16 + d.val) 489 0))) ∧
     (∀ ch : Fin 128, ∀ u, readyHth s (ch.val / 32) = true → readyCh s ch.val = false → overdue s (20 + ch.val / 32) 112500000 = true →
       u = s.logTag .chm (64 + ch.val) 489 0 → exec (.kindleStageTimeout (.k4 ch)) s =
         .next { u with kindle := { s.kindle with chTries := Tab.put 0 s.kindle.chTries ch.val 3 } }) ∧
     (∀ c : Fin 12, s.kindle.rtSet = true → readyClu s c.val = false → overdue s (4 + c.val) 22500000 = true →
       exec (.kindleStageTimeout (.k5 c)) s = .next (s.logTag .chm (4 + c.val) 489 0))))

/-- Resets by the cause that asks for them: a hart's request for other clusters, for hearth dies, among which the runtime's home makes it a
reset of the package, or for the package, a cause of module, package, die or cluster scope, and the pin RST#; a request with a wrong key or
for the hart's own cluster sets ERR and resets nothing (R504, R506, R507, R596, Table 17.7). A hearth die's reset takes effect once the
die's governed levels have fallen to zero, and that of the runtime's home is the package's (R481, R505). -/
def Obligations.ResetsAreTakenByTheirCause : Prop :=
  (∀ (who : HartNo) (s err : State), hartReady s who = true → (s.ht who).sb = [] →
    err = { s with kindle := { s.kindle with resetErr := true } } →
    (∀ (m : BitVec 12), m.getLsbD (clusterOf who) = false → exec (.resetCluster who m 0xA5) s =
      .next (deliverLost ((List.range 12).foldl (fun s c => if m.getLsbD c then clusterReset s c 0x0F else s) s) who)) ∧
    (∀ (m : BitVec 4), (s.kindle.rtSet && m.getLsbD s.kindle.rtdie.toNat) = false → exec (.resetHearth who m 0xA5) s =
      .next (deliverLost ((List.range 4).foldl (fun s d => if m.getLsbD d then hearthReset s d 0x0D else s) s) who)) ∧
    (∀ (m : BitVec 4), s.kindle.rtSet = true → m.getLsbD s.kindle.rtdie.toNat = true →
      exec (.resetHearth who m 0xA5) s = .next (deliverLost (packageReset s 0x0A) who)) ∧
    exec (.resetPackage who 0xA5) s = .next (deliverLost (packageReset s 8) who) ∧
    (∀ (m : BitVec 12) (key : Byte), key ≠ 0xA5 ∨ m.getLsbD (clusterOf who) = true →
      exec (.resetCluster who m key) s = .next (deliverLost err who)) ∧
    (∀ (m : BitVec 4) (key : Byte), key ≠ 0xA5 → exec (.resetHearth who m key) s = .next (deliverLost err who) ∧
      exec (.resetPackage who key) s = .next (deliverLost err who))) ∧
  (∀ (cause : BitVec 5) (s : State), 3 ≤ cause.toNat → cause.toNat ≤ 5 → s.power.feedOn = true →
    exec (.moduleReset cause) s = .next (moduleReset s cause.toNat)) ∧
  (∀ (cause : BitVec 5) (s : State), 6 ≤ cause.toNat → cause.toNat ≤ 10 → cause ≠ 7 → s.power.feedOn = true → s.kindle.stage ≠ 0 →
    s.power.tripped = none → exec (.packageReset cause) s = .next (packageReset s cause.toNat)) ∧
  (∀ (s : State) (t : Nat), s.power.feedOn = true → s.power.tripped = some t → 2250000000 ≤ s.elapsed - t → coolantOk s = true →
    s.stoker.downFor ≠ 1 → exec (.packageReset 7) s = .next (packageReset s 7)) ∧
  (∀ (d : DieNo) (cause : BitVec 5) (s : State), 0x0B ≤ cause.toNat → cause.toNat ≤ 0x0E → s.power.pkgPower = true →
    (s.kindle.rtSet = true ∧ s.kindle.rtdie.toNat = d.val → exec (.hearthDieReset d cause) s = .next (packageReset s 0x0A)) ∧
    (¬ (s.kindle.rtSet = true ∧ s.kindle.rtdie.toNat = d.val) → tapered s d = true →
      exec (.hearthDieReset d cause) s = .next (hearthGone s d cause.toNat)) ∧
    (¬ (s.kindle.rtSet = true ∧ s.kindle.rtdie.toNat = d.val) → tapered s d = false → exec (.hearthDieReset d cause) s =
      .next { s with power := { s.power with taper := Tab.put 0 s.power.taper d.val cause.toNat } })) ∧
  (∀ (c : Fin 12) (s : State), s.power.pkgPower = true → exec (.clusterReset c 0x0F) s = .next (clusterReset s c 0x0F) ∧
    exec (.clusterReset c 0x10) s = .next (clusterReset s c 0x10)) ∧
  (∀ s u : State, u = { s with kindle := { s.kindle with rstLow := true } } →
    (s.power.feedOn = true → s.power.softStart = false → exec .rstAssert s = .next (moduleReset u 4)) ∧
    (s.power.feedOn = false ∨ s.power.softStart = true → exec .rstAssert s = .next u) ∧
    exec .rstRelease u = .next { u with kindle := { u.kindle with rstLow := false } })

/-- What a package reset leaves: kindling at K1, only the readiness of Thirun and Stoker, memory, rings, contexts and links at their reset
values, fuses, firmware, Stoker's log and the timebase count as they were (R504, R582, Table 17.7, Table 21.19). -/
def Obligations.PackageResetKeepsTheManagementDomain : Prop :=
  ∀ (s t : State) (cause : BitVec 5), exec (.packageReset cause) s = .next t →
    t.kindle.stage = 1 ∧ t.kindle.ready0 = (s.kindle.ready0 &&& 3) ∧ t.mem = [] ∧ t.rings = [] ∧ t.ctxs = [] ∧ t.grates = [] ∧
    t.harts = [] ∧ t.flue = State.reset.flue ∧ t.coh = State.reset.coh ∧ t.tick = s.tick ∧
    t.trust.cstep = s.trust.cstep ∧ t.trust.hsteps = s.trust.hsteps ∧ t.trust.arb = s.trust.arb ∧
    t.kindle.images = s.kindle.images ∧ t.kindle.manifests = s.kindle.manifests ∧ t.stoker.mirror = s.stoker.mirror ∧
    t.power.tripped = none ∧ t.power.pkgPower = true

/-- Thirun's counters and keys: the start of a raise above the counter's value with a free record, above no image in use and outside a
trial and a dip sets BUSY, and at its end the record holds what it reads back as; the start of a key generation for a context that nothing
uses sets BUSY, and at its end the context has its next keys; a start that a rule refuses sets ERR instead; a reinstalled key table lets
its controller's requests go on (R520 to R522, R532, R563, R581). SPDM over an open path answers measurements, each index with its digest,
and challenges with the requester's nonce, signed with the identity key, and opens a session while the path has one free; without a
certificate chain it answers an error; a debug token that is accepted sets observe now or invasive at the next reset, and every token,
taken or not, makes a new challenge (R514, R515, R523 to R526, R541 to R543, Table 18.5, Table 18.6). -/
def Obligations.ThirunCountersKeysAndAttestation : Prop :=
  ((∀ (idx : BitVec 6) (val : BitVec 16) (s u : State), s.trust.arbBusy = false →
     u = { s with trust := { s.trust with arbIdx := idx, arbVal := val } } →
     (raiseBad s idx.toNat val.toNat = false → exec (.arbRaise idx val) s = .next { u with trust := { u.trust with arbBusy := true } }) ∧
     (raiseBad s idx.toNat val.toNat = true → exec (.arbRaise idx val) s = .next { u with trust := { u.trust with arbErr := true } })) ∧
   (∀ (idx : BitVec 6) (val : BitVec 16) (s u : State), s.trust.arbBusy = true →
     (idx = s.trust.arbIdx ∧ val = s.trust.arbVal → u = s) →
     (¬ (idx = s.trust.arbIdx ∧ val = s.trust.arbVal) → u = s.logTag .thn 0 581 idx.toNat) →
     exec (.arbRaise idx val) s = .next { u with trust := { u.trust with arbErr := true } }) ∧
   (∀ (read : BitVec 24) (s : State) (k : Nat), s.trust.arbBusy = true → read &&& ~~~(arbIntended s.trust.arbVal) = 0 →
     arbFree s.trust s.trust.arbIdx.toNat = some k → exec (.arbRaiseDone read) s = .next (measure { s with trust := { s.trust with
       arb := Tab.put 0 s.trust.arb (16 * s.trust.arbIdx.toNat + k) read, arbBusy := false
       arbErr := s.trust.arbErr || !(arbValid read) } } [9])) ∧
   (∀ (ctx : Ctx) (s u : State), s.trust.keyBusy = false → u = { s with trust := { s.trust with keyCtx := ctx, keyOp := 1 } } →
     (keyBad s ctx.toNat 1 = false → exec (.keyGenerate ctx) s = .next { u with trust := { u.trust with keyBusy := true } }) ∧
     (keyBad s ctx.toNat 1 = true → exec (.keyGenerate ctx) s = .next { u with trust := { u.trust with keyErr := true } })) ∧
   (∀ (ctx : Ctx) (s u : State), s.trust.keyBusy = true → (ctx = s.trust.keyCtx ∧ s.trust.keyOp = 1 → u = s) →
     (¬ (ctx = s.trust.keyCtx ∧ s.trust.keyOp = 1) → u = s.logTag .thn 0 581 ctx.toNat) →
     exec (.keyGenerate ctx) s = .next { u with trust := { u.trust with keyErr := true } }) ∧
   (∀ s : State, s.trust.keyBusy = true → exec .keyGenerateDone s = .next { s with trust := { s.trust with
     keyBusy := false, keyGen := Tab.put 0 s.trust.keyGen s.trust.keyCtx.toNat (Tab.get 0 s.trust.keyGen s.trust.keyCtx.toNat + 1) } }) ∧
   (∀ (c : Fin 32) (s : State), Tab.get false s.trust.tableWait c.val = true → exec (.keyTableReinstallDone c) s =
     .next (settleAll (ringsGo (wakeHomes { s with trust := { s.trust with tableWait := Tab.put false s.trust.tableWait c.val false } }))))) ∧
  ((∀ (path : SpdmPath) (nonce : BitVec 256) (s u v : State) (salt : BitVec 512) (n : Nat) (fields : List Nat), pathOpen s path = true →
     n = Tab.get 0 s.trust.sessions (pathKey path) →
     (s.trust.certOk = true → takeFree 512 s = (salt, u) →
       (fields = nonce.toNat :: ((List.range 11).filter (fun i => s.trust.measured.getLsbD i)).flatMap (fun i => [i, (measurement s i).toNat]) →
         exec (.getMeasurements path nonce) s =
           .next (u.emit (.mgmt 0x20 (pathKey path :: fields ++ [Config.identitySign (0x20 :: fields) salt])))) ∧
       exec (.challenge path nonce) s =
         .next (u.emit (.mgmt 0x21 [pathKey path, nonce.toNat, Config.identitySign [0x21, nonce.toNat] salt]))) ∧
     (s.trust.certOk = true → n < pathLimit path →
       takeFree 512 { s with trust := { s.trust with sessions := Tab.put 0 s.trust.sessions (pathKey path) (n + 1) } } = (salt, v) →
       exec (.keyExchange path) s = .next (v.emit (.mgmt 0x22 [pathKey path, n, Config.identitySign [0x22, n] salt]))) ∧
     (s.trust.certOk = false ∨ pathLimit path ≤ n → exec (.keyExchange path) s = .next (s.emit (.mgmt 0x2F [pathKey path]))) ∧
     (s.trust.certOk = false → exec (.getMeasurements path nonce) s = .next (s.emit (.mgmt 0x2F [pathKey path])) ∧
       exec (.challenge path nonce) s = .next (s.emit (.mgmt 0x2F [pathKey path])))) ∧
   (∀ (body : BitVec 1024) (cert sig : Bool) (s : State), readyStk s = true → readyThn s = true →
     exec (.debugToken .vdm body cert sig) s = .next (refuseMsg s 0x14) ∧
     (tokenOk s.trust body cert sig = true → field body.toNat 16 2 = 1 → exec (.debugToken .i3c body cert sig) s =
       .next (State.emit { s with trust := { s.trust with
         challenge := s.trust.challenge + 1, level := if s.trust.level = 0 then 1 else s.trust.level } } (.mgmt 0x23 [1]))) ∧
     (tokenOk s.trust body cert sig = true → field body.toNat 16 2 = 2 → exec (.debugToken .i3c body cert sig) s =
       .next (State.emit { s with trust := { s.trust with challenge := s.trust.challenge + 1, dbgPend := 2 } } (.mgmt 0x23 [1]))) ∧
     (tokenOk s.trust body cert sig = false → exec (.debugToken .i3c body cert sig) s =
       .next (State.emit { s with trust := { s.trust with challenge := s.trust.challenge + 1 } } (.mgmt 0x23 [0])))))

/-- The patrol scrub of a line of a ready channel: a correction is counted at the line's controller, an uncorrectable error is counted,
logged and, where memory has the line's newest data, leaves the line failing its reads, a clean line changes nothing, and a line whose
stored tag does not match its keys is logged (R531, R561, R562). -/
def Obligations.PatrolScrubCountsWhatItFinds : Prop :=
  ∀ (line : BitVec 45) (s : State) (c : Nat) (m : MemCtl), line.toNat * 128 < mainSize → channelReady s (line.toNat * 128) = true →
    c = controllerOf (line.toNat * 128) → m = s.mctl c →
    (∀ u, u = s.setMctl c { m with corr := satAdd m.corr 1 } →
      (tagMatches s line.toNat = true → exec (.patrolScrub line .clean) s = .next s) ∧
      (tagMatches u line.toNat = true → exec (.patrolScrub line .corrected) s = .next u) ∧
      (tagMatches s line.toNat = false → exec (.patrolScrub line .clean) s = .next (logTagFail s line.toNat)) ∧
      (tagMatches u line.toNat = false → exec (.patrolScrub line .corrected) s = .next (logTagFail u line.toNat))) ∧
    (∀ cipher tag u, u = alterLine s line.toNat cipher tag →
      (tagMatches u line.toNat = true → exec (.patrolScrub line (.altered cipher tag)) s = .next u) ∧
      (tagMatches u line.toNat = false → exec (.patrolScrub line (.altered cipher tag)) s = .next (logTagFail u line.toNat))) ∧
    (∃ t, exec (.patrolScrub line .uncorrectable) s = .next t ∧
      t.mctl c = { m with uncorr := satAdd m.uncorr 1, addr := BitVec.ofNat 64 (line.toNat * 128) } ∧ t.mem = s.mem ∧
      (fromMemory s line.toNat = true → t.badLines = Tab.put 0 s.badLines line.toNat 1) ∧
      (fromMemory s line.toNat = false → t.badLines = s.badLines))

/-- Stoker's sensors and their power-downs: a sample of a sensor with power is kept with its status and a change of status is logged and
reported, coolant beyond its limits and a wet leak sensor begin a power-down, one without power becomes unavailable, a reading is answered
from what is kept, a leak begins a power-down at once, runtime firmware kicks and sets the heartbeat, and one that is overdue resets the
package (R549, R550, R558, R601). Stoker's messages: the log is mirrored and read back, a configuration copy replaces the older one and
takes effect later, a reset or a power-down by message starts, and what only I3C may ask is refused from a host with an error and a record
(R546, R548, R551, R552, R557). -/
def Obligations.StokerSensorsAndMessages : Prop :=
  ((∀ (i : Fin 220) (v : W32) (s u : State) (st : BitVec 2), readyStk s = true →
     (sensorUp s i = false → exec (.sensorSample i v) s = .next { s with stoker := { s.stoker with
       sensors := Tab.put {} s.stoker.sensors i.val { sensorOf s i with stat := 3 } } }) ∧
     (sensorUp s i = true → st = sensorStat i v.toInt →
       u = crossing { s with stoker := { s.stoker with sensors := Tab.put {} s.stoker.sensors i.val { value := v, stat := st } } }
         i (sensorOf s i).stat st v →
       (i.val ≠ 219 → coolantBeyond i v.toInt = false ∨ u.power.pkgPower = false → exec (.sensorSample i v) s = .next u) ∧
       (i.val ≠ 219 → coolantBeyond i v.toInt = true → u.power.pkgPower = true → exec (.sensorSample i v) s = .next (startDown u 2)) ∧
       (i.val = 219 → v = 0 → exec (.sensorSample i v) s = .next { u with stoker := { u.stoker with leak := false } }) ∧
       (i.val = 219 → v = 1 → exec (.sensorSample i v) s = .next (leakWet u))) ∧
     exec (.getSensorReading i) s = .next (s.emit (.mgmt 0x31 [i, (sensorOf s i).value.toNat, (sensorOf s i).stat.toNat]))) ∧
   (∀ s : State, s.power.feedOn = true → exec .leakDetected s = .next (leakWet s)) ∧
   (∀ (i : Nat) (v : Int), i < 144 →
     (sensorStat i v = 2 ↔ 105 * 16 ≤ v) ∧ (sensorStat i v = 1 ↔ 95 * 16 ≤ v ∧ v < 105 * 16)) ∧
   (∀ s : State, s.stoker.armed = true → s.stoker.period.toNat * 225000 ≤ s.elapsed - s.stoker.kicked → exec .heartbeatExpired s =
     .next (packageReset (s.logE { src := .stk, sev := 3, kind := 0x30, code := 5, data := s.stoker.period.toNat }) 9)) ∧
   (∀ (h : HartNo) (s : State), hartReady s h = true → (s.ht h).sb = [] →
     exec (.heartbeatKick (.core h false)) s = .next (deliverLost (writeHeartbeat s (heartbeatWord s + 2 ^ 17)) h) ∧
     (∀ ms : BitVec 16, 100 ≤ ms.toNat → ms.toNat ≤ 60000 → exec (.heartbeatPeriod (.core h false) ms) s =
       .next (deliverLost { s with stoker := { s.stoker with period := ms } } h)) ∧
     (∀ ms : BitVec 16, ms.toNat < 100 ∨ 60000 < ms.toNat → exec (.heartbeatPeriod (.core h false) ms) s = .next (deliverLost s h)) ∧
     exec (.heartbeatKick (.core h true)) s = .next (deliverLost (devRefused s (.core h true) heartbeatOff) h) ∧
     (∀ ms, exec (.heartbeatPeriod (.core h true) ms) s = .next (deliverLost (devRefused s (.core h true) heartbeatOff) h))) ∧
   (∀ s : State, exec (.heartbeatKick .thirun) s = .next (settleAll (s.logTag .stk 0 558 0x301)) ∧
     (∀ ms, exec (.heartbeatPeriod .thirun ms) s = .next (settleAll (s.logTag .stk 0 558 0x301))) ∧
     exec (.heartbeatKick .stoker) s = .next (settleAll (devRefused s .stoker heartbeatOff)) ∧
     (∀ ms, exec (.heartbeatPeriod .stoker ms) s = .next (settleAll (devRefused s .stoker heartbeatOff))))) ∧
  (∀ s : State, readyStk s = true →
     exec .logMirror s = .next (mirrorLog s) ∧
     (∀ via : Mctp, via = .i3c ∨ (∃ h : HostLinkNo, (s.host h).dlup = true) →
       (∀ (seq : W32) (n : BitVec 16), n.toNat ≤ 64 → exec (.logRead via seq n) s = .next (s.emit (.mgmt 0x10
         (((allRecords s.stoker).filter (fun r => decide (seq.toNat ≤ r.seq) && decide (r.seq < seq.toNat + n.toNat))).map logBits)))) ∧
       (∀ (seq : W32) (n : BitVec 16), 64 < n.toNat → exec (.logRead via seq n) s = .next (refuseMsg s 0x10))) ∧
     (∀ body ok, newerA s.stoker = true → exec (.configWrite .i3c body ok) s =
       .next (State.emit { s with stoker := { s.stoker with cfgB := cfgOf body ok } } (.mgmt 0x11 []))) ∧
     (∀ body ok, newerA s.stoker = false → exec (.configWrite .i3c body ok) s =
       .next (State.emit { s with stoker := { s.stoker with cfgA := cfgOf body ok } } (.mgmt 0x11 []))) ∧
     exec (.moduleResetMessage .i3c) s = .next (moduleReset s 3) ∧
     (s.power.pkgPower = true → exec (.powerDown .i3c) s = .next (startDown s 4)) ∧
     (s.power.pkgPower = false → exec (.powerDown .i3c) s = .next s) ∧
     (∀ h : HostLinkNo, (s.host h).dlup = true →
       exec (.moduleResetMessage .vdm) s = .next (refuseMsg s 0x12) ∧ exec (.powerDown .vdm) s = .next (refuseMsg s 0x13) ∧
       ∀ body ok, exec (.configWrite .vdm body ok) s = .next (refuseMsg s 0x11)))

/-- A firmware update writes the slot that is not in use, which is invalid until the transfer ends; verification leaves the slot as Thirun
finds it, and apply makes a good slot the preferred one, on trial; one transfer runs at a time, and a transport other than I3C is refused
with an error code that the spec leaves open (R502, R555, R556, Table 17.10). -/
def Obligations.FirmwareIsWrittenVerifiedAndApplied : Prop :=
  (∀ (im : Image) (ver : W32) (arb : BitVec 6) (ents : List ManEnt) (good : Bool) (s u : State) (w : Writing), readyStk s = true →
    (im = .manifest ∨ ver.toNat < 65536 ∧ ents = []) →
    w = { im := imageNo im, slot := unusedSlot s (imageNo im), ver := ver, arb := arb, entries := ents, good := good } →
    (s.kindle.writing = none → u = putSlot s w false → exec (.pldmComponentWrite .i3c im ver arb ents good) s =
      .next (State.emit { u with kindle := { u.kindle with
        writing := some w, verified := Tab.put 0 u.kindle.verified (imageNo im) 0 } } (.mgmt 0x32 [1, w.slot]))) ∧
    (s.kindle.writing ≠ none → exec (.pldmComponentWrite .i3c im ver arb ents good) s = .next (s.emit (.mgmt 0x32 [0]))) ∧
    (∀ (h : HostLinkNo) (code : Byte) (v : State), (s.host h).dlup = true → takeFree 8 s = (code, v) →
      exec (.pldmComponentWrite .vdm im ver arb ents good) s = .next (refuseMsg v code.toNat))) ∧
  (∀ (im : Image) (s u : State) (w : Writing), s.kindle.writing = some w → w.im = imageNo im → readyThn s = true → readyStk s = true →
    u = (putSlot s w w.good).logStk 8 (imageKind w.im + 0x10000 * w.slot) →
    exec (.pldmVerify im) s = .next (State.emit { u with kindle := { u.kindle with
      writing := none, verified := Tab.put 0 u.kindle.verified w.im (if w.good then w.slot + 1 else 0) } } (.mgmt 0x33 [boolNat w.good]))) ∧
  (∀ (im : Image) (s u : State) (n v : Nat), n = imageNo im → v = Tab.get 0 s.kindle.verified n → v ≠ 0 → readyStk s = true →
    u = { s with kindle := { s.kindle with verified := Tab.put 0 s.kindle.verified n 0 } } →
    exec (.pldmApply im) s = .next (State.emit (if n = 4 then u else writeSel u { s.kindle.sel with
      pref := setBit4 s.kindle.sel.pref n (decide (v = 2)), trial := setBit4 s.kindle.sel.trial n true }) (.mgmt 0x34 [n])))

/-- The account of checkpoints: a position's checkpoint goes to the slot that does not hold the latest held one with the step and its
manifest, and the interval is computed again; a buddy copy and a staging that end mark the newest snapshot that still needs them; a
program whose bound is too small is refused before its first checkpoint (R442 to R447, R450 to R454). Recovery and restore: a dead
member's recovery counts a failure, drops what was not sealed and chooses the restore point with an eligible spare, or logs the one it
passes over; a replay, of a recovery or of a restore on the same members, whose two losses are the recorded ones, bit for bit, ends the
restore, another takes the next source, without one the program stops with the mismatch in the log, and in BF16 or FP16 one with other
microbatch widths decides nothing (R450, R456, R457, R459 to R461). -/
def Obligations.CheckpointsAndRestores : Prop :=
  ((∀ (pos : Position) (c : CkptIn) (s u : State) (t t2 : TrainSt) (x : Ckpt), c.members.getLsbD pos.val = true → 1 ≤ c.dies →
     c.dies ≤ 4 → s.train.stopped = false → s.train.restoreStep = none → keepsTraining s = true →
     u = recordSteps (countMembers s) c.steps →
     t = { u.train with members := c.members, lbound := c.lbound.toNat, bytes := c.bytes, dies := c.dies, accum := c.accum } →
     (t.slots = [] → t.lbound < 3 + buddySteps t → exec (.checkpoint pos c) s = .next (u.emit (.mgmt 0x40 [t.lbound, buddySteps t]))) ∧
     (t.slots ≠ [] ∨ 3 + buddySteps t ≤ t.lbound →
       (t.slots.any (fun (e : Nat × Ckpt) => e.2.onBoard && decide (e.2.step = c.step)) = true →
         t2 = { t with pauses := t.pauses.drop (t.pauses.length - 8), nfail := t.nfail + c.reruns, due := false }) →
       (t.slots.any (fun (e : Nat × Ckpt) => e.2.onBoard && decide (e.2.step = c.step)) = false →
         t2 = { t with pauses := (t.pauses ++ [c.pauseUs.toNat]).drop (t.pauses.length + 1 - 8), nfail := t.nfail + c.reruns, due := false
                       losses := [], widths := [] }) →
       x = { step := c.step, onBoard := true, widths := u.train.widths, idh := c.idh, vers := c.vers, tmod := BitVec.ofNat 64 (memberSeconds t2)
             nfail := BitVec.ofNat 32 t2.nfail, lbound := c.lbound, dsec := BitVec.ofNat 32 (defaultMtbf u), clog := t2.pauses
             dir := c.dir } →
       exec (.checkpoint pos c) s = .next (recompute { u with train := putCkpt t2 pos (nextSlot t2 pos) x }))) ∧
   (∀ (pos : Position) (us : W32) (steps : List StepIn) (s u : State) (i : Nat), u = recordSteps (countMembers s) steps →
     newestSlot u.train pos (fun c => !c.buddy) = some i → u.train.stopped = false → positionDead u (buddyOf u.train pos) = false →
     exec (.buddyCopyDone pos us steps) s = .next (recompute { u with
       train := { putCkpt u.train pos i { ckpt u.train pos i with buddy := true } with buddyUs := some us.toNat } })) ∧
   (∀ (pos : Position) (steps : List StepIn) (s u : State) (i : Nat), u = recordSteps (countMembers s) steps →
     newestSlot u.train pos (fun c => !c.staged && held u.train c.step) = some i → u.train.stopped = false →
     exec (.stagingDone pos steps) s = .next { u with train := putCkpt u.train pos i { ckpt u.train pos i with staged := true } })) ∧
  ((∀ (pos : Position) (spare vers : W64) (s u v : State) (point : Option W64), keepsTraining s = true → s.train.stopped = false →
     (s.memb pos.val).st ≠ 1 → s.train.members.getLsbD pos.val = true → u = countMembers s → point = restorePoint u pos →
     v = recompute { u with train := { dropUnsealed u.train with nfail := u.train.nfail + 1 } } →
     (∀ step i p, point = some step → slotOf u.train pos step = some i → (ckpt u.train pos i).vers = vers → p ∈ u.group.peers →
       p.idh = spare → p.spare = true → exec (.recovery pos spare vers) s = .next { v with train := { v.train with
         recovering := some pos.val, restoreStep := point, source := 0, due := true } }) ∧
     (point = none ∨ (∀ p ∈ u.group.peers, p.idh = spare → p.spare = false) →
       exec (.recovery pos spare vers) s = .next (v.logTag .chm pos 456 vers.toNat))) ∧
   (∀ (r : ReplayIn) (same : Bool) (s v u : State) (step : W64) (c : Ckpt), s.train.stopped = false → keepsTraining s = true →
     (s.train.restoreStep ≠ none → v = countMembers s) →
     (s.train.restoreStep = none → v = { countMembers s with train := { (countMembers s).train with
       restoreStep := latest (heldSteps (countMembers s).train), source := 0, nfail := s.train.nfail + 1 } }) →
     v.train.restoreStep = some step → ckptAt v.train step = some c → u = recompute v →
     (replayValid u.train c r same = false → exec (.restoreReplay r same) s = .next u) ∧
     (replayValid u.train c r same = true →
       (c.loss1 = some r.loss1 → c.loss2 = some r.loss2 → exec (.restoreReplay r same) s =
         .next { u with train := { u.train with recovering := none, restoreStep := none, source := 0 } }) ∧
       (¬ (c.loss1 = some r.loss1 ∧ c.loss2 = some r.loss2) → ∀ src x, nextSource u.train step = some (src, x) →
         exec (.restoreReplay r same) s = .next { u with train := { u.train with source := src, restoreStep := some x } }) ∧
       (¬ (c.loss1 = some r.loss1 ∧ c.loss2 = some r.loss2) → nextSource u.train step = none → exec (.restoreReplay r same) s =
         .next (logMismatch { u with train := { u.train with stopped := true, restoreStep := none, recovering := none } }
           c r.loss1 r.loss2)))) ∧
   (∀ (t : TrainSt) (c : Ckpt) (r : ReplayIn) (same : Bool), replayValid t c r same = true ↔
     t.accum = .exact ∨ (same = true ∧ c.widths1 = some r.widths1 ∧ c.widths2 = some r.widths2)))

/-- Accesses to device space by an agent whose earlier stores have left: a write of 8 or 4 aligned bytes by an agent with the right to it
writes the register's fields, and a read answers the agent with the word or with its half; an offset that no register has, one of an
unready die, an access without the right and one of another size or alignment change nothing and fail with a decode error that is logged
with the agent. An aligned 8-byte write to the doorbell range by a core or a tile controller rings the doorbell, and every other access
there fails (R31, R32, R33, R241, R577 to R579). What a core or a tile controller has lost is reported with it (R264). -/
def Obligations.RegistersAreWrittenAndReadByTheirOffset : Prop :=
  (∀ (who : DevAgent) (va v : W64) (pa : BitVec 52) (lg : BitVec 2) (write sg : Bool) (s run t : State) (off n : Nat),
    devReady s who = true → devDrained s who = true → n = 2 ^ lg.toNat →
    (∀ h user, who = .core h user → t = deliverLost run h) →
    (∀ p, who = .tile p → (s.gr p.g).lost = [] ∧ t = settleAll run) → (who = .stoker ∨ who = .thirun → t = settleAll run) →
    (placeOf pa.toNat = .regs off →
      (∀ r, regAt (off / 8 * 8) = some r → (∀ d, regDie r = some d → readyHth s d = true) → regRight who r write = true →
        n = 4 ∨ n = 8 → off % n = 0 →
        (write = true → run = regWrite s who r (writeWord s r (decide (off % 8 = 4)) (decide (n = 8)) v.toNat)) →
        (write = false → run = deliverReg s who off n sg (regWord s r)) →
        exec (.deviceSpaceAccess who va pa lg write sg v) s = .next t) ∧
      ((n ≠ 4 ∧ n ≠ 8) ∨ off % n ≠ 0 → run = devFail s who va (regBase + off) write 3 →
        exec (.deviceSpaceAccess who va pa lg write sg v) s = .next t) ∧
      (n = 4 ∨ n = 8 → off % n = 0 →
        (regAt (off / 8 * 8) = none → run = devFail s who va (regBase + off) write 1 →
          exec (.deviceSpaceAccess who va pa lg write sg v) s = .next t) ∧
        (∀ r, regAt (off / 8 * 8) = some r →
          (∀ d, regDie r = some d → readyHth s d = false → run = devFail s who va (regBase + off) write 1 →
            exec (.deviceSpaceAccess who va pa lg write sg v) s = .next t) ∧
          ((∀ d, regDie r = some d → readyHth s d = true) → regRight who r write = false →
            run = devFail s who va (regBase + off) write 2 → exec (.deviceSpaceAccess who va pa lg write sg v) s = .next t)))) ∧
    (placeOf pa.toNat = .bell off →
      (write = true → n = 8 → off % 8 = 0 →
        (∀ h user, who = .core h user → run = bellWrite s (.core h) (off / 8) v →
          exec (.deviceSpaceAccess who va pa lg write sg v) s = .next t) ∧
        (∀ p, who = .tile p → run = (bellWrite s (.tile p) (off / 8) v).modGr p.g (fun x => { x with pc := nextPc p }) →
          exec (.deviceSpaceAccess who va pa lg write sg v) s = .next t)) ∧
      (¬ (write = true ∧ n = 8 ∧ off % 8 = 0) → (∃ h user, who = .core h user) ∨ (∃ p, who = .tile p) →
        run = devFail s who va (bellBase + off) write 3 → exec (.deviceSpaceAccess who va pa lg write sg v) s = .next t) ∧
      (who = .stoker ∨ who = .thirun → run = devFail s who va (bellBase + off) write 2 →
        exec (.deviceSpaceAccess who va pa lg write sg v) s = .next t))) ∧
  (∀ (who : DevAgent) (off : BitVec 28) (wide : Bool) (v : W64) (s t run : State) (r : Reg) (n : Nat), devReady s who = true →
    devDrained s who = true → n = (if wide then 8 else 4) →
    (∀ h user, who = .core h user → t = deliverLost run h) → (who = .stoker ∨ who = .thirun → t = settleAll run) →
    regAt (off.toNat / 8 * 8) = some r → (∀ d, regDie r = some d → readyHth s d = true) → regRight who r true = true →
    off.toNat % n = 0 → run = regWrite s who r (writeWord s r (decide (off.toNat % 8 = 4)) wide v.toNat) →
    exec (.registerWrite who off wide v) s = .next t) ∧
  (∀ (who : DevAgent) (off : BitVec 28) (wide : Bool) (v va : W64) (s u run t : State) (n code : Nat), takeFree 64 s = (va, u) →
    devReady u who = true → devDrained u who = true → n = (if wide then 8 else 4) →
    (∀ h user, who = .core h user → t = deliverLost run h) →
    (∀ p, who = .tile p → (u.gr p.g).lost = [] ∧ t = settleAll run) → (who = .stoker ∨ who = .thirun → t = settleAll run) →
    run = devFail u who va (regBase + off.toNat) true code →
    (off.toNat % n ≠ 0 ∧ code = 3) ∨ (off.toNat % n = 0 ∧ regAt (off.toNat / 8 * 8) = none ∧ code = 1) ∨
      (off.toNat % n = 0 ∧ ∃ r, regAt (off.toNat / 8 * 8) = some r ∧
        ((∃ d, regDie r = some d ∧ readyHth s d = false ∧ code = 1) ∨
         ((∀ d, regDie r = some d → readyHth s d = true) ∧ regRight who r true = false ∧ code = 2))) →
    exec (.registerWrite who off wide v) s = .next t)
end

