-- ==== Sys2Proof/Laws/Tab.lean ====
section
/-! SUPPORT. Tables and memory: a read after a write, and that every operation keeps the canonical form. -/

namespace Sys2Proof.Machine

variable {α : Type}

/-! ### Reads after updates -/

@[simp] theorem Tab.get_nil (d : α) (k : Nat) : Tab.get d [] k = d := rfl

/-- Every listed key is at least k. -/
def Tab.low (k : Nat) (t : Tab α) : Prop := ∀ e ∈ t, k < e.1

/-- Keys strictly rising. -/
def Tab.sorted : Tab α → Prop
  | [] => True
  | e :: t => Tab.low e.1 t ∧ Tab.sorted t

theorem Tab.get_of_low (d : α) {k : Nat} {t : Tab α} (h : Tab.low k t) : Tab.get d t k = d := by
  induction t with
  | nil => rfl
  | cons e t ih =>
    obtain ⟨j, v⟩ := e
    have hj : k < j := h (j, v) (by simp)
    simp only [Tab.get]
    rw [if_neg (by omega)]
    exact ih (fun x hx => h x (by simp [hx]))

theorem Tab.get_insert_same (d : α) (t : Tab α) (k : Nat) (v : α) : Tab.get d (Tab.insert t k v) k = v := by
  induction t with
  | nil => simp [Tab.insert, Tab.get]
  | cons e t ih =>
    obtain ⟨j, w⟩ := e
    simp only [Tab.insert]
    split
    · simp [Tab.get]
    · split
      · simp [Tab.get]
      · rename_i h1 h2
        simp only [Tab.get]
        rw [if_neg (by omega)]
        exact ih

theorem Tab.get_insert_other (d : α) (t : Tab α) {k i : Nat} (v : α) (h : i ≠ k) :
    Tab.get d (Tab.insert t k v) i = Tab.get d t i := by
  induction t with
  | nil => simp [Tab.insert, Tab.get, Ne.symm h]
  | cons e t ih =>
    obtain ⟨j, w⟩ := e
    simp only [Tab.insert]
    split
    · simp [Tab.get, Ne.symm h]
    · split
      · rename_i h1 h2
        subst h2
        simp [Tab.get, Ne.symm h]
      · simp only [Tab.get]
        split
        · rfl
        · exact ih

theorem Tab.get_filter (d : α) (t : Tab α) (p : Nat → Bool) (i : Nat) :
    Tab.get d (t.filter (fun e => p e.1)) i = if p i then Tab.get d t i else d := by
  induction t with
  | nil => simp
  | cons e t ih =>
    obtain ⟨j, w⟩ := e
    by_cases hp : p j
    · simp only [List.filter_cons, hp, if_true, Tab.get]
      by_cases hj : j = i
      · subst hj
        simp [hp]
      · simp [hj, ih]
    · simp only [List.filter_cons, hp, if_false, Bool.false_eq_true, Tab.get]
      by_cases hj : j = i
      · subst hj
        simp [hp, ih]
      · simp [hj, ih]

theorem Tab.get_erase (d : α) (t : Tab α) (k i : Nat) :
    Tab.get d (Tab.erase t k) i = if i = k then d else Tab.get d t i := by
  have h := Tab.get_filter d t (fun j => j != k) i
  simp only [Tab.erase]
  rw [h]
  by_cases hi : i = k <;> simp [hi]

/-- A read after a write to the same key gives the value written. -/
@[simp] theorem Tab.get_put_same [DecidableEq α] (d : α) (t : Tab α) (k : Nat) (v : α) :
    Tab.get d (Tab.put d t k v) k = v := by
  unfold Tab.put
  split
  · rename_i h
    rw [Tab.get_erase, if_pos rfl, h]
  · exact Tab.get_insert_same d _ k v

/-- A write leaves every other key alone. -/
theorem Tab.get_put_other [DecidableEq α] (d : α) (t : Tab α) {k i : Nat} (v : α) (h : i ≠ k) :
    Tab.get d (Tab.put d t k v) i = Tab.get d t i := by
  unfold Tab.put
  split
  · rw [Tab.get_erase, if_neg h]
  · rw [Tab.get_insert_other d _ v h, Tab.get_erase, if_neg h]

theorem Tab.erase_erase (t : Tab α) (k : Nat) : Tab.erase (Tab.erase t k) k = Tab.erase t k := by
  simp [Tab.erase, List.filter_filter]

theorem Tab.erase_insert (t : Tab α) (k : Nat) (v : α) : Tab.erase (Tab.insert t k v) k = Tab.erase t k := by
  induction t with
  | nil => simp [Tab.insert, Tab.erase]
  | cons e t ih =>
    obtain ⟨j, w⟩ := e
    simp only [Tab.insert]
    split
    · simp [Tab.erase]
    · split
      · rename_i h
        subst h
        simp [Tab.erase]
      · simp only [Tab.erase, List.filter_cons] at ih ⊢
        rw [ih]

/-- Of two writes to one key the last is all that counts. -/
@[simp] theorem Tab.put_put [DecidableEq α] (d : α) (t : Tab α) (k : Nat) (v w : α) :
    Tab.put d (Tab.put d t k v) k w = Tab.put d t k w := by
  have h : Tab.erase (Tab.put d t k v) k = Tab.erase t k := by
    unfold Tab.put
    split
    · exact Tab.erase_erase t k
    · rw [Tab.erase_insert, Tab.erase_erase]
  rw [show Tab.put d (Tab.put d t k v) k w = if w = d then Tab.erase (Tab.put d t k v) k
    else Tab.insert (Tab.erase (Tab.put d t k v) k) k w from rfl, h]
  rfl

/-- What a key reads as after a write. -/
theorem Tab.get_put [DecidableEq α] (d : α) (t : Tab α) (k i : Nat) (v : α) :
    Tab.get d (Tab.put d t k v) i = if i = k then v else Tab.get d t i := by
  by_cases h : i = k
  · subst h; simp
  · rw [Tab.get_put_other d t v h, if_neg h]

/-- A range erased reads as the default, and nothing else changes. -/
theorem Tab.get_eraseRange (d : α) (t : Tab α) (a n i : Nat) :
    Tab.get d (Tab.eraseRange t a n) i = if a ≤ i ∧ i < a + n then d else Tab.get d t i := by
  have h := Tab.get_filter d t (fun j => decide (j < a) || decide (a + n ≤ j)) i
  simp only [Tab.eraseRange]
  rw [h]
  by_cases h1 : i < a
  · simp [h1, show ¬ a ≤ i by omega]
  · by_cases h2 : a + n ≤ i
    · simp [h2, show ¬ i < a + n by omega]
    · simp [h1, h2, show a ≤ i by omega, show i < a + n by omega]

/-! ### The canonical form -/

theorem Tab.wf_cons [DecidableEq α] (d : α) (e : Nat × α) (t : Tab α) :
    Tab.wf d (e :: t) = true ↔ e.2 ≠ d ∧ Tab.low e.1 t ∧ Tab.wf d t = true := by
  induction t generalizing e with
  | nil =>
    obtain ⟨j, v⟩ := e
    simp [Tab.wf, Tab.low]
  | cons f t ih =>
    obtain ⟨j, v⟩ := e
    obtain ⟨k, w⟩ := f
    simp only [Tab.wf, Bool.and_eq_true, decide_eq_true_eq]
    constructor
    · rintro ⟨⟨h1, h2⟩, h3⟩
      refine ⟨h1, ?_, h3⟩
      intro x hx
      rcases List.mem_cons.mp hx with rfl | hx
      · exact h2
      · have := ((ih (k, w)).mp h3).2.1 x hx
        simp only at this ⊢
        omega
    · rintro ⟨h1, h2, h3⟩
      exact ⟨⟨h1, h2 (k, w) (by simp)⟩, h3⟩

theorem Tab.low_filter {k : Nat} {t : Tab α} (p : Nat × α → Bool) (h : Tab.low k t) : Tab.low k (t.filter p) :=
  fun e he => h e (List.mem_filter.mp he).1

/-- Leaving entries out keeps the canonical form. -/
theorem Tab.wf_filter [DecidableEq α] (d : α) (t : Tab α) (p : Nat × α → Bool) (h : Tab.wf d t = true) :
    Tab.wf d (t.filter p) = true := by
  induction t with
  | nil => rfl
  | cons e t ih =>
    obtain ⟨h1, h2, h3⟩ := (Tab.wf_cons d e t).mp h
    by_cases hp : p e
    · rw [List.filter_cons, if_pos hp]
      exact (Tab.wf_cons d e _).mpr ⟨h1, Tab.low_filter p h2, ih h3⟩
    · rw [List.filter_cons, if_neg hp]
      exact ih h3

theorem Tab.low_insert {k j : Nat} {t : Tab α} (v : α) (h : Tab.low k t) (hj : k < j) : Tab.low k (Tab.insert t j v) := by
  induction t with
  | nil => intro e he; simp [Tab.insert] at he; subst he; exact hj
  | cons f t ih =>
    obtain ⟨i, w⟩ := f
    have hi : k < i := h (i, w) (by simp)
    have ht : Tab.low k t := fun x hx => h x (by simp [hx])
    simp only [Tab.insert]
    split
    · intro e he
      rcases List.mem_cons.mp he with rfl | he
      · exact hj
      · exact h e he
    · split
      · intro e he
        rcases List.mem_cons.mp he with rfl | he
        · exact hj
        · exact ht e he
      · intro e he
        rcases List.mem_cons.mp he with rfl | he
        · exact hi
        · exact ih ht e he

theorem Tab.wf_insert [DecidableEq α] (d : α) (t : Tab α) (k : Nat) (v : α) (h : Tab.wf d t = true) (hv : v ≠ d) :
    Tab.wf d (Tab.insert t k v) = true := by
  induction t with
  | nil => simp [Tab.insert, Tab.wf, hv]
  | cons e t ih =>
    obtain ⟨j, w⟩ := e
    obtain ⟨h1, h2, h3⟩ := (Tab.wf_cons d (j, w) t).mp h
    simp only [Tab.insert]
    split
    · rename_i hk
      refine (Tab.wf_cons d _ _).mpr ⟨hv, ?_, h⟩
      intro x hx
      rcases List.mem_cons.mp hx with rfl | hx
      · exact hk
      · exact Nat.lt_trans hk (h2 x hx)
    · split
      · rename_i hk
        subst hk
        exact (Tab.wf_cons d _ _).mpr ⟨hv, h2, h3⟩
      · rename_i hk1 hk2
        exact (Tab.wf_cons d _ _).mpr ⟨h1, Tab.low_insert v h2 (by simp only; omega), ih h3⟩

/-- A write keeps the canonical form. -/
theorem Tab.wf_put [DecidableEq α] (d : α) (t : Tab α) (k : Nat) (v : α) (h : Tab.wf d t = true) :
    Tab.wf d (Tab.put d t k v) = true := by
  unfold Tab.put
  split
  · exact Tab.wf_filter d t _ h
  · rename_i hv
    exact Tab.wf_insert d _ k v (Tab.wf_filter d t _ h) hv

theorem Tab.wf_eraseRange [DecidableEq α] (d : α) (t : Tab α) (a n : Nat) (h : Tab.wf d t = true) :
    Tab.wf d (Tab.eraseRange t a n) = true := Tab.wf_filter d t _ h

/-! ### Memory -/

/-- Bytes written keep the memory's canonical form. -/
theorem Mem.wf_write (m : Mem) (a : Nat) (bs : List Byte) (h : Mem.wf m = true) : Mem.wf (Mem.write m a bs) = true := by
  induction bs generalizing m a with
  | nil => exact h
  | cons b bs ih => exact ih _ _ (Tab.wf_put _ _ _ _ h)

/-- Bytes zeroed keep the memory's canonical form. -/
theorem Mem.wf_zero (m : Mem) (a n : Nat) (h : Mem.wf m = true) : Mem.wf (Tab.eraseRange m a n) = true :=
  Tab.wf_eraseRange _ _ _ _ h

/-- A byte outside the bytes written reads as before; a byte written reads as written. -/
theorem Mem.get_write (m : Mem) (a : Nat) (bs : List Byte) (i : Nat) :
    Tab.get 0 (Mem.write m a bs) i = if a ≤ i ∧ i < a + bs.length then bs.getD (i - a) 0 else Tab.get 0 m i := by
  induction bs generalizing m a with
  | nil => simp [Mem.write, show ¬ (a ≤ i ∧ i < a) by omega]
  | cons b bs ih =>
    simp only [Mem.write, ih, Tab.get_put, List.length_cons]
    by_cases h1 : i = a
    · subst h1
      simp [show ¬ (i + 1 ≤ i) by omega]
    · by_cases h2 : a + 1 ≤ i ∧ i < a + 1 + bs.length
      · rw [if_pos h2, if_pos (by omega)]
        have : i - a = (i - (a + 1)) + 1 := by omega
        rw [this, List.getD_cons_succ]
      · rw [if_neg h2, if_neg h1, if_neg (by omega)]

end Sys2Proof.Machine
end

