-- ==== Sys2Proof/Laws/Kept.lean ====
section
/-! SUPPORT. What keeps the queue, the memory's form, the fuses and the anti-rollback counters: how the property goes through the
shapes that a meaning is built from. -/

namespace Sys2Proof

open Sys2Proof.Machine

set_option linter.unusedVariables false

variable {m : Nat} {r s t : State} {α β γ : Type}

/-! ### Masks of parts -/

/-- Every part of a mask is one of another's. -/
structure Sub (a m : Nat) : Prop where
  part : a &&& m = a

theorem Sub.of {a b m : Nat} (h : Sub b m) (hab : a &&& b = a) : Sub a m := by
  constructor
  rw [← hab, Nat.and_assoc, h.part]

theorem Sub.bit {a m k : Nat} (h : Sub a m) (hk : m.testBit k = false) : a.testBit k = false := by
  have := congrArg (·.testBit k) h.part
  simpa [Nat.testBit_and, hk] using this.symm

/-- The first state with the parts that a mask does not name taken from the second. -/
def mix (m : Nat) (a b : State) : State where
  pending := cond (m.testBit 0) a.pending b.pending
  tick := cond (m.testBit 1) a.tick b.tick
  elapsed := cond (m.testBit 2) a.elapsed b.elapsed
  free := cond (m.testBit 3) a.free b.free
  out := cond (m.testBit 4) a.out b.out
  mem := cond (m.testBit 5) a.mem b.mem
  badLines := cond (m.testBit 6) a.badLines b.badLines
  memCtl := cond (m.testBit 7) a.memCtl b.memCtl
  ctxClass := cond (m.testBit 8) a.ctxClass b.ctxClass
  grates := cond (m.testBit 9) a.grates b.grates
  harts := cond (m.testBit 10) a.harts b.harts
  spadWins := cond (m.testBit 11) a.spadWins b.spadWins
  resv := cond (m.testBit 12) a.resv b.resv
  tallies := cond (m.testBit 13) a.tallies b.tallies
  ctxs := cond (m.testBit 14) a.ctxs b.ctxs
  xlat := cond (m.testBit 15) a.xlat b.xlat
  owners := cond (m.testBit 16) a.owners b.owners
  rot := cond (m.testBit 17) a.rot b.rot
  rings := cond (m.testBit 18) a.rings b.rings
  ringq := cond (m.testBit 19) a.ringq b.ringq
  ringCmd := cond (m.testBit 20) a.ringCmd b.ringCmd
  jobs := cond (m.testBit 21) a.jobs b.jobs
  reqs := cond (m.testBit 22) a.reqs b.reqs
  nextReq := cond (m.testBit 23) a.nextReq b.nextReq
  waitRecs := cond (m.testBit 24) a.waitRecs b.waitRecs
  streams := cond (m.testBit 25) a.streams b.streams
  streamBad := cond (m.testBit 26) a.streamBad b.streamBad
  coefs := cond (m.testBit 27) a.coefs b.coefs
  fulStat := cond (m.testBit 28) a.fulStat b.fulStat
  coh := cond (m.testBit 29) a.coh b.coh
  ports := cond (m.testBit 30) a.ports b.ports
  hosts := cond (m.testBit 31) a.hosts b.hosts
  fabric := cond (m.testBit 32) a.fabric b.fabric
  flue := cond (m.testBit 33) a.flue b.flue
  group := cond (m.testBit 34) a.group b.group
  power := cond (m.testBit 35) a.power b.power
  kindle := cond (m.testBit 36) a.kindle b.kindle
  trust := cond (m.testBit 37) a.trust b.trust
  stoker := cond (m.testBit 38) a.stoker b.stoker
  train := cond (m.testBit 39) a.train b.train
  served := cond (m.testBit 40) a.served b.served

theorem mix_same {m : Nat} {a b : State} (h : mix m a b = a) (p : Part) (hp : m.testBit p.ctorIdx = false) : p.same a b := by
  cases p
  · have := congrArg State.pending h; simp only [mix, show m.testBit 0 = false from hp, cond_false] at this; exact this
  · have := congrArg State.tick h; simp only [mix, show m.testBit 1 = false from hp, cond_false] at this; exact this
  · have := congrArg State.elapsed h; simp only [mix, show m.testBit 2 = false from hp, cond_false] at this; exact this
  · have := congrArg State.free h; simp only [mix, show m.testBit 3 = false from hp, cond_false] at this; exact this
  · have := congrArg State.out h; simp only [mix, show m.testBit 4 = false from hp, cond_false] at this; exact this
  · have := congrArg State.mem h; simp only [mix, show m.testBit 5 = false from hp, cond_false] at this; exact this
  · have := congrArg State.badLines h; simp only [mix, show m.testBit 6 = false from hp, cond_false] at this; exact this
  · have := congrArg State.memCtl h; simp only [mix, show m.testBit 7 = false from hp, cond_false] at this; exact this
  · have := congrArg State.ctxClass h; simp only [mix, show m.testBit 8 = false from hp, cond_false] at this; exact this
  · have := congrArg State.grates h; simp only [mix, show m.testBit 9 = false from hp, cond_false] at this; exact this
  · have := congrArg State.harts h; simp only [mix, show m.testBit 10 = false from hp, cond_false] at this; exact this
  · have := congrArg State.spadWins h; simp only [mix, show m.testBit 11 = false from hp, cond_false] at this; exact this
  · have := congrArg State.resv h; simp only [mix, show m.testBit 12 = false from hp, cond_false] at this; exact this
  · have := congrArg State.tallies h; simp only [mix, show m.testBit 13 = false from hp, cond_false] at this; exact this
  · have := congrArg State.ctxs h; simp only [mix, show m.testBit 14 = false from hp, cond_false] at this; exact this
  · have := congrArg State.xlat h; simp only [mix, show m.testBit 15 = false from hp, cond_false] at this; exact this
  · have := congrArg State.owners h; simp only [mix, show m.testBit 16 = false from hp, cond_false] at this; exact this
  · have := congrArg State.rot h; simp only [mix, show m.testBit 17 = false from hp, cond_false] at this; exact this
  · have := congrArg State.rings h; simp only [mix, show m.testBit 18 = false from hp, cond_false] at this; exact this
  · have := congrArg State.ringq h; simp only [mix, show m.testBit 19 = false from hp, cond_false] at this; exact this
  · have := congrArg State.ringCmd h; simp only [mix, show m.testBit 20 = false from hp, cond_false] at this; exact this
  · have := congrArg State.jobs h; simp only [mix, show m.testBit 21 = false from hp, cond_false] at this; exact this
  · have := congrArg State.reqs h; simp only [mix, show m.testBit 22 = false from hp, cond_false] at this; exact this
  · have := congrArg State.nextReq h; simp only [mix, show m.testBit 23 = false from hp, cond_false] at this; exact this
  · have := congrArg State.waitRecs h; simp only [mix, show m.testBit 24 = false from hp, cond_false] at this; exact this
  · have := congrArg State.streams h; simp only [mix, show m.testBit 25 = false from hp, cond_false] at this; exact this
  · have := congrArg State.streamBad h; simp only [mix, show m.testBit 26 = false from hp, cond_false] at this; exact this
  · have := congrArg State.coefs h; simp only [mix, show m.testBit 27 = false from hp, cond_false] at this; exact this
  · have := congrArg State.fulStat h; simp only [mix, show m.testBit 28 = false from hp, cond_false] at this; exact this
  · have := congrArg State.coh h; simp only [mix, show m.testBit 29 = false from hp, cond_false] at this; exact this
  · have := congrArg State.ports h; simp only [mix, show m.testBit 30 = false from hp, cond_false] at this; exact this
  · have := congrArg State.hosts h; simp only [mix, show m.testBit 31 = false from hp, cond_false] at this; exact this
  · have := congrArg State.fabric h; simp only [mix, show m.testBit 32 = false from hp, cond_false] at this; exact this
  · have := congrArg State.flue h; simp only [mix, show m.testBit 33 = false from hp, cond_false] at this; exact this
  · have := congrArg State.group h; simp only [mix, show m.testBit 34 = false from hp, cond_false] at this; exact this
  · have := congrArg State.power h; simp only [mix, show m.testBit 35 = false from hp, cond_false] at this; exact this
  · have := congrArg State.kindle h; simp only [mix, show m.testBit 36 = false from hp, cond_false] at this; exact this
  · have := congrArg State.trust h; simp only [mix, show m.testBit 37 = false from hp, cond_false] at this; exact this
  · have := congrArg State.stoker h; simp only [mix, show m.testBit 38 = false from hp, cond_false] at this; exact this
  · have := congrArg State.train h; simp only [mix, show m.testBit 39 = false from hp, cond_false] at this; exact this
  · have := congrArg State.served h; simp only [mix, show m.testBit 40 = false from hp, cond_false] at this; exact this

theorem Part.same_refl (p : Part) (s : State) : p.same s s := by cases p <;> rfl

theorem Part.same_trans {p : Part} {r s t : State} (h : p.same r s) (k : p.same s t) : p.same r t := by
  cases p <;> exact Eq.trans k h

/-! ### States that differ elsewhere only -/

theorem Kept.start (s : State) : Kept m s s :=
  ⟨id, ⟨rfl, rfl, rfl⟩, fun _ => Nat.le_refl _, fun p _ => p.same_refl s⟩

theorem arbValue_congr (h : t.trust.arb = s.trust.arb) (i : Nat) : arbValue t i = arbValue s i := by
  unfold arbValue arbRecord; rw [h]

/-- A state that differs in the parts of a mask only, not in the memory's contents or the fuses. -/
theorem Kept.upd {f : Nat} (hf : Sub f m) (h : Kept m r s) (hm : t.mem = s.mem) (hr : fuseRow t.trust = fuseRow s.trust)
    (hx : mix f s t = s) : Kept m r t := by
  simp only [fuseRow, Prod.mk.injEq] at hr
  obtain ⟨h1, h2, h3, h4⟩ := hr
  exact ⟨fun hw => hm ▸ h.mem hw, ⟨h1.trans h.fuses.1, h2.trans h.fuses.2.1, h3.trans h.fuses.2.2⟩,
    fun i => by rw [arbValue_congr h4]; exact h.arb i, fun p hp => Part.same_trans (h.frame p hp) (mix_same hx p (hf.bit hp))⟩

/-- A record of a state that differs in the parts of a mask only. -/
theorem Kept.record (f : Nat) {f_pending f_tick f_elapsed f_free f_out f_mem f_badLines f_memCtl f_ctxClass f_grates f_harts f_spadWins f_resv f_tallies f_ctxs f_xlat f_owners f_rot f_rings f_ringq f_ringCmd f_jobs f_reqs f_nextReq f_waitRecs f_streams f_streamBad f_coefs f_fulStat f_coh f_ports f_hosts f_fabric f_flue f_group f_power f_kindle f_trust f_stoker f_train f_served}
    (h : Kept m r s) (hm : f_mem = s.mem) (hr : fuseRow f_trust = fuseRow s.trust)
    (hx : mix f s (State.mk f_pending f_tick f_elapsed f_free f_out f_mem f_badLines f_memCtl f_ctxClass f_grates f_harts f_spadWins f_resv f_tallies f_ctxs f_xlat f_owners f_rot f_rings f_ringq f_ringCmd f_jobs f_reqs f_nextReq f_waitRecs f_streams f_streamBad f_coefs f_fulStat f_coh f_ports f_hosts f_fabric f_flue f_group f_power f_kindle f_trust f_stoker f_train f_served) = s) (hf : Sub f m) :
    Kept m r (State.mk f_pending f_tick f_elapsed f_free f_out f_mem f_badLines f_memCtl f_ctxClass f_grates f_harts f_spadWins f_resv f_tallies f_ctxs f_xlat f_owners f_rot f_rings f_ringq f_ringCmd f_jobs f_reqs f_nextReq f_waitRecs f_streams f_streamBad f_coefs f_fulStat f_coh f_ports f_hosts f_fabric f_flue f_group f_power f_kindle f_trust f_stoker f_train f_served) :=
  Kept.upd hf h hm hr hx

/-- A state whose memory alone differs. -/
theorem Kept.memory (hs : Sub 32 m) (h : Kept m r s) (x : Mem) (hm : Mem.wf s.mem = true → Mem.wf x = true) :
    Kept m r { s with mem := x } :=
  ⟨fun hw => hm (h.mem hw), h.fuses, h.arb, fun p hp => Part.same_trans (h.frame p hp) (mix_same (m := 32) rfl p (hs.bit hp))⟩

/-! ### Anti-rollback counters (R520) -/

/-- The largest of the valid records, from records that are kept wherever they are valid. -/
theorem arbFold_le (l : List Nat) (f g : Nat → BitVec 24) (h : ∀ k, g k = f k ∨ arbValid (f k) = false) (a b : Nat) (hab : a ≤ b) :
    l.foldl (fun n k => if arbValid (f k) then max n (field (f k).toNat 0 16) else n) a ≤
      l.foldl (fun n k => if arbValid (g k) then max n (field (g k).toNat 0 16) else n) b := by
  induction l generalizing a b with
  | nil => exact hab
  | cons k l ih =>
    simp only [List.foldl_cons]
    apply ih
    rcases h k with hk | hk
    · rw [hk]
      split <;> omega
    · rw [if_neg (by simp [hk])]
      split <;> omega

/-- A record written where none was lowers no counter. -/
theorem arbValue_blow (s t : State) (i k : Nat) (v : BitVec 24) (hfree : arbFree s.trust i = some k)
    (harb : t.trust.arb = Tab.put 0 s.trust.arb (16 * i + k) v) (n : Nat) : arbValue s n ≤ arbValue t n := by
  have h0 : Tab.get 0 s.trust.arb (16 * i + k) = 0 := by
    have := List.find?_some hfree
    simpa using this
  unfold arbValue
  refine arbFold_le _ (arbRecord s n) (arbRecord t n) ?_ 0 0 (Nat.le_refl _)
  intro j
  by_cases hj : 16 * n + j = 16 * i + k
  · right
    unfold arbRecord
    rw [hj, h0]
    decide
  · left
    unfold arbRecord
    rw [harb, Tab.get_put_other _ _ _ hj]

/-- A record of a raise written. -/
theorem Kept.blow {i k : Nat} {v : BitVec 24} {f : Nat} (hs : Sub f m) (h : Kept m r s) (hfree : arbFree s.trust i = some k)
    (hm : t.mem = s.mem)
    (hf : fuseRow t.trust = (s.trust.cstep, s.trust.hsteps, s.trust.permlock, Tab.put 0 s.trust.arb (16 * i + k) v))
    (hx : mix f s t = s) : Kept m r t := by
  simp only [fuseRow, Prod.mk.injEq] at hf
  obtain ⟨h1, h2, h3, h4⟩ := hf
  exact ⟨fun hw => hm ▸ h.mem hw, ⟨h1.trans h.fuses.1, h2.trans h.fuses.2.1, h3.trans h.fuses.2.2⟩,
    fun n => Nat.le_trans (h.arb n) (arbValue_blow s t i k v hfree h4 n),
    fun p hp => Part.same_trans (h.frame p hp) (mix_same hx p (hs.bit hp))⟩

/-! ### The shapes of results -/

/-- An outcome's next state keeps it. -/
def ResKept (m : Nat) (r : State) (x : Res) : Prop := ∀ t, x = .next t → Kept m r t

def OptKept (m : Nat) (r : State) (x : Option State) : Prop := ∀ t, x = some t → Kept m r t

def OptPairKept (m : Nat) (r : State) (x : Option (α × State)) : Prop := ∀ v t, x = some (v, t) → Kept m r t

def ARKept (m : Nat) (r : State) : AR α → Prop
  | .ok _ s _ => Kept m r s
  | .stall s _ => Kept m r s
  | .fail _ s _ => Kept m r s

def ProgKept (m : Nat) (r : State) : Prog → Prop
  | .again s _ => Kept m r s
  | .stop s => Kept m r s

def ExKept (m : Nat) (r : State) : Except State α → Prop
  | .error s => Kept m r s
  | .ok _ => True

def SOutKept (m : Nat) (r : State) : SOut → Prop
  | .wait s => Kept m r s
  | .done _ _ s => Kept m r s

def LReadKept (m : Nat) (r : State) : LRead → Prop
  | .got _ s => Kept m r s
  | .wait s => Kept m r s
  | .failed _ s => Kept m r s

def DispKept (m : Nat) (r : State) : Dispatch → Prop
  | .kind _ s => Kept m r s
  | .stall s => Kept m r s
  | .refused s => Kept m r s

def ChainKept (m : Nat) (r : State) : Chain → Prop
  | .done _ s => Kept m r s
  | .wait s => Kept m r s
  | .refused s => Kept m r s
  | .failed _ _ s => Kept m r s

theorem chainKept_done (n : Nat) (h : Kept m r s) : ChainKept m r (.done n s) := h
theorem chainKept_wait (h : Kept m r s) : ChainKept m r (.wait s) := h
theorem chainKept_refused (h : Kept m r s) : ChainKept m r (.refused s) := h
theorem chainKept_failed (x : Resp) (n : Nat) (h : Kept m r s) : ChainKept m r (.failed x n s) := h
theorem chainKept_ite {c : Prop} [Decidable c] {a b : Chain} (ha : ChainKept m r a) (hb : ChainKept m r b) :
    ChainKept m r (if c then a else b) := by
  split
  · exact ha
  · exact hb
theorem kept_doneChain {x : Chain} {n : Nat} (h : x = .done n t) (hx : ChainKept m r x) : Kept m r t := by subst h; exact hx
theorem kept_waitChain {x : Chain} (h : x = .wait t) (hx : ChainKept m r x) : Kept m r t := by subst h; exact hx
theorem kept_refusedChain {x : Chain} (h : x = .refused t) (hx : ChainKept m r x) : Kept m r t := by subst h; exact hx
theorem kept_failedChain {x : Chain} {q : Resp} {n : Nat} (h : x = .failed q n t) (hx : ChainKept m r x) : Kept m r t := by
  subst h; exact hx

theorem sOutKept_wait (h : Kept m r s) : SOutKept m r (.wait s) := h
theorem sOutKept_done (n : Nat) (x : List (Nat × Nat × Nat)) (h : Kept m r s) : SOutKept m r (.done n x s) := h
theorem lReadKept_got (b : List Byte) (h : Kept m r s) : LReadKept m r (.got b s) := h
theorem lReadKept_wait (h : Kept m r s) : LReadKept m r (.wait s) := h
theorem lReadKept_failed (n : Nat) (h : Kept m r s) : LReadKept m r (.failed n s) := h
theorem dispKept_kind (b : Bool) (h : Kept m r s) : DispKept m r (.kind b s) := h
theorem dispKept_stall (h : Kept m r s) : DispKept m r (.stall s) := h
theorem dispKept_refused (h : Kept m r s) : DispKept m r (.refused s) := h
theorem exKept_error (h : Kept m r s) : ExKept m r (Except.error (α := α) s) := h
theorem exKept_ok (v : α) : ExKept m r (.ok v) := trivial

theorem kept_waitOut {x : SOut} (h : x = .wait t) (hx : SOutKept m r x) : Kept m r t := by subst h; exact hx
theorem kept_doneOut {x : SOut} {n : Nat} {l : List (Nat × Nat × Nat)} (h : x = .done n l t) (hx : SOutKept m r x) : Kept m r t := by
  subst h; exact hx
theorem kept_gotRead {x : LRead} {b : List Byte} (h : x = .got b t) (hx : LReadKept m r x) : Kept m r t := by subst h; exact hx
theorem kept_waitRead {x : LRead} (h : x = .wait t) (hx : LReadKept m r x) : Kept m r t := by subst h; exact hx
theorem kept_failedRead {x : LRead} {n : Nat} (h : x = .failed n t) (hx : LReadKept m r x) : Kept m r t := by subst h; exact hx
theorem kept_kind {x : Dispatch} {b : Bool} (h : x = .kind b t) (hx : DispKept m r x) : Kept m r t := by subst h; exact hx
theorem kept_stallDisp {x : Dispatch} (h : x = .stall t) (hx : DispKept m r x) : Kept m r t := by subst h; exact hx
theorem kept_refusedDisp {x : Dispatch} (h : x = .refused t) (hx : DispKept m r x) : Kept m r t := by subst h; exact hx

theorem ResKept.next (h : Kept m r t) : ResKept m r (.next t) := by rintro _ ⟨⟩; exact h
theorem ResKept.fault (f : Fault) : ResKept m r (.fault f) := by rintro _ ⟨⟩
theorem ResKept.refused (f : Refusal) : ResKept m r (.refused f) := by rintro _ ⟨⟩
theorem ResKept.ite {c : Prop} [Decidable c] {a b : Res} (ha : ResKept m r a) (hb : ResKept m r b) : ResKept m r (if c then a else b) := by
  split
  · exact ha
  · exact hb
theorem OptKept.some (h : Kept m r t) : OptKept m r (some t) := by rintro _ ⟨⟩; exact h
theorem OptKept.none : OptKept m r none := by rintro _ ⟨⟩
theorem OptPairKept.some (v : α) (h : Kept m r t) : OptPairKept m r (some (v, t)) := by rintro _ _ ⟨⟩; exact h
theorem OptPairKept.none : OptPairKept m r (none : Option (α × State)) := by rintro _ _ ⟨⟩

theorem kept_pair {x : α × State} {v : α} (h : x = (v, t)) (hx : Kept m r x.2) : Kept m r t := by subst h; exact hx
theorem kept_pair' {x : State × α} {v : α} (h : x = (t, v)) (hx : Kept m r x.1) : Kept m r t := by subst h; exact hx
theorem kept_triple {x : α × β × State} {v : α} {w : β} (h : x = (v, w, t)) (hx : Kept m r x.2.2) : Kept m r t := by subst h; exact hx
theorem kept_quad {x : α × β × State × γ} {v : α} {w : β} {z : γ} (h : x = (v, w, t, z)) (hx : Kept m r x.2.2.1) : Kept m r t := by
  subst h; exact hx
theorem kept_some {x : Option State} (h : x = some t) (hx : OptKept m r x) : Kept m r t := hx _ h
theorem kept_some_pair {x : Option (α × State)} {v : α} (h : x = some (v, t)) (hx : OptPairKept m r x) : Kept m r t := hx _ _ h
theorem kept_next {x : Res} (h : x = .next t) (hx : ResKept m r x) : Kept m r t := hx _ h
theorem kept_ok {x : AR α} {v : α} {j : Job} (h : x = .ok v t j) (hx : ARKept m r x) : Kept m r t := by subst h; exact hx
theorem kept_stall {x : AR α} {j : Job} (h : x = .stall t j) (hx : ARKept m r x) : Kept m r t := by subst h; exact hx
theorem kept_fail {x : AR α} {n : Nat} {j : Job} (h : x = .fail n t j) (hx : ARKept m r x) : Kept m r t := by subst h; exact hx
theorem kept_again {x : Prog} {j : Job} (h : x = .again t j) (hx : ProgKept m r x) : Kept m r t := by subst h; exact hx
theorem kept_stop {x : Prog} (h : x = .stop t) (hx : ProgKept m r x) : Kept m r t := by subst h; exact hx
theorem kept_error {x : Except State α} (h : x = .error t) (hx : ExKept m r x) : Kept m r t := by subst h; exact hx

/-! ### Folds -/

theorem kept_foldl {l : List α} {f : State → α → State} (h : Kept m r s) (hf : ∀ s x, Kept m r s → Kept m r (f s x)) :
    Kept m r (l.foldl f s) := by
  induction l generalizing s with
  | nil => exact h
  | cons a l ih => exact ih (hf _ _ h)

theorem kept_foldl_snd {l : List α} {f : β × State → α → β × State} {p : β × State} (h : Kept m r p.2)
    (hf : ∀ b s x, Kept m r s → Kept m r (f (b, s) x).2) : Kept m r (l.foldl f p).2 := by
  induction l generalizing p with
  | nil => exact h
  | cons a l ih => exact ih (hf p.1 p.2 a h)

theorem kept_foldl_fst {l : List α} {f : State × β → α → State × β} {p : State × β} (h : Kept m r p.1)
    (hf : ∀ s b x, Kept m r s → Kept m r (f (s, b) x).1) : Kept m r (l.foldl f p).1 := by
  induction l generalizing p with
  | nil => exact h
  | cons a l ih => exact ih (hf p.1 p.2 a h)

theorem arKept_ok (v : α) (j : Job) (h : Kept m r s) : ARKept m r (.ok v s j) := h
theorem arKept_stall (j : Job) (h : Kept m r s) : ARKept m r (AR.stall (α := α) s j) := h
theorem arKept_fail (n : Nat) (j : Job) (h : Kept m r s) : ARKept m r (AR.fail (α := α) n s j) := h
theorem progKept_again (j : Job) (h : Kept m r s) : ProgKept m r (.again s j) := h
theorem progKept_stop (h : Kept m r s) : ProgKept m r (.stop s) := h

theorem arKept_bind {x : AR α} {f : α → State → Job → AR β} (h : ARKept m r x) (hf : ∀ v s j, Kept m r s → ARKept m r (f v s j)) :
    ARKept m r (x.bind f) := by
  cases x with
  | ok v s j => exact hf v s j h
  | stall s j => exact h
  | fail n s j => exact h

end Sys2Proof
end

