-- ==== Sys2Proof/Laws/KeptOps.lean ====
section
/-! SUPPORT. What the definitions of Machine/Ops.lean leave of the state as it was. -/

namespace Sys2Proof

open Sys2Proof.Machine

set_option linter.unusedVariables false

theorem kept_State_setGr {m : Nat} {r : State} (s : State) (g : Nat) (x : Grate) (hm : Sub 512 m) (hk : Kept m r s) : Kept m r
    (@State.setGr s g x) := by
  unfold State.setGr; try dsimp only
  repeat' with_reducible first | assumption | (refine Kept.record 512 ?_ rfl rfl ?_ ?_; assumption)
                               | simp +decide only [mix, cond_eq_ite, if_true, if_false]

theorem kept_State_modGr {m : Nat} {r : State} (s : State) (g : Nat) (f : Grate → Grate) (hm : Sub 512 m) (hk : Kept m r s) : Kept m r
    (@State.modGr s g f) := by
  unfold State.modGr; try dsimp only
  repeat' first | exact hm.of (by decide) | with_reducible first | assumption | apply kept_State_setGr

theorem kept_State_setHt {m : Nat} {r : State} (s : State) (h : Nat) (x : Hart) (hm : Sub 1024 m) (hk : Kept m r s) : Kept m r
    (@State.setHt s h x) := by
  unfold State.setHt; try dsimp only
  repeat' with_reducible first | assumption | (refine Kept.record 1024 ?_ rfl rfl ?_ ?_; assumption)
                               | simp +decide only [mix, cond_eq_ite, if_true, if_false]

theorem kept_State_setRing {m : Nat} {r : State} (s : State) (a1 : Nat) (x : Ring) (hm : Sub 262144 m) (hk : Kept m r s) : Kept m r
    (@State.setRing s a1 x) := by
  unfold State.setRing; try dsimp only
  repeat' with_reducible first | assumption | (refine Kept.record 262144 ?_ rfl rfl ?_ ?_; assumption)
                               | simp +decide only [mix, cond_eq_ite, if_true, if_false]

theorem kept_State_setRq {m : Nat} {r : State} (s : State) (a1 : Nat) (x : RingQ) (hm : Sub 524288 m) (hk : Kept m r s) : Kept m r
    (@State.setRq s a1 x) := by
  unfold State.setRq; try dsimp only
  repeat' with_reducible first | assumption | (refine Kept.record 524288 ?_ rfl rfl ?_ ?_; assumption)
                               | simp +decide only [mix, cond_eq_ite, if_true, if_false]

theorem kept_State_setStream {m : Nat} {r : State} (s : State) (i : Nat) (x : Stream) (hm : Sub 33554432 m) (hk : Kept m r s) : Kept m r
    (@State.setStream s i x) := by
  unfold State.setStream; try dsimp only
  repeat' with_reducible first | assumption | (refine Kept.record 33554432 ?_ rfl rfl ?_ ?_; assumption)
                               | simp +decide only [mix, cond_eq_ite, if_true, if_false]

theorem kept_State_setTally {m : Nat} {r : State} (s : State) (i : Nat) (x : Tally) (hm : Sub 8192 m) (hk : Kept m r s) : Kept m r
    (@State.setTally s i x) := by
  unfold State.setTally; try dsimp only
  repeat' with_reducible first | assumption | (refine Kept.record 8192 ?_ rfl rfl ?_ ?_; assumption)
                               | simp +decide only [mix, cond_eq_ite, if_true, if_false]

theorem kept_State_setJob {m : Nat} {r : State} (s : State) (k : Nat) (x : Option Job) (hm : Sub 2097152 m) (hk : Kept m r s) : Kept m r
    (@State.setJob s k x) := by
  unfold State.setJob; try dsimp only
  repeat' with_reducible first | assumption | (refine Kept.record 2097152 ?_ rfl rfl ?_ ?_; assumption)
                               | simp +decide only [mix, cond_eq_ite, if_true, if_false]

theorem kept_State_setHost {m : Nat} {r : State} (s : State) (h : Nat) (x : HostLink) (hm : Sub 2147483648 m) (hk : Kept m r s) : Kept m r
    (@State.setHost s h x) := by
  unfold State.setHost; try dsimp only
  repeat' with_reducible first | assumption | (refine Kept.record 2147483648 ?_ rfl rfl ?_ ?_; assumption)
                               | simp +decide only [mix, cond_eq_ite, if_true, if_false]

theorem kept_State_setFl {m : Nat} {r : State} (s : State) (f : Nat) (x : FlueLink) (hm : Sub 8589934592 m) (hk : Kept m r s) : Kept m r
    (@State.setFl s f x) := by
  unfold State.setFl; try dsimp only
  repeat' with_reducible first | assumption | (refine Kept.record 8589934592 ?_ rfl rfl ?_ ?_; assumption)
                               | simp +decide only [mix, cond_eq_ite, if_true, if_false]

theorem kept_State_setMemb {m : Nat} {r : State} (s : State) (p : Nat) (x : Memb) (hm : Sub 17179869184 m) (hk : Kept m r s) : Kept m r
    (@State.setMemb s p x) := by
  unfold State.setMemb; try dsimp only
  repeat' with_reducible first | assumption | (refine Kept.record 17179869184 ?_ rfl rfl ?_ ?_; assumption)
                               | simp +decide only [mix, cond_eq_ite, if_true, if_false]

theorem kept_State_setBundle {m : Nat} {r : State} (s : State) (die : Nat) (b : Nat) (x : Bundle) (hm : Sub 4294967296 m) (hk : Kept m r
    s) : Kept m r (@State.setBundle s die b x) := by
  unfold State.setBundle; try dsimp only
  repeat' with_reducible first | assumption | (refine Kept.record 4294967296 ?_ rfl rfl ?_ ?_; assumption)
                               | simp +decide only [mix, cond_eq_ite, if_true, if_false]

theorem kept_State_setMctl {m : Nat} {r : State} (s : State) (c : Nat) (x : MemCtl) (hm : Sub 128 m) (hk : Kept m r s) : Kept m r
    (@State.setMctl s c x) := by
  unfold State.setMctl; try dsimp only
  repeat' with_reducible first | assumption | (refine Kept.record 128 ?_ rfl rfl ?_ ?_; assumption)
                               | simp +decide only [mix, cond_eq_ite, if_true, if_false]

theorem kept_State_setMaint {m : Nat} {r : State} (s : State) (d : Nat) (x : Maint) (hm : Sub 536870912 m) (hk : Kept m r s) : Kept m r
    (@State.setMaint s d x) := by
  unfold State.setMaint; try dsimp only
  repeat' with_reducible first | assumption | (refine Kept.record 536870912 ?_ rfl rfl ?_ ?_; assumption)
                               | simp +decide only [mix, cond_eq_ite, if_true, if_false]

theorem kept_State_setPool {m : Nat} {r : State} (s : State) (d : Nat) (x : Pool) (hm : Sub 536870912 m) (hk : Kept m r s) : Kept m r
    (@State.setPool s d x) := by
  unfold State.setPool; try dsimp only
  repeat' with_reducible first | assumption | (refine Kept.record 536870912 ?_ rfl rfl ?_ ?_; assumption)
                               | simp +decide only [mix, cond_eq_ite, if_true, if_false]

theorem kept_takeFree {m : Nat} {r : State} (w : Nat) (s : State) (hm : Sub 8 m) (hk : Kept m r s) : Kept m r (@takeFree w s).2 := by
  unfold takeFree; try dsimp only
  repeat' with_reducible first | assumption | (refine Kept.record 8 ?_ rfl rfl ?_ ?_; assumption)
                               | simp +decide only [mix, cond_eq_ite, if_true, if_false]

theorem kept_State_emit {m : Nat} {r : State} (s : State) (o : Out) (hm : Sub 16 m) (hk : Kept m r s) : Kept m r (@State.emit s o) := by
  unfold State.emit; try dsimp only
  repeat' with_reducible first | assumption | (refine Kept.record 16 ?_ rfl rfl ?_ ?_; assumption)
                               | simp +decide only [mix, cond_eq_ite, if_true, if_false]

theorem kept_State_emits {m : Nat} {r : State} (s : State) (os : List Out) (hm : Sub 16 m) (hk : Kept m r s) : Kept m r (@State.emits s
    os) := by
  unfold State.emits; try dsimp only
  repeat' with_reducible first | assumption | (refine Kept.record 16 ?_ rfl rfl ?_ ?_; assumption)
                               | simp +decide only [mix, cond_eq_ite, if_true, if_false]

theorem kept_flueSend {m : Nat} {r : State} (s : State) (f : Nat) (o : Out) (hm : Sub 8589934608 m) (hk : Kept m r s) : Kept m r
    (@flueSend s f o) := by
  unfold flueSend; try dsimp only
  repeat' first | exact hm.of (by decide) | with_reducible first | assumption | apply kept_State_emit | apply kept_State_setFl | split

theorem kept_flueSendAll {m : Nat} {r : State} (s : State) (links : List Nat) (a2 : FlueMsg) (hm : Sub 8589934608 m) (hk : Kept m r s) :
    Kept m r (@flueSendAll s links a2) := by
  unfold flueSendAll; try dsimp only
  repeat' first | exact hm.of (by decide) | with_reducible first | assumption | apply kept_flueSend | apply kept_foldl
                                                                 | apply kept_foldl_snd | apply kept_foldl_fst | intro _

theorem kept_flueAcked {m : Nat} {r : State} (s : State) (f : Nat) (seq : BitVec 12) (hm : Sub 8589934608 m) (hk : Kept m r s) : Kept m r
    (@flueAcked s f seq) := by
  unfold flueAcked; try dsimp only
  repeat' first | exact hm.of (by decide) | with_reducible first | assumption | apply kept_State_setFl | apply kept_flueSend | split
                                                                 | apply kept_foldl | apply kept_foldl_snd | apply kept_foldl_fst
                                                                 | intro _

theorem kept_flueReplay {m : Nat} {r : State} (s : State) (f : Nat) (hm : Sub 16 m) (hk : Kept m r s) : Kept m r (@flueReplay s f) := by
  unfold flueReplay; try dsimp only
  repeat' first | exact hm.of (by decide) | with_reducible first | assumption | apply kept_State_emits

theorem kept_cxlSend {m : Nat} {r : State} (s : State) (what : Nat) (addr : Nat) (bs : List Byte) (hm : Sub 2147483664 m) (hk : Kept m r
    s) : Kept m r (@cxlSend s what addr bs) := by
  unfold cxlSend; try dsimp only
  repeat' first | exact hm.of (by decide) | with_reducible first | assumption | apply kept_State_emit | apply kept_State_setHost | split

theorem kept_State_newReq {m : Nat} {r : State} (s : State) (hm : Sub 8388608 m) (hk : Kept m r s) : Kept m r (@State.newReq s).2 := by
  unfold State.newReq; try dsimp only
  repeat' with_reducible first | assumption | (refine Kept.record 8388608 ?_ rfl rfl ?_ ?_; assumption)
                               | simp +decide only [mix, cond_eq_ite, if_true, if_false]

theorem kept_State_logE {m : Nat} {r : State} (s : State) (a1 : LogRec) (hm : Sub 274877906944 m) (hk : Kept m r s) : Kept m r
    (@State.logE s a1) := by
  unfold State.logE; try dsimp only
  repeat' with_reducible first | assumption | (refine Kept.record 274877906944 ?_ rfl rfl ?_ ?_; assumption)
                               | simp +decide only [mix, cond_eq_ite, if_true, if_false]

theorem kept_State_logTag {m : Nat} {r : State} (s : State) (src : LogSrc) (unit : Nat) (tag : Nat) (data : Nat) (hm : Sub 274877906944 m)
    (hk : Kept m r s) : Kept m r (@State.logTag s src unit tag data) := by
  unfold State.logTag; try dsimp only
  repeat' first | exact hm.of (by decide) | with_reducible first | assumption | apply kept_State_logE

theorem kept_State_logStk {m : Nat} {r : State} (s : State) (code : Nat) (data : Nat) (hm : Sub 274877906944 m) (hk : Kept m r s) : Kept m
    r (@State.logStk s code data) := by
  unfold State.logStk; try dsimp only
  repeat' first | exact hm.of (by decide) | with_reducible first | assumption | apply kept_State_logE

theorem kept_State_putBytes {m : Nat} {r : State} (s : State) (a : Nat) (bs : List Byte) (hm : Sub 32 m) (hk : Kept m r s) :
    Kept m r (s.putBytes a bs) := hk.memory hm _ fun hw => Mem.wf_write _ _ _ hw

theorem kept_State_zeroBytes {m : Nat} {r : State} (s : State) (a n : Nat) (hm : Sub 32 m) (hk : Kept m r s) :
    Kept m r (s.zeroBytes a n) := hk.memory hm _ fun hw => Mem.wf_zero _ _ _ hw

theorem kept_State_putWord {m : Nat} {r : State} (s : State) (a : Nat) (n : Nat) (v : Nat) (hm : Sub 32 m) (hk : Kept m r s) : Kept m r
    (@State.putWord s a n v) := by
  unfold State.putWord; try dsimp only
  repeat' first | exact hm.of (by decide) | with_reducible first | assumption | apply kept_State_putBytes

theorem kept_mendWords {m : Nat} {r : State} (s : State) (g : Nat) (f : Nat → Bool) (hm : Sub 512 m) (hk : Kept m r s) : Kept m r
    (@mendWords s g f) := by
  unfold mendWords; try dsimp only
  repeat' first | exact hm.of (by decide) | with_reducible first | assumption | apply kept_State_modGr | split

theorem kept_keepPast {m : Nat} {r : State} (s : State) (g : Nat) (off : Nat) (n : Nat) (hm : Sub 512 m) (hk : Kept m r s) : Kept m r
    (@keepPast s g off n) := by
  unfold keepPast; try dsimp only
  repeat' first | exact hm.of (by decide) | with_reducible first | assumption | apply kept_State_setGr | split

theorem kept_notePast {m : Nat} {r : State} (s : State) (g : Nat) (off : Nat) (n : Nat) (hm : Sub 512 m) (hk : Kept m r s) : Kept m r
    (@notePast s g off n) := by
  unfold notePast; try dsimp only
  repeat' first | exact hm.of (by decide) | with_reducible first | assumption | apply kept_keepPast | apply kept_mendWords

theorem kept_dropSessions {m : Nat} {r : State} (s : State) (path : Nat) (hm : Sub 137438953472 m) (hk : Kept m r s) : Kept m r
    (@dropSessions s path) := by
  unfold dropSessions; try dsimp only
  repeat' with_reducible first | assumption | (refine Kept.record 137438953472 ?_ rfl rfl ?_ ?_; assumption)
                               | simp +decide only [mix, cond_eq_ite, if_true, if_false]

theorem kept_countMem {m : Nat} {r : State} (s : State) (d : Nat) (ctx : Nat) (n : Nat) (hm : Sub 128 m) (hk : Kept m r s) : Kept m r
    (@countMem s d ctx n) := by
  unfold countMem; try dsimp only
  repeat' first | exact hm.of (by decide) | with_reducible first | assumption | apply kept_State_setMctl

theorem kept_countHost {m : Nat} {r : State} (s : State) (h : Nat) (ctx : Nat) (n : Nat) (hm : Sub 2147483648 m) (hk : Kept m r s) : Kept
    m r (@countHost s h ctx n) := by
  unfold countHost; try dsimp only
  repeat' first | exact hm.of (by decide) | with_reducible first | assumption | apply kept_State_setHost

theorem kept_countFlue {m : Nat} {r : State} (s : State) (f : Nat) (ctx : Nat) (n : Nat) (hm : Sub 8589934592 m) (hk : Kept m r s) : Kept
    m r (@countFlue s f ctx n) := by
  unfold countFlue; try dsimp only
  repeat' with_reducible first | assumption | (refine Kept.record 8589934592 ?_ rfl rfl ?_ ?_; assumption)
                               | simp +decide only [mix, cond_eq_ite, if_true, if_false]

theorem kept_bankConflicts {m : Nat} {r : State} (s : State) (g : Nat) (pair : Nat) (hm : Sub 520 m) (hk : Kept m r s) : Kept m r
    (@bankConflicts s g pair) := by
  unfold bankConflicts; try dsimp only
  repeat' first | exact hm.of (by decide) | with_reducible first | assumption | apply kept_State_modGr | apply kept_takeFree | split
                                                                 | (refine kept_pair ‹_ = (_, _)› ?_)

theorem kept_beginHalt {m : Nat} {r : State} (s : State) (g : Nat) (h : HaltInfo) (hm : Sub 512 m) (hk : Kept m r s) : Kept m r
    (@beginHalt s g h) := by
  unfold beginHalt; try dsimp only
  repeat' first | exact hm.of (by decide) | with_reducible first | assumption | apply kept_State_setGr | split

end Sys2Proof
end

