-- ==== Sys2Proof/Laws/KeptCipher.lean ====
section
/-! SUPPORT. What the definitions of Machine/Cipher.lean leave of the state as it was. -/

namespace Sys2Proof

open Sys2Proof.Machine

set_option linter.unusedVariables false

theorem kept_setStored {m : Nat} {r : State} (s : State) (line : Nat) (x : StoredLine) (hm : Sub 128 m) (hk : Kept m r s) : Kept m r
    (@setStored s line x) := by
  unfold setStored; try dsimp only
  repeat' first | exact hm.of (by decide) | with_reducible first | assumption | apply kept_State_setMctl

theorem kept_storeLine {m : Nat} {r : State} (s : State) (line : Nat) (hm : Sub 128 m) (hk : Kept m r s) : Kept m r (@storeLine s line) :=
    by
  unfold storeLine; try dsimp only
  repeat' first | exact hm.of (by decide) | with_reducible first | assumption | apply kept_setStored

theorem kept_alterLine {m : Nat} {r : State} (s : State) (line : Nat) (cipher : LineData) (tag : BitVec 32) (hm : Sub 160 m) (hk : Kept m
    r s) : Kept m r (@alterLine s line cipher tag) := by
  unfold alterLine; try dsimp only
  repeat' first | exact hm.of (by decide) | with_reducible first | assumption | apply kept_State_putBytes | apply kept_setStored | split

end Sys2Proof
end

