-- ==== Sys2Proof/Laws/KeptFabMsg.lean ====
section
/-! SUPPORT. What the definitions of Machine/FabMsg.lean leave of the state as it was. -/

namespace Sys2Proof

open Sys2Proof.Machine

set_option linter.unusedVariables false

theorem kept_hopAll {m : Nat} {r : State} (a0 : List FabMsg) (a1 : List FabMsg) (a2 : State) (hm : Sub 4294967296 m) (hk : Kept m r a2) :
    Kept m r (@hopAll a0 a1 a2) := by
  induction a1 generalizing a0 a2 with
  | nil =>
    unfold hopAll; try dsimp only
    repeat' first | exact hm.of (by decide) | with_reducible first | assumption
                                                                   | (refine Kept.record 4294967296 ?_ rfl rfl ?_ ?_; (first | assumption | apply ih))
                                                                   | simp +decide only [mix, cond_eq_ite, if_true, if_false] | split
  | cons e l ih =>
    unfold hopAll; try dsimp only
    repeat' first | exact hm.of (by decide) | with_reducible first | assumption | apply ih
                                                                   | (refine Kept.record 4294967296 ?_ rfl rfl ?_ ?_; (first | assumption | apply ih))
                                                                   | simp +decide only [mix, cond_eq_ite, if_true, if_false] | split

theorem kept_fabricGo {m : Nat} {r : State} (s : State) (hm : Sub 4294967296 m) (hk : Kept m r s) : Kept m r (@fabricGo s) := by
  unfold fabricGo; try dsimp only
  repeat' first | exact hm.of (by decide) | with_reducible first | assumption | apply kept_hopAll

theorem kept_fabSend {m : Nat} {r : State} (s : State) (c : Chan) (src : Nat) (dst : Nat) (line : Nat) (agent : Nat) (hm : Sub 4294967296
    m) (hk : Kept m r s) : Kept m r (@fabSend s c src dst line agent) := by
  unfold fabSend; try dsimp only
  repeat' first | exact hm.of (by decide) | with_reducible first | assumption | apply kept_fabricGo
                                                                 | (refine Kept.record 4294967296 ?_ rfl rfl ?_ ?_; (first | assumption | apply kept_fabricGo))
                                                                 | simp +decide only [mix, cond_eq_ite, if_true, if_false] | split

theorem kept_fabTake {m : Nat} {r : State} (s : State) (c : Chan) (dst : Nat) (line : Nat) (agent : Nat) (hm : Sub 4294967296 m) (hk :
    Kept m r s) : OptKept m r (@fabTake s c dst line agent) := by
  unfold fabTake; try dsimp only
  repeat' first | exact hm.of (by decide) | with_reducible first | assumption | apply kept_fabricGo | refine OptKept.some ?_
                                                                 | refine OptKept.none
                                                                 | (refine Kept.record 4294967296 ?_ rfl rfl ?_ ?_; (first | assumption | apply kept_fabricGo))
                                                                 | simp +decide only [mix, cond_eq_ite, if_true, if_false] | split

theorem kept_fabDrop {m : Nat} {r : State} (s : State) (gone : FabMsg → Bool) (hm : Sub 4294967296 m) (hk : Kept m r s) : Kept m r
    (@fabDrop s gone) := by
  unfold fabDrop; try dsimp only
  repeat' first | exact hm.of (by decide) | with_reducible first | assumption | apply kept_fabricGo
                                                                 | (refine Kept.record 4294967296 ?_ rfl rfl ?_ ?_; (first | assumption | apply kept_fabricGo))
                                                                 | simp +decide only [mix, cond_eq_ite, if_true, if_false]

end Sys2Proof
end

