-- ==== Sys2Proof/Laws/KeptAccess.lean ====
section
/-! SUPPORT. What the definitions of Machine/Access.lean leave of the state as it was. -/

namespace Sys2Proof

open Sys2Proof.Machine

set_option linter.unusedVariables false

theorem kept_State_setDir {m : Nat} {r : State} (s : State) (line : Nat) (x : DirEnt) (hm : Sub 536870912 m) (hk : Kept m r s) : Kept m r
    (@State.setDir s line x) := by
  unfold State.setDir; try dsimp only
  repeat' with_reducible first | assumption | (refine Kept.record 536870912 ?_ rfl rfl ?_ ?_; assumption)
                               | simp +decide only [mix, cond_eq_ite, if_true, if_false]

theorem kept_State_setAl {m : Nat} {r : State} (s : State) (line : Nat) (bit : Nat) (x : ALine) (hm : Sub 536870912 m) (hk : Kept m r s) :
    Kept m r (@State.setAl s line bit x) := by
  unfold State.setAl; try dsimp only
  repeat' with_reducible first | assumption | (refine Kept.record 536870912 ?_ rfl rfl ?_ ?_; assumption)
                               | simp +decide only [mix, cond_eq_ite, if_true, if_false]

theorem kept_State_setTxn {m : Nat} {r : State} (s : State) (line : Nat) (x : Option Txn) (hm : Sub 536870912 m) (hk : Kept m r s) : Kept
    m r (@State.setTxn s line x) := by
  unfold State.setTxn; try dsimp only
  repeat' with_reducible first | assumption | (refine Kept.record 536870912 ?_ rfl rfl ?_ ?_; assumption)
                               | simp +decide only [mix, cond_eq_ite, if_true, if_false]

theorem kept_dropStale {m : Nat} {r : State} (s : State) (line : Nat) (hm : Sub 536870912 m) (hk : Kept m r s) : Kept m r (@dropStale s
    line) := by
  unfold dropStale; try dsimp only
  repeat' with_reducible first | assumption | (refine Kept.record 536870912 ?_ rfl rfl ?_ ?_; assumption)
                               | simp +decide only [mix, cond_eq_ite, if_true, if_false]

theorem kept_keepStale {m : Nat} {r : State} (s : State) (line : Nat) (hm : Sub 536870912 m) (hk : Kept m r s) : Kept m r (@keepStale s
    line) := by
  unfold keepStale; try dsimp only
  repeat' with_reducible first | assumption | (refine Kept.record 536870912 ?_ rfl rfl ?_ ?_; assumption)
                               | simp +decide only [mix, cond_eq_ite, if_true, if_false] | split

theorem kept_ashBump {m : Nat} {r : State} (s : State) (die : Nat) (hm : Sub 536870912 m) (hk : Kept m r s) : Kept m r (@ashBump s die) :=
    by
  unfold ashBump; try dsimp only
  repeat' with_reducible first | assumption | (refine Kept.record 536870912 ?_ rfl rfl ?_ ?_; assumption)
                               | simp +decide only [mix, cond_eq_ite, if_true, if_false]

theorem kept_ashRemove {m : Nat} {r : State} (s : State) (line : Nat) (hm : Sub 536870912 m) (hk : Kept m r s) : Kept m r (@ashRemove s
    line) := by
  unfold ashRemove; try dsimp only
  repeat' first | exact hm.of (by decide) | with_reducible first | assumption | apply kept_ashBump
                                                                 | (refine Kept.record 536870912 ?_ rfl rfl ?_ ?_; (first | assumption | apply kept_ashBump))
                                                                 | simp +decide only [mix, cond_eq_ite, if_true, if_false] | split

theorem kept_ashList {m : Nat} {r : State} (s : State) (line : Nat) (agent : Nat) (hm : Sub 536870912 m) (hk : Kept m r s) : Kept m r
    (@ashList s line agent) := by
  unfold ashList; try dsimp only
  repeat' first | exact hm.of (by decide) | with_reducible first | assumption | apply kept_ashBump
                                                                 | (refine Kept.record 536870912 ?_ rfl rfl ?_ ?_; (first | assumption | apply kept_ashBump))
                                                                 | simp +decide only [mix, cond_eq_ite, if_true, if_false] | split

theorem kept_evictLine {m : Nat} {r : State} (s : State) (line : Nat) (hm : Sub 536870912 m) (hk : Kept m r s) : Kept m r (@evictLine s
    line) := by
  unfold evictLine; try dsimp only
  repeat' first | exact hm.of (by decide) | with_reducible first | assumption | apply kept_State_setDir
                                                                 | (refine Kept.record 536870912 ?_ rfl rfl ?_ ?_; (first | assumption | apply kept_State_setDir))
                                                                 | simp +decide only [mix, cond_eq_ite, if_true, if_false] | split

theorem kept_poolTouch {m : Nat} {r : State} (s : State) (line : Nat) (hm : Sub 536870912 m) (hk : Kept m r s) : Kept m r (@poolTouch s
    line) := by
  unfold poolTouch; try dsimp only
  repeat' first | exact hm.of (by decide) | with_reducible first | assumption | apply kept_State_setPool | split

theorem kept_sendSnoops {m : Nat} {r : State} (s : State) (line : Nat) (t : Txn) (b : BitVec 14) (hm : Sub 4831838208 m) (hk : Kept m r s)
    : Kept m r (@sendSnoops s line t b).2 := by
  unfold sendSnoops; try dsimp only
  repeat' first | exact hm.of (by decide) | with_reducible first | assumption | apply kept_State_setTxn | apply kept_fabSend | split
                                                                 | apply kept_foldl | apply kept_foldl_snd | apply kept_foldl_fst
                                                                 | intro _

theorem kept_homeSnoop {m : Nat} {r : State} (s : State) (line : Nat) (req : HomeReq) (hm : Sub 4831838208 m) (hk : Kept m r s) : Kept m r
    (@homeSnoop s line req) := by
  unfold homeSnoop; try dsimp only
  repeat' first | exact hm.of (by decide) | with_reducible first | assumption | apply kept_sendSnoops

theorem kept_giveUpPlace {m : Nat} {r : State} (s : State) (line : Nat) (hm : Sub 536870912 m) (hk : Kept m r s) : Kept m r (@giveUpPlace
    s line) := by
  unfold giveUpPlace; try dsimp only
  repeat' first | exact hm.of (by decide) | with_reducible first | assumption | apply kept_evictLine | split

theorem kept_thinSet {m : Nat} {r : State} (a0 : Nat) (a1 : State) (a2 : Nat) (a3 : Nat) (hm : Sub 4831838208 m) (hk : Kept m r a1) : Kept
    m r (@thinSet a0 a1 a2 a3) := by
  induction a0 generalizing a1 a2 a3 with
  | zero =>
    unfold thinSet; try dsimp only
    repeat' first | exact hm.of (by decide) | with_reducible first | assumption | apply kept_evictLine | apply kept_homeSnoop | split
  | succ l ih =>
    unfold thinSet; try dsimp only
    repeat' first | exact hm.of (by decide) | with_reducible first | assumption | apply ih | apply kept_evictLine | apply kept_homeSnoop
                                                                   | split

theorem kept_poolPlace {m : Nat} {r : State} (s : State) (line : Nat) (hm : Sub 4831838208 m) (hk : Kept m r s) : Kept m r (@poolPlace s
    line).2 := by
  unfold poolPlace; try dsimp only
  repeat' first | exact hm.of (by decide) | with_reducible first | assumption | apply kept_State_setPool | apply kept_evictLine
                                                                 | apply kept_homeSnoop | split

theorem kept_findPlace {m : Nat} {r : State} (s : State) (line : Nat) (hm : Sub 4831838208 m) (hk : Kept m r s) : Kept m r (@findPlace s
    line).2 := by
  unfold findPlace; try dsimp only
  repeat' first | exact hm.of (by decide) | with_reducible first | assumption | apply kept_poolPlace | apply kept_thinSet | split
                                                                 | (refine kept_pair ‹_ = (_, _)› ?_)

theorem kept_logTagFail {m : Nat} {r : State} (s : State) (line : Nat) (hm : Sub 274877906944 m) (hk : Kept m r s) : Kept m r (@logTagFail
    s line) := by
  unfold logTagFail; try dsimp only
  repeat' first | exact hm.of (by decide) | with_reducible first | assumption | apply kept_State_logE

theorem kept_logAnswer {m : Nat} {r : State} (s : State) (line : Nat) (a2 : Option Resp) (hm : Sub 274877906944 m) (hk : Kept m r s) :
    Kept m r (@logAnswer s line a2) := by
  unfold logAnswer; try dsimp only
  repeat' first | exact hm.of (by decide) | with_reducible first | assumption | apply kept_logTagFail | split

theorem kept_addWait {m : Nat} {r : State} (s : State) (w : WaitReq) (hm : Sub 536870912 m) (hk : Kept m r s) : Kept m r (@addWait s w) :=
    by
  unfold addWait; try dsimp only
  repeat' with_reducible first | assumption | (refine Kept.record 536870912 ?_ rfl rfl ?_ ?_; assumption)
                               | simp +decide only [mix, cond_eq_ite, if_true, if_false]

theorem kept_addRetry {m : Nat} {r : State} (s : State) (w : WaitReq) (hm : Sub 4831838208 m) (hk : Kept m r s) : Kept m r (@addRetry s w)
    := by
  unfold addRetry; try dsimp only
  repeat' first | exact hm.of (by decide) | with_reducible first | assumption | apply kept_addWait | apply kept_fabSend

theorem kept_holdUnit {m : Nat} {r : State} (s : State) (line : Nat) (a : Agent) (ctx : Nat) (k : LineReq) (hm : Sub 4831838208 m) (hk :
    Kept m r s) : Kept m r (@holdUnit s line a ctx k) := by
  unfold holdUnit; try dsimp only
  repeat' first | exact hm.of (by decide) | with_reducible first | assumption | apply kept_addRetry | apply kept_addWait | split

theorem kept_unitOpen {m : Nat} {r : State} (s : State) (line : Nat) (a : Agent) (ctx : Nat) (k : LineReq) (hm : Sub 4831838208 m) (hk :
    Kept m r s) : Kept m r (@unitOpen s line a ctx k).2 := by
  unfold unitOpen; try dsimp only
  repeat' first | exact hm.of (by decide) | with_reducible first | assumption | apply kept_State_setTxn | apply kept_findPlace
                                                                 | apply kept_sendSnoops | split | (refine kept_pair ‹_ = (_, _)› ?_)

theorem kept_mainCheck {m : Nat} {r : State} (s : State) (agent : Agent) (ctx : Nat) (k : LineReq) (d : Nat) (hm : Sub 279709745152 m) (hk
    : Kept m r s) : Kept m r (@mainCheck s agent ctx k d).2 := by
  unfold mainCheck; try dsimp only
  repeat' first | exact hm.of (by decide) | with_reducible first | assumption | apply kept_State_logE | apply kept_holdUnit
                                                                 | apply kept_logAnswer | apply kept_unitOpen | split
                                                                 | (refine kept_pair ‹_ = (_, _)› ?_)

theorem kept_unitEnd {m : Nat} {r : State} (s : State) (line : Nat) (a : Agent) (hm : Sub 536870912 m) (hk : Kept m r s) : Kept m r
    (@unitEnd s line a) := by
  unfold unitEnd; try dsimp only
  repeat' first | exact hm.of (by decide) | with_reducible first | assumption | apply kept_State_setTxn | split

theorem kept_mainDone {m : Nat} {r : State} (s : State) (agent : Agent) (ctx : Nat) (k : LineReq) (d : Nat) (hm : Sub 536871104 m) (hk :
    Kept m r s) : Kept m r (@mainDone s agent ctx k d) := by
  unfold mainDone; try dsimp only
  repeat' first | exact hm.of (by decide) | with_reducible first | assumption | apply kept_State_setDir | apply kept_ashRemove
                                                                 | apply kept_countMem | apply kept_dropStale | apply kept_poolTouch
                                                                 | apply kept_unitEnd
                                                                 | (refine Kept.record 536870976 ?_ rfl rfl ?_ ?_; (first | assumption | apply kept_State_setDir | apply kept_ashRemove | apply kept_countMem | apply kept_dropStale | apply kept_poolTouch | apply kept_unitEnd))
                                                                 | simp +decide only [mix, cond_eq_ite, if_true, if_false] | split

theorem kept_nearCheck {m : Nat} {r : State} (s : State) (agent : Agent) (ctx : Nat) (k : LineReq) (die : Nat) (off : Nat) (hm : Sub
    274877906944 m) (hk : Kept m r s) : Kept m r (@nearCheck s agent ctx k die off).2 := by
  unfold nearCheck; try dsimp only
  repeat' first | exact hm.of (by decide) | with_reducible first | assumption | apply kept_State_logE | split

theorem kept_spadCheck {m : Nat} {r : State} (s : State) (agent : Agent) (ctx : Nat) (acc : Acc3) (g : Nat) (off : Nat) (len : Nat) (hm :
    Sub 274877907456 m) (hk : Kept m r s) : Kept m r (@spadCheck s agent ctx acc g off len).2 := by
  unfold spadCheck; try dsimp only
  repeat' first | exact hm.of (by decide) | with_reducible first | assumption | apply kept_State_logE | apply kept_beginHalt | split

theorem kept_chunkCheck {m : Nat} {r : State} (s : State) (agent : Agent) (ctx : Nat) (acc : Acc3) (pa : Nat) (len : Nat) (hm : Sub
    279709745664 m) (hk : Kept m r s) : Kept m r (@chunkCheck s agent ctx acc pa len).2 := by
  unfold chunkCheck; try dsimp only
  repeat' first | exact hm.of (by decide) | with_reducible first | assumption | apply kept_mainCheck | apply kept_nearCheck
                                                                 | apply kept_spadCheck | split | (refine kept_pair ‹_ = (_, _)› ?_)

theorem kept_chunkDone {m : Nat} {r : State} (s : State) (agent : Agent) (ctx : Nat) (acc : Acc3) (pa : Nat) (len : Nat) (hm : Sub
    536871624 m) (hk : Kept m r s) : Kept m r (@chunkDone s agent ctx acc pa len) := by
  unfold chunkDone; try dsimp only
  repeat' first | exact hm.of (by decide) | with_reducible first | assumption | apply kept_bankConflicts | apply kept_mainDone
                                                                 | (refine Kept.record 64 ?_ rfl rfl ?_ ?_; (first | assumption | apply kept_bankConflicts | apply kept_mainDone))
                                                                 | simp +decide only [mix, cond_eq_ite, if_true, if_false] | split

theorem kept_checkChunks {m : Nat} {r : State} (s : State) (agent : Agent) (ctx : Nat) (acc : Acc3) (a4 : List (Nat × Nat)) (hm : Sub
    279709745664 m) (hk : Kept m r s) : Kept m r (@checkChunks s agent ctx acc a4).2 := by
  induction a4 generalizing s agent ctx acc with
  | nil =>
    unfold checkChunks; try dsimp only
    repeat' first | exact hm.of (by decide) | with_reducible first | assumption | apply kept_chunkCheck | split
                                                                   | (refine kept_pair ‹_ = (_, _)› ?_)
  | cons e l ih =>
    unfold checkChunks; try dsimp only
    repeat' first | exact hm.of (by decide) | with_reducible first | assumption | apply ih | apply kept_chunkCheck | split
                                                                   | (refine kept_pair ‹_ = (_, _)› ?_)

theorem kept_unitEnds {m : Nat} {r : State} (s : State) (agent : Agent) (cs : List (Nat × Nat)) (hm : Sub 536870912 m) (hk : Kept m r s) :
    Kept m r (@unitEnds s agent cs) := by
  unfold unitEnds; try dsimp only
  repeat' first | exact hm.of (by decide) | with_reducible first | assumption | apply kept_unitEnd | split | apply kept_foldl
                                                                 | apply kept_foldl_snd | apply kept_foldl_fst | intro _

theorem kept_checkExtent {m : Nat} {r : State} (s : State) (agent : Agent) (ctx : Nat) (acc : Acc3) (pa : Nat) (len : Nat) (hm : Sub
    279709745864 m) (hk : Kept m r s) : Kept m r (@checkExtent s agent ctx acc pa len).2 := by
  unfold checkExtent; try dsimp only
  repeat' first | exact hm.of (by decide) | with_reducible first | assumption | apply kept_checkChunks | apply kept_chunkDone
                                                                 | apply kept_unitEnds | split | (refine kept_pair ‹_ = (_, _)› ?_)
                                                                 | apply kept_foldl | apply kept_foldl_snd | apply kept_foldl_fst
                                                                 | intro _

theorem kept_killResv {m : Nat} {r : State} (s : State) (line : Nat) (hm : Sub 4096 m) (hk : Kept m r s) : Kept m r (@killResv s line) :=
    by
  unfold killResv; try dsimp only
  repeat' with_reducible first | assumption | (refine Kept.record 4096 ?_ rfl rfl ?_ ?_; assumption)
                               | simp +decide only [mix, cond_eq_ite, if_true, if_false]

theorem kept_rawWrite {m : Nat} {r : State} (s : State) (pa : Nat) (bs : List Byte) (hm : Sub 4640 m) (hk : Kept m r s) : Kept m r
    (@rawWrite s pa bs) := by
  unfold rawWrite; try dsimp only
  repeat' first | exact hm.of (by decide) | with_reducible first | assumption | apply kept_State_putBytes | apply kept_killResv
                                                                 | apply kept_notePast | split | apply kept_foldl | apply kept_foldl_snd
                                                                 | apply kept_foldl_fst | intro _

theorem kept_physRead {m : Nat} {r : State} (s : State) (agent : Agent) (ctx : Nat) (pa : Nat) (len : Nat) (hm : Sub 279709745864 m) (hk :
    Kept m r s) : Kept m r (@physRead s agent ctx pa len).2.2 := by
  unfold physRead; try dsimp only
  repeat' first | exact hm.of (by decide) | with_reducible first | assumption | apply kept_checkExtent | split
                                                                 | (refine kept_pair ‹_ = (_, _)› ?_)

theorem kept_physWrite {m : Nat} {r : State} (s : State) (agent : Agent) (ctx : Nat) (pa : Nat) (bs : List Byte) (hm : Sub 279709749992 m)
    (hk : Kept m r s) : Kept m r (@physWrite s agent ctx pa bs).2 := by
  unfold physWrite; try dsimp only
  repeat' first | exact hm.of (by decide) | with_reducible first | assumption | apply kept_checkExtent | apply kept_rawWrite | split
                                                                 | (refine kept_pair ‹_ = (_, _)› ?_)

theorem kept_physWriteSome {m : Nat} {r : State} (s : State) (agent : Agent) (ctx : Nat) (pa : Nat) (bs : List Byte) (hm : Sub
    279709749992 m) (hk : Kept m r s) : Kept m r (@physWriteSome s agent ctx pa bs).2 := by
  unfold physWriteSome; try dsimp only
  repeat' first | exact hm.of (by decide) | with_reducible first | assumption | apply kept_chunkCheck | apply kept_chunkDone
                                                                 | apply kept_rawWrite | apply kept_takeFree | split
                                                                 | (refine kept_pair ‹_ = (_, _)› ?_)

theorem kept_physAtomic {m : Nat} {r : State} (s : State) (agent : Agent) (ctx : Nat) (pa : Nat) (size : Nat) (op : AOp) (opnd : Nat) (cmp
    : Nat) (hm : Sub 279709749992 m) (hk : Kept m r s) : Kept m r (@physAtomic s agent ctx pa size op opnd cmp).2.2 := by
  unfold physAtomic; try dsimp only
  repeat' first | exact hm.of (by decide) | with_reducible first | assumption | apply kept_checkExtent | apply kept_rawWrite | split
                                                                 | (refine kept_pair ‹_ = (_, _)› ?_)

theorem kept_countTally {m : Nat} {r : State} (s : State) (t : Nat) (bytes : Nat) (hm : Sub 8192 m) (hk : Kept m r s) : Kept m r
    (@countTally s t bytes) := by
  unfold countTally; try dsimp only
  repeat' first | exact hm.of (by decide) | with_reducible first | assumption | apply kept_State_setTally

end Sys2Proof
end

