-- ==== Sys2Proof/Laws/KeptRecords.lean ====
section
/-! SUPPORT. What the definitions of Machine/Records.lean leave of the state as it was. -/

namespace Sys2Proof

open Sys2Proof.Machine

set_option linter.unusedVariables false

theorem kept_raiseMsix {m : Nat} {r : State} (s : State) (h : Nat) (vec : Nat) (hm : Sub 277025390608 m) (hk : Kept m r s) : Kept m r
    (@raiseMsix s h vec) := by
  unfold raiseMsix; try dsimp only
  repeat' first | exact hm.of (by decide) | with_reducible first | assumption | apply kept_State_emit | apply kept_State_logTag
                                                                 | apply kept_State_setHost | split

theorem kept_raiseRing {m : Nat} {r : State} (s : State) (a1 : Ring) (hm : Sub 277025390608 m) (hk : Kept m r s) : Kept m r (@raiseRing s
    a1) := by
  unfold raiseRing; try dsimp only
  repeat' first | exact hm.of (by decide) | with_reducible first | assumption | apply kept_State_emit | apply kept_raiseMsix | split

theorem kept_hostPosted {m : Nat} {r : State} (s : State) (h : Nat) (off : Nat) (ctx : Nat) (bs : List Byte) (relaxed : optParam Bool
    false) (hm : Sub 2147483664 m) (hk : Kept m r s) : Kept m r (@hostPosted s h off ctx bs relaxed) := by
  unfold hostPosted; try dsimp only
  repeat' first | exact hm.of (by decide) | with_reducible first | assumption | apply kept_State_emit | apply kept_State_setHost
                                                                 | apply kept_countHost | split

theorem kept_putRecord {m : Nat} {r : State} (s : State) (rn : Nat) (rec : Slot) (hm : Sub 281858020088 m) (hk : Kept m r s) : Kept m r
    (@putRecord s rn rec).2 := by
  unfold putRecord; try dsimp only
  repeat' first | exact hm.of (by decide) | with_reducible first | assumption | apply kept_State_setRing | apply kept_State_setRq
                                                                 | apply kept_hostPosted | apply kept_physWrite | apply kept_raiseRing
                                                                 | split | (refine kept_pair ‹_ = (_, _)› ?_)

theorem kept_dropRecord {m : Nat} {r : State} (s : State) (rn : Nat) (rec : Slot) (hm : Sub 274878169088 m) (hk : Kept m r s) : Kept m r
    (@dropRecord s rn rec) := by
  unfold dropRecord; try dsimp only
  repeat' first | exact hm.of (by decide) | with_reducible first | assumption | apply kept_State_logE | apply kept_State_setRing

theorem kept_releaseDesc {m : Nat} {r : State} (s : State) (o : Option (Nat × Nat)) (hm : Sub 524288 m) (hk : Kept m r s) : Kept m r
    (@releaseDesc s o) := by
  unfold releaseDesc; try dsimp only
  repeat' first | exact hm.of (by decide) | with_reducible first | assumption | apply kept_State_setRq | split

theorem kept_postF {m : Nat} {r : State} (a0 : Nat) (a1 : State) (a2 : Nat) (a3 : Nat) (a4 : Slot) (a5 : Option (Nat × Nat)) (hm : Sub
    281874797304 m) (hk : Kept m r a1) : Kept m r (@postF a0 a1 a2 a3 a4 a5) := by
  induction a0 generalizing a1 a2 a3 a4 a5 with
  | zero =>
    unfold postF; try dsimp only
    repeat' first | exact hm.of (by decide) | with_reducible first | assumption | apply kept_State_logE | apply kept_State_setRing
                                                                   | apply kept_dropRecord | apply kept_putRecord | apply kept_releaseDesc
                                                                   | (refine Kept.record 16777216 ?_ rfl rfl ?_ ?_; (first | assumption | apply ih | apply kept_State_logE | apply kept_State_setRing | apply kept_dropRecord | apply kept_putRecord | apply kept_releaseDesc | (refine kept_pair ‹_ = (_, _)› ?_) | apply kept_foldl))
                                                                   | simp +decide only [mix, cond_eq_ite, if_true, if_false] | split
                                                                   | (refine kept_pair ‹_ = (_, _)› ?_) | apply kept_foldl
                                                                   | apply kept_foldl_snd | apply kept_foldl_fst | intro _
  | succ l ih =>
    unfold postF; try dsimp only
    repeat' first | exact hm.of (by decide) | with_reducible first | assumption | apply ih | apply kept_State_logE
                                                                   | apply kept_State_setRing | apply kept_dropRecord
                                                                   | apply kept_putRecord | apply kept_releaseDesc
                                                                   | (refine Kept.record 16777216 ?_ rfl rfl ?_ ?_; (first | assumption | apply ih | apply kept_State_logE | apply kept_State_setRing | apply kept_dropRecord | apply kept_putRecord | apply kept_releaseDesc | (refine kept_pair ‹_ = (_, _)› ?_) | apply kept_foldl))
                                                                   | simp +decide only [mix, cond_eq_ite, if_true, if_false] | split
                                                                   | (refine kept_pair ‹_ = (_, _)› ?_) | apply kept_foldl
                                                                   | apply kept_foldl_snd | apply kept_foldl_fst | intro _

theorem kept_post {m : Nat} {r : State} (s : State) (q : Nat) (rn : Nat) (rec : Slot) (o : optParam (Option (Nat × Nat)) none) (hm : Sub
    281874797304 m) (hk : Kept m r s) : Kept m r (@post s q rn rec o) := by
  unfold post; try dsimp only
  repeat' first | exact hm.of (by decide) | with_reducible first | assumption | apply kept_postF

theorem kept_ringEvent {m : Nat} {r : State} (s : State) (rn : Nat) (code : Nat) (idx : Nat) (hm : Sub 281874797304 m) (hk : Kept m r s) :
    Kept m r (@ringEvent s rn code idx) := by
  unfold ringEvent; try dsimp only
  repeat' first | exact hm.of (by decide) | with_reducible first | assumption | apply kept_State_logE | apply kept_State_setRing
                                                                 | apply kept_post | split | apply kept_foldl | apply kept_foldl_snd
                                                                 | apply kept_foldl_fst | intro _

theorem kept_flushF {m : Nat} {r : State} (a0 : Nat) (a1 : State) (a2 : Nat) (hm : Sub 281874797304 m) (hk : Kept m r a1) : Kept m r
    (@flushF a0 a1 a2) := by
  induction a0 generalizing a1 a2 with
  | zero =>
    unfold flushF; try dsimp only
    repeat' first | exact hm.of (by decide) | with_reducible first | assumption | apply kept_State_setRing | apply kept_dropRecord
                                                                   | apply kept_putRecord | apply kept_releaseDesc | apply kept_ringEvent
                                                                   | (refine Kept.record 16777216 ?_ rfl rfl ?_ ?_; (first | assumption | apply ih | apply kept_State_setRing | apply kept_dropRecord | apply kept_putRecord | apply kept_releaseDesc | apply kept_ringEvent | (refine kept_pair ‹_ = (_, _)› ?_)))
                                                                   | simp +decide only [mix, cond_eq_ite, if_true, if_false] | split
                                                                   | (refine kept_pair ‹_ = (_, _)› ?_)
  | succ l ih =>
    unfold flushF; try dsimp only
    repeat' first | exact hm.of (by decide) | with_reducible first | assumption | apply ih | apply kept_State_setRing
                                                                   | apply kept_dropRecord | apply kept_putRecord | apply kept_releaseDesc
                                                                   | apply kept_ringEvent
                                                                   | (refine Kept.record 16777216 ?_ rfl rfl ?_ ?_; (first | assumption | apply ih | apply kept_State_setRing | apply kept_dropRecord | apply kept_putRecord | apply kept_releaseDesc | apply kept_ringEvent | (refine kept_pair ‹_ = (_, _)› ?_)))
                                                                   | simp +decide only [mix, cond_eq_ite, if_true, if_false] | split
                                                                   | (refine kept_pair ‹_ = (_, _)› ?_)

theorem kept_flushRing {m : Nat} {r : State} (s : State) (rn : Nat) (hm : Sub 281874797304 m) (hk : Kept m r s) : Kept m r (@flushRing s
    rn) := by
  unfold flushRing; try dsimp only
  repeat' first | exact hm.of (by decide) | with_reducible first | assumption | apply kept_flushF

theorem kept_ringsGo {m : Nat} {r : State} (s : State) (hm : Sub 281874797304 m) (hk : Kept m r s) : Kept m r (@ringsGo s) := by
  unfold ringsGo; try dsimp only
  repeat' first | exact hm.of (by decide) | with_reducible first | assumption | apply kept_flushRing | apply kept_foldl
                                                                 | apply kept_foldl_snd | apply kept_foldl_fst | intro _

theorem kept_postFring {m : Nat} {r : State} (s : State) (q : Nat) (ctx : Nat) (rec : Slot) (hm : Sub 281874797304 m) (hk : Kept m r s) :
    Kept m r (@postFring s q ctx rec) := by
  unfold postFring; try dsimp only
  repeat' first | exact hm.of (by decide) | with_reducible first | assumption | apply kept_State_logE | apply kept_State_logTag
                                                                 | apply kept_post | split

theorem kept_fault {m : Nat} {r : State} (s : State) (kind : Nat) (code : Nat) (ctx : Nat) (a : Agent) (ovf : Bool) (va : Option Nat) (pa
    : Nat) (data : List (Nat × Nat × Nat)) (hm : Sub 281874797304 m) (hk : Kept m r s) : Kept m r (@fault s kind code ctx a ovf va pa
    data) := by
  unfold fault; try dsimp only
  repeat' first | exact hm.of (by decide) | with_reducible first | assumption | apply kept_State_logE | apply kept_postFring

theorem kept_respFault {m : Nat} {r : State} (s : State) (a1 : Resp) (ctx : Nat) (a : Agent) (acc : Acc3) (va : Option Nat) (pa : Nat) (hm
    : Sub 281874797304 m) (hk : Kept m r s) : Kept m r (@respFault s a1 ctx a acc va pa) := by
  unfold respFault; try dsimp only
  repeat' first | exact hm.of (by decide) | with_reducible first | assumption | apply kept_fault | split

theorem kept_postLost {m : Nat} {r : State} (s : State) (a : Agent) (l : List LostStore) (hm : Sub 281874797304 m) (hk : Kept m r s) :
    Kept m r (@postLost s a l) := by
  unfold postLost; try dsimp only
  repeat' first | exact hm.of (by decide) | with_reducible first | assumption | apply kept_State_logE | apply kept_postFring
                                                                 | apply kept_foldl | apply kept_foldl_snd | apply kept_foldl_fst
                                                                 | intro _

theorem kept_packageEvent {m : Nat} {r : State} (s : State) (src : LogSrc) (unit : Nat) (kind : Nat) (code : Nat) (fields : List (Nat ×
    Nat × Nat)) (hm : Sub 281874797304 m) (hk : Kept m r s) : Kept m r (@packageEvent s src unit kind code fields) := by
  unfold packageEvent; try dsimp only
  repeat' first | exact hm.of (by decide) | with_reducible first | assumption | apply kept_State_logE | apply kept_post | split

theorem kept_partnerEvent {m : Nat} {r : State} (s : State) (src : LogSrc) (code : Nat) (who : Nat) (lostcause : Nat) (hm : Sub
    281874797304 m) (hk : Kept m r s) : Kept m r (@partnerEvent s src code who lostcause) := by
  unfold partnerEvent; try dsimp only
  repeat' first | exact hm.of (by decide) | with_reducible first | assumption | apply kept_packageEvent

theorem kept_kindleEvent {m : Nat} {r : State} (s : State) (code : Nat) (bit : Nat) (kind : Nat) (cause : Nat) (hm : Sub 281874797304 m)
    (hk : Kept m r s) : Kept m r (@kindleEvent s code bit kind cause) := by
  unfold kindleEvent; try dsimp only
  repeat' first | exact hm.of (by decide) | with_reducible first | assumption | apply kept_packageEvent

theorem kept_setReady {m : Nat} {r : State} (s : State) (bit : Nat) (v : Bool) (hm : Sub 350594274040 m) (hk : Kept m r s) : Kept m r
    (@setReady s bit v) := by
  unfold setReady; try dsimp only
  repeat' first | exact hm.of (by decide) | with_reducible first | assumption | apply kept_kindleEvent
                                                                 | (refine Kept.record 68719476736 ?_ rfl rfl ?_ ?_; (first | assumption | apply kept_kindleEvent))
                                                                 | simp +decide only [mix, cond_eq_ite, if_true, if_false] | split

end Sys2Proof
end

