-- ==== Sys2Proof/Laws/KeptTranslate.lean ====
section
/-! SUPPORT. What the definitions of Machine/Translate.lean leave of the state as it was. -/

namespace Sys2Proof

open Sys2Proof.Machine

set_option linter.unusedVariables false

theorem kept_fillMicro {m : Nat} {r : State} (s : State) (a : Agent) (l : Leaf) (hm : Sub 32768 m) (hk : Kept m r s) : Kept m r
    (@fillMicro s a l) := by
  unfold fillMicro; try dsimp only
  repeat' with_reducible first | assumption | (refine Kept.record 32768 ?_ rfl rfl ?_ ?_; assumption)
                               | simp +decide only [mix, cond_eq_ite, if_true, if_false]

theorem kept_fillL2 {m : Nat} {r : State} (s : State) (die : Nat) (l : Leaf) (hm : Sub 32768 m) (hk : Kept m r s) : Kept m r (@fillL2 s
    die l) := by
  unfold fillL2; try dsimp only
  repeat' with_reducible first | assumption | (refine Kept.record 32768 ?_ rfl rfl ?_ ?_; assumption)
                               | simp +decide only [mix, cond_eq_ite, if_true, if_false]

theorem kept_fillPtr {m : Nat} {r : State} (s : State) (die : Nat) (p : Ptr) (hm : Sub 32768 m) (hk : Kept m r s) : Kept m r (@fillPtr s
    die p) := by
  unfold fillPtr; try dsimp only
  repeat' with_reducible first | assumption | (refine Kept.record 32768 ?_ rfl rfl ?_ ?_; assumption)
                               | simp +decide only [mix, cond_eq_ite, if_true, if_false]

theorem kept_dropScope {m : Nat} {r : State} (s : State) (x : XInv) (hm : Sub 32768 m) (hk : Kept m r s) : Kept m r (@dropScope s x) := by
  unfold dropScope; try dsimp only
  repeat' with_reducible first | assumption | (refine Kept.record 32768 ?_ rfl rfl ?_ ?_; assumption)
                               | simp +decide only [mix, cond_eq_ite, if_true, if_false]

theorem kept_xlatFault {m : Nat} {r : State} (s : State) (a : Agent) (ctx : Nat) (va : Nat) (vahi : Nat) (acc : Acc3) (reason : Nat)
    (level : Nat) (entry : Nat) (hm : Sub 281874830072 m) (hk : Kept m r s) : Kept m r (@xlatFault s a ctx va vahi acc reason level entry)
    := by
  unfold xlatFault; try dsimp only
  repeat' first | exact hm.of (by decide) | with_reducible first | assumption | apply kept_State_logE | apply kept_postFring
                                                                 | (refine Kept.record 32768 ?_ rfl rfl ?_ ?_; (first | assumption | apply kept_State_logE | apply kept_postFring))
                                                                 | simp +decide only [mix, cond_eq_ite, if_true, if_false]

theorem kept_beginWalk {m : Nat} {r : State} (s : State) (a : Agent) (ctx : Nat) (va : Nat) (acc : Acc3) (hm : Sub 32768 m) (hk : Kept m r
    s) : Kept m r (@beginWalk s a ctx va acc) := by
  unfold beginWalk; try dsimp only
  repeat' with_reducible first | assumption | (refine Kept.record 32768 ?_ rfl rfl ?_ ?_; assumption)
                               | simp +decide only [mix, cond_eq_ite, if_true, if_false] | split

theorem kept_endWalk {m : Nat} {r : State} (s : State) (a : Agent) (hm : Sub 32768 m) (hk : Kept m r s) : Kept m r (@endWalk s a) := by
  unfold endWalk; try dsimp only
  repeat' with_reducible first | assumption | (refine Kept.record 32768 ?_ rfl rfl ?_ ?_; assumption)
                               | simp +decide only [mix, cond_eq_ite, if_true, if_false]

theorem kept_dropXlat {m : Nat} {r : State} (s : State) (a : Agent) (hm : Sub 32768 m) (hk : Kept m r s) : Kept m r (@dropXlat s a) := by
  unfold dropXlat; try dsimp only
  repeat' with_reducible first | assumption | (refine Kept.record 32768 ?_ rfl rfl ?_ ?_; assumption)
                               | simp +decide only [mix, cond_eq_ite, if_true, if_false]

theorem kept_xlate {m : Nat} {r : State} (s : State) (a : Agent) (ctx : Nat) (va : Nat) (acc : Acc3) (hm : Sub 281874830072 m) (hk : Kept
    m r s) : Kept m r (@xlate s a ctx va acc).2 := by
  unfold xlate; try dsimp only
  repeat' first | exact hm.of (by decide) | with_reducible first | assumption | apply kept_State_logE | apply kept_beginWalk
                                                                 | apply kept_fillMicro | apply kept_xlatFault | split

theorem kept_walkStep {m : Nat} {r : State} (s : State) (w : Walk) (hm : Sub 281874830072 m) (hk : Kept m r s) : Kept m r (@walkStep s
    w).2 := by
  unfold walkStep; try dsimp only
  repeat' first | exact hm.of (by decide) | with_reducible first | assumption | apply kept_endWalk | apply kept_fillL2
                                                                 | apply kept_fillMicro | apply kept_fillPtr | apply kept_physRead
                                                                 | apply kept_xlatFault
                                                                 | (refine Kept.record 32768 ?_ rfl rfl ?_ ?_; (first | assumption | apply kept_endWalk | apply kept_fillL2 | apply kept_fillMicro | apply kept_fillPtr | apply kept_physRead | apply kept_xlatFault | (refine kept_triple ‹_ = (_, _, _)› ?_) | apply kept_foldl))
                                                                 | simp +decide only [mix, cond_eq_ite, if_true, if_false] | split
                                                                 | (refine kept_triple ‹_ = (_, _, _)› ?_) | apply kept_foldl
                                                                 | apply kept_foldl_snd | apply kept_foldl_fst | intro _

end Sys2Proof
end

