-- ==== Sys2Proof/Laws/KeptCompletion.lean ====
section
/-! SUPPORT. What the definitions of Machine/Completion.lean leave of the state as it was. -/

namespace Sys2Proof

open Sys2Proof.Machine

set_option linter.unusedVariables false

theorem kept_completeDesc {m : Nat} {r : State} (s : State) (rn : Nat) (d : Desc) (e : Ending) (extra : optParam (List (Nat × Nat × Nat))
    []) (hm : Sub 281874797304 m) (hk : Kept m r s) : Kept m r (@completeDesc s rn d e extra) := by
  unfold completeDesc; try dsimp only
  repeat' first | exact hm.of (by decide) | with_reducible first | assumption | apply kept_post | apply kept_releaseDesc | split

theorem kept_addEvent {m : Nat} {r : State} (s : State) (g : Nat) (ctr : Nat) (n : W64) (hm : Sub 512 m) (hk : Kept m r s) : Kept m r
    (@addEvent s g ctr n) := by
  unfold addEvent; try dsimp only
  repeat' first | exact hm.of (by decide) | with_reducible first | assumption | apply kept_State_modGr

theorem kept_descSignal {m : Nat} {r : State} (s : State) (rn : Nat) (d : Desc) (hm : Sub 274877907456 m) (hk : Kept m r s) : Kept m r
    (@descSignal s rn d) := by
  unfold descSignal; try dsimp only
  repeat' first | exact hm.of (by decide) | with_reducible first | assumption | apply kept_State_logTag | apply kept_addEvent | split

end Sys2Proof
end

