-- ==== Sys2Proof/Laws/KeptTile.lean ====
section
/-! SUPPORT. What the definitions of Machine/Tile.lean leave of the state as it was. -/

namespace Sys2Proof

open Sys2Proof.Machine

set_option linter.unusedVariables false

theorem kept_endLaunch {m : Nat} {r : State} (s : State) (g : Nat) (status : Nat) (detail : Nat) (hm : Sub 281874797304 m) (hk : Kept m r
    s) : Kept m r (@endLaunch s g status detail) := by
  unfold endLaunch; try dsimp only
  repeat' first | exact hm.of (by decide) | with_reducible first | assumption | apply kept_State_setGr | apply kept_completeDesc | split

theorem kept_settleHalt {m : Nat} {r : State} (s : State) (g : Nat) (hm : Sub 281874797304 m) (hk : Kept m r s) : Kept m r (@settleHalt s
    g) := by
  unfold settleHalt; try dsimp only
  repeat' first | exact hm.of (by decide) | with_reducible first | assumption | apply kept_State_logE | apply kept_State_setGr
                                                                 | apply kept_endLaunch | apply kept_fault | apply kept_postFring
                                                                 | apply kept_postLost | split

theorem kept_settleAll {m : Nat} {r : State} (s : State) (hm : Sub 281874797304 m) (hk : Kept m r s) : Kept m r (@settleAll s) := by
  unfold settleAll; try dsimp only
  repeat' first | exact hm.of (by decide) | with_reducible first | assumption | apply kept_settleHalt | apply kept_foldl
                                                                 | apply kept_foldl_snd | apply kept_foldl_fst | intro _

theorem kept_haltOn {m : Nat} {r : State} (s : State) (g : Nat) (pc : W64) (insn : W32) (cause : Nat) (extra : optParam (List (Nat × Nat ×
    Nat)) []) (a6 : optParam (Option Slot) none) (hm : Sub 281874797304 m) (hk : Kept m r s) : Kept m r (@haltOn s g pc insn cause extra
    a6) := by
  unfold haltOn; try dsimp only
  repeat' first | exact hm.of (by decide) | with_reducible first | assumption | apply kept_State_modGr | apply kept_beginHalt
                                                                 | apply kept_settleHalt

theorem kept_haltAt {m : Nat} {r : State} (s : State) (p : Site) (cause : Nat) (extra : optParam (List (Nat × Nat × Nat)) []) (a4 :
    optParam (Option Slot) none) (hm : Sub 281874797304 m) (hk : Kept m r s) : Kept m r (@haltAt s p cause extra a4) := by
  unfold haltAt; try dsimp only
  repeat' first | exact hm.of (by decide) | with_reducible first | assumption | apply kept_haltOn

theorem kept_haltLate {m : Nat} {r : State} (s : State) (g : Nat) (seq : Nat) (h : HaltInfo) (hm : Sub 281874830072 m) (hk : Kept m r s) :
    Kept m r (@haltLate s g seq h) := by
  unfold haltLate; try dsimp only
  repeat' first | exact hm.of (by decide) | with_reducible first | assumption | apply kept_State_modGr | apply kept_beginHalt
                                                                 | apply kept_dropXlat | apply kept_settleHalt | apply kept_takeFree
                                                                 | split | (refine kept_pair ‹_ = (_, _)› ?_)

theorem kept_countFind {m : Nat} {r : State} (s : State) (g : Nat) (f : EccFind) (hm : Sub 512 m) (hk : Kept m r s) : Kept m r (@countFind
    s g f) := by
  unfold countFind; try dsimp only
  repeat' first | exact hm.of (by decide) | with_reducible first | assumption | apply kept_State_modGr | split

theorem kept_guardLate {m : Nat} {r : State} (s : State) (g : Nat) (seq : Nat) (pc : W64) (insn : W32) (slot : Nat) (hm : Sub 281874830072
    m) (hk : Kept m r s) : Kept m r (@guardLate s g seq pc insn slot) := by
  unfold guardLate; try dsimp only
  repeat' first | exact hm.of (by decide) | with_reducible first | assumption | apply kept_haltLate

theorem kept_wordHalt {m : Nat} {r : State} (s : State) (g : Nat) (seq : Nat) (pc : W64) (insn : W32) (arr : Nat) (hm : Sub 281874830072
    m) (hk : Kept m r s) : Kept m r (@wordHalt s g seq pc insn arr) := by
  unfold wordHalt; try dsimp only
  repeat' first | exact hm.of (by decide) | with_reducible first | assumption | apply kept_haltLate

theorem kept_spadView {m : Nat} {r : State} (s : State) (g : Nat) (seq : Nat) (drained : List (Nat × List Byte)) (hm : Sub 8 m) (hk : Kept
    m r s) : Kept m r (@spadView s g seq drained).2 := by
  unfold spadView; try dsimp only
  repeat' first | exact hm.of (by decide) | with_reducible first | assumption | apply kept_takeFree | split
                                                                 | (refine kept_pair ‹_ = (_, _)› ?_)

theorem kept_spadWrite {m : Nat} {r : State} (s : State) (g : Nat) (off : Nat) (bs : List Byte) (hm : Sub 544 m) (hk : Kept m r s) : Kept
    m r (@spadWrite s g off bs) := by
  unfold spadWrite; try dsimp only
  repeat' first | exact hm.of (by decide) | with_reducible first | assumption | apply kept_State_putBytes | apply kept_notePast

theorem kept_clearGrate {m : Nat} {r : State} (s : State) (g : Nat) (hm : Sub 544 m) (hk : Kept m r s) : Kept m r (@clearGrate s g) := by
  unfold clearGrate; try dsimp only
  repeat' first | exact hm.of (by decide) | with_reducible first | assumption | apply kept_State_setGr | apply kept_State_zeroBytes

end Sys2Proof
end

