-- ==== Sys2Proof/Laws/KeptRingCtl.lean ====
section
/-! SUPPORT. What the definitions of Machine/RingCtl.lean leave of the state as it was. -/

namespace Sys2Proof

open Sys2Proof.Machine

set_option linter.unusedVariables false

theorem kept_writeRingWord {m : Nat} {r : State} (s : State) (rn : Nat) (w : Nat) (v : Nat) (hm : Sub 274878169088 m) (hk : Kept m r s) :
    Kept m r (@writeRingWord s rn w v) := by
  unfold writeRingWord; try dsimp only
  repeat' first | exact hm.of (by decide) | with_reducible first | assumption | apply kept_State_logTag | apply kept_State_setRing | split

theorem kept_execRingCfgWrite {m : Nat} {r : State} (a0 : RingNo) (word : Fin 4) (value : W64) (s : State) (hm : Sub 274878169088 m) (hk :
    Kept m r s) : ResKept m r (@execRingCfgWrite a0 word value s) := by
  unfold execRingCfgWrite; try dsimp only
  repeat' first | exact hm.of (by decide) | with_reducible first | assumption | apply kept_writeRingWord | refine ResKept.next ?_

theorem kept_ringCmdErr {m : Nat} {r : State} (s : State) (hm : Sub 1048576 m) (hk : Kept m r s) : Kept m r (@ringCmdErr s) := by
  unfold ringCmdErr; try dsimp only
  repeat' with_reducible first | assumption | (refine Kept.record 1048576 ?_ rfl rfl ?_ ?_; assumption)
                               | simp +decide only [mix, cond_eq_ite, if_true, if_false]

theorem kept_noteCmd {m : Nat} {r : State} (s : State) (rn : Nat) (cmd : Nat) (hm : Sub 1048576 m) (hk : Kept m r s) : Kept m r (@noteCmd
    s rn cmd) := by
  unfold noteCmd; try dsimp only
  repeat' with_reducible first | assumption | (refine Kept.record 1048576 ?_ rfl rfl ?_ ?_; assumption)
                               | simp +decide only [mix, cond_eq_ite, if_true, if_false]

theorem kept_ringEnableOp {m : Nat} {r : State} (s : State) (rn : Nat) (hm : Sub 1835008 m) (hk : Kept m r s) : Kept m r (@ringEnableOp s
    rn) := by
  unfold ringEnableOp; try dsimp only
  repeat' first | exact hm.of (by decide) | with_reducible first | assumption | apply kept_State_setRing | apply kept_State_setRq
                                                                 | apply kept_ringCmdErr | split

theorem kept_ringPauseOp {m : Nat} {r : State} (s : State) (rn : Nat) (hm : Sub 1310720 m) (hk : Kept m r s) : Kept m r (@ringPauseOp s
    rn) := by
  unfold ringPauseOp; try dsimp only
  repeat' first | exact hm.of (by decide) | with_reducible first | assumption | apply kept_State_setRing | apply kept_ringCmdErr | split

theorem kept_ringResumeOp {m : Nat} {r : State} (s : State) (rn : Nat) (hm : Sub 281875845880 m) (hk : Kept m r s) : Kept m r
    (@ringResumeOp s rn) := by
  unfold ringResumeOp; try dsimp only
  repeat' first | exact hm.of (by decide) | with_reducible first | assumption | apply kept_State_setRing | apply kept_State_setRq
                                                                 | apply kept_flushRing | apply kept_ringCmdErr | split

theorem kept_ringDisableOp {m : Nat} {r : State} (s : State) (rn : Nat) (hm : Sub 281875845880 m) (hk : Kept m r s) : Kept m r
    (@ringDisableOp s rn) := by
  unfold ringDisableOp; try dsimp only
  repeat' first | exact hm.of (by decide) | with_reducible first | assumption | apply kept_State_setRing | apply kept_State_setRq
                                                                 | apply kept_completeDesc | apply kept_flushRing | apply kept_ringCmdErr
                                                                 | split | apply kept_foldl | apply kept_foldl_snd | apply kept_foldl_fst
                                                                 | intro _

theorem kept_execRingEnable {m : Nat} {r : State} (a0 : RingNo) (s : State) (hm : Sub 1835008 m) (hk : Kept m r s) : ResKept m r
    (@execRingEnable a0 s) := by
  unfold execRingEnable; try dsimp only
  repeat' first | exact hm.of (by decide) | with_reducible first | assumption | apply kept_noteCmd | apply kept_ringEnableOp
                                                                 | refine ResKept.next ?_

theorem kept_execRingPause {m : Nat} {r : State} (a0 : RingNo) (s : State) (hm : Sub 1310720 m) (hk : Kept m r s) : ResKept m r
    (@execRingPause a0 s) := by
  unfold execRingPause; try dsimp only
  repeat' first | exact hm.of (by decide) | with_reducible first | assumption | apply kept_noteCmd | apply kept_ringPauseOp
                                                                 | refine ResKept.next ?_

theorem kept_execRingResume {m : Nat} {r : State} (a0 : RingNo) (s : State) (hm : Sub 281875845880 m) (hk : Kept m r s) : ResKept m r
    (@execRingResume a0 s) := by
  unfold execRingResume; try dsimp only
  repeat' first | exact hm.of (by decide) | with_reducible first | assumption | apply kept_noteCmd | apply kept_ringResumeOp
                                                                 | refine ResKept.next ?_

theorem kept_execRingDisable {m : Nat} {r : State} (a0 : RingNo) (s : State) (hm : Sub 281875845880 m) (hk : Kept m r s) : ResKept m r
    (@execRingDisable a0 s) := by
  unfold execRingDisable; try dsimp only
  repeat' first | exact hm.of (by decide) | with_reducible first | assumption | apply kept_noteCmd | apply kept_ringDisableOp
                                                                 | refine ResKept.next ?_

theorem kept_submitBell {m : Nat} {r : State} (s : State) (rn : Nat) (a2 : Ring) (t : W32) (hm : Sub 281874797304 m) (hk : Kept m r s) :
    Kept m r (@submitBell s rn a2 t) := by
  unfold submitBell; try dsimp only
  repeat' first | exact hm.of (by decide) | with_reducible first | assumption | apply kept_State_setRing | apply kept_ringEvent | split

theorem kept_returnBell {m : Nat} {r : State} (s : State) (rn : Nat) (a2 : Ring) (t : W32) (hm : Sub 281874797304 m) (hk : Kept m r s) :
    Kept m r (@returnBell s rn a2 t) := by
  unfold returnBell; try dsimp only
  repeat' first | exact hm.of (by decide) | with_reducible first | assumption | apply kept_State_logTag | apply kept_State_setRing
                                                                 | apply kept_State_setRq | apply kept_flushRing | split

theorem kept_bellWrite {m : Nat} {r : State} (s : State) (who : BellAgent) (rn : Nat) (v : W64) (hm : Sub 281874797304 m) (hk : Kept m r
    s) : Kept m r (@bellWrite s who rn v) := by
  unfold bellWrite; try dsimp only
  repeat' first | exact hm.of (by decide) | with_reducible first | assumption | apply kept_State_logTag | apply kept_returnBell
                                                                 | apply kept_submitBell | split

theorem kept_lostTrap {m : Nat} {r : State} (s : State) (h : Nat) (epc : W64) (hm : Sub 281874798328 m) (hk : Kept m r s) : Kept m r
    (@lostTrap s h epc) := by
  unfold lostTrap; try dsimp only
  repeat' first | exact hm.of (by decide) | with_reducible first | assumption | apply kept_State_emit | apply kept_State_setHt
                                                                 | apply kept_postLost | split

theorem kept_deliverLost {m : Nat} {r : State} (s : State) (h : Nat) (hm : Sub 281874798328 m) (hk : Kept m r s) : Kept m r (@deliverLost
    s h) := by
  unfold deliverLost; try dsimp only
  repeat' first | exact hm.of (by decide) | with_reducible first | assumption | apply kept_lostTrap | apply kept_takeFree | split
                                                                 | (refine kept_pair ‹_ = (_, _)› ?_)

theorem kept_tileDevice {m : Nat} {r : State} (s : State) (p : Site) (hm : Sub 281874797304 m) (hk : Kept m r s) : Kept m r (@tileDevice s
    p) := by
  unfold tileDevice; try dsimp only
  repeat' first | exact hm.of (by decide) | with_reducible first | assumption | apply kept_State_modGr | apply kept_haltAt | split

theorem kept_bellCommand {m : Nat} {r : State} (s : State) (who : BellAgent) (rn : Nat) (v : W64) (hm : Sub 281874798328 m) (hk : Kept m r
    s) : ResKept m r (@bellCommand s who rn v) := by
  unfold bellCommand; try dsimp only
  repeat' first | exact hm.of (by decide) | with_reducible first | assumption | apply kept_State_logTag | apply kept_bellWrite
                                                                 | apply kept_deliverLost | apply kept_tileDevice | refine ResKept.next ?_
                                                                 | refine ResKept.refused _ | split

theorem kept_execDoorbell {m : Nat} {r : State} (who : BellAgent) (a1 : RingNo) (value : W64) (s : State) (hm : Sub 281874798328 m) (hk :
    Kept m r s) : ResKept m r (@execDoorbell who a1 value s) := by
  unfold execDoorbell; try dsimp only
  repeat' first | exact hm.of (by decide) | with_reducible first | assumption | apply kept_bellCommand

theorem kept_execRecordDoorbell {m : Nat} {r : State} (who : BellAgent) (a1 : RingNo) (value : W64) (s : State) (hm : Sub 281874798328 m)
    (hk : Kept m r s) : ResKept m r (@execRecordDoorbell who a1 value s) := by
  unfold execRecordDoorbell; try dsimp only
  repeat' first | exact hm.of (by decide) | with_reducible first | assumption | apply kept_bellCommand

theorem kept_readSlot {m : Nat} {r : State} (s : State) (a1 : Ring) (idx : Nat) (host : List Slot) (i : Nat) (hm : Sub 279709745864 m) (hk
    : Kept m r s) : Kept m r (@readSlot s a1 idx host i).2 := by
  unfold readSlot; try dsimp only
  repeat' first | exact hm.of (by decide) | with_reducible first | assumption | apply kept_physRead | split
                                                                 | (refine kept_triple ‹_ = (_, _, _)› ?_)

theorem kept_readCont {m : Nat} {r : State} (a0 : Nat) (a1 : State) (a2 : Ring) (a3 : Nat) (a4 : List Slot) (a5 : Nat) (hm : Sub
    279709745864 m) (hk : Kept m r a1) : Kept m r (@readCont a0 a1 a2 a3 a4 a5).2 := by
  induction a0 generalizing a1 a2 a3 a4 a5 with
  | zero =>
    unfold readCont; try dsimp only
    repeat' first | exact hm.of (by decide) | with_reducible first | assumption | apply kept_readSlot | split
                                                                   | (refine kept_pair ‹_ = (_, _)› ?_)
  | succ l ih =>
    unfold readCont; try dsimp only
    repeat' first | exact hm.of (by decide) | with_reducible first | assumption | apply ih | apply kept_readSlot | split
                                                                   | (refine kept_pair ‹_ = (_, _)› ?_)

theorem kept_fetchFail {m : Nat} {r : State} (s : State) (rn : Nat) (x : SlotRead) (idx : Nat) (hm : Sub 281874797304 m) (hk : Kept m r s)
    : Kept m r (@fetchFail s rn x idx) := by
  unfold fetchFail; try dsimp only
  repeat' first | exact hm.of (by decide) | with_reducible first | assumption | apply kept_State_setRing | apply kept_ringEvent | split

theorem kept_fetchSlots {m : Nat} {r : State} (a0 : Nat) (a1 : State) (a2 : Nat) (a3 : List Slot) (a4 : Nat) (hm : Sub 281874797304 m) (hk
    : Kept m r a1) : Kept m r (@fetchSlots a0 a1 a2 a3 a4) := by
  induction a0 generalizing a1 a2 a3 a4 with
  | zero =>
    unfold fetchSlots; try dsimp only
    repeat' first | exact hm.of (by decide) | with_reducible first | assumption | apply kept_State_setRing | apply kept_State_setRq
                                                                   | apply kept_fetchFail | apply kept_readCont | apply kept_readSlot
                                                                   | split | (refine kept_pair ‹_ = (_, _)› ?_)
  | succ l ih =>
    unfold fetchSlots; try dsimp only
    repeat' first | exact hm.of (by decide) | with_reducible first | assumption | apply ih | apply kept_State_setRing
                                                                   | apply kept_State_setRq | apply kept_fetchFail | apply kept_readCont
                                                                   | apply kept_readSlot | split | (refine kept_pair ‹_ = (_, _)› ?_)

theorem kept_refetchReturn {m : Nat} {r : State} (s : State) (rn : Nat) (host : List Slot) (hm : Sub 281874797304 m) (hk : Kept m r s) :
    Kept m r (@refetchReturn s rn host) := by
  unfold refetchReturn; try dsimp only
  repeat' first | exact hm.of (by decide) | with_reducible first | assumption | apply kept_State_setRing | apply kept_State_setRq
                                                                 | apply kept_fetchFail | apply kept_fetchSlots | apply kept_readSlot
                                                                 | apply kept_ringEvent | split | (refine kept_pair ‹_ = (_, _)› ?_)

theorem kept_execDescriptorFetchReturn {m : Nat} {r : State} (a0 : RingNo) (host : List Slot) (s : State) (hm : Sub 281874797304 m) (hk :
    Kept m r s) : ResKept m r (@execDescriptorFetchReturn a0 host s) := by
  unfold execDescriptorFetchReturn; try dsimp only
  repeat' first | exact hm.of (by decide) | with_reducible first | assumption | apply kept_fetchSlots | apply kept_refetchReturn
                                                                 | refine ResKept.next ?_ | refine ResKept.refused _ | split

theorem kept_execDescriptorRefetch {m : Nat} {r : State} (a0 : RingNo) (s : State) (hm : Sub 524288 m) (hk : Kept m r s) : ResKept m r
    (@execDescriptorRefetch a0 s) := by
  unfold execDescriptorRefetch; try dsimp only
  repeat' first | exact hm.of (by decide) | with_reducible first | assumption | apply kept_State_setRq | refine ResKept.next ?_
                                                                 | refine ResKept.refused _ | split

theorem kept_execDescriptorWaitMet {m : Nat} {r : State} (a0 : RingNo) (s : State) (hm : Sub 524288 m) (hk : Kept m r s) : ResKept m r
    (@execDescriptorWaitMet a0 s) := by
  unfold execDescriptorWaitMet; try dsimp only
  repeat' first | exact hm.of (by decide) | with_reducible first | assumption | apply kept_State_setRq | refine ResKept.next ?_
                                                                 | refine ResKept.refused _ | split

theorem kept_takeStart {m : Nat} {r : State} (s : State) (rn : Nat) (d : Desc) (hm : Sub 524288 m) (hk : Kept m r s) : Kept m r
    (@takeStart s rn d) := by
  unfold takeStart; try dsimp only
  repeat' first | exact hm.of (by decide) | with_reducible first | assumption | apply kept_State_setRq

theorem kept_endAtStart {m : Nat} {r : State} (s : State) (rn : Nat) (d : Desc) (status : Nat) (hm : Sub 281874797304 m) (hk : Kept m r s)
    : Kept m r (@endAtStart s rn d status) := by
  unfold endAtStart; try dsimp only
  repeat' first | exact hm.of (by decide) | with_reducible first | assumption | apply kept_completeDesc | apply kept_takeStart

theorem kept_execNop {m : Nat} {r : State} (a0 : RingNo) (s : State) (hm : Sub 281874797304 m) (hk : Kept m r s) : ResKept m r (@execNop
    a0 s) := by
  unfold execNop; try dsimp only
  repeat' first | exact hm.of (by decide) | with_reducible first | assumption | apply kept_endAtStart | refine ResKept.next ?_
                                                                 | refine ResKept.refused _ | split

end Sys2Proof
end

