-- ==== Sys2Proof/Laws/KeptRequests.lean ====
section
/-! SUPPORT. What the definitions of Machine/Requests.lean leave of the state as it was. -/

namespace Sys2Proof

open Sys2Proof.Machine

set_option linter.unusedVariables false

theorem kept_sendPacket {m : Nat} {r : State} (s : State) (p : Nat) (addr : Nat) (ctx : Nat) (n : Nat) (a5 : FlueMsg) (hm : Sub 8589934608
    m) (hk : Kept m r s) : OptKept m r (@sendPacket s p addr ctx n a5) := by
  unfold sendPacket; try dsimp only
  repeat' first | exact hm.of (by decide) | with_reducible first | assumption | apply kept_countFlue | apply kept_flueSend
                                                                 | refine OptKept.some ?_ | refine OptKept.none | split

theorem kept_askRemote {m : Nat} {r : State} (s : State) (a : Agent) (ctx : Nat) (va : Nat) (p : Nat) (off : Nat) (q : Ask) (hm : Sub
    8602517520 m) (hk : Kept m r s) : OptPairKept m r (@askRemote s a ctx va p off q) := by
  unfold askRemote; try dsimp only
  repeat' first | exact hm.of (by decide) | with_reducible first | assumption | apply kept_sendPacket | refine OptPairKept.some _ ?_
                                                                 | refine OptPairKept.none | refine OptKept.some ?_ | refine OptKept.none
                                                                 | (refine Kept.record 12582912 ?_ rfl rfl ?_ ?_; (first | assumption | apply kept_sendPacket | (refine kept_some ‹_ = some _› ?_)))
                                                                 | simp +decide only [mix, cond_eq_ite, if_true, if_false] | split
                                                                 | (refine kept_some ‹_ = some _› ?_)

theorem kept_askHostRead {m : Nat} {r : State} (s : State) (a : Agent) (ctx : Nat) (va : Nat) (h : Nat) (off : Nat) (len : Nat) (hm : Sub
    2160066576 m) (hk : Kept m r s) : Kept m r (@askHostRead s a ctx va h off len).2 := by
  unfold askHostRead; try dsimp only
  repeat' first | exact hm.of (by decide) | with_reducible first | assumption | apply kept_State_emit | apply kept_State_setHost
                                                                 | apply kept_countHost
                                                                 | (refine Kept.record 12582912 ?_ rfl rfl ?_ ?_; (first | assumption | apply kept_State_emit | apply kept_State_setHost | apply kept_countHost))
                                                                 | simp +decide only [mix, cond_eq_ite, if_true, if_false] | split

theorem kept_dropReq {m : Nat} {r : State} (s : State) (id : Nat) (hm : Sub 4194304 m) (hk : Kept m r s) : Kept m r (@dropReq s id) := by
  unfold dropReq; try dsimp only
  repeat' with_reducible first | assumption | (refine Kept.record 4194304 ?_ rfl rfl ?_ ?_; assumption)
                               | simp +decide only [mix, cond_eq_ite, if_true, if_false]

end Sys2Proof
end

