-- ==== Sys2Proof/Laws/KeptStoreBuf.lean ====
section
/-! SUPPORT. What the definitions of Machine/StoreBuf.lean leave of the state as it was. -/

namespace Sys2Proof

open Sys2Proof.Machine

set_option linter.unusedVariables false

theorem kept_setSb {m : Nat} {r : State} (s : State) (w : Holder) (sb : List SbEnt) (hm : Sub 1536 m) (hk : Kept m r s) : Kept m r (@setSb
    s w sb) := by
  unfold setSb; try dsimp only
  repeat' first | exact hm.of (by decide) | with_reducible first | assumption | apply kept_State_setGr | apply kept_State_setHt | split

theorem kept_setLost {m : Nat} {r : State} (s : State) (w : Holder) (l : List LostStore) (hm : Sub 1536 m) (hk : Kept m r s) : Kept m r
    (@setLost s w l) := by
  unfold setLost; try dsimp only
  repeat' first | exact hm.of (by decide) | with_reducible first | assumption | apply kept_State_setGr | apply kept_State_setHt | split

theorem kept_sendEnt {m : Nat} {r : State} (s : State) (w : Holder) (e : SbEnt) (hm : Sub 8602517520 m) (hk : Kept m r s) : Kept m r
    (@sendEnt s w e).1 := by
  unfold sendEnt; try dsimp only
  repeat' first | exact hm.of (by decide) | with_reducible first | assumption | apply kept_State_newReq | apply kept_askRemote
                                                                 | refine OptPairKept.some _ ?_ | refine OptPairKept.none | split
                                                                 | (refine kept_pair ‹_ = (_, _)› ?_)
                                                                 | (refine kept_some_pair ‹_ = some (_, _)› ?_)

theorem kept_sendAll {m : Nat} {r : State} (s : State) (w : Holder) (a2 : List SbEnt) (hm : Sub 8602517520 m) (hk : Kept m r s) : Kept m r
    (@sendAll s w a2).1 := by
  induction a2 generalizing s w with
  | nil =>
    unfold sendAll; try dsimp only
    repeat' first | exact hm.of (by decide) | with_reducible first | assumption | apply kept_sendEnt | split
                                                                   | (refine kept_pair' ‹_ = (_, _)› ?_)
  | cons e l ih =>
    unfold sendAll; try dsimp only
    repeat' first | exact hm.of (by decide) | with_reducible first | assumption | apply ih | apply kept_sendEnt | split
                                                                   | (refine kept_pair' ‹_ = (_, _)› ?_)

theorem kept_leaveSb {m : Nat} {r : State} (s : State) (w : Holder) (a2 : List SbEnt) (hm : Sub 1536 m) (hk : Kept m r s) : Kept m r
    (@leaveSb s w a2) := by
  induction a2 generalizing s w with
  | nil =>
    unfold leaveSb; try dsimp only
    repeat' first | exact hm.of (by decide) | with_reducible first | assumption | apply kept_setLost | apply kept_setSb | split
  | cons e l ih =>
    unfold leaveSb; try dsimp only
    repeat' first | exact hm.of (by decide) | with_reducible first | assumption | apply ih | apply kept_setLost | apply kept_setSb | split

theorem kept_pumpSb {m : Nat} {r : State} (s : State) (w : Holder) (hm : Sub 8602519056 m) (hk : Kept m r s) : Kept m r (@pumpSb s w) :=
    by
  unfold pumpSb; try dsimp only
  repeat' first | exact hm.of (by decide) | with_reducible first | assumption | apply kept_leaveSb | apply kept_sendAll | split
                                                                 | (refine kept_pair' ‹_ = (_, _)› ?_)

theorem kept_fireTrap {m : Nat} {r : State} (s : State) (h : Nat) (t : HartTrap) (hm : Sub 281874798328 m) (hk : Kept m r s) : Kept m r
    (@fireTrap s h t) := by
  unfold fireTrap; try dsimp only
  repeat' first | exact hm.of (by decide) | with_reducible first | assumption | apply kept_State_emit | apply kept_State_setHt
                                                                 | apply kept_lostTrap | split

theorem kept_takeTrap {m : Nat} {r : State} (s : State) (h : Nat) (code : Nat) (tval : W64) (hm : Sub 281874798328 m) (hk : Kept m r s) :
    Kept m r (@takeTrap s h code tval) := by
  unfold takeTrap; try dsimp only
  repeat' first | exact hm.of (by decide) | with_reducible first | assumption | apply kept_State_setHt | apply kept_fireTrap
                                                                 | apply kept_takeFree | split | (refine kept_pair ‹_ = (_, _)› ?_)

theorem kept_coreFail {m : Nat} {r : State} (s : State) (h : Nat) (a2 : Resp) (acc : Acc3) (va : W64) (pa : Nat) (hm : Sub 281874798328 m)
    (hk : Kept m r s) : Kept m r (@coreFail s h a2 acc va pa) := by
  unfold coreFail; try dsimp only
  repeat' first | exact hm.of (by decide) | with_reducible first | assumption | apply kept_respFault | apply kept_takeTrap

theorem kept_hartDrained {m : Nat} {r : State} (s : State) (h : Nat) (hm : Sub 281874798328 m) (hk : Kept m r s) : Kept m r (@hartDrained
    s h) := by
  unfold hartDrained; try dsimp only
  repeat' first | exact hm.of (by decide) | with_reducible first | assumption | apply kept_State_setHt | apply kept_deliverLost
                                                                 | apply kept_fireTrap | split

end Sys2Proof
end

