-- ==== Sys2Proof/Laws/KeptHome.lean ====
section
/-! SUPPORT. What the definitions of Machine/Home.lean leave of the state as it was. -/

namespace Sys2Proof

open Sys2Proof.Machine

set_option linter.unusedVariables false

theorem kept_putLine {m : Nat} {r : State} (s : State) (line : Nat) (d : LineData) (hm : Sub 4128 m) (hk : Kept m r s) : Kept m r
    (@putLine s line d) := by
  unfold putLine; try dsimp only
  repeat' first | exact hm.of (by decide) | with_reducible first | assumption | apply kept_State_putWord | apply kept_killResv

theorem kept_sendData {m : Nat} {r : State} (s : State) (line : Nat) (b : Nat) (g : Grant) (src : optParam Nat (lineDie line)) (hm : Sub
    4831838208 m) (hk : Kept m r s) : Kept m r (@sendData s line b g src) := by
  unfold sendData; try dsimp only
  repeat' first | exact hm.of (by decide) | with_reducible first | assumption | apply kept_State_setAl | apply kept_fabSend

theorem kept_answer {m : Nat} {r : State} (s : State) (a : Agent) (line : Nat) (status : Nat) (d : LineData) (hm : Sub 536870912 m) (hk :
    Kept m r s) : Kept m r (@answer s a line status d) := by
  unfold answer; try dsimp only
  repeat' with_reducible first | assumption | (refine Kept.record 536870912 ?_ rfl rfl ?_ ?_; assumption)
                               | simp +decide only [mix, cond_eq_ite, if_true, if_false]

theorem kept_coreStoreFail {m : Nat} {r : State} (s : State) (h : Nat) (a2 : Resp) (hm : Sub 290477315832 m) (hk : Kept m r s) : Kept m r
    (@coreStoreFail s h a2) := by
  unfold coreStoreFail; try dsimp only
  repeat' first | exact hm.of (by decide) | with_reducible first | assumption | apply kept_coreFail | apply kept_hartDrained
                                                                 | apply kept_pumpSb | apply kept_setSb | split

theorem kept_failWaiting {m : Nat} {r : State} (s : State) (line : Nat) (b : Nat) (a3 : Resp) (hm : Sub 290477315832 m) (hk : Kept m r s)
    : Kept m r (@failWaiting s line b a3) := by
  unfold failWaiting; try dsimp only
  repeat' first | exact hm.of (by decide) | with_reducible first | assumption | apply kept_State_setAl | apply kept_coreFail
                                                                 | apply kept_coreStoreFail | split | apply kept_foldl
                                                                 | apply kept_foldl_snd | apply kept_foldl_fst | intro _

theorem kept_cxlAnswer {m : Nat} {r : State} (s : State) (what : Nat) (line : Nat) (hm : Sub 2147483664 m) (hk : Kept m r s) : Kept m r
    (@cxlAnswer s what line) := by
  unfold cxlAnswer; try dsimp only
  repeat' first | exact hm.of (by decide) | with_reducible first | assumption | apply kept_cxlSend

theorem kept_refuseReq {m : Nat} {r : State} (s : State) (w : WaitReq) (a2 : Resp) (hm : Sub 290477315832 m) (hk : Kept m r s) : Kept m r
    (@refuseReq s w a2) := by
  unfold refuseReq; try dsimp only
  repeat' first | exact hm.of (by decide) | with_reducible first | assumption | apply kept_State_setAl | apply kept_answer
                                                                 | apply kept_cxlAnswer | apply kept_failWaiting | apply kept_respFault
                                                                 | split

theorem kept_reqCheck {m : Nat} {r : State} (s : State) (w : WaitReq) (hm : Sub 274877906944 m) (hk : Kept m r s) : Kept m r (@reqCheck s
    w).2 := by
  unfold reqCheck; try dsimp only
  repeat' first | exact hm.of (by decide) | with_reducible first | assumption | apply kept_State_logE | apply kept_logAnswer | split

theorem kept_homeWrote {m : Nat} {r : State} (s : State) (line : Nat) (full : Bool) (hm : Sub 536870976 m) (hk : Kept m r s) : Kept m r
    (@homeWrote s line full) := by
  unfold homeWrote; try dsimp only
  repeat' first | exact hm.of (by decide) | with_reducible first | assumption | apply kept_State_setDir | apply kept_ashRemove
                                                                 | (refine Kept.record 536870976 ?_ rfl rfl ?_ ?_; (first | assumption | apply kept_State_setDir | apply kept_ashRemove))
                                                                 | simp +decide only [mix, cond_eq_ite, if_true, if_false] | split

theorem kept_grantShared {m : Nat} {r : State} (s : State) (line : Nat) (b : Nat) (replied : Bool) (hm : Sub 4831838208 m) (hk : Kept m r
    s) : Kept m r (@grantShared s line b replied) := by
  unfold grantShared; try dsimp only
  repeat' first | exact hm.of (by decide) | with_reducible first | assumption | apply kept_State_setDir | apply kept_sendData | split

theorem kept_homeReply {m : Nat} {r : State} (s : State) (line : Nat) (t : Txn) (hm : Sub 4831842528 m) (hk : Kept m r s) : Kept m r
    (@homeReply s line t) := by
  unfold homeReply; try dsimp only
  repeat' first | exact hm.of (by decide) | with_reducible first | assumption | apply kept_State_putWord | apply kept_State_setAl
                                                                 | apply kept_State_setDir | apply kept_State_setTxn | apply kept_answer
                                                                 | apply kept_ashList | apply kept_countMem | apply kept_dropStale
                                                                 | apply kept_fabSend | apply kept_giveUpPlace | apply kept_grantShared
                                                                 | apply kept_homeWrote | apply kept_killResv | apply kept_poolTouch
                                                                 | apply kept_putLine | apply kept_sendData | split

theorem kept_agentPlace {m : Nat} {r : State} (s : State) (b : Nat) (line : Nat) (hm : Sub 536870912 m) (hk : Kept m r s) : OptKept m r
    (@agentPlace s b line) := by
  unfold agentPlace; try dsimp only
  repeat' first | exact hm.of (by decide) | with_reducible first | assumption | apply kept_State_setAl | refine OptKept.some ?_
                                                                 | refine OptKept.none | split

theorem kept_homeGiveUp {m : Nat} {r : State} (s : State) (w : WaitReq) (b : Nat) (hm : Sub 536875168 m) (hk : Kept m r s) : Kept m r
    (@homeGiveUp s w b) := by
  unfold homeGiveUp; try dsimp only
  repeat' first | exact hm.of (by decide) | with_reducible first | assumption | apply kept_State_setAl | apply kept_State_setDir
                                                                 | apply kept_agentPlace | apply kept_ashList | apply kept_countMem
                                                                 | apply kept_dropStale | apply kept_poolTouch | apply kept_putLine
                                                                 | refine OptKept.some ?_ | refine OptKept.none
                                                                 | (refine Kept.record 536870912 ?_ rfl rfl ?_ ?_; (first | assumption | apply kept_State_setAl | apply kept_State_setDir | apply kept_agentPlace | apply kept_ashList | apply kept_countMem | apply kept_dropStale | apply kept_poolTouch | apply kept_putLine | (refine kept_some ‹_ = some _› ?_)))
                                                                 | simp +decide only [mix, cond_eq_ite, if_true, if_false] | split
                                                                 | (refine kept_some ‹_ = some _› ?_)

theorem kept_homeAccept {m : Nat} {r : State} (s : State) (w : WaitReq) (hm : Sub 290477315832 m) (hk : Kept m r s) : Kept m r
    (@homeAccept s w) := by
  unfold homeAccept; try dsimp only
  repeat' first | exact hm.of (by decide) | with_reducible first | assumption | apply kept_State_setTxn | apply kept_fabSend
                                                                 | apply kept_findPlace | apply kept_homeGiveUp | apply kept_homeReply
                                                                 | apply kept_refuseReq | apply kept_reqCheck | apply kept_sendSnoops
                                                                 | split | (refine kept_pair ‹_ = (_, _)› ?_)

theorem kept_homeNextF {m : Nat} {r : State} (a0 : Nat) (a1 : State) (a2 : Nat) (hm : Sub 290477315832 m) (hk : Kept m r a1) : Kept m r
    (@homeNextF a0 a1 a2) := by
  induction a0 generalizing a1 a2 with
  | zero =>
    unfold homeNextF; try dsimp only
    repeat' first | exact hm.of (by decide) | with_reducible first | assumption | apply kept_homeAccept
                                                                   | (refine Kept.record 536870912 ?_ rfl rfl ?_ ?_; (first | assumption | apply ih | apply kept_homeAccept))
                                                                   | simp +decide only [mix, cond_eq_ite, if_true, if_false] | split
  | succ l ih =>
    unfold homeNextF; try dsimp only
    repeat' first | exact hm.of (by decide) | with_reducible first | assumption | apply ih | apply kept_homeAccept
                                                                   | (refine Kept.record 536870912 ?_ rfl rfl ?_ ?_; (first | assumption | apply ih | apply kept_homeAccept))
                                                                   | simp +decide only [mix, cond_eq_ite, if_true, if_false] | split

theorem kept_homeNext {m : Nat} {r : State} (s : State) (line : Nat) (hm : Sub 290477315832 m) (hk : Kept m r s) : Kept m r (@homeNext s
    line) := by
  unfold homeNext; try dsimp only
  repeat' first | exact hm.of (by decide) | with_reducible first | assumption | apply kept_homeNextF

theorem kept_wakeHomes {m : Nat} {r : State} (s : State) (hm : Sub 290477315832 m) (hk : Kept m r s) : Kept m r (@wakeHomes s) := by
  unfold wakeHomes; try dsimp only
  repeat' first | exact hm.of (by decide) | with_reducible first | assumption | apply kept_State_setTxn | apply kept_homeAccept
                                                                 | apply kept_homeNext | split | apply kept_foldl | apply kept_foldl_snd
                                                                 | apply kept_foldl_fst | intro _

theorem kept_homeRequest {m : Nat} {r : State} (s : State) (line : Nat) (req : HomeReq) (b : Nat) (ctx : Nat) (p : Payload) (hm : Sub
    290477315832 m) (hk : Kept m r s) : Kept m r (@homeRequest s line req b ctx p) := by
  unfold homeRequest; try dsimp only
  repeat' first | exact hm.of (by decide) | with_reducible first | assumption | apply kept_addWait | apply kept_homeNext

theorem kept_retryRequest {m : Nat} {r : State} (s : State) (line : Nat) (req : HomeReq) (who : Requester) (ctx : Nat) (p : Payload) (hm :
    Sub 290477315832 m) (hk : Kept m r s) : Kept m r (@retryRequest s line req who ctx p) := by
  unfold retryRequest; try dsimp only
  repeat' first | exact hm.of (by decide) | with_reducible first | assumption | apply kept_addRetry | apply kept_homeAccept | split

theorem kept_homeResponse {m : Nat} {r : State} (s : State) (line : Nat) (b : Nat) (a3 : SnpRsp) (hm : Sub 290477315832 m) (hk : Kept m r
    s) : Kept m r (@homeResponse s line b a3) := by
  unfold homeResponse; try dsimp only
  repeat' first | exact hm.of (by decide) | with_reducible first | assumption | apply kept_State_setDir | apply kept_State_setTxn
                                                                 | apply kept_dropStale | apply kept_homeReply | apply kept_wakeHomes
                                                                 | split

theorem kept_forwardTo {m : Nat} {r : State} (s : State) (line : Nat) (b : Nat) (g : Grant) (hm : Sub 4831838208 m) (hk : Kept m r s) :
    Kept m r (@forwardTo s line b g) := by
  unfold forwardTo; try dsimp only
  repeat' first | exact hm.of (by decide) | with_reducible first | assumption | apply kept_State_setTxn | apply kept_answer
                                                                 | apply kept_sendData | split

theorem kept_respond {m : Nat} {r : State} (s : State) (line : Nat) (b : Nat) (a3 : SnpRsp) (hm : Sub 4831838208 m) (hk : Kept m r s) :
    Kept m r (@respond s line b a3) := by
  unfold respond; try dsimp only
  repeat' first | exact hm.of (by decide) | with_reducible first | assumption | apply kept_State_setTxn | apply kept_fabSend | split

theorem kept_snoopAt {m : Nat} {r : State} (s : State) (line : Nat) (b : Nat) (sn : Snoop) (hm : Sub 4831838208 m) (hk : Kept m r s) :
    OptKept m r (@snoopAt s line b sn) := by
  unfold snoopAt; try dsimp only
  repeat' first | exact hm.of (by decide) | with_reducible first | assumption | apply kept_State_setAl | apply kept_forwardTo
                                                                 | apply kept_respond | refine OptKept.some ?_ | refine OptKept.none
                                                                 | split

theorem kept_restoreStale {m : Nat} {r : State} (s : State) (line : Nat) (hm : Sub 536875040 m) (hk : Kept m r s) : Kept m r
    (@restoreStale s line) := by
  unfold restoreStale; try dsimp only
  repeat' first | exact hm.of (by decide) | with_reducible first | assumption | apply kept_dropStale | apply kept_putLine | split

theorem kept_reclaimTag {m : Nat} {r : State} (s : State) (line : Nat) (b : Nat) (hm : Sub 536875040 m) (hk : Kept m r s) : Kept m r
    (@reclaimTag s line b) := by
  unfold reclaimTag; try dsimp only
  repeat' first | exact hm.of (by decide) | with_reducible first | assumption | apply kept_State_setDir | apply kept_ashList
                                                                 | apply kept_restoreStale | split

theorem kept_retryTxn {m : Nat} {r : State} (s : State) (line : Nat) (t : Txn) (hm : Sub 290477315832 m) (hk : Kept m r s) : Kept m r
    (@retryTxn s line t) := by
  unfold retryTxn; try dsimp only
  repeat' first | exact hm.of (by decide) | with_reducible first | assumption | apply kept_State_setTxn | apply kept_homeAccept

theorem kept_orphanTxn {m : Nat} {r : State} (s : State) (line : Nat) (t : Txn) (hm : Sub 536870912 m) (hk : Kept m r s) : Kept m r
    (@orphanTxn s line t) := by
  unfold orphanTxn; try dsimp only
  repeat' first | exact hm.of (by decide) | with_reducible first | assumption | apply kept_State_setTxn | split

theorem kept_declareDead {m : Nat} {r : State} (s : State) (b : Nat) (hm : Sub 290477315832 m) (hk : Kept m r s) : Kept m r (@declareDead
    s b) := by
  unfold declareDead; try dsimp only
  repeat' first | exact hm.of (by decide) | with_reducible first | assumption | apply kept_fabDrop | apply kept_homeResponse
                                                                 | apply kept_orphanTxn | apply kept_reclaimTag | apply kept_retryTxn
                                                                 | apply kept_wakeHomes
                                                                 | (refine Kept.record 541065216 ?_ rfl rfl ?_ ?_; (first | assumption | apply kept_fabDrop | apply kept_homeResponse | apply kept_orphanTxn | apply kept_reclaimTag | apply kept_retryTxn | apply kept_wakeHomes | apply kept_foldl))
                                                                 | simp +decide only [mix, cond_eq_ite, if_true, if_false] | split
                                                                 | apply kept_foldl | apply kept_foldl_snd | apply kept_foldl_fst
                                                                 | intro _

theorem kept_protoFault {m : Nat} {r : State} (s : State) (line : Nat) (b : Nat) (hm : Sub 290477315832 m) (hk : Kept m r s) : Kept m r
    (@protoFault s line b) := by
  unfold protoFault; try dsimp only
  repeat' first | exact hm.of (by decide) | with_reducible first | assumption | apply kept_State_logE | apply kept_declareDead

end Sys2Proof
end

