-- ==== Sys2Proof/Laws/KeptCores.lean ====
section
/-! SUPPORT. What the definitions of Machine/Cores.lean leave of the state as it was. -/

namespace Sys2Proof

open Sys2Proof.Machine

set_option linter.unusedVariables false

theorem kept_setHosted {m : Nat} {r : State} (s : State) (line : Nat) (b : Nat) (d : LineData) (hm : Sub 536870912 m) (hk : Kept m r s) :
    Kept m r (@setHosted s line b d) := by
  unfold setHosted; try dsimp only
  repeat' with_reducible first | assumption | (refine Kept.record 536870912 ?_ rfl rfl ?_ ?_; assumption)
                               | simp +decide only [mix, cond_eq_ite, if_true, if_false]

theorem kept_coreWrite {m : Nat} {r : State} (s : State) (b : Nat) (pa : Nat) (bs : List Byte) (hm : Sub 536875552 m) (hk : Kept m r s) :
    Kept m r (@coreWrite s b pa bs) := by
  unfold coreWrite; try dsimp only
  repeat' first | exact hm.of (by decide) | with_reducible first | assumption | apply kept_rawWrite | apply kept_setHosted | split
                                                                 | apply kept_foldl | apply kept_foldl_snd | apply kept_foldl_fst
                                                                 | intro _

theorem kept_agentLoad {m : Nat} {r : State} (s : State) (line : Nat) (bit : Nat) (ctx : Nat) (w : WaitAcc) (hm : Sub 536870912 m) (hk :
    Kept m r s) : Kept m r (@agentLoad s line bit ctx w).2 := by
  unfold agentLoad; try dsimp only
  repeat' first | exact hm.of (by decide) | with_reducible first | assumption | apply kept_State_setAl | apply kept_agentPlace
                                                                 | refine OptKept.some ?_ | refine OptKept.none | split
                                                                 | (refine kept_some ‹_ = some _› ?_)

theorem kept_agentStore {m : Nat} {r : State} (s : State) (line : Nat) (bit : Nat) (ctx : Nat) (w : WaitAcc) (hm : Sub 536870912 m) (hk :
    Kept m r s) : Kept m r (@agentStore s line bit ctx w).2 := by
  unfold agentStore; try dsimp only
  repeat' first | exact hm.of (by decide) | with_reducible first | assumption | apply kept_State_setAl | apply kept_agentPlace
                                                                 | apply kept_keepStale | refine OptKept.some ?_ | refine OptKept.none
                                                                 | split | (refine kept_some ‹_ = some _› ?_)

theorem kept_deliverLoad {m : Nat} {r : State} (s : State) (h : Nat) (pa : Nat) (signed : Bool) (bs : List Byte) (hm : Sub 1040 m) (hk :
    Kept m r s) : Kept m r (@deliverLoad s h pa signed bs) := by
  unfold deliverLoad; try dsimp only
  repeat' first | exact hm.of (by decide) | with_reducible first | assumption | apply kept_State_emit | apply kept_State_setHt

theorem kept_loadCached {m : Nat} {r : State} (s : State) (h : Nat) (va : W64) (pa : Nat) (n : Nat) (signed : Bool) (hm : Sub 281874798328
    m) (hk : Kept m r s) : Kept m r (@loadCached s h va pa n signed) := by
  unfold loadCached; try dsimp only
  repeat' first | exact hm.of (by decide) | with_reducible first | assumption | apply kept_agentLoad | apply kept_coreFail
                                                                 | apply kept_deliverLoad | split | (refine kept_pair ‹_ = (_, _)› ?_)

theorem kept_markSigned {m : Nat} {r : State} (s : State) (id : Nat) (signed : Bool) (hm : Sub 4194304 m) (hk : Kept m r s) : Kept m r
    (@markSigned s id signed) := by
  unfold markSigned; try dsimp only
  repeat' with_reducible first | assumption | (refine Kept.record 4194304 ?_ rfl rfl ?_ ?_; assumption)
                               | simp +decide only [mix, cond_eq_ite, if_true, if_false]

theorem kept_coreLoadAt {m : Nat} {r : State} (s : State) (h : Nat) (va : W64) (pa : Nat) (n : Nat) (signed : Bool) (hm : Sub 290477315832
    m) (hk : Kept m r s) : Kept m r (@coreLoadAt s h va pa n signed) := by
  unfold coreLoadAt; try dsimp only
  repeat' first | exact hm.of (by decide) | with_reducible first | assumption | apply kept_askHostRead | apply kept_askRemote
                                                                 | apply kept_coreFail | apply kept_deliverLoad | apply kept_loadCached
                                                                 | apply kept_markSigned | apply kept_physRead
                                                                 | refine OptPairKept.some _ ?_ | refine OptPairKept.none | split
                                                                 | (refine kept_triple ‹_ = (_, _, _)› ?_)
                                                                 | (refine kept_pair ‹_ = (_, _)› ?_)
                                                                 | (refine kept_some_pair ‹_ = some (_, _)› ?_)

theorem kept_execCoreLoad {m : Nat} {r : State} (h : HartNo) (va : W64) (pa : BitVec 52) (lg : BitVec 2) (signed : Bool) (s : State) (hm :
    Sub 290477315832 m) (hk : Kept m r s) : ResKept m r (@execCoreLoad h va pa lg signed s) := by
  unfold execCoreLoad; try dsimp only
  repeat' first | exact hm.of (by decide) | with_reducible first | assumption | apply kept_coreLoadAt | apply kept_settleAll
                                                                 | refine ResKept.next ?_ | refine ResKept.refused _
                                                                 | refine ResKept.fault _ | split

theorem kept_execCoreStore {m : Nat} {r : State} (h : HartNo) (va : W64) (pa : BitVec 52) (lg : BitVec 2) (value : W64) (s : State) (hm :
    Sub 8602519056 m) (hk : Kept m r s) : ResKept m r (@execCoreStore h va pa lg value s) := by
  unfold execCoreStore; try dsimp only
  repeat' first | exact hm.of (by decide) | with_reducible first | assumption | apply kept_State_setHt | apply kept_pumpSb
                                                                 | refine ResKept.next ?_ | refine ResKept.refused _
                                                                 | refine ResKept.fault _ | split

theorem kept_storeLines {m : Nat} {r : State} (s : State) (h : Nat) (ctx : Nat) (a3 : List (Nat × Nat)) (hm : Sub 536870912 m) (hk : Kept
    m r s) : Kept m r (@storeLines s h ctx a3).2 := by
  induction a3 generalizing s h ctx with
  | nil =>
    unfold storeLines; try dsimp only
    repeat' first | exact hm.of (by decide) | with_reducible first | assumption | apply kept_agentStore | split
                                                                   | (refine kept_pair ‹_ = (_, _)› ?_)
  | cons e l ih =>
    unfold storeLines; try dsimp only
    repeat' first | exact hm.of (by decide) | with_reducible first | assumption | apply ih | apply kept_agentStore | split
                                                                   | (refine kept_pair ‹_ = (_, _)› ?_)

theorem kept_coreStoreTry {m : Nat} {r : State} (s : State) (h : HartNo) (hm : Sub 290477315832 m) (hk : Kept m r s) : Kept m r
    (@coreStoreTry s h) := by
  unfold coreStoreTry; try dsimp only
  repeat' first | exact hm.of (by decide) | with_reducible first | assumption | apply kept_coreFail | apply kept_coreWrite
                                                                 | apply kept_hartDrained | apply kept_hostPosted | apply kept_physWrite
                                                                 | apply kept_pumpSb | apply kept_setLost | apply kept_setSb
                                                                 | apply kept_storeLines | split | (refine kept_pair ‹_ = (_, _)› ?_)

theorem kept_setResv {m : Nat} {r : State} (s : State) (a : Agent) (line : Nat) (hm : Sub 4096 m) (hk : Kept m r s) : Kept m r (@setResv s
    a line) := by
  unfold setResv; try dsimp only
  repeat' with_reducible first | assumption | (refine Kept.record 4096 ?_ rfl rfl ?_ ?_; assumption)
                               | simp +decide only [mix, cond_eq_ite, if_true, if_false]

theorem kept_clearResv {m : Nat} {r : State} (s : State) (a : Agent) (hm : Sub 4096 m) (hk : Kept m r s) : Kept m r (@clearResv s a) := by
  unfold clearResv; try dsimp only
  repeat' with_reducible first | assumption | (refine Kept.record 4096 ?_ rfl rfl ?_ ?_; assumption)
                               | simp +decide only [mix, cond_eq_ite, if_true, if_false]

theorem kept_amoDo {m : Nat} {r : State} (s : State) (a : Agent) (ctx : Nat) (pa : Nat) (n : Nat) (op : AmoOp) (v : Nat) (hm : Sub
    279709749992 m) (hk : Kept m r s) : Kept m r (@amoDo s a ctx pa n op v).2.2 := by
  unfold amoDo; try dsimp only
  repeat' first | exact hm.of (by decide) | with_reducible first | assumption | apply kept_checkExtent | apply kept_clearResv
                                                                 | apply kept_physAtomic | apply kept_setResv | split
                                                                 | (refine kept_triple ‹_ = (_, _, _)› ?_)
                                                                 | (refine kept_pair ‹_ = (_, _)› ?_)

theorem kept_acquireWait {m : Nat} {r : State} (s : State) (h : Nat) (aq : Bool) (hm : Sub 1024 m) (hk : Kept m r s) : Kept m r
    (@acquireWait s h aq) := by
  unfold acquireWait; try dsimp only
  repeat' first | exact hm.of (by decide) | with_reducible first | assumption | apply kept_State_setHt | split

theorem kept_coreAmoAt {m : Nat} {r : State} (s : State) (h : HartNo) (va : W64) (pa : Nat) (n : Nat) (op : AmoOp) (v : Nat) (hm : Sub
    290477315832 m) (hk : Kept m r s) : Kept m r (@coreAmoAt s h va pa n op v) := by
  unfold coreAmoAt; try dsimp only
  repeat' first | exact hm.of (by decide) | with_reducible first | assumption | apply kept_State_emit | apply kept_State_setHt
                                                                 | apply kept_amoDo | apply kept_askRemote | apply kept_coreFail
                                                                 | apply kept_takeTrap | refine OptPairKept.some _ ?_
                                                                 | refine OptPairKept.none | split
                                                                 | (refine kept_triple ‹_ = (_, _, _)› ?_)
                                                                 | (refine kept_some_pair ‹_ = some (_, _)› ?_)

theorem kept_execCoreAmo {m : Nat} {r : State} (h : HartNo) (va : W64) (pa : BitVec 52) (wide : Bool) (op : AmoOp) (value : W64) (aq :
    Bool) (rl : Bool) (s : State) (hm : Sub 290477315832 m) (hk : Kept m r s) : ResKept m r (@execCoreAmo h va pa wide op value aq rl s)
    := by
  unfold execCoreAmo; try dsimp only
  repeat' first | exact hm.of (by decide) | with_reducible first | assumption | apply kept_acquireWait | apply kept_coreAmoAt
                                                                 | apply kept_deliverLost | apply kept_settleAll | apply kept_wakeHomes
                                                                 | refine ResKept.next ?_ | refine ResKept.refused _
                                                                 | refine ResKept.fault _ | split

theorem kept_execCboZero {m : Nat} {r : State} (h : HartNo) (va : W64) (pa : BitVec 52) (s : State) (hm : Sub 290477315832 m) (hk : Kept m
    r s) : ResKept m r (@execCboZero h va pa s) := by
  unfold execCboZero; try dsimp only
  repeat' first | exact hm.of (by decide) | with_reducible first | assumption | apply kept_coreFail | apply kept_deliverLost
                                                                 | apply kept_physWrite | apply kept_settleAll | apply kept_wakeHomes
                                                                 | refine ResKept.next ?_ | refine ResKept.refused _ | split
                                                                 | (refine kept_pair ‹_ = (_, _)› ?_)

theorem kept_execDeviceContextWrite {m : Nat} {r : State} (h : HartNo) (ctx : Ctx) (s : State) (hm : Sub 1024 m) (hk : Kept m r s) :
    ResKept m r (@execDeviceContextWrite h ctx s) := by
  unfold execDeviceContextWrite; try dsimp only
  repeat' first | exact hm.of (by decide) | with_reducible first | assumption | apply kept_State_setHt | refine ResKept.next ?_
                                                                 | refine ResKept.refused _ | split

end Sys2Proof
end

