-- ==== Sys2Proof/Laws/KeptCaching.lean ====
section
/-! SUPPORT. What the definitions of Machine/Caching.lean leave of the state as it was. -/

namespace Sys2Proof

open Sys2Proof.Machine

set_option linter.unusedVariables false

theorem kept_serveOne {m : Nat} {r : State} (s : State) (w : WaitAcc) (hm : Sub 290477315832 m) (hk : Kept m r s) : Kept m r (@serveOne s
    w) := by
  unfold serveOne; try dsimp only
  repeat' first | exact hm.of (by decide) | with_reducible first | assumption | apply kept_coreStoreTry | apply kept_loadCached | split

theorem kept_barriers {m : Nat} {r : State} (s : State) (ws : List WaitAcc) (hm : Sub 281874798328 m) (hk : Kept m r s) : Kept m r
    (@barriers s ws) := by
  unfold barriers; try dsimp only
  repeat' first | exact hm.of (by decide) | with_reducible first | assumption | apply kept_hartDrained | split | apply kept_foldl
                                                                 | apply kept_foldl_snd | apply kept_foldl_fst | intro _

theorem kept_serveWaiting {m : Nat} {r : State} (s : State) (line : Nat) (b : Nat) (hm : Sub 290477315832 m) (hk : Kept m r s) : Kept m r
    (@serveWaiting s line b) := by
  unfold serveWaiting; try dsimp only
  repeat' first | exact hm.of (by decide) | with_reducible first | assumption | apply kept_State_setAl | apply kept_barriers
                                                                 | apply kept_serveOne | apply kept_foldl | apply kept_foldl_snd
                                                                 | apply kept_foldl_fst | intro _

theorem kept_serveRoom {m : Nat} {r : State} (s : State) (b : Nat) (hm : Sub 290477315832 m) (hk : Kept m r s) : Kept m r (@serveRoom s b)
    := by
  unfold serveRoom; try dsimp only
  repeat' first | exact hm.of (by decide) | with_reducible first | assumption | apply kept_serveWaiting | split | apply kept_foldl
                                                                 | apply kept_foldl_snd | apply kept_foldl_fst | intro _

theorem kept_serveStale {m : Nat} {r : State} (s : State) (line : Nat) (b : Nat) (d : LineData) (hm : Sub 290477315832 m) (hk : Kept m r
    s) : Kept m r (@serveStale s line b d) := by
  unfold serveStale; try dsimp only
  repeat' first | exact hm.of (by decide) | with_reducible first | assumption | apply kept_State_setAl | apply kept_agentLoad
                                                                 | apply kept_barriers | apply kept_deliverLoad | apply kept_serveOne
                                                                 | split | (refine kept_pair ‹_ = (_, _)› ?_) | apply kept_foldl
                                                                 | apply kept_foldl_snd | apply kept_foldl_fst | intro _

theorem kept_requestArrives {m : Nat} {r : State} (s : State) (b : Nat) (line : Nat) (ctx : Nat) (req : HomeReq) (froms : List CSt) (st :
    CSt) (p : Payload) (hm : Sub 290477315832 m) (hk : Kept m r s) : ResKept m r (@requestArrives s b line ctx req froms st p) := by
  unfold requestArrives; try dsimp only
  repeat' first | exact hm.of (by decide) | with_reducible first | assumption | apply kept_State_setAl | apply kept_homeRequest
                                                                 | apply kept_settleAll | refine ResKept.next ?_
                                                                 | refine ResKept.refused _ | split

theorem kept_readArrives {m : Nat} {r : State} (s : State) (b : Nat) (line : Nat) (ctx : Nat) (req : HomeReq) (froms : List CSt) (st :
    CSt) (hm : Sub 290477315832 m) (hk : Kept m r s) : ResKept m r (@readArrives s b line ctx req froms st) := by
  unfold readArrives; try dsimp only
  repeat' first | exact hm.of (by decide) | with_reducible first | assumption | apply kept_agentPlace | apply kept_requestArrives
                                                                 | refine ResKept.next ?_ | refine ResKept.refused _
                                                                 | refine OptKept.some ?_ | refine OptKept.none | split
                                                                 | (refine kept_some ‹_ = some _› ?_)
                                                                 | (refine kept_next ‹_ = Host.Outcome.next _› ?_)

theorem kept_tagsFailed {m : Nat} {r : State} (s : State) (line : Nat) (hm : Sub 281874797304 m) (hk : Kept m r s) : Kept m r (@tagsFailed
    s line) := by
  unfold tagsFailed; try dsimp only
  repeat' first | exact hm.of (by decide) | with_reducible first | assumption | apply kept_State_logE | apply kept_postFring
                                                                 | (refine Kept.record 536870912 ?_ rfl rfl ?_ ?_; (first | assumption | apply kept_State_logE | apply kept_postFring))
                                                                 | simp +decide only [mix, cond_eq_ite, if_true, if_false]

theorem kept_invSharer {m : Nat} {r : State} (s : State) (line : Nat) (b : Nat) (hm : Sub 536870912 m) (hk : Kept m r s) : Kept m r
    (@invSharer s line b) := by
  unfold invSharer; try dsimp only
  repeat' first | exact hm.of (by decide) | with_reducible first | assumption | apply kept_State_setAl | split

theorem kept_invSharers {m : Nat} {r : State} (s : State) (line : Nat) (v : BitVec 14) (hm : Sub 536870912 m) (hk : Kept m r s) : Kept m r
    (@invSharers s line v) := by
  unfold invSharers; try dsimp only
  repeat' first | exact hm.of (by decide) | with_reducible first | assumption | apply kept_invSharer | split | apply kept_foldl
                                                                 | apply kept_foldl_snd | apply kept_foldl_fst | intro _

theorem kept_cacheDataLost {m : Nat} {r : State} (s : State) (line : Nat) (hm : Sub 536875048 m) (hk : Kept m r s) : Kept m r
    (@cacheDataLost s line) := by
  unfold cacheDataLost; try dsimp only
  repeat' first | exact hm.of (by decide) | with_reducible first | assumption | apply kept_State_setDir | apply kept_ashList
                                                                 | apply kept_invSharers | apply kept_putLine | apply kept_takeFree
                                                                 | (refine Kept.record 536870912 ?_ rfl rfl ?_ ?_; (first | assumption | apply kept_State_setDir | apply kept_ashList | apply kept_invSharers | apply kept_putLine | apply kept_takeFree | (refine kept_pair ‹_ = (_, _)› ?_)))
                                                                 | simp +decide only [mix, cond_eq_ite, if_true, if_false] | split
                                                                 | (refine kept_pair ‹_ = (_, _)› ?_)

theorem kept_d2hRequest {m : Nat} {r : State} (s : State) (b : Nat) (line : Nat) (ctx : Nat) (what : Nat) (st : CSt) (hm : Sub 2696937488
    m) (hk : Kept m r s) : Kept m r (@d2hRequest s b line ctx what st) := by
  unfold d2hRequest; try dsimp only
  repeat' first | exact hm.of (by decide) | with_reducible first | assumption | apply kept_State_setAl | apply kept_countHost
                                                                 | apply kept_cxlSend
                                                                 | (refine Kept.record 12582912 ?_ rfl rfl ?_ ?_; (first | assumption | apply kept_State_setAl | apply kept_countHost | apply kept_cxlSend))
                                                                 | simp +decide only [mix, cond_eq_ite, if_true, if_false]

theorem kept_d2hArrives {m : Nat} {r : State} (s : State) (b : Nat) (line : Nat) (ctx : Nat) (what : Nat) (froms : List CSt) (st : CSt)
    (hm : Sub 2696937488 m) (hk : Kept m r s) : ResKept m r (@d2hArrives s b line ctx what froms st) := by
  unfold d2hArrives; try dsimp only
  repeat' first | exact hm.of (by decide) | with_reducible first | assumption | apply kept_agentPlace | apply kept_d2hRequest
                                                                 | refine ResKept.next ?_ | refine ResKept.refused _
                                                                 | refine ResKept.fault _ | refine OptKept.some ?_ | refine OptKept.none
                                                                 | split | (refine kept_some ‹_ = some _› ?_)

theorem kept_d2hGiveUp {m : Nat} {r : State} (s : State) (b : Nat) (line : Nat) (from_ : CSt) (data : Option LineData) (hm : Sub
    2684354576 m) (hk : Kept m r s) : ResKept m r (@d2hGiveUp s b line from_ data) := by
  unfold d2hGiveUp; try dsimp only
  repeat' first | exact hm.of (by decide) | with_reducible first | assumption | apply kept_State_setAl | apply kept_countHost
                                                                 | apply kept_cxlSend | apply kept_setHosted | refine ResKept.next ?_
                                                                 | refine ResKept.refused _ | split

theorem kept_hostedAnswer {m : Nat} {r : State} (s : State) (line : Nat) (b : Nat) (sn : Snoop) (hm : Sub 2147483664 m) (hk : Kept m r s)
    : Kept m r (@hostedAnswer s line b sn) := by
  unfold hostedAnswer; try dsimp only
  repeat' first | exact hm.of (by decide) | with_reducible first | assumption | apply kept_cxlSend | split

theorem kept_hostedSnoop {m : Nat} {r : State} (s : State) (line : Nat) (b : Nat) (sn : Snoop) (hm : Sub 6979321872 m) (hk : Kept m r s) :
    OptKept m r (@hostedSnoop s line b sn) := by
  unfold hostedSnoop; try dsimp only
  repeat' first | exact hm.of (by decide) | with_reducible first | assumption | apply kept_hostedAnswer | apply kept_setHosted
                                                                 | apply kept_snoopAt | refine OptKept.some ?_ | refine OptKept.none
                                                                 | split | (refine kept_some ‹_ = some _› ?_)

theorem kept_execRds {m : Nat} {r : State} (bit : CacheBit) (ctx : Ctx) (line : BitVec 45) (find : CacheFind) (s : State) (hm : Sub
    290477315832 m) (hk : Kept m r s) : ResKept m r (@execRds bit ctx line find s) := by
  unfold execRds; try dsimp only
  repeat' first | exact hm.of (by decide) | with_reducible first | assumption | apply kept_agentPlace | apply kept_cacheDataLost
                                                                 | apply kept_d2hArrives | apply kept_readArrives
                                                                 | apply kept_retryRequest | apply kept_settleAll | apply kept_tagsFailed
                                                                 | refine ResKept.next ?_ | refine ResKept.refused _
                                                                 | refine OptKept.some ?_ | refine OptKept.none | split
                                                                 | (refine kept_some ‹_ = some _› ?_)
                                                                 | (refine kept_next ‹_ = Host.Outcome.next _› ?_)

theorem kept_execRdx {m : Nat} {r : State} (bit : CacheBit) (ctx : Ctx) (line : BitVec 45) (s : State) (hm : Sub 290477315832 m) (hk :
    Kept m r s) : ResKept m r (@execRdx bit ctx line s) := by
  unfold execRdx; try dsimp only
  repeat' first | exact hm.of (by decide) | with_reducible first | assumption | apply kept_d2hArrives | apply kept_readArrives
                                                                 | refine ResKept.fault _ | split
                                                                 | (refine kept_next ‹_ = Host.Outcome.next _› ?_)

theorem kept_execUpg {m : Nat} {r : State} (bit : CacheBit) (ctx : Ctx) (line : BitVec 45) (s : State) (hm : Sub 290477315832 m) (hk :
    Kept m r s) : ResKept m r (@execUpg bit ctx line s) := by
  unfold execUpg; try dsimp only
  repeat' first | exact hm.of (by decide) | with_reducible first | assumption | apply kept_d2hArrives | apply kept_requestArrives
                                                                 | refine ResKept.refused _ | refine ResKept.fault _ | split
                                                                 | (refine kept_next ‹_ = Host.Outcome.next _› ?_)

theorem kept_execWbm {m : Nat} {r : State} (bit : CacheBit) (line : BitVec 45) (data : Option LineData) (s : State) (hm : Sub 290477315832
    m) (hk : Kept m r s) : ResKept m r (@execWbm bit line data s) := by
  unfold execWbm; try dsimp only
  repeat' first | exact hm.of (by decide) | with_reducible first | assumption | apply kept_d2hGiveUp | apply kept_requestArrives | split
                                                                 | (refine kept_next ‹_ = Host.Outcome.next _› ?_)

theorem kept_execEve {m : Nat} {r : State} (bit : CacheBit) (line : BitVec 45) (s : State) (hm : Sub 290477315832 m) (hk : Kept m r s) :
    ResKept m r (@execEve bit line s) := by
  unfold execEve; try dsimp only
  repeat' first | exact hm.of (by decide) | with_reducible first | assumption | apply kept_d2hGiveUp | apply kept_requestArrives | split
                                                                 | (refine kept_next ‹_ = Host.Outcome.next _› ?_)

theorem kept_eccFound {m : Nat} {r : State} (s : State) (line : Nat) (f : LineFind) (hm : Sub 275414782184 m) (hk : Kept m r s) : Kept m r
    (@eccFound s line f) := by
  unfold eccFound; try dsimp only
  repeat' first | exact hm.of (by decide) | with_reducible first | assumption | apply kept_State_logE | apply kept_State_setMctl
                                                                 | apply kept_alterLine | apply kept_cacheDataLost
                                                                 | (refine Kept.record 64 ?_ rfl rfl ?_ ?_; (first | assumption | apply kept_State_logE | apply kept_State_setMctl | apply kept_alterLine | apply kept_cacheDataLost))
                                                                 | simp +decide only [mix, cond_eq_ite, if_true, if_false] | split

theorem kept_retryArrives {m : Nat} {r : State} (s : State) (who : RetryAgent) (line : Nat) (ctx : Nat) (req : HomeReq) (p : Payload) (hm
    : Sub 290477315832 m) (hk : Kept m r s) : ResKept m r (@retryArrives s who line ctx req p) := by
  unfold retryArrives; try dsimp only
  repeat' first | exact hm.of (by decide) | with_reducible first | assumption | apply kept_retryRequest | apply kept_settleAll
                                                                 | refine ResKept.next ?_ | refine ResKept.refused _ | split

theorem kept_execReadonce {m : Nat} {r : State} (who : RetryAgent) (ctx : Ctx) (line : BitVec 45) (find : LineFind) (s : State) (hm : Sub
    290477315832 m) (hk : Kept m r s) : ResKept m r (@execReadonce who ctx line find s) := by
  unfold execReadonce; try dsimp only
  repeat' first | exact hm.of (by decide) | with_reducible first | assumption | apply kept_eccFound | apply kept_retryArrives | split
                                                                 | (refine kept_next ‹_ = Host.Outcome.next _› ?_)

theorem kept_execWritefull {m : Nat} {r : State} (who : RetryAgent) (ctx : Ctx) (line : BitVec 45) (data : LineData) (s : State) (hm : Sub
    290477315832 m) (hk : Kept m r s) : ResKept m r (@execWritefull who ctx line data s) := by
  unfold execWritefull; try dsimp only
  repeat' first | exact hm.of (by decide) | with_reducible first | assumption | apply kept_retryArrives

theorem kept_execWritepart {m : Nat} {r : State} (who : RetryAgent) (ctx : Ctx) (line : BitVec 45) (mask : BitVec 128) (data : LineData)
    (s : State) (hm : Sub 290477315832 m) (hk : Kept m r s) : ResKept m r (@execWritepart who ctx line mask data s) := by
  unfold execWritepart; try dsimp only
  repeat' first | exact hm.of (by decide) | with_reducible first | assumption | apply kept_retryArrives

theorem kept_execCohAtomic {m : Nat} {r : State} (who : RetryAgent) (ctx : Ctx) (line : BitVec 45) (off : BitVec 7) (op : AOp) (wide :
    Bool) (opnd : W64) (cmp : W64) (s : State) (hm : Sub 290477315832 m) (hk : Kept m r s) : ResKept m r (@execCohAtomic who ctx line off
    op wide opnd cmp s) := by
  unfold execCohAtomic; try dsimp only
  repeat' first | exact hm.of (by decide) | with_reducible first | assumption | apply kept_retryArrives | refine ResKept.fault _ | split
                                                                 | (refine kept_next ‹_ = Host.Outcome.next _› ?_)

theorem kept_snoopArrived {m : Nat} {r : State} (s : State) (line : Nat) (b : Nat) (hm : Sub 536870912 m) (hk : Kept m r s) : Kept m r
    (@snoopArrived s line b) := by
  unfold snoopArrived; try dsimp only
  repeat' first | exact hm.of (by decide) | with_reducible first | assumption | apply kept_State_setTxn | split

theorem kept_sendBiSnoop {m : Nat} {r : State} (s : State) (line : Nat) (inv : Bool) (hm : Sub 2147483664 m) (hk : Kept m r s) : Kept m r
    (@sendBiSnoop s line inv) := by
  unfold sendBiSnoop; try dsimp only
  repeat' first | exact hm.of (by decide) | with_reducible first | assumption | apply kept_State_setHost | apply kept_cxlSend | split

theorem kept_snoopHost {m : Nat} {r : State} (s : State) (line : Nat) (sn : Snoop) (hm : Sub 6979321872 m) (hk : Kept m r s) : OptKept m r
    (@snoopHost s line sn) := by
  unfold snoopHost; try dsimp only
  repeat' first | exact hm.of (by decide) | with_reducible first | assumption | apply kept_sendBiSnoop | apply kept_snoopAt
                                                                 | refine OptKept.some ?_ | refine OptKept.none | split
                                                                 | (refine kept_some ‹_ = some _› ?_)

theorem kept_snoopCommand {m : Nat} {r : State} (s : State) (b : Nat) (line : Nat) (sn : Snoop) (hm : Sub 290477315832 m) (hk : Kept m r
    s) : ResKept m r (@snoopCommand s b line sn) := by
  unfold snoopCommand; try dsimp only
  repeat' first | exact hm.of (by decide) | with_reducible first | assumption | apply kept_fabTake | apply kept_hostedSnoop
                                                                 | apply kept_protoFault | apply kept_serveRoom | apply kept_snoopArrived
                                                                 | apply kept_snoopAt | apply kept_snoopHost | refine ResKept.next ?_
                                                                 | refine ResKept.refused _ | refine ResKept.fault _
                                                                 | refine OptKept.some ?_ | refine OptKept.none | split
                                                                 | (refine kept_some ‹_ = some _› ?_)

theorem kept_execSnps {m : Nat} {r : State} (bit : CacheBit) (line : BitVec 45) (s : State) (hm : Sub 290477315832 m) (hk : Kept m r s) :
    ResKept m r (@execSnps bit line s) := by
  unfold execSnps; try dsimp only
  repeat' first | exact hm.of (by decide) | with_reducible first | assumption | apply kept_snoopCommand

theorem kept_execSnpx {m : Nat} {r : State} (bit : CacheBit) (line : BitVec 45) (s : State) (hm : Sub 290477315832 m) (hk : Kept m r s) :
    ResKept m r (@execSnpx bit line s) := by
  unfold execSnpx; try dsimp only
  repeat' first | exact hm.of (by decide) | with_reducible first | assumption | apply kept_snoopCommand

theorem kept_execSnpxi {m : Nat} {r : State} (bit : CacheBit) (line : BitVec 45) (s : State) (hm : Sub 290477315832 m) (hk : Kept m r s) :
    ResKept m r (@execSnpxi bit line s) := by
  unfold execSnpxi; try dsimp only
  repeat' first | exact hm.of (by decide) | with_reducible first | assumption | apply kept_snoopCommand

theorem kept_execSnpinv {m : Nat} {r : State} (bit : CacheBit) (line : BitVec 45) (s : State) (hm : Sub 290477315832 m) (hk : Kept m r s)
    : ResKept m r (@execSnpinv bit line s) := by
  unfold execSnpinv; try dsimp only
  repeat' first | exact hm.of (by decide) | with_reducible first | assumption | apply kept_snoopCommand

theorem kept_applyDeferred {m : Nat} {r : State} (s : State) (line : Nat) (b : Nat) (hm : Sub 290477315832 m) (hk : Kept m r s) : Kept m r
    (@applyDeferred s line b) := by
  unfold applyDeferred; try dsimp only
  repeat' first | exact hm.of (by decide) | with_reducible first | assumption | apply kept_State_setAl | apply kept_hostedSnoop
                                                                 | apply kept_protoFault | apply kept_snoopAt | apply kept_snoopHost
                                                                 | refine OptKept.some ?_ | refine OptKept.none | split
                                                                 | (refine kept_some ‹_ = some _› ?_)

theorem kept_stableNow {m : Nat} {r : State} (s : State) (line : Nat) (b : Nat) (st : CSt) (hm : Sub 290477315832 m) (hk : Kept m r s) :
    Kept m r (@stableNow s line b st) := by
  unfold stableNow; try dsimp only
  repeat' first | exact hm.of (by decide) | with_reducible first | assumption | apply kept_State_setAl | apply kept_applyDeferred
                                                                 | apply kept_cxlAnswer | apply kept_serveWaiting | apply kept_setHosted
                                                                 | split

theorem kept_execCohData {m : Nat} {r : State} (bit : CacheBit) (line : BitVec 45) (grant : Grant) (s : State) (hm : Sub 290477315832 m)
    (hk : Kept m r s) : ResKept m r (@execCohData bit line grant s) := by
  unfold execCohData; try dsimp only
  repeat' first | exact hm.of (by decide) | with_reducible first | assumption | apply kept_State_setAl | apply kept_cxlAnswer
                                                                 | apply kept_fabTake | apply kept_protoFault | apply kept_serveStale
                                                                 | apply kept_settleAll | apply kept_stableNow | refine ResKept.next ?_
                                                                 | refine ResKept.refused _ | refine OptKept.some ?_ | refine OptKept.none
                                                                 | split | (refine kept_some ‹_ = some _› ?_)

theorem kept_execAcku {m : Nat} {r : State} (bit : CacheBit) (line : BitVec 45) (s : State) (hm : Sub 290477315832 m) (hk : Kept m r s) :
    ResKept m r (@execAcku bit line s) := by
  unfold execAcku; try dsimp only
  repeat' first | exact hm.of (by decide) | with_reducible first | assumption | apply kept_fabTake | apply kept_protoFault
                                                                 | apply kept_settleAll | apply kept_stableNow | refine ResKept.next ?_
                                                                 | refine ResKept.refused _ | refine OptKept.some ?_ | refine OptKept.none
                                                                 | split | (refine kept_some ‹_ = some _› ?_)

theorem kept_execCmp {m : Nat} {r : State} (bit : CacheBit) (line : BitVec 45) (s : State) (hm : Sub 290477315832 m) (hk : Kept m r s) :
    ResKept m r (@execCmp bit line s) := by
  unfold execCmp; try dsimp only
  repeat' first | exact hm.of (by decide) | with_reducible first | assumption | apply kept_State_setAl | apply kept_cxlAnswer
                                                                 | apply kept_fabTake | apply kept_protoFault | apply kept_serveRoom
                                                                 | apply kept_serveWaiting | apply kept_settleAll | refine ResKept.next ?_
                                                                 | refine ResKept.refused _ | refine OptKept.some ?_ | refine OptKept.none
                                                                 | split | (refine kept_some ‹_ = some _› ?_)

theorem kept_execSnoopResponse {m : Nat} {r : State} (bit : CacheBit) (line : BitVec 45) (rsp : SnpRsp) (s : State) (hm : Sub 290477315832
    m) (hk : Kept m r s) : ResKept m r (@execSnoopResponse bit line rsp s) := by
  unfold execSnoopResponse; try dsimp only
  repeat' first | exact hm.of (by decide) | with_reducible first | assumption | apply kept_fabTake | apply kept_homeResponse
                                                                 | apply kept_ringsGo | apply kept_settleAll | refine ResKept.next ?_
                                                                 | refine ResKept.refused _ | refine OptKept.some ?_ | refine OptKept.none
                                                                 | split | (refine kept_some ‹_ = some _› ?_)

theorem kept_execRetry {m : Nat} {r : State} (who : Retrier) (line : BitVec 45) (s : State) (hm : Sub 4831838208 m) (hk : Kept m r s) :
    ResKept m r (@execRetry who line s) := by
  unfold execRetry; try dsimp only
  repeat' first | exact hm.of (by decide) | with_reducible first | assumption | apply kept_fabTake | refine ResKept.next ?_
                                                                 | refine ResKept.refused _ | refine OptKept.some ?_ | refine OptKept.none
                                                                 | (refine Kept.record 536870912 ?_ rfl rfl ?_ ?_; (first | assumption | apply kept_fabTake | (refine kept_some ‹_ = some _› ?_)))
                                                                 | simp +decide only [mix, cond_eq_ite, if_true, if_false] | split
                                                                 | (refine kept_some ‹_ = some _› ?_)

theorem kept_execGrant {m : Nat} {r : State} (who : Retrier) (line : BitVec 45) (s : State) (hm : Sub 290477315832 m) (hk : Kept m r s) :
    ResKept m r (@execGrant who line s) := by
  unfold execGrant; try dsimp only
  repeat' first | exact hm.of (by decide) | with_reducible first | assumption | apply kept_homeAccept | apply kept_ringsGo
                                                                 | apply kept_settleAll | refine ResKept.next ?_
                                                                 | refine ResKept.refused _
                                                                 | (refine Kept.record 536870912 ?_ rfl rfl ?_ ?_; (first | assumption | apply kept_homeAccept | apply kept_ringsGo | apply kept_settleAll))
                                                                 | simp +decide only [mix, cond_eq_ite, if_true, if_false] | split

theorem kept_takeAnswer {m : Nat} {r : State} (s : State) (line : Nat) (who : Retrier) (hm : Sub 536870912 m) (hk : Kept m r s) :
    OptKept m r (takeAnswer s line who) := by
  unfold takeAnswer
  split
  · split
    · exact OptKept.some hk
    · exact OptKept.none
  · intro t h
    obtain ⟨x, _, rfl⟩ := Option.map_eq_some_iff.mp h
    exact Kept.record 536870912 hk rfl rfl rfl hm

theorem kept_closeTxn {m : Nat} {r : State} (s : State) (line : Nat) (t : Txn) (hm : Sub 290477315832 m) (hk : Kept m r s) : Kept m r
    (@closeTxn s line t) := by
  unfold closeTxn; try dsimp only
  repeat' first | exact hm.of (by decide) | with_reducible first | assumption | apply kept_State_setTxn | apply kept_restoreStale
                                                                 | apply kept_ringsGo | apply kept_settleAll | apply kept_wakeHomes
                                                                 | split

theorem kept_execDone {m : Nat} {r : State} (who : Retrier) (line : BitVec 45) (s : State) (hm : Sub 290477315832 m) (hk : Kept m r s) :
    ResKept m r (@execDone who line s) := by
  unfold execDone; try dsimp only
  repeat' first | exact hm.of (by decide) | with_reducible first | assumption | apply kept_closeTxn | apply kept_takeAnswer
                                                                 | refine ResKept.next ?_ | refine ResKept.refused _
                                                                 | refine OptKept.some ?_ | refine OptKept.none | split
                                                                 | (refine kept_some ‹_ = some _› ?_)

theorem kept_execEvictionWriteback {m : Nat} {r : State} (d : DieNo) (s : State) (hm : Sub 290477315832 m) (hk : Kept m r s) : ResKept m r
    (@execEvictionWriteback d s) := by
  unfold execEvictionWriteback; try dsimp only
  repeat' first | exact hm.of (by decide) | with_reducible first | assumption | apply kept_countMem | apply kept_ringsGo
                                                                 | apply kept_settleAll | apply kept_storeLine | apply kept_wakeHomes
                                                                 | refine ResKept.next ?_ | refine ResKept.refused _
                                                                 | (refine Kept.record 536870912 ?_ rfl rfl ?_ ?_; (first | assumption | apply kept_countMem | apply kept_ringsGo | apply kept_settleAll | apply kept_storeLine | apply kept_wakeHomes))
                                                                 | simp +decide only [mix, cond_eq_ite, if_true, if_false] | split

theorem kept_execSnoopTimeout {m : Nat} {r : State} (bit : CacheBit) (line : BitVec 45) (s : State) (hm : Sub 290477315832 m) (hk : Kept m
    r s) : ResKept m r (@execSnoopTimeout bit line s) := by
  unfold execSnoopTimeout; try dsimp only
  repeat' first | exact hm.of (by decide) | with_reducible first | assumption | apply kept_declareDead | apply kept_settleAll
                                                                 | refine ResKept.next ?_ | refine ResKept.refused _ | split

theorem kept_execReclaimWalkDone {m : Nat} {r : State} (bit : CacheBit) (s : State) (hm : Sub 281874797304 m) (hk : Kept m r s) : ResKept
    m r (@execReclaimWalkDone bit s) := by
  unfold execReclaimWalkDone; try dsimp only
  repeat' first | exact hm.of (by decide) | with_reducible first | assumption | apply kept_State_logTag | apply kept_post
                                                                 | apply kept_takeFree | refine ResKept.next ?_ | refine ResKept.refused _
                                                                 | (refine Kept.record 536870912 ?_ rfl rfl ?_ ?_; (first | assumption | apply kept_State_logTag | apply kept_post | apply kept_takeFree | (refine kept_pair ‹_ = (_, _)› ?_)))
                                                                 | simp +decide only [mix, cond_eq_ite, if_true, if_false] | split
                                                                 | (refine kept_pair ‹_ = (_, _)› ?_)

end Sys2Proof
end

