-- ==== Sys2Proof/Laws/KeptMatrix.lean ====
section
/-! SUPPORT. What the definitions of Machine/Matrix.lean leave of the state as it was. -/

namespace Sys2Proof

open Sys2Proof.Machine

set_option linter.unusedVariables false

theorem kept_execMatrixMac {m : Nat} {r : State} (p : Site) (rs1 : W64) (rs2 : W64) (s : State) (hm : Sub 281874797304 m) (hk : Kept m r s) :
    ResKept m r (execMatrixMac p rs1 rs2 s) := by
  unfold execMatrixMac
  refine ResKept.ite (ResKept.refused _) (ResKept.ite (ResKept.next hk) ?_)
  generalize mcAfmt _ = fa
  generalize mcReadOut _ _ = ro
  have hh := hm.of (a := 281874797304) (by decide)
  have hg := hm.of (a := 512) (by decide)
  cases fa with
  | none => exact ResKept.next (kept_haltAt _ _ _ _ _ hh hk)
  | some fa =>
    cases ro with
    | none => exact ResKept.next (kept_haltAt _ _ _ _ _ hh hk)
    | some ro =>
      exact ResKept.ite (ResKept.next (kept_haltAt _ _ _ _ _ hh hk)) (ResKept.ite (ResKept.next (kept_haltAt _ _ _ _ _ hh hk))
        (ResKept.next (kept_State_setGr _ _ _ hg hk)))

theorem kept_execWeightLoad {m : Nat} {r : State} (p : Site) (rs1 : W64) (rs2 : W64) (s : State) (hm : Sub 281874797304 m) (hk : Kept m r
    s) : ResKept m r (@execWeightLoad p rs1 rs2 s) := by
  unfold execWeightLoad; try dsimp only
  repeat' first | exact hm.of (by decide) | with_reducible first | assumption | apply kept_State_setGr | apply kept_haltAt
                                                                 | refine ResKept.next ?_ | refine ResKept.refused _ | split

theorem kept_drainWrite {m : Nat} {r : State} (s : State) (g : Nat) (d : Drain) (hm : Sub 544 m) (hk : Kept m r s) : Kept m r (@drainWrite
    s g d).2 := by
  unfold drainWrite; try dsimp only
  repeat' first | exact hm.of (by decide) | with_reducible first | assumption | apply kept_mendWords | apply kept_spadWrite | split
                                                                 | apply kept_foldl | apply kept_foldl_snd | apply kept_foldl_fst
                                                                 | intro _

theorem kept_unitView {m : Nat} {r : State} (s : State) (g : Nat) (seq : Nat) (hm : Sub 8 m) (hk : Kept m r s) : Kept m r (@unitView s g
    seq).2 := by
  unfold unitView; try dsimp only
  repeat' first | exact hm.of (by decide) | with_reducible first | assumption | apply kept_spadView

theorem kept_execWeightLoadComplete {m : Nat} {r : State} (g : GrateNo) (find : EccFind) (s : State) (hm : Sub 281874830072 m) (hk : Kept
    m r s) : ResKept m r (@execWeightLoadComplete g find s) := by
  unfold execWeightLoadComplete; try dsimp only
  repeat' first | exact hm.of (by decide) | with_reducible first | assumption | apply kept_State_setGr | apply kept_bankConflicts
                                                                 | apply kept_countFind | apply kept_guardLate | apply kept_settleHalt
                                                                 | apply kept_unitView | apply kept_wordHalt | refine ResKept.next ?_
                                                                 | refine ResKept.refused _ | split | (refine kept_pair ‹_ = (_, _)› ?_)

theorem kept_execMatrixLastStepRead {m : Nat} {r : State} (g : GrateNo) (find : MatFind) (s : State) (hm : Sub 281874830072 m) (hk : Kept
    m r s) : ResKept m r (@execMatrixLastStepRead g find s) := by
  unfold execMatrixLastStepRead; try dsimp only
  repeat' first | exact hm.of (by decide) | with_reducible first | assumption | apply kept_State_setGr | apply kept_bankConflicts
                                                                 | apply kept_countFind | apply kept_guardLate | apply kept_haltLate
                                                                 | apply kept_settleHalt | apply kept_unitView | apply kept_wordHalt
                                                                 | refine ResKept.next ?_ | refine ResKept.refused _ | split
                                                                 | (refine kept_pair ‹_ = (_, _)› ?_)

theorem kept_execMatrixDrainComplete {m : Nat} {r : State} (g : GrateNo) (find : EccFind) (s : State) (hm : Sub 281874830072 m) (hk : Kept
    m r s) : ResKept m r (@execMatrixDrainComplete g find s) := by
  unfold execMatrixDrainComplete; try dsimp only
  repeat' first | exact hm.of (by decide) | with_reducible first | assumption | apply kept_State_setGr | apply kept_bankConflicts
                                                                 | apply kept_drainWrite | apply kept_guardLate | apply kept_haltLate
                                                                 | apply kept_settleHalt | apply kept_wordHalt | refine ResKept.next ?_
                                                                 | refine ResKept.refused _ | split | (refine kept_pair ‹_ = (_, _)› ?_)

end Sys2Proof
end

