-- ==== Sys2Proof/Laws/KeptVector.lean ====
section
/-! SUPPORT. What the definitions of Machine/Vector.lean leave of the state as it was. -/

namespace Sys2Proof

open Sys2Proof.Machine

set_option linter.unusedVariables false

theorem kept_vecQueue {m : Nat} {r : State} (s : State) (p : Site) (w : VecWork) (find : EccFind) (hm : Sub 512 m) (hk : Kept m r s) :
    Kept m r (@vecQueue s p w find) := by
  unfold vecQueue; try dsimp only
  repeat' first | exact hm.of (by decide) | with_reducible first | assumption | apply kept_State_setGr

theorem kept_execVecOp {m : Nat} {r : State} (p : Site) (i : VecInsn) (find : EccFind) (s : State) (hm : Sub 281874797304
    m) (hk : Kept m r s) : ResKept m r (@execVecOp p i find s) := by
  unfold execVecOp; try dsimp only
  repeat' first | exact hm.of (by decide) | with_reducible first | assumption | apply kept_haltAt | apply kept_vecQueue
                                                                 | refine ResKept.next ?_ | refine ResKept.refused _ | split

theorem kept_vecSpan {m : Nat} {r : State} (s : State) (p : Site) (rs1 : W64) (role : Nat) (write : Bool) (hm : Sub 281874797304 m) (hk :
    Kept m r s) : ExKept m r (@vecSpan s p rs1 role write) := by
  unfold vecSpan; try dsimp only
  repeat' first | exact hm.of (by decide) | with_reducible first | assumption | apply kept_haltAt | refine exKept_error ?_
                                                                 | refine exKept_ok _ | split

theorem kept_execVecLoad {m : Nat} {r : State} (p : Site) (rd : Fin 32) (rs1 : W64) (role : BitVec 2) (find : EccFind) (s : State) (hm :
    Sub 281874797304 m) (hk : Kept m r s) : ResKept m r (@execVecLoad p rd rs1 role find s) := by
  unfold execVecLoad; try dsimp only
  repeat' first | exact hm.of (by decide) | with_reducible first | assumption | apply kept_vecQueue | apply kept_vecSpan
                                                                 | refine ResKept.next ?_ | refine ResKept.refused _
                                                                 | refine exKept_error ?_ | refine exKept_ok _ | split
                                                                 | (refine kept_error ‹_ = Except.error _› ?_)

theorem kept_execVecStore {m : Nat} {r : State} (p : Site) (rs2 : Fin 32) (rs1 : W64) (role : BitVec 2) (find : EccFind) (s : State) (hm :
    Sub 281874797304 m) (hk : Kept m r s) : ResKept m r (@execVecStore p rs2 rs1 role find s) := by
  unfold execVecStore; try dsimp only
  repeat' first | exact hm.of (by decide) | with_reducible first | assumption | apply kept_vecQueue | apply kept_vecSpan
                                                                 | refine ResKept.next ?_ | refine ResKept.refused _
                                                                 | refine exKept_error ?_ | refine exKept_ok _ | split
                                                                 | (refine kept_error ‹_ = Except.error _› ?_)

theorem kept_vecStep {m : Nat} {r : State} (s : State) (g : Nat) (hm : Sub 281874830072 m) (hk : Kept m r s) : Kept m r (@vecStep s g) :=
    by
  unfold vecStep; try dsimp only
  repeat' first | exact hm.of (by decide) | with_reducible first | assumption | apply kept_State_modGr | apply kept_State_setGr
                                                                 | apply kept_bankConflicts | apply kept_countFind | apply kept_guardLate
                                                                 | apply kept_haltLate | apply kept_spadWrite | apply kept_unitView
                                                                 | apply kept_wordHalt | split | (refine kept_pair ‹_ = (_, _)› ?_)

theorem kept_vecSteps {m : Nat} {r : State} (a0 : Nat) (a1 : State) (a2 : Nat) (hm : Sub 281874830072 m) (hk : Kept m r a1) : Kept m r
    (@vecSteps a0 a1 a2) := by
  induction a0 generalizing a1 a2 with
  | zero =>
    unfold vecSteps; try dsimp only
    repeat' first | exact hm.of (by decide) | with_reducible first | assumption | apply kept_vecStep | split
  | succ l ih =>
    unfold vecSteps; try dsimp only
    repeat' first | exact hm.of (by decide) | with_reducible first | assumption | apply ih | apply kept_vecStep | split

theorem kept_vecRun {m : Nat} {r : State} (s : State) (g : Nat) (hm : Sub 281874830072 m) (hk : Kept m r s) : Kept m r (@vecRun s g) := by
  unfold vecRun; try dsimp only
  repeat' first | exact hm.of (by decide) | with_reducible first | assumption | apply kept_settleHalt | apply kept_vecSteps | split

theorem kept_vecRunAll {m : Nat} {r : State} (s : State) (hm : Sub 281874830072 m) (hk : Kept m r s) : Kept m r (@vecRunAll s) := by
  unfold vecRunAll; try dsimp only
  repeat' first | exact hm.of (by decide) | with_reducible first | assumption | apply kept_vecRun | apply kept_foldl
                                                                 | apply kept_foldl_snd | apply kept_foldl_fst | intro _

end Sys2Proof
end

