-- ==== Sys2Proof/Laws/KeptWaits.lean ====
section
/-! SUPPORT. What the definitions of Machine/Waits.lean leave of the state as it was. -/

namespace Sys2Proof

open Sys2Proof.Machine

set_option linter.unusedVariables false

theorem kept_afterDrain {m : Nat} {r : State} (s : State) (g : Nat) (pc : W64) (insn : W32) (k : State) (hm : Sub 281874797304 m) (hk :
    Kept m r s) (hk1 : Kept m r k) : Kept m r (@afterDrain s g pc insn k) := by
  unfold afterDrain; try dsimp only
  repeat' first | exact hm.of (by decide) | with_reducible first | assumption | apply kept_haltOn | split

theorem kept_stallAt {m : Nat} {r : State} (s : State) (p : Site) (w : Stall) (hm : Sub 512 m) (hk : Kept m r s) : Kept m r (@stallAt s p
    w) := by
  unfold stallAt; try dsimp only
  repeat' first | exact hm.of (by decide) | with_reducible first | assumption | apply kept_State_setGr

theorem kept_resumeIssue {m : Nat} {r : State} (s : State) (g : Nat) (hm : Sub 512 m) (hk : Kept m r s) : Kept m r (@resumeIssue s g) :=
    by
  unfold resumeIssue; try dsimp only
  repeat' first | exact hm.of (by decide) | with_reducible first | assumption | apply kept_State_modGr

theorem kept_execUnitWait {m : Nat} {r : State} (p : Site) (rs1 : W64) (s : State) (hm : Sub 512 m) (hk : Kept m r s) : ResKept m r
    (@execUnitWait p rs1 s) := by
  unfold execUnitWait; try dsimp only
  repeat' first | exact hm.of (by decide) | with_reducible first | assumption | apply kept_stallAt | refine ResKept.next ?_
                                                                 | refine ResKept.refused _ | split

theorem kept_afterUnits {m : Nat} {r : State} (s : State) (g : Nat) (k : State → Res) (hm : Sub 281874830072 m) (hk : Kept m r s) (h_k : ∀
    x0, Kept m r x0 → ResKept m r (k x0)) : ResKept m r (@afterUnits s g k) := by
  unfold afterUnits; try dsimp only
  repeat' first | exact hm.of (by decide) | with_reducible first | assumption | apply h_k | apply kept_vecRun | refine ResKept.next ?_
                                                                 | refine ResKept.refused _ | split
                                                                 | (refine kept_next ‹_ = Host.Outcome.next _› ?_) | intro _

theorem kept_execUnitWaitMet {m : Nat} {r : State} (g : GrateNo) (s : State) (hm : Sub 281874830072 m) (hk : Kept m r s) : ResKept m r
    (@execUnitWaitMet g s) := by
  unfold execUnitWaitMet; try dsimp only
  repeat' first | exact hm.of (by decide) | with_reducible first | assumption | apply kept_afterDrain | apply kept_resumeIssue
                                                                 | apply kept_vecRun | refine ResKept.next ?_ | refine ResKept.refused _
                                                                 | split

theorem kept_execEventSignal {m : Nat} {r : State} (p : Site) (rs1 : W64) (rs2 : W64) (s : State) (hm : Sub 512 m) (hk : Kept m r s) :
    ResKept m r (@execEventSignal p rs1 rs2 s) := by
  unfold execEventSignal; try dsimp only
  repeat' first | exact hm.of (by decide) | with_reducible first | assumption | apply kept_stallAt | refine ResKept.next ?_
                                                                 | refine ResKept.refused _ | split

theorem kept_execEventSignalEffect {m : Nat} {r : State} (g : GrateNo) (s : State) (hm : Sub 281874830072 m) (hk : Kept m r s) : ResKept m
    r (@execEventSignalEffect g s) := by
  unfold execEventSignalEffect; try dsimp only
  repeat' first | exact hm.of (by decide) | with_reducible first | assumption | apply kept_addEvent | apply kept_afterDrain
                                                                 | apply kept_afterUnits | apply kept_haltOn | apply kept_resumeIssue
                                                                 | refine ResKept.next ?_ | refine ResKept.refused _ | split
                                                                 | (refine kept_next ‹_ = Host.Outcome.next _› ?_) | intro _

theorem kept_execEventWait {m : Nat} {r : State} (p : Site) (rs1 : W64) (rs2 : W64) (s : State) (hm : Sub 512 m) (hk : Kept m r s) :
    ResKept m r (@execEventWait p rs1 rs2 s) := by
  unfold execEventWait; try dsimp only
  repeat' first | exact hm.of (by decide) | with_reducible first | assumption | apply kept_stallAt | refine ResKept.next ?_
                                                                 | refine ResKept.refused _ | split

theorem kept_execEventWaitMet {m : Nat} {r : State} (g : GrateNo) (s : State) (hm : Sub 512 m) (hk : Kept m r s) : ResKept m r
    (@execEventWaitMet g s) := by
  unfold execEventWaitMet; try dsimp only
  repeat' first | exact hm.of (by decide) | with_reducible first | assumption | apply kept_State_setGr | refine ResKept.next ?_
                                                                 | refine ResKept.refused _ | split

theorem kept_execTallyWait {m : Nat} {r : State} (p : Site) (rs1 : W64) (rs2 : W64) (s : State) (hm : Sub 512 m) (hk : Kept m r s) :
    ResKept m r (@execTallyWait p rs1 rs2 s) := by
  unfold execTallyWait; try dsimp only
  repeat' first | exact hm.of (by decide) | with_reducible first | assumption | apply kept_stallAt | refine ResKept.next ?_
                                                                 | refine ResKept.refused _ | split

theorem kept_execTallyWaitMet {m : Nat} {r : State} (g : GrateNo) (s : State) (hm : Sub 512 m) (hk : Kept m r s) : ResKept m r
    (@execTallyWaitMet g s) := by
  unfold execTallyWaitMet; try dsimp only
  repeat' first | exact hm.of (by decide) | with_reducible first | assumption | apply kept_State_setGr | refine ResKept.next ?_
                                                                 | refine ResKept.refused _ | split

theorem kept_execWaitTimeout {m : Nat} {r : State} (g : GrateNo) (s : State) (hm : Sub 281874797304 m) (hk : Kept m r s) : ResKept m r
    (@execWaitTimeout g s) := by
  unfold execWaitTimeout; try dsimp only
  repeat' first | exact hm.of (by decide) | with_reducible first | assumption | apply kept_haltOn | refine ResKept.next ?_
                                                                 | refine ResKept.refused _ | split

theorem kept_execEventRead {m : Nat} {r : State} (p : Site) (rd : Fin 32) (rs1 : W64) (s : State) (hm : Sub 512 m) (hk : Kept m r s) :
    ResKept m r (@execEventRead p rd rs1 s) := by
  unfold execEventRead; try dsimp only
  repeat' first | exact hm.of (by decide) | with_reducible first | assumption | apply kept_State_setGr | refine ResKept.next ?_
                                                                 | refine ResKept.refused _ | split

theorem kept_execSchedBoundary {m : Nat} {r : State} (p : Site) (s : State) (hm : Sub 512 m) (hk : Kept m r s) : ResKept m r
    (@execSchedBoundary p s) := by
  unfold execSchedBoundary; try dsimp only
  repeat' first | exact hm.of (by decide) | with_reducible first | assumption | apply kept_stallAt | refine ResKept.next ?_
                                                                 | refine ResKept.refused _ | split

theorem kept_stopGrate {m : Nat} {r : State} (s : State) (g : Nat) (hm : Sub 512 m) (hk : Kept m r s) : Kept m r (@stopGrate s g) := by
  unfold stopGrate; try dsimp only
  repeat' first | exact hm.of (by decide) | with_reducible first | assumption | apply kept_State_modGr

theorem kept_execBoundaryReached {m : Nat} {r : State} (g : GrateNo) (s : State) (hm : Sub 281874830072 m) (hk : Kept m r s) : ResKept m r
    (@execBoundaryReached g s) := by
  unfold execBoundaryReached; try dsimp only
  repeat' first | exact hm.of (by decide) | with_reducible first | assumption | apply kept_afterDrain | apply kept_afterUnits
                                                                 | apply kept_resumeIssue | apply kept_stopGrate | refine ResKept.next ?_
                                                                 | refine ResKept.refused _ | split
                                                                 | (refine kept_next ‹_ = Host.Outcome.next _› ?_) | intro _

theorem kept_execEcall {m : Nat} {r : State} (p : Site) (s : State) (hm : Sub 512 m) (hk : Kept m r s) : ResKept m r (@execEcall p s) :=
    by
  unfold execEcall; try dsimp only
  repeat' first | exact hm.of (by decide) | with_reducible first | assumption | apply kept_stallAt | refine ResKept.next ?_
                                                                 | refine ResKept.refused _ | split

theorem kept_execEcallStop {m : Nat} {r : State} (g : GrateNo) (s : State) (hm : Sub 281874830072 m) (hk : Kept m r s) : ResKept m r
    (@execEcallStop g s) := by
  unfold execEcallStop; try dsimp only
  repeat' first | exact hm.of (by decide) | with_reducible first | assumption | apply kept_afterDrain | apply kept_afterUnits
                                                                 | apply kept_endLaunch | apply kept_stopGrate | refine ResKept.next ?_
                                                                 | refine ResKept.refused _ | split
                                                                 | (refine kept_next ‹_ = Host.Outcome.next _› ?_) | intro _

theorem kept_execEbreak {m : Nat} {r : State} (p : Site) (s : State) (hm : Sub 281874797304 m) (hk : Kept m r s) : ResKept m r
    (@execEbreak p s) := by
  unfold execEbreak; try dsimp only
  repeat' first | exact hm.of (by decide) | with_reducible first | assumption | apply kept_State_setGr | apply kept_haltAt
                                                                 | refine ResKept.next ?_ | refine ResKept.refused _ | split

end Sys2Proof
end

