-- ==== Sys2Proof/Laws/KeptScalar.lean ====
section
/-! SUPPORT. What the definitions of Machine/Scalar.lean leave of the state as it was. -/

namespace Sys2Proof

open Sys2Proof.Machine

set_option linter.unusedVariables false

theorem kept_tileFail {m : Nat} {r : State} (s : State) (g : Nat) (a : TcAccess) (a3 : Resp) (pa : Nat) (hm : Sub 281874797304 m) (hk :
    Kept m r s) : Kept m r (@tileFail s g a a3 pa) := by
  unfold tileFail; try dsimp only
  repeat' first | exact hm.of (by decide) | with_reducible first | assumption | apply kept_haltOn

theorem kept_tileHold {m : Nat} {r : State} (s : State) (g : Nat) (a : TcAccess) (hm : Sub 512 m) (hk : Kept m r s) : Kept m r (@tileHold
    s g a) := by
  unfold tileHold; try dsimp only
  repeat' first | exact hm.of (by decide) | with_reducible first | assumption | apply kept_State_modGr

theorem kept_tileDone {m : Nat} {r : State} (s : State) (g : Nat) (a : TcAccess) (rd : Nat) (v : W64) (hm : Sub 512 m) (hk : Kept m r s) :
    Kept m r (@tileDone s g a rd v) := by
  unfold tileDone; try dsimp only
  repeat' first | exact hm.of (by decide) | with_reducible first | assumption | apply kept_State_modGr

theorem kept_rbAdd {m : Nat} {r : State} (s : State) (g : Nat) (pa : Nat) (bs : List Byte) (hm : Sub 512 m) (hk : Kept m r s) : Kept m r
    (@rbAdd s g pa bs) := by
  unfold rbAdd; try dsimp only
  repeat' first | exact hm.of (by decide) | with_reducible first | assumption | apply kept_State_modGr

theorem kept_rbDrop {m : Nat} {r : State} (s : State) (g : Nat) (pa : Nat) (hm : Sub 512 m) (hk : Kept m r s) : Kept m r (@rbDrop s g pa)
    := by
  unfold rbDrop; try dsimp only
  repeat' first | exact hm.of (by decide) | with_reducible first | assumption | apply kept_State_modGr

theorem kept_icAdd {m : Nat} {r : State} (s : State) (g : Nat) (pa : Nat) (line : List Byte) (hm : Sub 512 m) (hk : Kept m r s) : Kept m r
    (@icAdd s g pa line) := by
  unfold icAdd; try dsimp only
  repeat' first | exact hm.of (by decide) | with_reducible first | assumption | apply kept_State_modGr

theorem kept_fetchDone {m : Nat} {r : State} (s : State) (g : Nat) (a : TcAccess) (pa : Nat) (line : List Byte) (hm : Sub 281874797304 m)
    (hk : Kept m r s) : Kept m r (@fetchDone s g a pa line) := by
  unfold fetchDone; try dsimp only
  repeat' first | exact hm.of (by decide) | with_reducible first | assumption | apply kept_State_modGr | apply kept_haltOn
                                                                 | apply kept_tileDone | split

theorem kept_tileGot {m : Nat} {r : State} (s : State) (g : Nat) (a : TcAccess) (pa : Nat) (line : List Byte) (hm : Sub 281874797304 m)
    (hk : Kept m r s) : Kept m r (@tileGot s g a pa line) := by
  unfold tileGot; try dsimp only
  repeat' first | exact hm.of (by decide) | with_reducible first | assumption | apply kept_fetchDone | apply kept_icAdd
                                                                 | apply kept_tileDone | split

theorem kept_tileRead {m : Nat} {r : State} (s : State) (g : Nat) (a : TcAccess) (pa : Nat) (hm : Sub 290477314808 m) (hk : Kept m r s) :
    Kept m r (@tileRead s g a pa) := by
  unfold tileRead; try dsimp only
  repeat' first | exact hm.of (by decide) | with_reducible first | assumption | apply kept_State_modGr | apply kept_askHostRead
                                                                 | apply kept_askRemote | apply kept_countFind | apply kept_physRead
                                                                 | apply kept_rbAdd | apply kept_tileFail | apply kept_tileGot
                                                                 | apply kept_tileHold | apply kept_unitView
                                                                 | refine OptPairKept.some _ ?_ | refine OptPairKept.none | split
                                                                 | (refine kept_triple ‹_ = (_, _, _)› ?_)
                                                                 | (refine kept_pair ‹_ = (_, _)› ?_)
                                                                 | (refine kept_some_pair ‹_ = some (_, _)› ?_)

theorem kept_tileAmo {m : Nat} {r : State} (s : State) (g : Nat) (a : TcAccess) (pa : Nat) (n : Nat) (op : AmoOp) (rd : Nat) (v : W64) (hm
    : Sub 290477314808 m) (hk : Kept m r s) : Kept m r (@tileAmo s g a pa n op rd v) := by
  unfold tileAmo; try dsimp only
  repeat' first | exact hm.of (by decide) | with_reducible first | assumption | apply kept_State_modGr | apply kept_amoDo
                                                                 | apply kept_askRemote | apply kept_countFind | apply kept_rbDrop
                                                                 | apply kept_tileDone | apply kept_tileFail | apply kept_tileHold
                                                                 | refine OptPairKept.some _ ?_ | refine OptPairKept.none | split
                                                                 | (refine kept_triple ‹_ = (_, _, _)› ?_)
                                                                 | (refine kept_some_pair ‹_ = some (_, _)› ?_)

theorem kept_tileBell {m : Nat} {r : State} (s : State) (g : Nat) (a : TcAccess) (pa : Nat) (n : Nat) (v : W64) (hm : Sub 281874797304 m)
    (hk : Kept m r s) : Kept m r (@tileBell s g a pa n v) := by
  unfold tileBell; try dsimp only
  repeat' first | exact hm.of (by decide) | with_reducible first | assumption | apply kept_State_modGr | apply kept_bellWrite
                                                                 | apply kept_tileDevice | apply kept_tileFail | apply kept_tileHold
                                                                 | split

theorem kept_tileAt {m : Nat} {r : State} (s : State) (g : Nat) (a : TcAccess) (pa : Nat) (hm : Sub 290477315832 m) (hk : Kept m r s) :
    Kept m r (@tileAt s g a pa) := by
  unfold tileAt; try dsimp only
  repeat' first | exact hm.of (by decide) | with_reducible first | assumption | apply kept_State_setGr | apply kept_pumpSb
                                                                 | apply kept_tileAmo | apply kept_tileBell | apply kept_tileHold
                                                                 | apply kept_tileRead | split

theorem kept_tileTry {m : Nat} {r : State} (s : State) (g : Nat) (a : TcAccess) (hm : Sub 290477348600 m) (hk : Kept m r s) : Kept m r
    (@tileTry s g a) := by
  unfold tileTry; try dsimp only
  repeat' first | exact hm.of (by decide) | with_reducible first | assumption | apply kept_haltOn | apply kept_tileAt
                                                                 | apply kept_tileFail | apply kept_tileHold | apply kept_xlate | split
                                                                 | (refine kept_pair ‹_ = (_, _)› ?_)

theorem kept_tileRetry {m : Nat} {r : State} (s : State) (g : Nat) (hm : Sub 290477348600 m) (hk : Kept m r s) : Kept m r (@tileRetry s g)
    := by
  unfold tileRetry; try dsimp only
  repeat' first | exact hm.of (by decide) | with_reducible first | assumption | apply kept_tileTry | split

theorem kept_execTcLoad {m : Nat} {r : State} (p : Site) (va : W64) (lg : BitVec 2) (signed : Bool) (rd : Fin 32) (fetch : Bool) (find :
    EccFind) (s : State) (hm : Sub 290477348600 m) (hk : Kept m r s) : ResKept m r (@execTcLoad p va lg signed rd fetch find s) := by
  unfold execTcLoad; try dsimp only
  repeat' first | exact hm.of (by decide) | with_reducible first | assumption | apply kept_settleAll | apply kept_tileTry
                                                                 | refine ResKept.next ?_ | refine ResKept.refused _ | split

theorem kept_execTcStore {m : Nat} {r : State} (p : Site) (va : W64) (lg : BitVec 2) (value : W64) (s : State) (hm : Sub 290477348600 m)
    (hk : Kept m r s) : ResKept m r (@execTcStore p va lg value s) := by
  unfold execTcStore; try dsimp only
  repeat' first | exact hm.of (by decide) | with_reducible first | assumption | apply kept_settleAll | apply kept_tileTry
                                                                 | refine ResKept.next ?_ | refine ResKept.refused _ | split

theorem kept_execTcAmo {m : Nat} {r : State} (p : Site) (va : W64) (wide : Bool) (op : AmoOp) (value : W64) (rd : Fin 32) (order : AmoOrder)
    (find : EccFind) (s : State) (hm : Sub 290477348600 m) (hk : Kept m r s) : ResKept m r (@execTcAmo p va wide op value rd order
    find s) := by
  unfold execTcAmo; try dsimp only
  repeat' first | exact hm.of (by decide) | with_reducible first | assumption | apply kept_State_modGr | apply kept_settleAll
                                                                 | apply kept_tileTry | refine ResKept.next ?_ | refine ResKept.refused _
                                                                 | refine ResKept.fault _ | split

theorem kept_execTileControllerCsrWrite {m : Nat} {r : State} (p : Site) (i : CsrInsn) (value : W64) (s : State) (hm : Sub 281874797304 m) (hk : Kept m r s) : ResKept m r (@execTileControllerCsrWrite p i value s) := by
  unfold execTileControllerCsrWrite; try dsimp only
  repeat' first | exact hm.of (by decide) | with_reducible first | assumption | apply kept_State_setGr | apply kept_haltAt
                                                                 | refine ResKept.next ?_ | refine ResKept.refused _ | split

theorem kept_fenceDone {m : Nat} {r : State} (s : State) (g : Nat) (read : Bool) (hm : Sub 512 m) (hk : Kept m r s) : Kept m r (@fenceDone
    s g read) := by
  unfold fenceDone; try dsimp only
  repeat' first | exact hm.of (by decide) | with_reducible first | assumption | apply kept_State_modGr

theorem kept_execFence {m : Nat} {r : State} (who : Actor) (pred : BitVec 4) (succ : BitVec 4) (s : State) (hm : Sub 281874798328 m) (hk :
    Kept m r s) : ResKept m r (@execFence who pred succ s) := by
  unfold execFence; try dsimp only
  repeat' first | exact hm.of (by decide) | with_reducible first | assumption | apply kept_State_setGr | apply kept_State_setHt
                                                                 | apply kept_afterDrain | apply kept_fenceDone | apply kept_hartDrained
                                                                 | apply kept_stallAt | refine ResKept.next ?_ | refine ResKept.refused _
                                                                 | split

theorem kept_tileSbMoved {m : Nat} {r : State} (s : State) (g : Nat) (hm : Sub 290477348600 m) (hk : Kept m r s) : Kept m r (@tileSbMoved
    s g) := by
  unfold tileSbMoved; try dsimp only
  repeat' first | exact hm.of (by decide) | with_reducible first | assumption | apply kept_afterDrain | apply kept_fenceDone
                                                                 | apply kept_settleHalt | apply kept_tileRetry | split

theorem kept_sbMoved {m : Nat} {r : State} (s : State) (w : Holder) (hm : Sub 290477348600 m) (hk : Kept m r s) : Kept m r (@sbMoved s w)
    := by
  unfold sbMoved; try dsimp only
  repeat' first | exact hm.of (by decide) | with_reducible first | assumption | apply kept_hartDrained | apply kept_pumpSb
                                                                 | apply kept_tileSbMoved | split

theorem kept_headLost {m : Nat} {r : State} (s : State) (w : Holder) (hm : Sub 290477348600 m) (hk : Kept m r s) : Kept m r (@headLost s
    w) := by
  unfold headLost; try dsimp only
  repeat' first | exact hm.of (by decide) | with_reducible first | assumption | apply kept_sbMoved | apply kept_setLost | apply kept_setSb
                                                                 | split

theorem kept_storeLost {m : Nat} {r : State} (s : State) (w : Holder) (id : Nat) (hm : Sub 290477348600 m) (hk : Kept m r s) : Kept m r
    (@storeLost s w id) := by
  unfold storeLost; try dsimp only
  repeat' first | exact hm.of (by decide) | with_reducible first | assumption | apply kept_dropReq | apply kept_sbMoved | apply kept_setSb

theorem kept_storeAcked {m : Nat} {r : State} (s : State) (w : Holder) (id : Nat) (hm : Sub 290477348600 m) (hk : Kept m r s) : Kept m r
    (@storeAcked s w id) := by
  unfold storeAcked; try dsimp only
  repeat' first | exact hm.of (by decide) | with_reducible first | assumption | apply kept_dropReq | apply kept_rbDrop
                                                                 | apply kept_sbMoved | apply kept_setSb | split | apply kept_foldl
                                                                 | apply kept_foldl_snd | apply kept_foldl_fst | intro _

theorem kept_storeFailedLate {m : Nat} {r : State} (s : State) (g : Nat) (e : SbEnt) (a3 : Resp) (hm : Sub 281874830072 m) (hk : Kept m r
    s) : Kept m r (@storeFailedLate s g e a3) := by
  unfold storeFailedLate; try dsimp only
  repeat' first | exact hm.of (by decide) | with_reducible first | assumption | apply kept_haltLate

theorem kept_tileStoreTry {m : Nat} {r : State} (s : State) (g : GrateNo) (hm : Sub 290477348600 m) (hk : Kept m r s) : Kept m r
    (@tileStoreTry s g) := by
  unfold tileStoreTry; try dsimp only
  repeat' first | exact hm.of (by decide) | with_reducible first | assumption | apply kept_headLost | apply kept_hostPosted
                                                                 | apply kept_physWrite | apply kept_rbDrop | apply kept_sbMoved
                                                                 | apply kept_setSb | apply kept_storeFailedLate | split
                                                                 | (refine kept_pair ‹_ = (_, _)› ?_)

theorem kept_execStorePerformed {m : Nat} {r : State} (who : Holder) (s : State) (hm : Sub 290477348600 m) (hk : Kept m r s) : ResKept m r
    (@execStorePerformed who s) := by
  unfold execStorePerformed; try dsimp only
  repeat' first | exact hm.of (by decide) | with_reducible first | assumption | apply kept_coreStoreTry | apply kept_settleAll
                                                                 | apply kept_storeAcked | apply kept_tileStoreTry
                                                                 | refine ResKept.next ?_ | refine ResKept.refused _ | split

theorem kept_execStoreErrorResponse {m : Nat} {r : State} (who : Holder) (s : State) (hm : Sub 290477348600 m) (hk : Kept m r s) : ResKept
    m r (@execStoreErrorResponse who s) := by
  unfold execStoreErrorResponse; try dsimp only
  repeat' first | exact hm.of (by decide) | with_reducible first | assumption | apply kept_headLost | apply kept_settleAll
                                                                 | apply kept_storeLost | refine ResKept.next ?_
                                                                 | refine ResKept.refused _ | split

theorem kept_execStoreResponseTimeout {m : Nat} {r : State} (who : Holder) (s : State) (hm : Sub 290477348600 m) (hk : Kept m r s) :
    ResKept m r (@execStoreResponseTimeout who s) := by
  unfold execStoreResponseTimeout; try dsimp only
  repeat' first | exact hm.of (by decide) | with_reducible first | assumption | apply kept_settleAll | apply kept_storeLost
                                                                 | refine ResKept.next ?_ | refine ResKept.refused _ | split

end Sys2Proof
end

