-- ==== Sys2Proof/Laws/KeptEngine.lean ====
section
/-! SUPPORT. What the definitions of Machine/Engine.lean leave of the state as it was. -/

namespace Sys2Proof

open Sys2Proof.Machine

set_option linter.unusedVariables false

theorem kept_AR_note {m : Nat} {r : State} {a0 : Type} (x : AR a0) (f : Job → Job) (hm : Sub 0 m) (h_x : ARKept m r (x)) : ARKept m r
    (@AR.note a0 x f) := by
  unfold AR.note; try dsimp only
  repeat' first | exact h_x | with_reducible first | assumption | apply h_x | refine arKept_ok _ _ ?_ | refine arKept_stall _ ?_
                                                   | refine arKept_fail _ _ ?_ | split | (refine kept_ok ‹_ = AR.ok _ _ _› ?_)
                                                   | (refine kept_stall ‹_ = AR.stall _ _› ?_) | (refine kept_fail ‹_ = AR.fail _ _ _› ?_)
                                                   | intro _

theorem kept_engineFail {m : Nat} {r : State} {a0 : Type} (s : State) (k : Nat) (j : Job) (a4 : Resp) (acc : Acc3) (va : Nat) (pa : Nat)
    (hm : Sub 281874797304 m) (hk : Kept m r s) : ARKept m r (@engineFail a0 s k j a4 acc va pa) := by
  unfold engineFail; try dsimp only
  repeat' first | exact hm.of (by decide) | with_reducible first | assumption | apply kept_respFault | refine arKept_ok _ _ ?_
                                                                 | refine arKept_stall _ ?_ | refine arKept_fail _ _ ?_

theorem kept_engineLost {m : Nat} {r : State} {a0 : Type} (s : State) (k : Nat) (j : Job) (status : Nat) (tt : Nat) (tgt : Nat) (va : Nat)
    (pa : Nat) (hm : Sub 281874797304 m) (hk : Kept m r s) : ARKept m r (@engineLost a0 s k j status tt tgt va pa) := by
  unfold engineLost; try dsimp only
  repeat' first | exact hm.of (by decide) | with_reducible first | assumption | apply kept_postLost | refine arKept_ok _ _ ?_
                                                                 | refine arKept_stall _ ?_ | refine arKept_fail _ _ ?_

theorem kept_jobTrans {m : Nat} {r : State} (s : State) (k : Nat) (j : Job) (va : Nat) (acc : Acc3) (hm : Sub 281874830072 m) (hk : Kept m
    r s) : ARKept m r (@jobTrans s k j va acc) := by
  unfold jobTrans; try dsimp only
  repeat' first | exact hm.of (by decide) | with_reducible first | assumption | apply kept_xlate | refine arKept_ok _ _ ?_
                                                                 | refine arKept_stall _ ?_ | refine arKept_fail _ _ ?_ | split
                                                                 | (refine kept_pair ‹_ = (_, _)› ?_)

theorem kept_transChunks {m : Nat} {r : State} (k : Nat) (acc : Acc3) (a2 : List (Nat × Nat)) (a3 : State) (a4 : Job) (hm : Sub
    281874830072 m) (hk : Kept m r a3) : ARKept m r (@transChunks k acc a2 a3 a4) := by
  induction a2 generalizing k acc a3 a4 with
  | nil =>
    unfold transChunks; try dsimp only
    repeat' first | exact hm.of (by decide) | with_reducible first | assumption | apply kept_jobTrans | apply arKept_bind
                                                                   | refine arKept_ok _ _ ?_ | refine arKept_stall _ ?_
                                                                   | refine arKept_fail _ _ ?_ | split
                                                                   | (refine kept_ok ‹_ = AR.ok _ _ _› ?_)
                                                                   | (refine kept_stall ‹_ = AR.stall _ _› ?_)
                                                                   | (refine kept_fail ‹_ = AR.fail _ _ _› ?_) | intro _
  | cons e l ih =>
    unfold transChunks; try dsimp only
    repeat' first | exact hm.of (by decide) | with_reducible first | assumption | apply ih | apply kept_jobTrans | apply arKept_bind
                                                                   | refine arKept_ok _ _ ?_ | refine arKept_stall _ ?_
                                                                   | refine arKept_fail _ _ ?_ | split
                                                                   | (refine kept_ok ‹_ = AR.ok _ _ _› ?_)
                                                                   | (refine kept_stall ‹_ = AR.stall _ _› ?_)
                                                                   | (refine kept_fail ‹_ = AR.fail _ _ _› ?_) | intro _

theorem kept_localRead {m : Nat} {r : State} (s : State) (k : Nat) (acc : Acc3) (j : Job) (pa : Nat) (n : Nat) (hm : Sub 279709745864 m)
    (hk : Kept m r s) : Kept m r (@localRead s k acc j pa n).2.2.1 := by
  unfold localRead; try dsimp only
  repeat' first | exact hm.of (by decide) | with_reducible first | assumption | apply kept_physRead | apply kept_takeFree | split
                                                                 | (refine kept_triple ‹_ = (_, _, _)› ?_)
                                                                 | (refine kept_pair ‹_ = (_, _)› ?_)

theorem kept_readChunks {m : Nat} {r : State} (k : Nat) (acc : Acc3) (a2 : List (Nat × Nat)) (a3 : State) (a4 : Job) (a5 : Bool) (hm : Sub
    290477347576 m) (hk : Kept m r a3) : ARKept m r (@readChunks k acc a2 a3 a4 a5) := by
  induction a2 generalizing k acc a3 a4 a5 with
  | nil =>
    unfold readChunks; try dsimp only
    repeat' first | exact hm.of (by decide) | with_reducible first | assumption | apply kept_askHostRead | apply kept_askRemote
                                                                   | apply kept_engineFail | apply kept_jobTrans | apply kept_localRead
                                                                   | apply arKept_bind | refine arKept_ok _ _ ?_
                                                                   | refine arKept_stall _ ?_ | refine arKept_fail _ _ ?_
                                                                   | refine OptPairKept.some _ ?_ | refine OptPairKept.none | split
                                                                   | (refine kept_quad ‹_ = (_, _, _, _)› ?_)
                                                                   | (refine kept_pair ‹_ = (_, _)› ?_)
                                                                   | (refine kept_ok ‹_ = AR.ok _ _ _› ?_)
                                                                   | (refine kept_stall ‹_ = AR.stall _ _› ?_)
                                                                   | (refine kept_fail ‹_ = AR.fail _ _ _› ?_)
                                                                   | (refine kept_some_pair ‹_ = some (_, _)› ?_) | intro _
  | cons e l ih =>
    unfold readChunks; try dsimp only
    repeat' first | exact hm.of (by decide) | with_reducible first | assumption | apply ih | apply kept_askHostRead | apply kept_askRemote
                                                                   | apply kept_engineFail | apply kept_jobTrans | apply kept_localRead
                                                                   | apply arKept_bind | refine arKept_ok _ _ ?_
                                                                   | refine arKept_stall _ ?_ | refine arKept_fail _ _ ?_
                                                                   | refine OptPairKept.some _ ?_ | refine OptPairKept.none | split
                                                                   | (refine kept_quad ‹_ = (_, _, _, _)› ?_)
                                                                   | (refine kept_pair ‹_ = (_, _)› ?_)
                                                                   | (refine kept_ok ‹_ = AR.ok _ _ _› ?_)
                                                                   | (refine kept_stall ‹_ = AR.stall _ _› ?_)
                                                                   | (refine kept_fail ‹_ = AR.fail _ _ _› ?_)
                                                                   | (refine kept_some_pair ‹_ = some (_, _)› ?_) | intro _

theorem kept_jobRead {m : Nat} {r : State} (s : State) (k : Nat) (j : Job) (va : Nat) (n : Nat) (hm : Sub 290477347576 m) (hk : Kept m r
    s) : ARKept m r (@jobRead s k j va n) := by
  unfold jobRead; try dsimp only
  repeat' first | exact hm.of (by decide) | with_reducible first | assumption | apply kept_readChunks | refine arKept_ok _ _ ?_
                                                                 | refine arKept_stall _ ?_ | refine arKept_fail _ _ ?_

theorem kept_checkTargets {m : Nat} {r : State} (k : Nat) (j : Job) (a2 : List (Nat × Nat × Nat)) (a3 : State) (hm : Sub 279709745664 m)
    (hk : Kept m r a3) : Kept m r (@checkTargets k j a2 a3).2 := by
  induction a2 generalizing k j a3 with
  | nil =>
    unfold checkTargets; try dsimp only
    repeat' first | exact hm.of (by decide) | with_reducible first | assumption | apply kept_chunkCheck | split
                                                                   | (refine kept_pair ‹_ = (_, _)› ?_)
  | cons e l ih =>
    unfold checkTargets; try dsimp only
    repeat' first | exact hm.of (by decide) | with_reducible first | assumption | apply ih | apply kept_chunkCheck | split
                                                                   | (refine kept_pair ‹_ = (_, _)› ?_)

theorem kept_putTarget {m : Nat} {r : State} (k : Nat) (mk : Option Bool) (s : State) (j : Job) (va : Nat) (pa : Nat) (bs : List Byte) (hm
    : Sub 11286876920 m) (hk : Kept m r s) : Kept m r (@putTarget k mk s j va pa bs).1 := by
  unfold putTarget; try dsimp only
  repeat' first | exact hm.of (by decide) | with_reducible first | assumption | apply kept_askRemote | apply kept_chunkDone
                                                                 | apply kept_hostPosted | apply kept_rawWrite
                                                                 | refine OptPairKept.some _ ?_ | refine OptPairKept.none | split
                                                                 | (refine kept_some_pair ‹_ = some (_, _)› ?_)

theorem kept_putTargets {m : Nat} {r : State} (k : Nat) (mk : Option Bool) (a2 : List (Nat × Nat × Nat)) (a3 : List Byte) (a4 : State) (a5
    : Job) (hm : Sub 11286876920 m) (hk : Kept m r a4) : Kept m r (@putTargets k mk a2 a3 a4 a5).1 := by
  induction a2 generalizing k mk a3 a4 a5 with
  | nil =>
    unfold putTargets; try dsimp only
    repeat' first | exact hm.of (by decide) | with_reducible first | assumption | apply kept_putTarget | split
                                                                   | (refine kept_pair' ‹_ = (_, _)› ?_)
  | cons e l ih =>
    unfold putTargets; try dsimp only
    repeat' first | exact hm.of (by decide) | with_reducible first | assumption | apply ih | apply kept_putTarget | split
                                                                   | (refine kept_pair' ‹_ = (_, _)› ?_)

theorem kept_putSome {m : Nat} {r : State} (k : Nat) (a1 : List (Nat × Nat × Nat)) (a2 : List Byte) (a3 : State) (a4 : Job) (hm : Sub
    279709749992 m) (hk : Kept m r a3) : Kept m r (@putSome k a1 a2 a3 a4).1 := by
  induction a1 generalizing k a2 a3 a4 with
  | nil =>
    unfold putSome; try dsimp only
    repeat' first | exact hm.of (by decide) | with_reducible first | assumption | apply kept_physWriteSome | split
                                                                   | (refine kept_pair' ‹_ = (_, _)› ?_)
                                                                   | (refine kept_pair ‹_ = (_, _)› ?_)
  | cons e l ih =>
    unfold putSome; try dsimp only
    repeat' first | exact hm.of (by decide) | with_reducible first | assumption | apply ih | apply kept_physWriteSome | split
                                                                   | (refine kept_pair' ‹_ = (_, _)› ?_)
                                                                   | (refine kept_pair ‹_ = (_, _)› ?_)

theorem kept_jobPut {m : Nat} {r : State} (s : State) (k : Nat) (j : Job) (mk : Option Bool) (partly : Bool) (ts : List (Nat × Nat × Nat))
    (bs : List Byte) (hm : Sub 290477314808 m) (hk : Kept m r s) : ARKept m r (@jobPut s k j mk partly ts bs) := by
  unfold jobPut; try dsimp only
  repeat' first | exact hm.of (by decide) | with_reducible first | assumption | apply kept_checkTargets | apply kept_engineFail
                                                                 | apply kept_engineLost | apply kept_putSome | apply kept_putTargets
                                                                 | apply kept_unitEnds | refine arKept_ok _ _ ?_
                                                                 | refine arKept_stall _ ?_ | refine arKept_fail _ _ ?_ | split
                                                                 | (refine kept_pair' ‹_ = (_, _)› ?_)
                                                                 | (refine kept_pair ‹_ = (_, _)› ?_)
                                                                 | (refine kept_ok ‹_ = AR.ok _ _ _› ?_)
                                                                 | (refine kept_stall ‹_ = AR.stall _ _› ?_)
                                                                 | (refine kept_fail ‹_ = AR.fail _ _ _› ?_)

theorem kept_jobWrite {m : Nat} {r : State} (s : State) (k : Nat) (j : Job) (va : Nat) (bs : List Byte) (partly : Bool) (hm : Sub
    290477347576 m) (hk : Kept m r s) : ARKept m r (@jobWrite s k j va bs partly) := by
  unfold jobWrite; try dsimp only
  repeat' first | exact hm.of (by decide) | with_reducible first | assumption | apply kept_jobPut | apply kept_transChunks
                                                                 | apply arKept_bind | refine arKept_ok _ _ ?_ | refine arKept_stall _ ?_
                                                                 | refine arKept_fail _ _ ?_ | intro _

theorem kept_dropJobReqs {m : Nat} {r : State} (s : State) (j : Job) (hm : Sub 4194304 m) (hk : Kept m r s) : Kept m r (@dropJobReqs s j)
    := by
  unfold dropJobReqs; try dsimp only
  repeat' with_reducible first | assumption | (refine Kept.record 4194304 ?_ rfl rfl ?_ ?_; assumption)
                               | simp +decide only [mix, cond_eq_ite, if_true, if_false]

theorem kept_askFlush {m : Nat} {r : State} (s : State) (k : Nat) (j : Job) (h : Nat) (hm : Sub 2160066576 m) (hk : Kept m r s) : Kept m r
    (@askFlush s k j h).2 := by
  unfold askFlush; try dsimp only
  repeat' first | exact hm.of (by decide) | with_reducible first | assumption | apply kept_State_emit | apply kept_State_setHost
                                                                 | (refine Kept.record 12582912 ?_ rfl rfl ?_ ?_; (first | assumption | apply kept_State_emit | apply kept_State_setHost))
                                                                 | simp +decide only [mix, cond_eq_ite, if_true, if_false] | split

theorem kept_endJob {m : Nat} {r : State} (s : State) (k : Nat) (j : Job) (e : Ending) (hm : Sub 2162196496 m) (hk : Kept m r s) : Kept m
    r (@endJob s k j e) := by
  unfold endJob; try dsimp only
  repeat' first | exact hm.of (by decide) | with_reducible first | assumption | apply kept_State_setJob | apply kept_askFlush
                                                                 | apply kept_dropJobReqs | apply kept_dropXlat | split
                                                                 | (refine kept_pair ‹_ = (_, _)› ?_) | apply kept_foldl
                                                                 | apply kept_foldl_snd | apply kept_foldl_fst | intro _

theorem kept_progOf {m : Nat} {r : State} {a0 : Type} (k : Nat) (x : AR a0) (f : a0 → State → Job → Prog) (hm : Sub 2162196496 m) (h_x :
    ARKept m r (x)) (h_f : ∀ x0 x1 x2, Kept m r x1 → ProgKept m r (f x0 x1 x2)) : ProgKept m r (@progOf a0 k x f) := by
  unfold progOf; try dsimp only
  repeat' first | exact hm.of (by decide) | exact h_x | with_reducible first | assumption | apply h_x | apply h_f
                                                                             | apply kept_State_setJob | apply kept_endJob
                                                                             | refine progKept_again _ ?_ | refine progKept_stop ?_
                                                                             | refine arKept_ok _ _ ?_ | refine arKept_stall _ ?_
                                                                             | refine arKept_fail _ _ ?_ | split
                                                                             | (refine kept_ok ‹_ = AR.ok _ _ _› ?_)
                                                                             | (refine kept_stall ‹_ = AR.stall _ _› ?_)
                                                                             | (refine kept_fail ‹_ = AR.fail _ _ _› ?_)
                                                                             | (refine kept_again ‹_ = Prog.again _ _› ?_)
                                                                             | (refine kept_stop ‹_ = Prog.stop _› ?_) | intro _

theorem kept_pieceSent {m : Nat} {r : State} (k : Nat) (n : Nat) (s : State) (j : Job) (hm : Sub 2097152 m) (hk : Kept m r s) : ProgKept m
    r (@pieceSent k n s j) := by
  unfold pieceSent; try dsimp only
  repeat' first | exact hm.of (by decide) | with_reducible first | assumption | apply kept_State_setJob | refine progKept_again _ ?_
                                                                 | refine progKept_stop ?_ | split

theorem kept_runSteps {m : Nat} {r : State} (step : State → Job → Prog) (k : Nat) (a2 : Nat) (a3 : State) (a4 : Job) (hm : Sub 2097152 m)
    (h_step : ∀ x0 x1, Kept m r x0 → ProgKept m r (step x0 x1)) (hk : Kept m r a3) : Kept m r (@runSteps step k a2 a3 a4) := by
  induction a2 generalizing step k a3 a4 with
  | zero =>
    unfold runSteps; try dsimp only
    repeat' first | exact hm.of (by decide) | with_reducible first | assumption | apply h_step | apply kept_State_setJob
                                                                   | refine progKept_again _ ?_ | refine progKept_stop ?_ | split
                                                                   | (refine kept_again ‹_ = Prog.again _ _› ?_)
                                                                   | (refine kept_stop ‹_ = Prog.stop _› ?_) | intro _
  | succ l ih =>
    unfold runSteps; try dsimp only
    repeat' first | exact hm.of (by decide) | with_reducible first | assumption | apply ih | apply h_step | apply kept_State_setJob
                                                                   | refine progKept_again _ ?_ | refine progKept_stop ?_ | split
                                                                   | (refine kept_again ‹_ = Prog.again _ _› ?_)
                                                                   | (refine kept_stop ‹_ = Prog.stop _› ?_) | intro _

theorem kept_stallRing {m : Nat} {r : State} (s : State) (rn : Nat) (hm : Sub 524288 m) (hk : Kept m r s) : Kept m r (@stallRing s rn) :=
    by
  unfold stallRing; try dsimp only
  repeat' first | exact hm.of (by decide) | with_reducible first | assumption | apply kept_State_setRq

theorem kept_faultRing {m : Nat} {r : State} (s : State) (rn : Nat) (hm : Sub 524288 m) (hk : Kept m r s) : Kept m r (@faultRing s rn) :=
    by
  unfold faultRing; try dsimp only
  repeat' first | exact hm.of (by decide) | with_reducible first | assumption | apply kept_State_setRq

theorem kept_dispatchKind {m : Nat} {r : State} (s : State) (rn : Nat) (va : Nat) (acc : Acc3) (hm : Sub 281874830072 m) (hk : Kept m r s)
    : DispKept m r (@dispatchKind s rn va acc) := by
  unfold dispatchKind; try dsimp only
  repeat' first | exact hm.of (by decide) | with_reducible first | assumption | apply kept_faultRing | apply kept_stallRing
                                                                 | apply kept_xlate | refine dispKept_kind _ ?_ | refine dispKept_stall ?_
                                                                 | refine dispKept_refused ?_ | split | (refine kept_pair ‹_ = (_, _)› ?_)

theorem kept_startJob {m : Nat} {r : State} (s : State) (rn : Nat) (d : Desc) (kind : Nat) (run : State → Nat → Job → State) (hm : Sub
    281874797304 m) (hk : Kept m r s) (h_run : ∀ x0 x1 x2, Kept m r x0 → Kept m r (run x0 x1 x2)) : ResKept m r (@startJob s rn d kind
    run) := by
  unfold startJob; try dsimp only
  repeat' first | exact hm.of (by decide) | with_reducible first | assumption | apply h_run | apply kept_settleAll | apply kept_takeStart
                                                                 | refine ResKept.next ?_ | split | intro _

theorem kept_setServed {m : Nat} {r : State} (s : State) (die : Nat) (kind : Nat) (rn : Nat) (hm : Sub 1099511627776 m) (hk : Kept m r s)
    : Kept m r (@setServed s die kind rn) := by
  unfold setServed; try dsimp only
  repeat' with_reducible first | assumption | (refine Kept.record 1099511627776 ?_ rfl rfl ?_ ?_; assumption)
                               | simp +decide only [mix, cond_eq_ite, if_true, if_false]

theorem kept_startCopyOp {m : Nat} {r : State} (s : State) (rn : Nat) (op : Nat) (run : State → Nat → Job → State) (hm : Sub 1381386457848
    m) (hk : Kept m r s) (h_run : ∀ x0 x1 x2, Kept m r x0 → Kept m r (run x0 x1 x2)) : ResKept m r (@startCopyOp s rn op run) := by
  unfold startCopyOp; try dsimp only
  repeat' first | exact hm.of (by decide) | with_reducible first | assumption | apply h_run | apply kept_dispatchKind
                                                                 | apply kept_endAtStart | apply kept_setServed | apply kept_startJob
                                                                 | refine ResKept.next ?_ | refine ResKept.refused _
                                                                 | refine dispKept_kind _ ?_ | refine dispKept_stall ?_
                                                                 | refine dispKept_refused ?_ | split
                                                                 | (refine kept_kind ‹_ = Dispatch.kind _ _› ?_)
                                                                 | (refine kept_stallDisp ‹_ = Dispatch.stall _› ?_)
                                                                 | (refine kept_refusedDisp ‹_ = Dispatch.refused _› ?_)
                                                                 | (refine kept_next ‹_ = Host.Outcome.next _› ?_) | intro _

end Sys2Proof
end

