-- ==== Sys2Proof/Laws/KeptCopyOps.lean ====
section
/-! SUPPORT. What the definitions of Machine/CopyOps.lean leave of the state as it was. -/

namespace Sys2Proof

open Sys2Proof.Machine

set_option linter.unusedVariables false

theorem kept_overlapped {m : Nat} {r : State} (s : State) (k : Nat) (j : Job) (src : Nat) (off : Nat) (bs : List Byte) (hm : Sub
    281874830072 m) (hk : Kept m r s) : ARKept m r (@overlapped s k j src off bs) := by
  unfold overlapped; try dsimp only
  repeat' first | exact hm.of (by decide) | with_reducible first | assumption | apply kept_takeFree | apply kept_transChunks
                                                                 | apply arKept_bind | refine arKept_ok _ _ ?_ | refine arKept_stall _ ?_
                                                                 | refine arKept_fail _ _ ?_ | split | (refine kept_pair ‹_ = (_, _)› ?_)
                                                                 | (refine kept_ok ‹_ = AR.ok _ _ _› ?_)
                                                                 | (refine kept_stall ‹_ = AR.stall _ _› ?_)
                                                                 | (refine kept_fail ‹_ = AR.fail _ _ _› ?_) | intro _

theorem kept_mergeScan {m : Nat} {r : State} (k : Nat) (a1 : List (Nat × Nat)) (a2 : State) (a3 : Job) (hm : Sub 281874830072 m) (hk :
    Kept m r a2) : ARKept m r (@mergeScan k a1 a2 a3) := by
  induction a1 generalizing k a2 a3 with
  | nil =>
    unfold mergeScan; try dsimp only
    repeat' first | exact hm.of (by decide) | with_reducible first | assumption | apply kept_jobTrans | apply arKept_bind
                                                                   | refine arKept_ok _ _ ?_ | refine arKept_stall _ ?_
                                                                   | refine arKept_fail _ _ ?_ | split
                                                                   | (refine kept_ok ‹_ = AR.ok _ _ _› ?_)
                                                                   | (refine kept_stall ‹_ = AR.stall _ _› ?_)
                                                                   | (refine kept_fail ‹_ = AR.fail _ _ _› ?_) | intro _
  | cons e l ih =>
    unfold mergeScan; try dsimp only
    repeat' first | exact hm.of (by decide) | with_reducible first | assumption | apply ih | apply kept_jobTrans | apply arKept_bind
                                                                   | refine arKept_ok _ _ ?_ | refine arKept_stall _ ?_
                                                                   | refine arKept_fail _ _ ?_ | split
                                                                   | (refine kept_ok ‹_ = AR.ok _ _ _› ?_)
                                                                   | (refine kept_stall ‹_ = AR.stall _ _› ?_)
                                                                   | (refine kept_fail ‹_ = AR.fail _ _ _› ?_) | intro _

theorem kept_mergeCheck {m : Nat} {r : State} (s : State) (k : Nat) (j : Job) (hm : Sub 281874830072 m) (hk : Kept m r s) : ARKept m r
    (@mergeCheck s k j) := by
  unfold mergeCheck; try dsimp only
  repeat' first | exact hm.of (by decide) | with_reducible first | assumption | apply kept_mergeScan | refine arKept_ok _ _ ?_
                                                                 | refine arKept_stall _ ?_ | refine arKept_fail _ _ ?_ | split
                                                                 | (refine kept_ok ‹_ = AR.ok _ _ _› ?_)
                                                                 | (refine kept_stall ‹_ = AR.stall _ _› ?_)
                                                                 | (refine kept_fail ‹_ = AR.fail _ _ _› ?_)

theorem kept_copyStep {m : Nat} {r : State} (k : Nat) (s : State) (j : Job) (hm : Sub 290479444728 m) (hk : Kept m r s) : ProgKept m r
    (@copyStep k s j) := by
  unfold copyStep; try dsimp only
  repeat' first | exact hm.of (by decide) | with_reducible first | assumption | apply kept_endJob | apply kept_jobPut | apply kept_jobRead
                                                                 | apply kept_mergeCheck | apply kept_overlapped | apply kept_pieceSent
                                                                 | apply kept_progOf | apply kept_transChunks | apply arKept_bind
                                                                 | refine progKept_again _ ?_ | refine progKept_stop ?_
                                                                 | refine arKept_ok _ _ ?_ | refine arKept_stall _ ?_
                                                                 | refine arKept_fail _ _ ?_ | split
                                                                 | (refine kept_ok ‹_ = AR.ok _ _ _› ?_)
                                                                 | (refine kept_stall ‹_ = AR.stall _ _› ?_)
                                                                 | (refine kept_fail ‹_ = AR.fail _ _ _› ?_)
                                                                 | (refine kept_again ‹_ = Prog.again _ _› ?_)
                                                                 | (refine kept_stop ‹_ = Prog.stop _› ?_) | intro _

theorem kept_copyRun {m : Nat} {r : State} (s : State) (k : Nat) (j : Job) (hm : Sub 290479444728 m) (hk : Kept m r s) : Kept m r
    (@copyRun s k j) := by
  unfold copyRun; try dsimp only
  repeat' first | exact hm.of (by decide) | with_reducible first | assumption | apply kept_copyStep | apply kept_runSteps
                                                                 | refine progKept_again _ ?_ | refine progKept_stop ?_ | intro _

theorem kept_execCopy {m : Nat} {r : State} (a0 : RingNo) (s : State) (hm : Sub 1389991072504 m) (hk : Kept m r s) : ResKept m r
    (@execCopy a0 s) := by
  unfold execCopy; try dsimp only
  repeat' first | exact hm.of (by decide) | with_reducible first | assumption | apply kept_copyRun | apply kept_startCopyOp | intro _

theorem kept_inlineStep {m : Nat} {r : State} (k : Nat) (s : State) (j : Job) (hm : Sub 290479444728 m) (hk : Kept m r s) : ProgKept m r
    (@inlineStep k s j) := by
  unfold inlineStep; try dsimp only
  repeat' first | exact hm.of (by decide) | with_reducible first | assumption | apply kept_endJob | apply kept_jobWrite
                                                                 | apply kept_pieceSent | apply kept_progOf | refine progKept_again _ ?_
                                                                 | refine progKept_stop ?_ | refine arKept_ok _ _ ?_
                                                                 | refine arKept_stall _ ?_ | refine arKept_fail _ _ ?_ | split
                                                                 | (refine kept_ok ‹_ = AR.ok _ _ _› ?_)
                                                                 | (refine kept_stall ‹_ = AR.stall _ _› ?_)
                                                                 | (refine kept_fail ‹_ = AR.fail _ _ _› ?_)
                                                                 | (refine kept_again ‹_ = Prog.again _ _› ?_)
                                                                 | (refine kept_stop ‹_ = Prog.stop _› ?_) | intro _

theorem kept_inlineRun {m : Nat} {r : State} (s : State) (k : Nat) (j : Job) (hm : Sub 290479444728 m) (hk : Kept m r s) : Kept m r
    (@inlineRun s k j) := by
  unfold inlineRun; try dsimp only
  repeat' first | exact hm.of (by decide) | with_reducible first | assumption | apply kept_inlineStep | apply kept_runSteps
                                                                 | refine progKept_again _ ?_ | refine progKept_stop ?_ | intro _

theorem kept_execInlineOp {m : Nat} {r : State} (a0 : RingNo) (s : State) (hm : Sub 1389991072504 m) (hk : Kept m r s) : ResKept m r
    (@execInlineOp a0 s) := by
  unfold execInlineOp; try dsimp only
  repeat' first | exact hm.of (by decide) | with_reducible first | assumption | apply kept_inlineRun | apply kept_startCopyOp | intro _

theorem kept_atomicDo {m : Nat} {r : State} (s : State) (k : Nat) (j : Job) (pa : Nat) (hm : Sub 290477314808 m) (hk : Kept m r s) :
    ARKept m r (@atomicDo s k j pa) := by
  unfold atomicDo; try dsimp only
  repeat' first | exact hm.of (by decide) | with_reducible first | assumption | apply kept_askRemote | apply kept_engineFail
                                                                 | apply kept_physAtomic | refine arKept_ok _ _ ?_
                                                                 | refine arKept_stall _ ?_ | refine arKept_fail _ _ ?_
                                                                 | refine OptPairKept.some _ ?_ | refine OptPairKept.none | split
                                                                 | (refine kept_triple ‹_ = (_, _, _)› ?_)
                                                                 | (refine kept_ok ‹_ = AR.ok _ _ _› ?_)
                                                                 | (refine kept_stall ‹_ = AR.stall _ _› ?_)
                                                                 | (refine kept_fail ‹_ = AR.fail _ _ _› ?_)
                                                                 | (refine kept_some_pair ‹_ = some (_, _)› ?_)

theorem kept_atomicLate {m : Nat} {r : State} (k : Nat) (x : AR Unit) (f : State → Job → Prog) (hm : Sub 2162196496 m) (h_x : ARKept m r
    (x)) (h_f : ∀ x0 x1, Kept m r x0 → ProgKept m r (f x0 x1)) : ProgKept m r (@atomicLate k x f) := by
  unfold atomicLate; try dsimp only
  repeat' first | exact hm.of (by decide) | exact h_x | with_reducible first | assumption | apply h_x | apply h_f
                                                                             | apply kept_State_setJob | apply kept_endJob
                                                                             | refine progKept_again _ ?_ | refine progKept_stop ?_
                                                                             | refine arKept_ok _ _ ?_ | refine arKept_stall _ ?_
                                                                             | refine arKept_fail _ _ ?_ | split
                                                                             | (refine kept_ok ‹_ = AR.ok _ _ _› ?_)
                                                                             | (refine kept_stall ‹_ = AR.stall _ _› ?_)
                                                                             | (refine kept_fail ‹_ = AR.fail _ _ _› ?_)
                                                                             | (refine kept_again ‹_ = Prog.again _ _› ?_)
                                                                             | (refine kept_stop ‹_ = Prog.stop _› ?_) | intro _

theorem kept_atomicStep {m : Nat} {r : State} (k : Nat) (s : State) (j : Job) (hm : Sub 290479444728 m) (hk : Kept m r s) : ProgKept m r
    (@atomicStep k s j) := by
  unfold atomicStep; try dsimp only
  repeat' first | exact hm.of (by decide) | with_reducible first | assumption | apply kept_State_setJob | apply kept_atomicDo
                                                                 | apply kept_atomicLate | apply kept_endJob | apply kept_jobTrans
                                                                 | apply kept_jobWrite | apply kept_progOf | apply arKept_bind
                                                                 | refine progKept_again _ ?_ | refine progKept_stop ?_
                                                                 | refine arKept_ok _ _ ?_ | refine arKept_stall _ ?_
                                                                 | refine arKept_fail _ _ ?_ | split
                                                                 | (refine kept_ok ‹_ = AR.ok _ _ _› ?_)
                                                                 | (refine kept_stall ‹_ = AR.stall _ _› ?_)
                                                                 | (refine kept_fail ‹_ = AR.fail _ _ _› ?_)
                                                                 | (refine kept_again ‹_ = Prog.again _ _› ?_)
                                                                 | (refine kept_stop ‹_ = Prog.stop _› ?_) | intro _

theorem kept_atomicRun {m : Nat} {r : State} (s : State) (k : Nat) (j : Job) (hm : Sub 290479444728 m) (hk : Kept m r s) : Kept m r
    (@atomicRun s k j) := by
  unfold atomicRun; try dsimp only
  repeat' first | exact hm.of (by decide) | with_reducible first | assumption | apply kept_atomicStep | apply kept_runSteps
                                                                 | refine progKept_again _ ?_ | refine progKept_stop ?_ | intro _

theorem kept_execAtomic {m : Nat} {r : State} (a0 : RingNo) (s : State) (hm : Sub 1389991072504 m) (hk : Kept m r s) : ResKept m r
    (@execAtomic a0 s) := by
  unfold execAtomic; try dsimp only
  repeat' first | exact hm.of (by decide) | with_reducible first | assumption | apply kept_atomicRun | apply kept_startCopyOp | intro _

end Sys2Proof
end

