-- ==== Sys2Proof/Laws/KeptDev.lean ====
section
/-! SUPPORT. What the definitions of Machine/Dev.lean leave of the state as it was. -/

namespace Sys2Proof

open Sys2Proof.Machine

set_option linter.unusedVariables false

theorem kept_devFail {m : Nat} {r : State} (s : State) (who : DevAgent) (va : W64) (pa : Nat) (write : Bool) (code : Nat) (hm : Sub
    281874798328 m) (hk : Kept m r s) : Kept m r (@devFail s who va pa write code) := by
  unfold devFail; try dsimp only
  repeat' first | exact hm.of (by decide) | with_reducible first | assumption | apply kept_State_logE | apply kept_coreFail
                                                                 | apply kept_tileFail | split

theorem kept_devRefused {m : Nat} {r : State} (s : State) (who : DevAgent) (off : Nat) (hm : Sub 281874798328 m) (hk : Kept m r s) : Kept
    m r (@devRefused s who off) := by
  unfold devRefused; try dsimp only
  repeat' first | exact hm.of (by decide) | with_reducible first | assumption | apply kept_devFail | apply kept_takeFree | split
                                                                 | (refine kept_pair ‹_ = (_, _)› ?_)

theorem kept_devCommand {m : Nat} {r : State} (who : DevAgent) (s : State) (run : State) (hm : Sub 281874798328 m) (hk : Kept m r s) (hk1
    : Kept m r run) : ResKept m r (@devCommand who s run) := by
  unfold devCommand; try dsimp only
  repeat' first | exact hm.of (by decide) | with_reducible first | assumption | apply kept_deliverLost | apply kept_haltAt
                                                                 | apply kept_settleAll | refine ResKept.next ?_
                                                                 | refine ResKept.refused _ | split

end Sys2Proof
end

