-- ==== Sys2Proof/Laws/KeptReduce.lean ====
section
/-! SUPPORT. What the definitions of Machine/Reduce.lean leave of the state as it was. -/

namespace Sys2Proof

open Sys2Proof.Machine

set_option linter.unusedVariables false

theorem kept_engineInteg {m : Nat} {r : State} (s : State) (k : Nat) (j : Job) (e : IntegErr) (va : Nat) (pa : Nat) (hm : Sub 281874797304
    m) (hk : Kept m r s) : Kept m r (@engineInteg s k j e va pa) := by
  unfold engineInteg; try dsimp only
  repeat' first | exact hm.of (by decide) | with_reducible first | assumption | apply kept_fault

theorem kept_mergeNorm {m : Nat} {r : State} (s : State) (k : Nat) (j : Job) (va : Nat) (part : Norm) (hm : Sub 290477347576 m) (hk : Kept
    m r s) : ARKept m r (@mergeNorm s k j va part) := by
  unfold mergeNorm; try dsimp only
  repeat' first | exact hm.of (by decide) | with_reducible first | assumption | apply kept_engineInteg | apply kept_jobRead
                                                                 | apply kept_jobWrite | apply arKept_bind | refine arKept_ok _ _ ?_
                                                                 | refine arKept_stall _ ?_ | refine arKept_fail _ _ ?_ | split
                                                                 | (refine kept_ok ‹_ = AR.ok _ _ _› ?_)
                                                                 | (refine kept_stall ‹_ = AR.stall _ _› ?_)
                                                                 | (refine kept_fail ‹_ = AR.fail _ _ _› ?_) | intro _

theorem kept_facHead {m : Nat} {r : State} (s : State) (k : Nat) (j : Job) (fa : Nat) (hm : Sub 290477347576 m) (hk : Kept m r s) : ARKept
    m r (@facHead s k j fa) := by
  unfold facHead; try dsimp only
  repeat' first | exact hm.of (by decide) | with_reducible first | assumption | apply kept_jobRead | apply arKept_bind
                                                                 | refine arKept_ok _ _ ?_ | refine arKept_stall _ ?_
                                                                 | refine arKept_fail _ _ ?_ | intro _

theorem kept_mergePart {m : Nat} {r : State} (s : State) (k : Nat) (j : Job) (na : Nat) (fa : Nat) (t : TapPart) (hm : Sub 290477347576 m)
    (hk : Kept m r s) : ARKept m r (@mergePart s k j na fa t) := by
  unfold mergePart; try dsimp only
  repeat' first | exact hm.of (by decide) | with_reducible first | assumption | apply kept_facHead | apply kept_mergeNorm
                                                                 | apply arKept_bind | refine arKept_ok _ _ ?_ | refine arKept_stall _ ?_
                                                                 | refine arKept_fail _ _ ?_ | split
                                                                 | (refine kept_ok ‹_ = AR.ok _ _ _› ?_)
                                                                 | (refine kept_stall ‹_ = AR.stall _ _› ?_)
                                                                 | (refine kept_fail ‹_ = AR.fail _ _ _› ?_) | intro _

theorem kept_mergeStep {m : Nat} {r : State} (k : Nat) (u : Nat) (s : State) (j : Job) (na : Nat) (fa : Nat) (t : TapPart) (failed : Job →
    Nat → Job) (hm : Sub 290479444728 m) (hk : Kept m r s) : ProgKept m r (@mergeStep k u s j na fa t failed) := by
  unfold mergeStep; try dsimp only
  repeat' first | exact hm.of (by decide) | with_reducible first | assumption | apply kept_State_setJob | apply kept_dropJobReqs
                                                                 | apply kept_mergePart | refine progKept_again _ ?_
                                                                 | refine progKept_stop ?_ | refine arKept_ok _ _ ?_
                                                                 | refine arKept_stall _ ?_ | refine arKept_fail _ _ ?_ | split
                                                                 | (refine kept_ok ‹_ = AR.ok _ _ _› ?_)
                                                                 | (refine kept_stall ‹_ = AR.stall _ _› ?_)
                                                                 | (refine kept_fail ‹_ = AR.fail _ _ _› ?_)

theorem kept_readSources {m : Nat} {r : State} (k : Nat) (d : Slot) (e : Nat) (n : Nat) (a4 : Nat) (a5 : State) (a6 : Job) (hm : Sub
    290477347576 m) (hk : Kept m r a5) : ARKept m r (@readSources k d e n a4 a5 a6) := by
  induction a4 generalizing k d e n a5 a6 with
  | zero =>
    unfold readSources; try dsimp only
    repeat' first | exact hm.of (by decide) | with_reducible first | assumption | apply kept_jobRead | apply arKept_bind
                                                                   | refine arKept_ok _ _ ?_ | refine arKept_stall _ ?_
                                                                   | refine arKept_fail _ _ ?_ | split
                                                                   | (refine kept_ok ‹_ = AR.ok _ _ _› ?_)
                                                                   | (refine kept_stall ‹_ = AR.stall _ _› ?_)
                                                                   | (refine kept_fail ‹_ = AR.fail _ _ _› ?_) | intro _
  | succ l ih =>
    unfold readSources; try dsimp only
    repeat' first | exact hm.of (by decide) | with_reducible first | assumption | apply ih | apply kept_jobRead | apply arKept_bind
                                                                   | refine arKept_ok _ _ ?_ | refine arKept_stall _ ?_
                                                                   | refine arKept_fail _ _ ?_ | split
                                                                   | (refine kept_ok ‹_ = AR.ok _ _ _› ?_)
                                                                   | (refine kept_stall ‹_ = AR.stall _ _› ?_)
                                                                   | (refine kept_fail ‹_ = AR.fail _ _ _› ?_) | intro _

theorem kept_reduceProg {m : Nat} {r : State} {a0 : Type} (k : Nat) (x : AR a0) (f : a0 → State → Job → Prog) (hm : Sub 6291456 m) (h_x :
    ARKept m r (x)) (h_f : ∀ x0 x1 x2, Kept m r x1 → ProgKept m r (f x0 x1 x2)) : ProgKept m r (@reduceProg a0 k x f) := by
  unfold reduceProg; try dsimp only
  repeat' first | exact hm.of (by decide) | exact h_x | with_reducible first | assumption | apply h_x | apply h_f
                                                                             | apply kept_State_setJob | apply kept_dropJobReqs
                                                                             | refine progKept_again _ ?_ | refine progKept_stop ?_
                                                                             | refine arKept_ok _ _ ?_ | refine arKept_stall _ ?_
                                                                             | refine arKept_fail _ _ ?_ | split
                                                                             | (refine kept_ok ‹_ = AR.ok _ _ _› ?_)
                                                                             | (refine kept_stall ‹_ = AR.stall _ _› ?_)
                                                                             | (refine kept_fail ‹_ = AR.fail _ _ _› ?_)
                                                                             | (refine kept_again ‹_ = Prog.again _ _› ?_)
                                                                             | (refine kept_stop ‹_ = Prog.stop _› ?_) | intro _

theorem kept_reduceStep {m : Nat} {r : State} (k : Nat) (s : State) (j : Job) (hm : Sub 290479444728 m) (hk : Kept m r s) : ProgKept m r
    (@reduceStep k s j) := by
  unfold reduceStep; try dsimp only
  repeat' first | exact hm.of (by decide) | with_reducible first | assumption | apply kept_AR_note | apply kept_State_setJob
                                                                 | apply kept_endJob | apply kept_engineInteg | apply kept_facHead
                                                                 | apply kept_jobPut | apply kept_mergeStep | apply kept_pieceSent
                                                                 | apply kept_readSources | apply kept_reduceProg | apply kept_transChunks
                                                                 | apply arKept_bind | refine progKept_again _ ?_
                                                                 | refine progKept_stop ?_ | refine arKept_ok _ _ ?_
                                                                 | refine arKept_stall _ ?_ | refine arKept_fail _ _ ?_ | split
                                                                 | (refine kept_ok ‹_ = AR.ok _ _ _› ?_)
                                                                 | (refine kept_stall ‹_ = AR.stall _ _› ?_)
                                                                 | (refine kept_fail ‹_ = AR.fail _ _ _› ?_)
                                                                 | (refine kept_again ‹_ = Prog.again _ _› ?_)
                                                                 | (refine kept_stop ‹_ = Prog.stop _› ?_) | intro _

theorem kept_reduceRun {m : Nat} {r : State} (s : State) (k : Nat) (j : Job) (hm : Sub 290479444728 m) (hk : Kept m r s) : Kept m r
    (@reduceRun s k j) := by
  unfold reduceRun; try dsimp only
  repeat' first | exact hm.of (by decide) | with_reducible first | assumption | apply kept_reduceStep | apply kept_runSteps
                                                                 | refine progKept_again _ ?_ | refine progKept_stop ?_ | intro _

theorem kept_execReduce {m : Nat} {r : State} (a0 : RingNo) (s : State) (hm : Sub 1389991072504 m) (hk : Kept m r s) : ResKept m r
    (@execReduce a0 s) := by
  unfold execReduce; try dsimp only
  repeat' first | exact hm.of (by decide) | with_reducible first | assumption | apply kept_reduceRun | apply kept_startCopyOp | intro _

end Sys2Proof
end

