-- ==== Sys2Proof/Laws/KeptFuller.lean ====
section
/-! SUPPORT. What the definitions of Machine/Fuller.lean leave of the state as it was. -/

namespace Sys2Proof

open Sys2Proof.Machine

set_option linter.unusedVariables false

theorem kept_fulStatAll {m : Nat} {r : State} (s : State) (die : Nat) (f : Nat → Nat) (hm : Sub 268435456 m) (hk : Kept m r s) : Kept m r
    (@fulStatAll s die f) := by
  unfold fulStatAll; try dsimp only
  repeat' with_reducible first | assumption | (refine Kept.record 268435456 ?_ rfl rfl ?_ ?_; assumption)
                               | simp +decide only [mix, cond_eq_ite, if_true, if_false]

theorem kept_fulEnd {m : Nat} {r : State} (s : State) (k : Nat) (j : Job) (status : Nat) (hm : Sub 2162196496 m) (hk : Kept m r s) : Kept
    m r (@fulEnd s k j status) := by
  unfold fulEnd; try dsimp only
  repeat' first | exact hm.of (by decide) | with_reducible first | assumption | apply kept_dropXlat | apply kept_endJob | apply kept_foldl
                                                                 | apply kept_foldl_snd | apply kept_foldl_fst | intro _

theorem kept_readNorm {m : Nat} {r : State} (s : State) (k : Nat) (j : Job) (va : Nat) (hm : Sub 290477347576 m) (hk : Kept m r s) :
    ARKept m r (@readNorm s k j va) := by
  unfold readNorm; try dsimp only
  repeat' first | exact hm.of (by decide) | with_reducible first | assumption | apply kept_engineInteg | apply kept_jobRead
                                                                 | apply arKept_bind | refine arKept_ok _ _ ?_ | refine arKept_stall _ ?_
                                                                 | refine arKept_fail _ _ ?_ | split
                                                                 | (refine kept_ok ‹_ = AR.ok _ _ _› ?_)
                                                                 | (refine kept_stall ‹_ = AR.stall _ _› ?_)
                                                                 | (refine kept_fail ‹_ = AR.fail _ _ _› ?_) | intro _

theorem kept_readWords {m : Nat} {r : State} (s : State) (k : Nat) (j : Job) (va : Nat) (n : Nat) (hm : Sub 290477347576 m) (hk : Kept m r
    s) : ARKept m r (@readWords s k j va n) := by
  unfold readWords; try dsimp only
  repeat' first | exact hm.of (by decide) | with_reducible first | assumption | apply kept_jobRead | apply arKept_bind
                                                                 | refine arKept_ok _ _ ?_ | refine arKept_stall _ ?_
                                                                 | refine arKept_fail _ _ ?_ | intro _

theorem kept_readSums {m : Nat} {r : State} (k : Nat) (va : Nat) (a2 : Nat) (a3 : State) (a4 : Job) (hm : Sub 290477347576 m) (hk : Kept m
    r a3) : ARKept m r (@readSums k va a2 a3 a4) := by
  induction a2 generalizing k va a3 a4 with
  | zero =>
    unfold readSums; try dsimp only
    repeat' first | exact hm.of (by decide) | with_reducible first | assumption | apply kept_readNorm | apply arKept_bind
                                                                   | refine arKept_ok _ _ ?_ | refine arKept_stall _ ?_
                                                                   | refine arKept_fail _ _ ?_ | split
                                                                   | (refine kept_ok ‹_ = AR.ok _ _ _› ?_)
                                                                   | (refine kept_stall ‹_ = AR.stall _ _› ?_)
                                                                   | (refine kept_fail ‹_ = AR.fail _ _ _› ?_) | intro _
  | succ l ih =>
    unfold readSums; try dsimp only
    repeat' first | exact hm.of (by decide) | with_reducible first | assumption | apply ih | apply kept_readNorm | apply arKept_bind
                                                                   | refine arKept_ok _ _ ?_ | refine arKept_stall _ ?_
                                                                   | refine arKept_fail _ _ ?_ | split
                                                                   | (refine kept_ok ‹_ = AR.ok _ _ _› ?_)
                                                                   | (refine kept_stall ‹_ = AR.stall _ _› ?_)
                                                                   | (refine kept_fail ‹_ = AR.fail _ _ _› ?_) | intro _

theorem kept_factorPass {m : Nat} {r : State} (k : Nat) (t : List W32) (sc : Nat) (fa : Nat) (s : State) (j : Job) (hm : Sub 290477347576
    m) (hk : Kept m r s) : ARKept m r (@factorPass k t sc fa s j) := by
  unfold factorPass; try dsimp only
  repeat' first | exact hm.of (by decide) | with_reducible first | assumption | apply kept_facHead | apply kept_readSums
                                                                 | apply kept_readWords | apply arKept_bind | refine arKept_ok _ _ ?_
                                                                 | refine arKept_stall _ ?_ | refine arKept_fail _ _ ?_ | intro _

theorem kept_factorShape {m : Nat} {r : State} (s : State) (k : Nat) (j : Job) (hm : Sub 290477347576 m) (hk : Kept m r s) : ARKept m r
    (@factorShape s k j) := by
  unfold factorShape; try dsimp only
  repeat' first | exact hm.of (by decide) | with_reducible first | assumption | apply kept_facHead | apply arKept_bind
                                                                 | refine arKept_ok _ _ ?_ | refine arKept_stall _ ?_
                                                                 | refine arKept_fail _ _ ?_ | split
                                                                 | (refine kept_ok ‹_ = AR.ok _ _ _› ?_)
                                                                 | (refine kept_stall ‹_ = AR.stall _ _› ?_)
                                                                 | (refine kept_fail ‹_ = AR.fail _ _ _› ?_) | intro _

theorem kept_fullerPrep {m : Nat} {r : State} (k : Nat) (s : State) (j : Job) (hm : Sub 290477347576 m) (hk : Kept m r s) : ARKept m r
    (@fullerPrep k s j) := by
  unfold fullerPrep; try dsimp only
  repeat' first | exact hm.of (by decide) | with_reducible first | assumption | apply kept_factorPass | apply kept_factorShape
                                                                 | apply kept_readNorm | apply arKept_bind | refine arKept_ok _ _ ?_
                                                                 | refine arKept_stall _ ?_ | refine arKept_fail _ _ ?_ | split
                                                                 | (refine kept_ok ‹_ = AR.ok _ _ _› ?_)
                                                                 | (refine kept_stall ‹_ = AR.stall _ _› ?_)
                                                                 | (refine kept_fail ‹_ = AR.fail _ _ _› ?_) | intro _

theorem kept_fulProg {m : Nat} {r : State} {a0 : Type} (k : Nat) (x : AR a0) (f : a0 → State → Job → Prog) (hm : Sub 2162196496 m) (h_x :
    ARKept m r (x)) (h_f : ∀ x0 x1 x2, Kept m r x1 → ProgKept m r (f x0 x1 x2)) : ProgKept m r (@fulProg a0 k x f) := by
  unfold fulProg; try dsimp only
  repeat' first | exact hm.of (by decide) | exact h_x | with_reducible first | assumption | apply h_x | apply h_f
                                                                             | apply kept_State_setJob | apply kept_dropJobReqs
                                                                             | apply kept_fulEnd | refine progKept_again _ ?_
                                                                             | refine progKept_stop ?_ | refine arKept_ok _ _ ?_
                                                                             | refine arKept_stall _ ?_ | refine arKept_fail _ _ ?_
                                                                             | split | (refine kept_ok ‹_ = AR.ok _ _ _› ?_)
                                                                             | (refine kept_stall ‹_ = AR.stall _ _› ?_)
                                                                             | (refine kept_fail ‹_ = AR.fail _ _ _› ?_)
                                                                             | (refine kept_again ‹_ = Prog.again _ _› ?_)
                                                                             | (refine kept_stop ‹_ = Prog.stop _› ?_) | intro _

theorem kept_factorBack {m : Nat} {r : State} (k : Nat) (s : State) (j : Job) (hm : Sub 290477347576 m) (hk : Kept m r s) : ARKept m r
    (@factorBack k s j) := by
  unfold factorBack; try dsimp only
  repeat' first | exact hm.of (by decide) | with_reducible first | assumption | apply kept_jobPut | apply kept_jobTrans
                                                                 | apply kept_transChunks | apply arKept_bind | refine arKept_ok _ _ ?_
                                                                 | refine arKept_stall _ ?_ | refine arKept_fail _ _ ?_ | intro _

theorem kept_groupUnit {m : Nat} {r : State} (s : State) (k : Nat) (j : Job) (va : Nat) (hm : Sub 281874830072 m) (hk : Kept m r s) :
    ARKept m r (@groupUnit s k j va) := by
  unfold groupUnit; try dsimp only
  repeat' first | exact hm.of (by decide) | with_reducible first | assumption | apply kept_faultRing | apply kept_stallRing
                                                                 | apply kept_xlate | refine arKept_ok _ _ ?_ | refine arKept_stall _ ?_
                                                                 | refine arKept_fail _ _ ?_ | split | (refine kept_pair ‹_ = (_, _)› ?_)

theorem kept_fullerGroup {m : Nat} {r : State} (k : Nat) (s : State) (j : Job) (hm : Sub 290747880184 m) (hk : Kept m r s) : ProgKept m r
    (@fullerGroup k s j) := by
  unfold fullerGroup; try dsimp only
  repeat' first | exact hm.of (by decide) | with_reducible first | assumption | apply kept_AR_note | apply kept_fulProg
                                                                 | apply kept_groupUnit | apply kept_jobRead | apply kept_jobWrite
                                                                 | apply kept_pieceSent | apply arKept_bind | refine progKept_again _ ?_
                                                                 | refine progKept_stop ?_ | refine arKept_ok _ _ ?_
                                                                 | refine arKept_stall _ ?_ | refine arKept_fail _ _ ?_
                                                                 | (refine Kept.record 268435456 ?_ rfl rfl ?_ ?_; (first | assumption | apply kept_AR_note | apply kept_fulProg | apply kept_groupUnit | apply kept_jobRead | apply kept_jobWrite | apply kept_pieceSent))
                                                                 | simp +decide only [mix, cond_eq_ite, if_true, if_false] | intro _

theorem kept_fullerStep {m : Nat} {r : State} (k : Nat) (s : State) (j : Job) (hm : Sub 290747880184 m) (hk : Kept m r s) : ProgKept m r
    (@fullerStep k s j) := by
  unfold fullerStep; try dsimp only
  repeat' first | exact hm.of (by decide) | with_reducible first | assumption | apply kept_State_setJob | apply kept_factorBack
                                                                 | apply kept_fulEnd | apply kept_fulProg | apply kept_fullerGroup
                                                                 | apply kept_fullerPrep | apply kept_mergeStep | apply kept_pieceSent
                                                                 | refine progKept_again _ ?_ | refine progKept_stop ?_
                                                                 | refine arKept_ok _ _ ?_ | refine arKept_stall _ ?_
                                                                 | refine arKept_fail _ _ ?_ | split
                                                                 | (refine kept_ok ‹_ = AR.ok _ _ _› ?_)
                                                                 | (refine kept_stall ‹_ = AR.stall _ _› ?_)
                                                                 | (refine kept_fail ‹_ = AR.fail _ _ _› ?_)
                                                                 | (refine kept_again ‹_ = Prog.again _ _› ?_)
                                                                 | (refine kept_stop ‹_ = Prog.stop _› ?_) | intro _

theorem kept_fullerRun {m : Nat} {r : State} (s : State) (k : Nat) (j : Job) (hm : Sub 290747880184 m) (hk : Kept m r s) : Kept m r
    (@fullerRun s k j) := by
  unfold fullerRun; try dsimp only
  repeat' first | exact hm.of (by decide) | with_reducible first | assumption | apply kept_fullerStep | apply kept_runSteps
                                                                 | refine progKept_again _ ?_ | refine progKept_stop ?_ | intro _

theorem kept_execFuller {m : Nat} {r : State} (a0 : RingNo) (s : State) (hm : Sub 1390259507960 m) (hk : Kept m r s) : ResKept m r
    (@execFuller a0 s) := by
  unfold execFuller; try dsimp only
  repeat' first | exact hm.of (by decide) | with_reducible first | assumption | apply kept_endAtStart | apply kept_fulStatAll
                                                                 | apply kept_fullerRun | apply kept_setServed | apply kept_settleAll
                                                                 | apply kept_takeStart | refine ResKept.next ?_
                                                                 | refine ResKept.refused _ | split

end Sys2Proof
end

