-- ==== Sys2Proof/Laws/KeptLaunch.lean ====
section
/-! SUPPORT. What the definitions of Machine/Launch.lean leave of the state as it was. -/

namespace Sys2Proof

open Sys2Proof.Machine

set_option linter.unusedVariables false

theorem kept_launchFail {m : Nat} {r : State} (s : State) (die : Nat) (a2 : Resp) (va : Nat) (pa : Nat) (hm : Sub 281874797304 m) (hk :
    Kept m r s) : LReadKept m r (@launchFail s die a2 va pa) := by
  unfold launchFail; try dsimp only
  repeat' first | exact hm.of (by decide) | with_reducible first | assumption | apply kept_respFault | refine lReadKept_got _ ?_
                                                                 | refine lReadKept_wait ?_ | refine lReadKept_failed _ ?_

theorem kept_launchReadAt {m : Nat} {r : State} (s : State) (rn : Nat) (die : Nat) (va : Nat) (pa : Nat) (hm : Sub 290477314808 m) (hk :
    Kept m r s) : LReadKept m r (@launchReadAt s rn die va pa) := by
  unfold launchReadAt; try dsimp only
  repeat' first | exact hm.of (by decide) | with_reducible first | assumption | apply kept_State_setRq | apply kept_askHostRead
                                                                 | apply kept_askRemote | apply kept_launchFail | apply kept_physRead
                                                                 | refine lReadKept_got _ ?_ | refine lReadKept_wait ?_
                                                                 | refine lReadKept_failed _ ?_ | refine OptPairKept.some _ ?_
                                                                 | refine OptPairKept.none | split
                                                                 | (refine kept_triple ‹_ = (_, _, _)› ?_)
                                                                 | (refine kept_pair ‹_ = (_, _)› ?_)
                                                                 | (refine kept_gotRead ‹_ = LRead.got _ _› ?_)
                                                                 | (refine kept_waitRead ‹_ = LRead.wait _› ?_)
                                                                 | (refine kept_failedRead ‹_ = LRead.failed _ _› ?_)
                                                                 | (refine kept_some_pair ‹_ = some (_, _)› ?_)

theorem kept_launchRead {m : Nat} {r : State} (s : State) (rn : Nat) (die : Nat) (va : Nat) (hm : Sub 290477347576 m) (hk : Kept m r s) :
    LReadKept m r (@launchRead s rn die va) := by
  unfold launchRead; try dsimp only
  repeat' first | exact hm.of (by decide) | with_reducible first | assumption | apply kept_faultRing | apply kept_launchReadAt
                                                                 | apply kept_stallRing | apply kept_xlate | refine lReadKept_got _ ?_
                                                                 | refine lReadKept_wait ?_ | refine lReadKept_failed _ ?_ | split
                                                                 | (refine kept_pair ‹_ = (_, _)› ?_)
                                                                 | (refine kept_gotRead ‹_ = LRead.got _ _› ?_)
                                                                 | (refine kept_waitRead ‹_ = LRead.wait _› ?_)
                                                                 | (refine kept_failedRead ‹_ = LRead.failed _ _› ?_)

theorem kept_launchStart {m : Nat} {r : State} (s : State) (rn : Nat) (d : Desc) (a3 : Nat) (hm : Sub 524800 m) (hk : Kept m r s) : Kept m
    r (@launchStart s rn d a3) := by
  unfold launchStart; try dsimp only
  repeat' first | exact hm.of (by decide) | with_reducible first | assumption | apply kept_State_setGr | apply kept_takeStart

theorem kept_launchMeet {m : Nat} {r : State} (s : State) (rn : Nat) (d : Desc) (a3 : Nat) (hm : Sub 281874797304 m) (hk : Kept m r s) :
    Kept m r (@launchMeet s rn d a3) := by
  unfold launchMeet; try dsimp only
  repeat' first | exact hm.of (by decide) | with_reducible first | assumption | apply kept_State_modGr | apply kept_endAtStart
                                                                 | apply kept_endLaunch | apply kept_launchStart | split

theorem kept_forgetRec {m : Nat} {r : State} (s : State) (rn : Nat) (hm : Sub 524288 m) (hk : Kept m r s) : Kept m r (@forgetRec s rn) :=
    by
  unfold forgetRec; try dsimp only
  repeat' first | exact hm.of (by decide) | with_reducible first | assumption | apply kept_State_setRq

theorem kept_execLaunch {m : Nat} {r : State} (a0 : RingNo) (s : State) (hm : Sub 290477347576 m) (hk : Kept m r s) : ResKept m r
    (@execLaunch a0 s) := by
  unfold execLaunch; try dsimp only
  repeat' first | exact hm.of (by decide) | with_reducible first | assumption | apply kept_endAtStart | apply kept_forgetRec
                                                                 | apply kept_launchMeet | apply kept_launchRead | refine ResKept.next ?_
                                                                 | refine ResKept.refused _ | refine lReadKept_got _ ?_
                                                                 | refine lReadKept_wait ?_ | refine lReadKept_failed _ ?_ | split
                                                                 | (refine kept_gotRead ‹_ = LRead.got _ _› ?_)
                                                                 | (refine kept_waitRead ‹_ = LRead.wait _› ?_)
                                                                 | (refine kept_failedRead ‹_ = LRead.failed _ _› ?_)

end Sys2Proof
end

