-- ==== Sys2Proof/Laws/KeptMover.lean ====
section
/-! SUPPORT. What the definitions of Machine/Mover.lean leave of the state as it was. -/

namespace Sys2Proof

open Sys2Proof.Machine

set_option linter.unusedVariables false

theorem kept_readRuns {m : Nat} {r : State} (k : Nat) (bits : Nat) (a2 : List (Nat × Nat × Nat)) (a3 : State) (a4 : Job) (hm : Sub
    290477347576 m) (hk : Kept m r a3) : ARKept m r (@readRuns k bits a2 a3 a4) := by
  induction a2 generalizing k bits a3 a4 with
  | nil =>
    unfold readRuns; try dsimp only
    repeat' first | exact hm.of (by decide) | with_reducible first | assumption | apply kept_jobRead | apply kept_overlapped
                                                                   | apply arKept_bind | refine arKept_ok _ _ ?_
                                                                   | refine arKept_stall _ ?_ | refine arKept_fail _ _ ?_ | split
                                                                   | (refine kept_ok ‹_ = AR.ok _ _ _› ?_)
                                                                   | (refine kept_stall ‹_ = AR.stall _ _› ?_)
                                                                   | (refine kept_fail ‹_ = AR.fail _ _ _› ?_) | intro _
  | cons e l ih =>
    unfold readRuns; try dsimp only
    repeat' first | exact hm.of (by decide) | with_reducible first | assumption | apply ih | apply kept_jobRead | apply kept_overlapped
                                                                   | apply arKept_bind | refine arKept_ok _ _ ?_
                                                                   | refine arKept_stall _ ?_ | refine arKept_fail _ _ ?_ | split
                                                                   | (refine kept_ok ‹_ = AR.ok _ _ _› ?_)
                                                                   | (refine kept_stall ‹_ = AR.stall _ _› ?_)
                                                                   | (refine kept_fail ‹_ = AR.fail _ _ _› ?_) | intro _

theorem kept_readScales {m : Nat} {r : State} (k : Nat) (a1 : List (Nat × Nat)) (a2 : State) (a3 : Job) (hm : Sub 290477347576 m) (hk :
    Kept m r a2) : ARKept m r (@readScales k a1 a2 a3) := by
  induction a1 generalizing k a2 a3 with
  | nil =>
    unfold readScales; try dsimp only
    repeat' first | exact hm.of (by decide) | with_reducible first | assumption | apply kept_jobRead | apply arKept_bind
                                                                   | refine arKept_ok _ _ ?_ | refine arKept_stall _ ?_
                                                                   | refine arKept_fail _ _ ?_ | split
                                                                   | (refine kept_ok ‹_ = AR.ok _ _ _› ?_)
                                                                   | (refine kept_stall ‹_ = AR.stall _ _› ?_)
                                                                   | (refine kept_fail ‹_ = AR.fail _ _ _› ?_) | intro _
  | cons e l ih =>
    unfold readScales; try dsimp only
    repeat' first | exact hm.of (by decide) | with_reducible first | assumption | apply ih | apply kept_jobRead | apply arKept_bind
                                                                   | refine arKept_ok _ _ ?_ | refine arKept_stall _ ?_
                                                                   | refine arKept_fail _ _ ?_ | split
                                                                   | (refine kept_ok ‹_ = AR.ok _ _ _› ?_)
                                                                   | (refine kept_stall ‹_ = AR.stall _ _› ?_)
                                                                   | (refine kept_fail ‹_ = AR.fail _ _ _› ?_) | intro _

theorem kept_mergeLast {m : Nat} {r : State} (k : Nat) (a : Nat) (bs : List Byte) (used : Nat) (s : State) (j : Job) (hm : Sub
    290477347576 m) (hk : Kept m r s) : ARKept m r (@mergeLast k a bs used s j) := by
  unfold mergeLast; try dsimp only
  repeat' first | exact hm.of (by decide) | with_reducible first | assumption | apply kept_readChunks | apply arKept_bind
                                                                 | refine arKept_ok _ _ ?_ | refine arKept_stall _ ?_
                                                                 | refine arKept_fail _ _ ?_ | split
                                                                 | (refine kept_ok ‹_ = AR.ok _ _ _› ?_)
                                                                 | (refine kept_stall ‹_ = AR.stall _ _› ?_)
                                                                 | (refine kept_fail ‹_ = AR.fail _ _ _› ?_) | intro _

theorem kept_writeTodo {m : Nat} {r : State} (k : Nat) (a1 : Nat) (a2 : State) (a3 : Job) (hm : Sub 290477347576 m) (hk : Kept m r a2) :
    ARKept m r (@writeTodo k a1 a2 a3) := by
  induction a1 generalizing k a2 a3 with
  | zero =>
    unfold writeTodo; try dsimp only
    repeat' first | exact hm.of (by decide) | with_reducible first | assumption | apply kept_jobWrite | apply kept_mergeLast
                                                                   | apply arKept_bind | refine arKept_ok _ _ ?_
                                                                   | refine arKept_stall _ ?_ | refine arKept_fail _ _ ?_ | split
                                                                   | (refine kept_ok ‹_ = AR.ok _ _ _› ?_)
                                                                   | (refine kept_stall ‹_ = AR.stall _ _› ?_)
                                                                   | (refine kept_fail ‹_ = AR.fail _ _ _› ?_) | intro _
  | succ l ih =>
    unfold writeTodo; try dsimp only
    repeat' first | exact hm.of (by decide) | with_reducible first | assumption | apply ih | apply kept_jobWrite | apply kept_mergeLast
                                                                   | apply arKept_bind | refine arKept_ok _ _ ?_
                                                                   | refine arKept_stall _ ?_ | refine arKept_fail _ _ ?_ | split
                                                                   | (refine kept_ok ‹_ = AR.ok _ _ _› ?_)
                                                                   | (refine kept_stall ‹_ = AR.stall _ _› ?_)
                                                                   | (refine kept_fail ‹_ = AR.fail _ _ _› ?_) | intro _

theorem kept_tileWrites {m : Nat} {r : State} (s : State) (k : Nat) (j : Job) (d : Slot) (t : Nat) (hm : Sub 290477347576 m) (hk : Kept m
    r s) : ARKept m r (@tileWrites s k j d t) := by
  unfold tileWrites; try dsimp only
  repeat' first | exact hm.of (by decide) | with_reducible first | assumption | apply kept_jobRead | apply kept_overlapped
                                                                 | apply kept_readRuns | apply kept_readScales | apply arKept_bind
                                                                 | refine arKept_ok _ _ ?_ | refine arKept_stall _ ?_
                                                                 | refine arKept_fail _ _ ?_ | split
                                                                 | (refine kept_ok ‹_ = AR.ok _ _ _› ?_)
                                                                 | (refine kept_stall ‹_ = AR.stall _ _› ?_)
                                                                 | (refine kept_fail ‹_ = AR.fail _ _ _› ?_) | intro _

theorem kept_tileOut {m : Nat} {r : State} (k : Nat) (s : State) (j : Job) (hm : Sub 290479444728 m) (hk : Kept m r s) : ProgKept m r
    (@tileOut k s j) := by
  unfold tileOut; try dsimp only
  repeat' first | exact hm.of (by decide) | with_reducible first | assumption | apply kept_pieceSent | apply kept_progOf
                                                                 | apply kept_writeTodo | refine progKept_again _ ?_
                                                                 | refine progKept_stop ?_ | refine arKept_ok _ _ ?_
                                                                 | refine arKept_stall _ ?_ | refine arKept_fail _ _ ?_ | intro _

theorem kept_tileStep {m : Nat} {r : State} (k : Nat) (s : State) (j : Job) (hm : Sub 290479444728 m) (hk : Kept m r s) : ProgKept m r
    (@tileStep k s j) := by
  unfold tileStep; try dsimp only
  repeat' first | exact hm.of (by decide) | with_reducible first | assumption | apply kept_endJob | apply kept_pieceSent
                                                                 | apply kept_progOf | apply kept_tileOut | apply kept_tileWrites
                                                                 | refine progKept_again _ ?_ | refine progKept_stop ?_
                                                                 | refine arKept_ok _ _ ?_ | refine arKept_stall _ ?_
                                                                 | refine arKept_fail _ _ ?_ | split
                                                                 | (refine kept_ok ‹_ = AR.ok _ _ _› ?_)
                                                                 | (refine kept_stall ‹_ = AR.stall _ _› ?_)
                                                                 | (refine kept_fail ‹_ = AR.fail _ _ _› ?_)
                                                                 | (refine kept_again ‹_ = Prog.again _ _› ?_)
                                                                 | (refine kept_stop ‹_ = Prog.stop _› ?_) | intro _

theorem kept_tileRun {m : Nat} {r : State} (s : State) (k : Nat) (j : Job) (hm : Sub 290479444728 m) (hk : Kept m r s) : Kept m r
    (@tileRun s k j) := by
  unfold tileRun; try dsimp only
  repeat' first | exact hm.of (by decide) | with_reducible first | assumption | apply kept_runSteps | apply kept_tileStep
                                                                 | refine progKept_again _ ?_ | refine progKept_stop ?_ | intro _

theorem kept_execTilemove {m : Nat} {r : State} (a0 : RingNo) (s : State) (hm : Sub 290479444728 m) (hk : Kept m r s) : ResKept m r
    (@execTilemove a0 s) := by
  unfold execTilemove; try dsimp only
  repeat' first | exact hm.of (by decide) | with_reducible first | assumption | apply kept_endAtStart | apply kept_startJob
                                                                 | apply kept_tileRun | refine ResKept.next ?_ | refine ResKept.refused _
                                                                 | split | (refine kept_next ‹_ = Host.Outcome.next _› ?_) | intro _

end Sys2Proof
end

