-- ==== Sys2Proof/Laws/KeptResume.lean ====
section
/-! SUPPORT. What the definitions of Machine/Resume.lean leave of the state as it was. -/

namespace Sys2Proof

open Sys2Proof.Machine

set_option linter.unusedVariables false

theorem kept_jobRun {m : Nat} {r : State} (s : State) (k : Nat) (j : Job) (hm : Sub 290747880184 m) (hk : Kept m r s) : Kept m r (@jobRun
    s k j) := by
  unfold jobRun; try dsimp only
  repeat' first | exact hm.of (by decide) | with_reducible first | assumption | apply kept_atomicRun | apply kept_copyRun
                                                                 | apply kept_fullerRun | apply kept_inlineRun | apply kept_reduceRun
                                                                 | apply kept_tileRun | split

theorem kept_jobGo {m : Nat} {r : State} (s : State) (k : Nat) (hm : Sub 290747880184 m) (hk : Kept m r s) : Kept m r (@jobGo s k) := by
  unfold jobGo; try dsimp only
  repeat' first | exact hm.of (by decide) | with_reducible first | assumption | apply kept_jobRun | split

theorem kept_jobFailed {m : Nat} {r : State} (s : State) (k : Nat) (j : Job) (st : Nat) (hm : Sub 290747880184 m) (hk : Kept m r s) : Kept
    m r (@jobFailed s k j st) := by
  unfold jobFailed; try dsimp only
  repeat' first | exact hm.of (by decide) | with_reducible first | assumption | apply kept_dropJobReqs | apply kept_endJob
                                                                 | apply kept_fulEnd | apply kept_fullerRun | apply kept_reduceRun | split

theorem kept_unstall {m : Nat} {r : State} (s : State) (die : Nat) (i : Nat) (hm : Sub 524288 m) (hk : Kept m r s) : Kept m r (@unstall s
    die i) := by
  unfold unstall; try dsimp only
  repeat' first | exact hm.of (by decide) | with_reducible first | assumption | apply kept_State_setRq | split | apply kept_foldl
                                                                 | apply kept_foldl_snd | apply kept_foldl_fst | intro _

theorem kept_endDispatched {m : Nat} {r : State} (s : State) (die : Nat) (i : Nat) (status : Nat) (hm : Sub 281874797304 m) (hk : Kept m r
    s) : Kept m r (@endDispatched s die i status) := by
  unfold endDispatched; try dsimp only
  repeat' first | exact hm.of (by decide) | with_reducible first | assumption | apply kept_endAtStart | apply kept_unstall | split

theorem kept_resumeAgent {m : Nat} {r : State} (s : State) (a : Agent) (hm : Sub 290747881208 m) (hk : Kept m r s) : Kept m r
    (@resumeAgent s a) := by
  unfold resumeAgent; try dsimp only
  repeat' first | exact hm.of (by decide) | with_reducible first | assumption | apply kept_jobGo | apply kept_tileRetry
                                                                 | apply kept_unstall | split

theorem kept_refuseAgent {m : Nat} {r : State} (s : State) (a : Agent) (hm : Sub 290747880184 m) (hk : Kept m r s) : Kept m r
    (@refuseAgent s a) := by
  unfold refuseAgent; try dsimp only
  repeat' first | exact hm.of (by decide) | with_reducible first | assumption | apply kept_endDispatched | apply kept_haltOn
                                                                 | apply kept_jobFailed | apply kept_unstall | split

theorem kept_hostedGrant {m : Nat} {r : State} (s : State) (b : Nat) (line : Nat) (bs : List Byte) (hm : Sub 536870912 m) (hk : Kept m r
    s) : Kept m r (@hostedGrant s b line bs) := by
  unfold hostedGrant; try dsimp only
  repeat' first | exact hm.of (by decide) | with_reducible first | assumption | apply kept_State_setAl | split

theorem kept_giveData {m : Nat} {r : State} (s : State) (a1 : OutReq) (bs : List Byte) (hm : Sub 290747881208 m) (hk : Kept m r s) : Kept
    m r (@giveData s a1 bs) := by
  unfold giveData; try dsimp only
  repeat' first | exact hm.of (by decide) | with_reducible first | assumption | apply kept_State_emit | apply kept_State_setHt
                                                                 | apply kept_State_setJob | apply kept_State_setRq
                                                                 | apply kept_deliverLoad | apply kept_dropReq | apply kept_hartDrained
                                                                 | apply kept_hostedGrant | apply kept_jobGo | apply kept_rbAdd
                                                                 | apply kept_rbDrop | apply kept_tileDone | apply kept_tileGot | split

theorem kept_engineErr {m : Nat} {r : State} (s : State) (a1 : OutReq) (resp : Resp) (residue : Bool) (hm : Sub 281874797304 m) (hk : Kept
    m r s) : Kept m r (@engineErr s a1 resp residue).2 := by
  unfold engineErr; try dsimp only
  repeat' first | exact hm.of (by decide) | with_reducible first | assumption | apply kept_fault | apply kept_postLost
                                                                 | apply kept_respFault | apply kept_takeFree | split
                                                                 | (refine kept_pair ‹_ = (_, _)› ?_)

theorem kept_giveErr {m : Nat} {r : State} (s : State) (a1 : OutReq) (resp : Resp) (residue : Bool) (hm : Sub 290747881208 m) (hk : Kept m
    r s) : Kept m r (@giveErr s a1 resp residue) := by
  unfold giveErr; try dsimp only
  repeat' first | exact hm.of (by decide) | with_reducible first | assumption | apply kept_State_setRq | apply kept_coreFail
                                                                 | apply kept_dropReq | apply kept_endAtStart | apply kept_engineErr
                                                                 | apply kept_failWaiting | apply kept_hartDrained | apply kept_jobFailed
                                                                 | apply kept_respFault | apply kept_storeLost | apply kept_tileFail
                                                                 | split | (refine kept_pair ‹_ = (_, _)› ?_)

theorem kept_finishJob {m : Nat} {r : State} (s : State) (k : Nat) (j : Job) (e : Ending) (hm : Sub 282145329912 m) (hk : Kept m r s) :
    Kept m r (@finishJob s k j e) := by
  unfold finishJob; try dsimp only
  repeat' first | exact hm.of (by decide) | with_reducible first | assumption | apply kept_State_setJob | apply kept_completeDesc
                                                                 | apply kept_descSignal | apply kept_fulStatAll | split

theorem kept_execEngineCompletion {m : Nat} {r : State} (a0 : RingNo) (idx : W32) (s : State) (hm : Sub 290747880184 m) (hk : Kept m r s)
    : ResKept m r (@execEngineCompletion a0 idx s) := by
  unfold execEngineCompletion; try dsimp only
  repeat' first | exact hm.of (by decide) | with_reducible first | assumption | apply kept_finishJob | apply kept_jobGo
                                                                 | apply kept_settleAll | refine ResKept.next ?_
                                                                 | refine ResKept.refused _ | split

theorem kept_flushReturned {m : Nat} {r : State} (s : State) (k : Nat) (j : Job) (h : Nat) (id : Nat) (hm : Sub 6291456 m) (hk : Kept m r
    s) : Kept m r (@flushReturned s k j h id) := by
  unfold flushReturned; try dsimp only
  repeat' first | exact hm.of (by decide) | with_reducible first | assumption | apply kept_State_setJob | apply kept_dropReq

theorem kept_execHostFlushReadReturn {m : Nat} {r : State} (h : HostLinkNo) (a1 : RingNo) (idx : W32) (s : State) (hm : Sub 2153775104 m)
    (hk : Kept m r s) : ResKept m r (@execHostFlushReadReturn h a1 idx s) := by
  unfold execHostFlushReadReturn; try dsimp only
  repeat' first | exact hm.of (by decide) | with_reducible first | assumption | apply kept_State_setHost | apply kept_flushReturned
                                                                 | refine ResKept.next ?_ | refine ResKept.refused _ | split

end Sys2Proof
end

