-- ==== Sys2Proof/Laws/KeptStreams.lean ====
section
/-! SUPPORT. What the definitions of Machine/Streams.lean leave of the state as it was. -/

namespace Sys2Proof

open Sys2Proof.Machine

set_option linter.unusedVariables false

theorem kept_dropStreamRec {m : Nat} {r : State} (s : State) (i : Nat) (e : Stream) (hm : Sub 281874797304 m) (hk : Kept m r s) : Kept m r
    (@dropStreamRec s i e) := by
  unfold dropStreamRec; try dsimp only
  repeat' first | exact hm.of (by decide) | with_reducible first | assumption | apply kept_State_logE | apply kept_State_setRing
                                                                 | apply kept_post | split

theorem kept_postStream {m : Nat} {r : State} (s : State) (q : Nat) (i : Nat) (e : Stream) (rec : Slot) (hm : Sub 281874797304 m) (hk :
    Kept m r s) : Kept m r (@postStream s q i e rec) := by
  unfold postStream; try dsimp only
  repeat' first | exact hm.of (by decide) | with_reducible first | assumption | apply kept_dropStreamRec | apply kept_post | split

theorem kept_oneMiss {m : Nat} {r : State} (s : State) (i : Nat) (request : Bool) (hm : Sub 281908351736 m) (hk : Kept m r s) : Kept m r
    (@oneMiss s i request) := by
  unfold oneMiss; try dsimp only
  repeat' first | exact hm.of (by decide) | with_reducible first | assumption | apply kept_State_setStream | apply kept_postFring
                                                                 | apply kept_postStream | split

theorem kept_missEntry {m : Nat} {r : State} (s : State) (i : Nat) (hm : Sub 281908351736 m) (hk : Kept m r s) : Kept m r (@missEntry s i)
    := by
  unfold missEntry; try dsimp only
  repeat' first | exact hm.of (by decide) | with_reducible first | assumption | apply kept_oneMiss | split

theorem kept_missesTo {m : Nat} {r : State} (s : State) (n : Nat) (hm : Sub 281908351736 m) (hk : Kept m r s) : Kept m r (@missesTo s n)
    := by
  unfold missesTo; try dsimp only
  repeat' first | exact hm.of (by decide) | with_reducible first | assumption | apply kept_missEntry | split | apply kept_foldl
                                                                 | apply kept_foldl_snd | apply kept_foldl_fst | intro _

theorem kept_execDeadlineMiss {m : Nat} {r : State} (i : StreamNo) (s : State) (hm : Sub 281908351736 m) (hk : Kept m r s) : ResKept m r
    (@execDeadlineMiss i s) := by
  unfold execDeadlineMiss; try dsimp only
  repeat' first | exact hm.of (by decide) | with_reducible first | assumption | apply kept_missesTo | refine ResKept.next ?_
                                                                 | refine ResKept.refused _ | split

theorem kept_chainGet {m : Nat} {r : State} (s : State) (ctx : Nat) (a : Nat) (k : Nat → State → Chain) (hm : Sub 279709745864 m) (hk :
    Kept m r s) (h_k : ∀ x0 x1, Kept m r x1 → ChainKept m r (k x0 x1)) : ChainKept m r (@chainGet s ctx a k) := by
  unfold chainGet; try dsimp only
  repeat' first | exact hm.of (by decide) | with_reducible first | assumption | apply h_k | apply kept_physRead
                                                                 | refine chainKept_done _ ?_ | refine chainKept_wait ?_
                                                                 | refine chainKept_refused ?_ | refine chainKept_failed _ _ ?_ | split
                                                                 | (refine kept_triple ‹_ = (_, _, _)› ?_)
                                                                 | (refine kept_doneChain ‹_ = Chain.done _ _› ?_)
                                                                 | (refine kept_waitChain ‹_ = Chain.wait _› ?_)
                                                                 | (refine kept_refusedChain ‹_ = Chain.refused _› ?_)
                                                                 | (refine kept_failedChain ‹_ = Chain.failed _ _ _› ?_) | intro _

theorem kept_chainRead {m : Nat} {r : State} (ctx n : Nat) (s : State) (node idx : Nat) (hm : Sub 279709745864 m) (hk : Kept m r s) :
    ChainKept m r (chainRead ctx n s node idx) := by
  induction n generalizing s node idx with
  | zero => exact hk
  | succ n ih =>
    unfold chainRead
    with_reducible refine chainKept_ite ?_ ?_
    · with_reducible refine kept_chainGet _ _ _ _ hm hk ?_
      intro w t ht
      with_reducible refine kept_chainGet _ _ _ _ hm ht ?_
      intro w t ht
      exact ih _ _ _ ht
    · with_reducible refine kept_chainGet _ _ _ _ hm hk ?_
      intro w t ht
      exact ih _ _ _ ht

theorem kept_streamFail {m : Nat} {r : State} (s : State) (a1 : Resp) (ctx : Nat) (acc : Acc3) (pa : Nat) (hm : Sub 281874797304 m) (hk :
    Kept m r s) : SOutKept m r (@streamFail s a1 ctx acc pa) := by
  unfold streamFail; try dsimp only
  repeat' first | exact hm.of (by decide) | with_reducible first | assumption | apply kept_respFault | refine sOutKept_wait ?_
                                                                 | refine sOutKept_done _ _ ?_

theorem kept_opWrite {m : Nat} {r : State} (s : State) (rc : Nat) (i : Nat) (d : Slot) (hm : Sub 281908351736 m) (hk : Kept m r s) :
    SOutKept m r (@opWrite s rc i d) := by
  unfold opWrite; try dsimp only
  repeat' first | exact hm.of (by decide) | with_reducible first | assumption | apply kept_State_setStream | apply kept_physRead
                                                                 | apply kept_streamFail | refine sOutKept_wait ?_
                                                                 | refine sOutKept_done _ _ ?_ | split
                                                                 | (refine kept_triple ‹_ = (_, _, _)› ?_)
                                                                 | (refine kept_waitOut ‹_ = SOut.wait _› ?_)
                                                                 | (refine kept_doneOut ‹_ = SOut.done _ _ _› ?_)

theorem kept_opRead {m : Nat} {r : State} (s : State) (rc : Nat) (i : Nat) (d : Slot) (hm : Sub 281874797304 m) (hk : Kept m r s) :
    SOutKept m r (@opRead s rc i d) := by
  unfold opRead; try dsimp only
  repeat' first | exact hm.of (by decide) | with_reducible first | assumption | apply kept_physWrite | apply kept_streamFail
                                                                 | refine sOutKept_wait ?_ | refine sOutKept_done _ _ ?_ | split
                                                                 | (refine kept_pair ‹_ = (_, _)› ?_)
                                                                 | (refine kept_waitOut ‹_ = SOut.wait _› ?_)
                                                                 | (refine kept_doneOut ‹_ = SOut.done _ _ _› ?_)

theorem kept_opAppend {m : Nat} {r : State} (s : State) (i : Nat) (d : Slot) (hm : Sub 281908351736 m) (hk : Kept m r s) : SOutKept m r
    (@opAppend s i d) := by
  unfold opAppend; try dsimp only
  repeat' first | exact hm.of (by decide) | with_reducible first | assumption | apply kept_State_setStream | apply kept_chainRead
                                                                 | apply kept_streamFail | refine sOutKept_wait ?_
                                                                 | refine sOutKept_done _ _ ?_ | refine chainKept_done _ ?_
                                                                 | refine chainKept_wait ?_ | refine chainKept_refused ?_
                                                                 | refine chainKept_failed _ _ ?_ | split
                                                                 | (refine kept_doneChain ‹_ = Chain.done _ _› ?_)
                                                                 | (refine kept_waitChain ‹_ = Chain.wait _› ?_)
                                                                 | (refine kept_refusedChain ‹_ = Chain.refused _› ?_)
                                                                 | (refine kept_failedChain ‹_ = Chain.failed _ _ _› ?_)
                                                                 | (refine kept_waitOut ‹_ = SOut.wait _› ?_)
                                                                 | (refine kept_doneOut ‹_ = SOut.done _ _ _› ?_)

theorem kept_opCommit {m : Nat} {r : State} (s : State) (i : Nat) (d : Slot) (hm : Sub 281908351736 m) (hk : Kept m r s) : SOutKept m r
    (@opCommit s i d) := by
  unfold opCommit; try dsimp only
  repeat' first | exact hm.of (by decide) | with_reducible first | assumption | apply kept_State_setStream | apply kept_postStream
                                                                 | refine sOutKept_wait ?_ | refine sOutKept_done _ _ ?_ | split

theorem kept_opDeadline {m : Nat} {r : State} (s : State) (i : Nat) (d : Slot) (hm : Sub 33554432 m) (hk : Kept m r s) : SOutKept m r
    (@opDeadline s i d) := by
  unfold opDeadline; try dsimp only
  repeat' first | exact hm.of (by decide) | with_reducible first | assumption | apply kept_State_setStream | refine sOutKept_wait ?_
                                                                 | refine sOutKept_done _ _ ?_ | split

theorem kept_opPause {m : Nat} {r : State} (s : State) (i : Nat) (hm : Sub 33554432 m) (hk : Kept m r s) : SOutKept m r (@opPause s i) :=
    by
  unfold opPause; try dsimp only
  repeat' first | exact hm.of (by decide) | with_reducible first | assumption | apply kept_State_setStream | refine sOutKept_wait ?_
                                                                 | refine sOutKept_done _ _ ?_ | split

theorem kept_opResume {m : Nat} {r : State} (s : State) (i : Nat) (hm : Sub 33554432 m) (hk : Kept m r s) : SOutKept m r (@opResume s i)
    := by
  unfold opResume; try dsimp only
  repeat' first | exact hm.of (by decide) | with_reducible first | assumption | apply kept_State_setStream | refine sOutKept_wait ?_
                                                                 | refine sOutKept_done _ _ ?_ | split

theorem kept_opClose {m : Nat} {r : State} (s : State) (i : Nat) (hm : Sub 100663296 m) (hk : Kept m r s) : SOutKept m r (@opClose s i) :=
    by
  unfold opClose; try dsimp only
  repeat' first | exact hm.of (by decide) | with_reducible first | assumption | apply kept_State_setStream | refine sOutKept_wait ?_
                                                                 | refine sOutKept_done _ _ ?_
                                                                 | (refine Kept.record 67108864 ?_ rfl rfl ?_ ?_; (first | assumption | apply kept_State_setStream))
                                                                 | simp +decide only [mix, cond_eq_ite, if_true, if_false] | split

theorem kept_opExtend {m : Nat} {r : State} (s : State) (i : Nat) (d : Slot) (hm : Sub 33554432 m) (hk : Kept m r s) : SOutKept m r
    (@opExtend s i d) := by
  unfold opExtend; try dsimp only
  repeat' first | exact hm.of (by decide) | with_reducible first | assumption | apply kept_State_setStream | refine sOutKept_wait ?_
                                                                 | refine sOutKept_done _ _ ?_ | split

theorem kept_streamAccept {m : Nat} {r : State} (s : State) (op : Nat) (d : Slot) (run : State → Nat → Slot → SOut) (hm : Sub 281908351736
    m) (hk : Kept m r s) (h_run : ∀ x0 x1 x2, Kept m r x0 → SOutKept m r (run x0 x1 x2)) : SOutKept m r (@streamAccept s op d run) := by
  unfold streamAccept; try dsimp only
  repeat' first | exact hm.of (by decide) | with_reducible first | assumption | apply h_run | apply kept_missesTo
                                                                 | refine sOutKept_wait ?_ | refine sOutKept_done _ _ ?_ | split
                                                                 | (refine kept_waitOut ‹_ = SOut.wait _› ?_)
                                                                 | (refine kept_doneOut ‹_ = SOut.done _ _ _› ?_) | intro _

theorem kept_streamOp {m : Nat} {r : State} (a0 : RingNo) (op : Nat) (run : State → Nat → Slot → SOut) (s : State) (hm : Sub 281908351736
    m) (h_run : ∀ x0 x1 x2, Kept m r x0 → SOutKept m r (run x0 x1 x2)) (hk : Kept m r s) : ResKept m r (@streamOp a0 op run s) := by
  unfold streamOp; try dsimp only
  repeat' first | exact hm.of (by decide) | with_reducible first | assumption | apply h_run | apply kept_completeDesc
                                                                 | apply kept_streamAccept | apply kept_takeStart | refine ResKept.next ?_
                                                                 | refine ResKept.refused _ | refine sOutKept_wait ?_
                                                                 | refine sOutKept_done _ _ ?_ | split
                                                                 | (refine kept_waitOut ‹_ = SOut.wait _› ?_)
                                                                 | (refine kept_doneOut ‹_ = SOut.done _ _ _› ?_) | intro _

theorem kept_execStreamWrite {m : Nat} {r : State} (a0 : RingNo) (s : State) (hm : Sub 281908351736 m) (hk : Kept m r s) : ResKept m r
    (@execStreamWrite a0 s) := by
  unfold execStreamWrite; try dsimp only
  repeat' first | exact hm.of (by decide) | with_reducible first | assumption | apply kept_opWrite | apply kept_streamOp
                                                                 | refine sOutKept_wait ?_ | refine sOutKept_done _ _ ?_ | intro _

theorem kept_execStreamRead {m : Nat} {r : State} (a0 : RingNo) (s : State) (hm : Sub 281908351736 m) (hk : Kept m r s) : ResKept m r
    (@execStreamRead a0 s) := by
  unfold execStreamRead; try dsimp only
  repeat' first | exact hm.of (by decide) | with_reducible first | assumption | apply kept_opRead | apply kept_streamOp
                                                                 | refine sOutKept_wait ?_ | refine sOutKept_done _ _ ?_ | intro _

theorem kept_execStreamAppend {m : Nat} {r : State} (a0 : RingNo) (s : State) (hm : Sub 281908351736 m) (hk : Kept m r s) : ResKept m r
    (@execStreamAppend a0 s) := by
  unfold execStreamAppend; try dsimp only
  repeat' first | exact hm.of (by decide) | with_reducible first | assumption | apply kept_opAppend | apply kept_streamOp
                                                                 | refine sOutKept_wait ?_ | refine sOutKept_done _ _ ?_ | intro _

theorem kept_execStreamCommit {m : Nat} {r : State} (a0 : RingNo) (s : State) (hm : Sub 281908351736 m) (hk : Kept m r s) : ResKept m r
    (@execStreamCommit a0 s) := by
  unfold execStreamCommit; try dsimp only
  repeat' first | exact hm.of (by decide) | with_reducible first | assumption | apply kept_opCommit | apply kept_streamOp
                                                                 | refine sOutKept_wait ?_ | refine sOutKept_done _ _ ?_ | intro _

theorem kept_execStreamDeadline {m : Nat} {r : State} (a0 : RingNo) (s : State) (hm : Sub 281908351736 m) (hk : Kept m r s) : ResKept m r
    (@execStreamDeadline a0 s) := by
  unfold execStreamDeadline; try dsimp only
  repeat' first | exact hm.of (by decide) | with_reducible first | assumption | apply kept_opDeadline | apply kept_streamOp
                                                                 | refine sOutKept_wait ?_ | refine sOutKept_done _ _ ?_ | intro _

theorem kept_execStreamPause {m : Nat} {r : State} (a0 : RingNo) (s : State) (hm : Sub 281908351736 m) (hk : Kept m r s) : ResKept m r
    (@execStreamPause a0 s) := by
  unfold execStreamPause; try dsimp only
  repeat' first | exact hm.of (by decide) | with_reducible first | assumption | apply kept_opPause | apply kept_streamOp
                                                                 | refine sOutKept_wait ?_ | refine sOutKept_done _ _ ?_ | intro _

theorem kept_execStreamResume {m : Nat} {r : State} (a0 : RingNo) (s : State) (hm : Sub 281908351736 m) (hk : Kept m r s) : ResKept m r
    (@execStreamResume a0 s) := by
  unfold execStreamResume; try dsimp only
  repeat' first | exact hm.of (by decide) | with_reducible first | assumption | apply kept_opResume | apply kept_streamOp
                                                                 | refine sOutKept_wait ?_ | refine sOutKept_done _ _ ?_ | intro _

theorem kept_execStreamClose {m : Nat} {r : State} (a0 : RingNo) (s : State) (hm : Sub 281975460600 m) (hk : Kept m r s) : ResKept m r
    (@execStreamClose a0 s) := by
  unfold execStreamClose; try dsimp only
  repeat' first | exact hm.of (by decide) | with_reducible first | assumption | apply kept_opClose | apply kept_streamOp
                                                                 | refine sOutKept_wait ?_ | refine sOutKept_done _ _ ?_ | intro _

theorem kept_execStreamExtend {m : Nat} {r : State} (a0 : RingNo) (s : State) (hm : Sub 281908351736 m) (hk : Kept m r s) : ResKept m r
    (@execStreamExtend a0 s) := by
  unfold execStreamExtend; try dsimp only
  repeat' first | exact hm.of (by decide) | with_reducible first | assumption | apply kept_opExtend | apply kept_streamOp
                                                                 | refine sOutKept_wait ?_ | refine sOutKept_done _ _ ?_ | intro _

end Sys2Proof
end

