-- ==== Sys2Proof/Laws/KeptGroup.lean ====
section
/-! SUPPORT. What the definitions of Machine/Group.lean leave of the state as it was. -/

namespace Sys2Proof

open Sys2Proof.Machine

set_option linter.unusedVariables false

theorem kept_setGroup {m : Nat} {r : State} (s : State) (g : GroupState) (hm : Sub 17179869184 m) (hk : Kept m r s) : Kept m r (@setGroup
    s g) := by
  unfold setGroup; try dsimp only
  repeat' with_reducible first | assumption | (refine Kept.record 17179869184 ?_ rfl rfl ?_ ?_; assumption)
                               | simp +decide only [mix, cond_eq_ite, if_true, if_false]

theorem kept_putFl {m : Nat} {r : State} (s : State) (f : Nat) (x : FlueLink) (hm : Sub 359184208632 m) (hk : Kept m r s) : Kept m r
    (@putFl s f x) := by
  unfold putFl; try dsimp only
  repeat' first | exact hm.of (by decide) | with_reducible first | assumption | apply kept_State_setFl | apply kept_setReady

theorem kept_failCarried {m : Nat} {r : State} (s : State) (f : Nat) (hm : Sub 290747881208 m) (hk : Kept m r s) : Kept m r (@failCarried
    s f) := by
  unfold failCarried; try dsimp only
  repeat' first | exact hm.of (by decide) | with_reducible first | assumption | apply kept_giveErr | apply kept_foldl
                                                                 | apply kept_foldl_snd | apply kept_foldl_fst | intro _

theorem kept_rawDown {m : Nat} {r : State} (s : State) (f : Nat) (cause : Nat) (dst : FState) (hm : Sub 496906311416 m) (hk : Kept m r s)
    : Kept m r (@rawDown s f cause dst) := by
  unfold rawDown; try dsimp only
  repeat' first | exact hm.of (by decide) | with_reducible first | assumption | apply kept_dropSessions | apply kept_failCarried
                                                                 | apply kept_putFl

theorem kept_settleTest {m : Nat} {r : State} (s : State) (hm : Sub 17179869184 m) (hk : Kept m r s) : Kept m r (@settleTest s) := by
  unfold settleTest; try dsimp only
  repeat' first | exact hm.of (by decide) | with_reducible first | assumption | apply kept_setGroup | split

theorem kept_sendCtrl {m : Nat} {r : State} (s : State) (p : Nat) (what : Nat) (fields : List Nat) (hm : Sub 8589934608 m) (hk : Kept m r
    s) : Kept m r (@sendCtrl s p what fields) := by
  unfold sendCtrl; try dsimp only
  repeat' first | exact hm.of (by decide) | with_reducible first | assumption | apply kept_State_emit | apply kept_flueSend | split

theorem kept_sendMembers {m : Nat} {r : State} (s : State) (what : Nat) (fields : List Nat) (hm : Sub 8589934608 m) (hk : Kept m r s) :
    Kept m r (@sendMembers s what fields) := by
  unfold sendMembers; try dsimp only
  repeat' first | exact hm.of (by decide) | with_reducible first | assumption | apply kept_sendCtrl | apply kept_foldl
                                                                 | apply kept_foldl_snd | apply kept_foldl_fst | intro _

theorem kept_refuseMsg {m : Nat} {r : State} (s : State) (code : Nat) (hm : Sub 274877906960 m) (hk : Kept m r s) : Kept m r (@refuseMsg s
    code) := by
  unfold refuseMsg; try dsimp only
  repeat' first | exact hm.of (by decide) | with_reducible first | assumption | apply kept_State_emit | apply kept_State_logStk

theorem kept_recheckLinks {m : Nat} {r : State} (s : State) (hm : Sub 359184208632 m) (hk : Kept m r s) : Kept m r (@recheckLinks s) := by
  unfold recheckLinks; try dsimp only
  repeat' first | exact hm.of (by decide) | with_reducible first | assumption | apply kept_putFl | split | apply kept_foldl
                                                                 | apply kept_foldl_snd | apply kept_foldl_fst | intro _

theorem kept_putMemb {m : Nat} {r : State} (s : State) (p : Nat) (st : BitVec 2) (epoch : W32) (idh : W64) (hm : Sub 376364077816 m) (hk :
    Kept m r s) : Kept m r (@putMemb s p st epoch idh) := by
  unfold putMemb; try dsimp only
  repeat' first | exact hm.of (by decide) | with_reducible first | assumption | apply kept_State_setMemb | apply kept_recheckLinks
                                                                 | apply kept_setGroup

theorem kept_newMaster {m : Nat} {r : State} (s : State) (hm : Sub 17179869184 m) (hk : Kept m r s) : Kept m r (@newMaster s) := by
  unfold newMaster; try dsimp only
  repeat' first | exact hm.of (by decide) | with_reducible first | assumption | apply kept_setGroup | split

theorem kept_membChange {m : Nat} {r : State} (s : State) (p : Nat) (st : BitVec 2) (idh : W64) (hm : Sub 376364077816 m) (hk : Kept m r
    s) : Kept m r (@membChange s p st idh) := by
  unfold membChange; try dsimp only
  repeat' first | exact hm.of (by decide) | with_reducible first | assumption | apply kept_State_emit | apply kept_newMaster
                                                                 | apply kept_putMemb | apply kept_sendCtrl | split | apply kept_foldl
                                                                 | apply kept_foldl_snd | apply kept_foldl_fst | intro _

theorem kept_failRequests {m : Nat} {r : State} (s : State) (p : Nat) (hm : Sub 290747881208 m) (hk : Kept m r s) : Kept m r
    (@failRequests s p) := by
  unfold failRequests; try dsimp only
  repeat' first | exact hm.of (by decide) | with_reducible first | assumption | apply kept_giveErr | apply kept_foldl
                                                                 | apply kept_foldl_snd | apply kept_foldl_fst | intro _

theorem kept_positionLost {m : Nat} {r : State} (s : State) (p : Nat) (departed : Bool) (hm : Sub 376647227128 m) (hk : Kept m r s) : Kept
    m r (@positionLost s p departed) := by
  unfold positionLost; try dsimp only
  repeat' first | exact hm.of (by decide) | with_reducible first | assumption | apply kept_failRequests | apply kept_membChange
                                                                 | apply kept_newMaster | apply kept_setGroup | split

theorem kept_peerGone {m : Nat} {r : State} (s : State) (idh : W64) (departed : Bool) (hm : Sub 514086180600 m) (hk : Kept m r s) : Kept m
    r (@peerGone s idh departed) := by
  unfold peerGone; try dsimp only
  repeat' first | exact hm.of (by decide) | with_reducible first | assumption | apply kept_partnerEvent | apply kept_positionLost
                                                                 | apply kept_rawDown | apply kept_sendCtrl | apply kept_setGroup | split
                                                                 | apply kept_foldl | apply kept_foldl_snd | apply kept_foldl_fst
                                                                 | intro _

theorem kept_linkDown {m : Nat} {r : State} (s : State) (f : Nat) (cause : Nat) (dst : optParam FState FState.down) (hm : Sub 514086180600
    m) (hk : Kept m r s) : Kept m r (@linkDown s f cause dst) := by
  unfold linkDown; try dsimp only
  repeat' first | exact hm.of (by decide) | with_reducible first | assumption | apply kept_peerGone | apply kept_rawDown
                                                                 | apply kept_settleAll | split

theorem kept_execPeerWatchdogExpiry {m : Nat} {r : State} (idh : W64) (s : State) (hm : Sub 514086180600 m) (hk : Kept m r s) : ResKept m
    r (@execPeerWatchdogExpiry idh s) := by
  unfold execPeerWatchdogExpiry; try dsimp only
  repeat' first | exact hm.of (by decide) | with_reducible first | assumption | apply kept_peerGone | apply kept_settleAll
                                                                 | refine ResKept.next ?_ | refine ResKept.refused _ | split

theorem kept_execDead {m : Nat} {r : State} (pos : Position) (reporter : Position) (auth : Bool) (s : State) (hm : Sub 376647227128 m) (hk
    : Kept m r s) : ResKept m r (@execDead pos reporter auth s) := by
  unfold execDead; try dsimp only
  repeat' first | exact hm.of (by decide) | with_reducible first | assumption | apply kept_positionLost | apply kept_refuseMsg
                                                                 | apply kept_settleAll | refine ResKept.next ?_ | split

theorem kept_applyHeld {m : Nat} {r : State} (a0 : Nat) (a1 : State) (hm : Sub 376364077816 m) (hk : Kept m r a1) : Kept m r (@applyHeld
    a0 a1) := by
  induction a0 generalizing a1 with
  | zero =>
    unfold applyHeld; try dsimp only
    repeat' first | exact hm.of (by decide) | with_reducible first | assumption | apply kept_putMemb | apply kept_setGroup | split
  | succ l ih =>
    unfold applyHeld; try dsimp only
    repeat' first | exact hm.of (by decide) | with_reducible first | assumption | apply ih | apply kept_putMemb | apply kept_setGroup
                                                                   | split

theorem kept_execGroup {m : Nat} {r : State} (src : Position) (epoch : W32) (pos : Position) (st : BitVec 2) (idh : W64) (auth : Bool) (s
    : State) (hm : Sub 376364077816 m) (hk : Kept m r s) : ResKept m r (@execGroup src epoch pos st idh auth s) := by
  unfold execGroup; try dsimp only
  repeat' first | exact hm.of (by decide) | with_reducible first | assumption | apply kept_State_logTag | apply kept_applyHeld
                                                                 | apply kept_newMaster | apply kept_putMemb | apply kept_refuseMsg
                                                                 | apply kept_sendCtrl | apply kept_setGroup | refine ResKept.next ?_
                                                                 | split

theorem kept_cmdErr {m : Nat} {r : State} (s : State) (pos : Position) (act : BitVec 2) (err : Bool) (hm : Sub 17179869184 m) (hk : Kept m
    r s) : Kept m r (@cmdErr s pos act err) := by
  unfold cmdErr; try dsimp only
  repeat' first | exact hm.of (by decide) | with_reducible first | assumption | apply kept_setGroup

theorem kept_execMembSetEmpty {m : Nat} {r : State} (pos : Position) (s : State) (hm : Sub 376364077816 m) (hk : Kept m r s) : ResKept m r
    (@execMembSetEmpty pos s) := by
  unfold execMembSetEmpty; try dsimp only
  repeat' first | exact hm.of (by decide) | with_reducible first | assumption | apply kept_cmdErr | apply kept_membChange
                                                                 | refine ResKept.next ?_ | split

theorem kept_execMembAdmit {m : Nat} {r : State} (pos : Position) (s : State) (hm : Sub 376364077816 m) (hk : Kept m r s) : ResKept m r
    (@execMembAdmit pos s) := by
  unfold execMembAdmit; try dsimp only
  repeat' first | exact hm.of (by decide) | with_reducible first | assumption | apply kept_State_logTag | apply kept_cmdErr
                                                                 | apply kept_membChange | refine ResKept.next ?_ | split
                                                                 | apply kept_foldl | apply kept_foldl_snd | apply kept_foldl_fst
                                                                 | intro _

theorem kept_execJoinReq {m : Nat} {r : State} (a0 : OfferMsg) (s : State) (hm : Sub 292057776144 m) (hk : Kept m r s) : ResKept m r
    (@execJoinReq a0 s) := by
  unfold execJoinReq; try dsimp only
  repeat' first | exact hm.of (by decide) | with_reducible first | assumption | apply kept_State_logTag | apply kept_refuseMsg
                                                                 | apply kept_setGroup | refine ResKept.next ?_ | split

theorem kept_offerDue {m : Nat} {r : State} (s : State) (hm : Sub 17179869200 m) (hk : Kept m r s) : Kept m r (@offerDue s) := by
  unfold offerDue; try dsimp only
  repeat' first | exact hm.of (by decide) | with_reducible first | assumption | apply kept_State_emits | apply kept_setGroup | split

theorem kept_stepTick {m : Nat} {r : State} (s : State) (dst : W64) (hm : Sub 299088220922 m) (hk : Kept m r s) : Kept m r (@stepTick s
    dst) := by
  unfold stepTick; try dsimp only
  repeat' first | exact hm.of (by decide) | with_reducible first | assumption | apply kept_missesTo
                                                                 | (refine Kept.record 17179869186 ?_ rfl rfl ?_ ?_; (first | assumption | apply kept_missesTo))
                                                                 | simp +decide only [mix, cond_eq_ite, if_true, if_false] | split

theorem kept_runBursts {m : Nat} {r : State} (s : State) (hm : Sub 34359738368 m) (hk : Kept m r s) : Kept m r (@runBursts s) := by
  unfold runBursts; try dsimp only
  repeat' with_reducible first | assumption | (refine Kept.record 34359738368 ?_ rfl rfl ?_ ?_; assumption)
                               | simp +decide only [mix, cond_eq_ite, if_true, if_false]

theorem kept_setupRec {m : Nat} {r : State} (s : State) (entry : Nat) (hm : Sub 281874797304 m) (hk : Kept m r s) : Kept m r (@setupRec s
    entry) := by
  unfold setupRec; try dsimp only
  repeat' first | exact hm.of (by decide) | with_reducible first | assumption | apply kept_State_logE | apply kept_postFring
                                                                 | apply kept_takeFree | split | (refine kept_pair ‹_ = (_, _)› ?_)

theorem kept_arrayUpset {m : Nat} {r : State} (s : State) (a1 : ArrayUpset) (hm : Sub 428139641592 m) (hk : Kept m r s) : Kept m r
    (@arrayUpset s a1) := by
  unfold arrayUpset; try dsimp only
  repeat' first | exact hm.of (by decide) | with_reducible first | assumption | apply kept_State_logE | apply kept_State_modGr
                                                                 | apply kept_State_setHost | apply kept_State_setRing
                                                                 | apply kept_State_setStream | apply kept_State_setTally
                                                                 | apply kept_fault | apply kept_ringDisableOp | apply kept_setupRec
                                                                 | (refine Kept.record 146230233152 ?_ rfl rfl ?_ ?_; (first | assumption | apply kept_State_logE | apply kept_State_modGr | apply kept_State_setHost | apply kept_State_setRing | apply kept_State_setStream | apply kept_State_setTally | apply kept_fault | apply kept_ringDisableOp | apply kept_setupRec))
                                                                 | simp +decide only [mix, cond_eq_ite, if_true, if_false] | split

theorem kept_execTimebaseTick {m : Nat} {r : State} (upset : Option ArrayUpset) (s : State) (hm : Sub 479679281918 m) (hk : Kept m r s) :
    ResKept m r (@execTimebaseTick upset s) := by
  unfold execTimebaseTick; try dsimp only
  repeat' first | exact hm.of (by decide) | with_reducible first | assumption | apply kept_arrayUpset | apply kept_missesTo
                                                                 | apply kept_offerDue | apply kept_runBursts | apply kept_vecRunAll
                                                                 | refine ResKept.next ?_
                                                                 | (refine Kept.record 17179869190 ?_ rfl rfl ?_ ?_; (first | assumption | apply kept_arrayUpset | apply kept_missesTo | apply kept_offerDue | apply kept_runBursts | apply kept_vecRunAll))
                                                                 | simp +decide only [mix, cond_eq_ite, if_true, if_false] | split

theorem kept_execSyncSend {m : Nat} {r : State} (s : State) (hm : Sub 25769803792 m) (hk : Kept m r s) : ResKept m r (@execSyncSend s) :=
    by
  unfold execSyncSend; try dsimp only
  repeat' first | exact hm.of (by decide) | with_reducible first | assumption | apply kept_flueSendAll | apply kept_setGroup
                                                                 | refine ResKept.next ?_ | refine ResKept.refused _ | split

theorem kept_follow {m : Nat} {r : State} (s : State) (count : W64) (hm : Sub 299088220922 m) (hk : Kept m r s) : Kept m r (@follow s
    count) := by
  unfold follow; try dsimp only
  repeat' first | exact hm.of (by decide) | with_reducible first | assumption | apply kept_State_logTag | apply kept_setGroup
                                                                 | apply kept_stepTick | split

theorem kept_execSync {m : Nat} {r : State} (f : FlueLinkNo) (count : W64) (s : State) (hm : Sub 307678155514 m) (hk : Kept m r s) :
    ResKept m r (@execSync f count s) := by
  unfold execSync; try dsimp only
  repeat' first | exact hm.of (by decide) | with_reducible first | assumption | apply kept_flueSendAll | apply kept_follow
                                                                 | refine ResKept.next ?_ | refine ResKept.refused _ | split

theorem kept_execFormOffer {m : Nat} {r : State} (a0 : OfferMsg) (s : State) (hm : Sub 292057776144 m) (hk : Kept m r s) : ResKept m r
    (@execFormOffer a0 s) := by
  unfold execFormOffer; try dsimp only
  repeat' first | exact hm.of (by decide) | with_reducible first | assumption | apply kept_refuseMsg | apply kept_setGroup
                                                                 | refine ResKept.next ?_ | split

theorem kept_foundTable {m : Nat} {r : State} (s : State) (hm : Sub 307678155514 m) (hk : Kept m r s) : Kept m r (@foundTable s) := by
  unfold foundTable; try dsimp only
  repeat' first | exact hm.of (by decide) | with_reducible first | assumption | apply kept_sendMembers | apply kept_setGroup
                                                                 | apply kept_stepTick

theorem kept_execOfferWindowEnd {m : Nat} {r : State} (s : State) (hm : Sub 307678155514 m) (hk : Kept m r s) : ResKept m r
    (@execOfferWindowEnd s) := by
  unfold execOfferWindowEnd; try dsimp only
  repeat' first | exact hm.of (by decide) | with_reducible first | assumption | apply kept_foundTable | apply kept_setGroup
                                                                 | refine ResKept.next ?_ | refine ResKept.refused _ | split

theorem kept_execTable {m : Nat} {r : State} (epoch : W32) (mpos : Position) (start : W64) (entries : List MembIn) (auth : Bool) (s :
    State) (hm : Sub 376397632250 m) (hk : Kept m r s) : ResKept m r (@execTable epoch mpos start entries auth s) := by
  unfold execTable; try dsimp only
  repeat' first | exact hm.of (by decide) | with_reducible first | assumption | apply kept_State_logTag | apply kept_applyHeld
                                                                 | apply kept_follow | apply kept_recheckLinks | apply kept_refuseMsg
                                                                 | apply kept_sendCtrl | apply kept_setGroup | apply kept_stepTick
                                                                 | refine ResKept.next ?_ | refine ResKept.fault _ | split

theorem kept_execAck {m : Nat} {r : State} (epoch : W32) (pos : Position) (auth : Bool) (s : State) (hm : Sub 292057776144 m) (hk : Kept m
    r s) : ResKept m r (@execAck epoch pos auth s) := by
  unfold execAck; try dsimp only
  repeat' first | exact hm.of (by decide) | with_reducible first | assumption | apply kept_refuseMsg | apply kept_setGroup
                                                                 | refine ResKept.next ?_ | split

theorem kept_execAckWindowEnd {m : Nat} {r : State} (s : State) (hm : Sub 376364077816 m) (hk : Kept m r s) : ResKept m r
    (@execAckWindowEnd s) := by
  unfold execAckWindowEnd; try dsimp only
  repeat' first | exact hm.of (by decide) | with_reducible first | assumption | apply kept_putMemb | apply kept_sendMembers
                                                                 | apply kept_setGroup | refine ResKept.next ?_ | refine ResKept.refused _
                                                                 | split | apply kept_foldl | apply kept_foldl_snd | apply kept_foldl_fst
                                                                 | intro _

theorem kept_execHelloSend {m : Nat} {r : State} (s : State) (hm : Sub 25769803792 m) (hk : Kept m r s) : ResKept m r (@execHelloSend s)
    := by
  unfold execHelloSend; try dsimp only
  repeat' first | exact hm.of (by decide) | with_reducible first | assumption | apply kept_flueSendAll | apply kept_setGroup
                                                                 | refine ResKept.next ?_ | refine ResKept.refused _ | split

theorem kept_helloPeer {m : Nat} {r : State} (s : State) (f : Nat) (idh : W64) (pv : Bool) (pos : Nat) (spare : Bool) (hm : Sub
    307644601080 m) (hk : Kept m r s) : Kept m r (@helloPeer s f idh pv pos spare) := by
  unfold helloPeer; try dsimp only
  repeat' first | exact hm.of (by decide) | with_reducible first | assumption | apply kept_State_setFl | apply kept_partnerEvent
                                                                 | apply kept_setGroup | split

theorem kept_joinGroup {m : Nat} {r : State} (s : State) (mpos : Nat) (hm : Sub 17179869200 m) (hk : Kept m r s) : Kept m r (@joinGroup s
    mpos) := by
  unfold joinGroup; try dsimp only
  repeat' first | exact hm.of (by decide) | with_reducible first | assumption | apply kept_State_emit | apply kept_setGroup | split

theorem kept_execHello {m : Nat} {r : State} (f : FlueLinkNo) (payload : BitVec 256) (s : State) (hm : Sub 514086180600 m) (hk : Kept m r
    s) : ResKept m r (@execHello f payload s) := by
  unfold execHello; try dsimp only
  repeat' first | exact hm.of (by decide) | with_reducible first | assumption | apply kept_State_logTag | apply kept_helloPeer
                                                                 | apply kept_joinGroup | apply kept_partnerEvent | apply kept_peerGone
                                                                 | apply kept_putFl | apply kept_settleAll | refine ResKept.next ?_
                                                                 | refine ResKept.refused _ | split

end Sys2Proof
end

