-- ==== Sys2Proof/Laws/KeptFlueLinks.lean ====
section
/-! SUPPORT. What the definitions of Machine/FlueLinks.lean leave of the state as it was. -/

namespace Sys2Proof

open Sys2Proof.Machine

set_option linter.unusedVariables false

theorem kept_downIf {m : Nat} {r : State} (s : State) (f : FlueLinkNo) (ok : Bool) (cause : Nat) (hm : Sub 514086180600 m) (hk : Kept m r
    s) : ResKept m r (@downIf s f ok cause) := by
  unfold downIf; try dsimp only
  repeat' first | exact hm.of (by decide) | with_reducible first | assumption | apply kept_linkDown | refine ResKept.next ?_
                                                                 | refine ResKept.refused _ | split

theorem kept_execFlueFlitReceive {m : Nat} {r : State} (f : FlueLinkNo) (flit : FlitIn) (crcOk : Bool) (tagOk : Bool)
    (second : Bool) (s : State) (hm : Sub 514086180600 m) (hk : Kept m r s) : ResKept m r (@execFlueFlitReceive f flit crcOk tagOk
    second s) := by
  unfold execFlueFlitReceive; try dsimp only
  repeat' first | exact hm.of (by decide) | with_reducible first | assumption | apply kept_State_emit | apply kept_State_setFl
                                                                 | apply kept_flueAcked | apply kept_flueReplay | apply kept_linkDown
                                                                 | refine ResKept.next ?_ | refine ResKept.refused _ | split

theorem kept_execFlueReplayFail {m : Nat} {r : State} (f : FlueLinkNo) (s : State) (hm : Sub 514086180600 m) (hk : Kept m r s) : ResKept m
    r (@execFlueReplayFail f s) := by
  unfold execFlueReplayFail; try dsimp only
  repeat' first | exact hm.of (by decide) | with_reducible first | assumption | apply kept_downIf

theorem kept_execFlueErrrate {m : Nat} {r : State} (f : FlueLinkNo) (s : State) (hm : Sub 514086180600 m) (hk : Kept m r s) : ResKept m r
    (@execFlueErrrate f s) := by
  unfold execFlueErrrate; try dsimp only
  repeat' first | exact hm.of (by decide) | with_reducible first | assumption | apply kept_downIf

theorem kept_execFlueLos {m : Nat} {r : State} (f : FlueLinkNo) (s : State) (hm : Sub 514086180600 m) (hk : Kept m r s) : ResKept m r
    (@execFlueLos f s) := by
  unfold execFlueLos; try dsimp only
  repeat' first | exact hm.of (by decide) | with_reducible first | assumption | apply kept_downIf

theorem kept_execFlueLockLost {m : Nat} {r : State} (f : FlueLinkNo) (s : State) (hm : Sub 514086180600 m) (hk : Kept m r s) : ResKept m r
    (@execFlueLockLost f s) := by
  unfold execFlueLockLost; try dsimp only
  repeat' first | exact hm.of (by decide) | with_reducible first | assumption | apply kept_downIf

theorem kept_execFlueRemoteDown {m : Nat} {r : State} (f : FlueLinkNo) (s : State) (hm : Sub 514086180600 m) (hk : Kept m r s) : ResKept m
    r (@execFlueRemoteDown f s) := by
  unfold execFlueRemoteDown; try dsimp only
  repeat' first | exact hm.of (by decide) | with_reducible first | assumption | apply kept_downIf

theorem kept_execFlueRetrainTimer {m : Nat} {r : State} (f : FlueLinkNo) (s : State) (hm : Sub 359184208632 m) (hk : Kept m r s) : ResKept
    m r (@execFlueRetrainTimer f s) := by
  unfold execFlueRetrainTimer; try dsimp only
  repeat' first | exact hm.of (by decide) | with_reducible first | assumption | apply kept_putFl | refine ResKept.next ?_
                                                                 | refine ResKept.refused _ | split

theorem kept_execFlueTrainingDone {m : Nat} {r : State} (f : FlueLinkNo) (lanes : BitVec 4) (s : State) (hm : Sub 514086180600 m) (hk :
    Kept m r s) : ResKept m r (@execFlueTrainingDone f lanes s) := by
  unfold execFlueTrainingDone; try dsimp only
  repeat' first | exact hm.of (by decide) | with_reducible first | assumption | apply kept_linkDown | apply kept_putFl
                                                                 | refine ResKept.next ?_ | refine ResKept.refused _ | split

theorem kept_execFlueTrainingTimeout {m : Nat} {r : State} (f : FlueLinkNo) (s : State) (hm : Sub 514086180600 m) (hk : Kept m r s) :
    ResKept m r (@execFlueTrainingTimeout f s) := by
  unfold execFlueTrainingTimeout; try dsimp only
  repeat' first | exact hm.of (by decide) | with_reducible first | assumption | apply kept_downIf

theorem kept_execFlueAttestDone {m : Nat} {r : State} (f : FlueLinkNo) (a : AttestIn) (s : State) (hm : Sub 514086180600 m) (hk : Kept m r
    s) : ResKept m r (@execFlueAttestDone f a s) := by
  unfold execFlueAttestDone; try dsimp only
  repeat' first | exact hm.of (by decide) | with_reducible first | assumption | apply kept_linkDown | apply kept_putFl
                                                                 | refine ResKept.next ?_ | refine ResKept.refused _ | split

theorem kept_execProbationEnd {m : Nat} {r : State} (f : FlueLinkNo) (s : State) (hm : Sub 514086180600 m) (hk : Kept m r s) : ResKept m r
    (@execProbationEnd f s) := by
  unfold execProbationEnd; try dsimp only
  repeat' first | exact hm.of (by decide) | with_reducible first | assumption | apply kept_linkDown | apply kept_putFl
                                                                 | refine ResKept.next ?_ | refine ResKept.refused _ | split

theorem kept_execFlueLinkUp {m : Nat} {r : State} (f : FlueLinkNo) (farMember : Bool) (farMatches : Bool) (farHold : Bool) (s : State) (hm
    : Sub 359184208632 m) (hk : Kept m r s) : ResKept m r (@execFlueLinkUp f farMember farMatches farHold s) := by
  unfold execFlueLinkUp; try dsimp only
  repeat' first | exact hm.of (by decide) | with_reducible first | assumption | apply kept_putFl | refine ResKept.next ?_
                                                                 | refine ResKept.refused _ | split

theorem kept_execFlueKeyUpdate {m : Nat} {r : State} (f : FlueLinkNo) (s : State) (hm : Sub 514086180600 m) (hk : Kept m r s) : ResKept m
    r (@execFlueKeyUpdate f s) := by
  unfold execFlueKeyUpdate; try dsimp only
  repeat' first | exact hm.of (by decide) | with_reducible first | assumption | apply kept_State_setFl | apply kept_flueSend
                                                                 | apply kept_linkDown | refine ResKept.next ?_ | refine ResKept.refused _
                                                                 | split

theorem kept_execKey {m : Nat} {r : State} (f : FlueLinkNo) (seq : BitVec 12) (s : State) (hm : Sub 8589934592 m) (hk : Kept m r s) :
    ResKept m r (@execKey f seq s) := by
  unfold execKey; try dsimp only
  repeat' first | exact hm.of (by decide) | with_reducible first | assumption | apply kept_State_setFl | refine ResKept.next ?_
                                                                 | refine ResKept.refused _ | split

theorem kept_linkEn {m : Nat} {r : State} (s : State) (f : Nat) (en : Bool) (hm : Sub 514086180600 m) (hk : Kept m r s) : Kept m r
    (@linkEn s f en) := by
  unfold linkEn; try dsimp only
  repeat' first | exact hm.of (by decide) | with_reducible first | assumption | apply kept_State_setFl | apply kept_linkDown
                                                                 | apply kept_putFl | split

theorem kept_execFluLinkEn {m : Nat} {r : State} (f : FlueLinkNo) (en : Bool) (s : State) (hm : Sub 514086180600 m) (hk : Kept m r s) :
    ResKept m r (@execFluLinkEn f en s) := by
  unfold execFluLinkEn; try dsimp only
  repeat' first | exact hm.of (by decide) | with_reducible first | assumption | apply kept_linkEn | refine ResKept.next ?_

theorem kept_linkRetrain {m : Nat} {r : State} (s : State) (f : Nat) (hm : Sub 514086180600 m) (hk : Kept m r s) : Kept m r (@linkRetrain
    s f) := by
  unfold linkRetrain; try dsimp only
  repeat' first | exact hm.of (by decide) | with_reducible first | assumption | apply kept_linkDown | split

theorem kept_execFluLinkRetrain {m : Nat} {r : State} (f : FlueLinkNo) (s : State) (hm : Sub 514086180600 m) (hk : Kept m r s) : ResKept m
    r (@execFluLinkRetrain f s) := by
  unfold execFluLinkRetrain; try dsimp only
  repeat' first | exact hm.of (by decide) | with_reducible first | assumption | apply kept_linkRetrain | refine ResKept.next ?_

theorem kept_linkHold {m : Nat} {r : State} (s : State) (f : Nat) (hold : Bool) (hm : Sub 359184208632 m) (hk : Kept m r s) : Kept m r
    (@linkHold s f hold) := by
  unfold linkHold; try dsimp only
  repeat' first | exact hm.of (by decide) | with_reducible first | assumption | apply kept_putFl

theorem kept_execFluLinkHoldctl {m : Nat} {r : State} (f : FlueLinkNo) (hold : Bool) (s : State) (hm : Sub 359184208632 m) (hk : Kept m r
    s) : ResKept m r (@execFluLinkHoldctl f hold s) := by
  unfold execFluLinkHoldctl; try dsimp only
  repeat' first | exact hm.of (by decide) | with_reducible first | assumption | apply kept_linkHold | refine ResKept.next ?_

theorem kept_linkLoop {m : Nat} {r : State} (s : State) (f : Nat) (loop : Bool) (hm : Sub 376364077816 m) (hk : Kept m r s) : Kept m r
    (@linkLoop s f loop) := by
  unfold linkLoop; try dsimp only
  repeat' first | exact hm.of (by decide) | with_reducible first | assumption | apply kept_State_logTag | apply kept_putFl
                                                                 | apply kept_settleTest | split

theorem kept_execFluLinkLoop {m : Nat} {r : State} (f : FlueLinkNo) (loop : Bool) (s : State) (hm : Sub 376364077816 m) (hk : Kept m r s)
    : ResKept m r (@execFluLinkLoop f loop s) := by
  unfold execFluLinkLoop; try dsimp only
  repeat' first | exact hm.of (by decide) | with_reducible first | assumption | apply kept_linkLoop | refine ResKept.next ?_

end Sys2Proof
end

