-- ==== Sys2Proof/Laws/KeptFabric.lean ====
section
/-! SUPPORT. What the definitions of Machine/Fabric.lean leave of the state as it was. -/

namespace Sys2Proof

open Sys2Proof.Machine

set_option linter.unusedVariables false

theorem kept_setBundleSt {m : Nat} {r : State} (s : State) (die : Nat) (b : Nat) (f : Bundle → Bundle) (hm : Sub 4294967296 m) (hk : Kept
    m r s) : Kept m r (@setBundleSt s die b f) := by
  unfold setBundleSt; try dsimp only
  repeat' first | exact hm.of (by decide) | with_reducible first | assumption | apply kept_State_setBundle

theorem kept_bothSides {m : Nat} {r : State} (s : State) (die : Nat) (b : Nat) (f : Bundle → Bundle) (hm : Sub 4294967296 m) (hk : Kept m
    r s) : Kept m r (@bothSides s die b f) := by
  unfold bothSides; try dsimp only
  repeat' first | exact hm.of (by decide) | with_reducible first | assumption | apply kept_setBundleSt | split

theorem kept_fabricEvent {m : Nat} {r : State} (s : State) (die : Nat) (b : Nat) (width : Nat) (code : Nat) (hm : Sub 281874797304 m) (hk
    : Kept m r s) : Kept m r (@fabricEvent s die b width code) := by
  unfold fabricEvent; try dsimp only
  repeat' first | exact hm.of (by decide) | with_reducible first | assumption | apply kept_packageEvent

theorem kept_routeEvent {m : Nat} {r : State} (s : State) (die : Nat) (code : Nat) (hm : Sub 281874797304 m) (hk : Kept m r s) : Kept m r
    (@routeEvent s die code) := by
  unfold routeEvent; try dsimp only
  repeat' first | exact hm.of (by decide) | with_reducible first | assumption | apply kept_fabricEvent | apply kept_takeFree | split
                                                                 | (refine kept_pair ‹_ = (_, _)› ?_)

theorem kept_refreshHth {m : Nat} {r : State} (s : State) (n : Nat) (hm : Sub 350594274040 m) (hk : Kept m r s) : Kept m r (@refreshHth s
    n) := by
  unfold refreshHth; try dsimp only
  repeat' first | exact hm.of (by decide) | with_reducible first | assumption | apply kept_setReady

theorem kept_setDraining {m : Nat} {r : State} (s : State) (a : Nat) (b : Nat) (v : Bool) (hm : Sub 4294967296 m) (hk : Kept m r s) : Kept
    m r (@setDraining s a b v) := by
  unfold setDraining; try dsimp only
  repeat' with_reducible first | assumption | (refine Kept.record 4294967296 ?_ rfl rfl ?_ ?_; assumption)
                               | simp +decide only [mix, cond_eq_ite, if_true, if_false]

theorem kept_restripe {m : Nat} {r : State} (old : State) (s : State) (hm : Sub 350594274040 m) (hk : Kept m r old) (hk1 : Kept m r s) :
    Kept m r (@restripe old s) := by
  unfold restripe; try dsimp only
  repeat' first | exact hm.of (by decide) | with_reducible first | assumption | apply kept_fabricGo | apply kept_refreshHth
                                                                 | apply kept_routeEvent | apply kept_setDraining | split
                                                                 | apply kept_foldl | apply kept_foldl_snd | apply kept_foldl_fst
                                                                 | intro _

theorem kept_execRouteDrainMarker {m : Nat} {r : State} (src : Fin 5) (dst : Fin 5) (s : State) (hm : Sub 281874797304 m) (hk : Kept m r
    s) : ResKept m r (@execRouteDrainMarker src dst s) := by
  unfold execRouteDrainMarker; try dsimp only
  repeat' first | exact hm.of (by decide) | with_reducible first | assumption | apply kept_fabricGo | apply kept_routeEvent
                                                                 | apply kept_setDraining | refine ResKept.next ?_
                                                                 | refine ResKept.refused _ | split

theorem kept_disableBundle {m : Nat} {r : State} (s : State) (die : Nat) (b : Nat) (hm : Sub 350594274040 m) (hk : Kept m r s) : Kept m r
    (@disableBundle s die b) := by
  unfold disableBundle; try dsimp only
  repeat' first | exact hm.of (by decide) | with_reducible first | assumption | apply kept_bothSides | apply kept_fabricEvent
                                                                 | apply kept_restripe | split

theorem kept_beginTraining {m : Nat} {r : State} (s : State) (die : Nat) (b : Nat) (hm : Sub 350594274040 m) (hk : Kept m r s) : Kept m r
    (@beginTraining s die b) := by
  unfold beginTraining; try dsimp only
  repeat' first | exact hm.of (by decide) | with_reducible first | assumption | apply kept_bothSides | apply kept_restripe

theorem kept_execBundleBringUp {m : Nat} {r : State} (x : Side) (s : State) (hm : Sub 350594274040 m) (hk : Kept m r s) : ResKept m r
    (@execBundleBringUp x s) := by
  unfold execBundleBringUp; try dsimp only
  repeat' first | exact hm.of (by decide) | with_reducible first | assumption | apply kept_beginTraining | apply kept_bothSides
                                                                 | refine ResKept.next ?_ | refine ResKept.refused _
                                                                 | refine ResKept.fault _ | split

theorem kept_execKeptMapBringUp {m : Nat} {r : State} (x : Side) (s : State) (hm : Sub 350594274040 m) (hk : Kept m r s) : ResKept m r
    (@execKeptMapBringUp x s) := by
  unfold execKeptMapBringUp; try dsimp only
  repeat' first | exact hm.of (by decide) | with_reducible first | assumption | apply kept_bothSides | apply kept_restripe
                                                                 | apply kept_setBundleSt | refine ResKept.next ?_
                                                                 | refine ResKept.refused _ | refine ResKept.fault _ | split

theorem kept_endTraining {m : Nat} {r : State} (s : State) (die : Nat) (b : Nat) (goodRx : BitVec 68) (goodTx : BitVec 68) (hm : Sub
    350594274040 m) (hk : Kept m r s) : Kept m r (@endTraining s die b goodRx goodTx) := by
  unfold endTraining; try dsimp only
  repeat' first | exact hm.of (by decide) | with_reducible first | assumption | apply kept_fabricEvent | apply kept_restripe
                                                                 | apply kept_setBundleSt | split

theorem kept_execBringUpDone {m : Nat} {r : State} (x : Side) (goodRx : BitVec 68) (goodTx : BitVec 68) (s : State) (hm : Sub 350594274040
    m) (hk : Kept m r s) : ResKept m r (@execBringUpDone x goodRx goodTx s) := by
  unfold execBringUpDone; try dsimp only
  repeat' first | exact hm.of (by decide) | with_reducible first | assumption | apply kept_endTraining | refine ResKept.next ?_
                                                                 | refine ResKept.refused _ | refine ResKept.fault _ | split

theorem kept_execSidebandTimeout {m : Nat} {r : State} (x : Side) (s : State) (hm : Sub 350594274040 m) (hk : Kept m r s) : ResKept m r
    (@execSidebandTimeout x s) := by
  unfold execSidebandTimeout; try dsimp only
  repeat' first | exact hm.of (by decide) | with_reducible first | assumption | apply kept_disableBundle | refine ResKept.next ?_
                                                                 | refine ResKept.refused _ | refine ResKept.fault _ | split

theorem kept_execBundleCrcError {m : Nat} {r : State} (x : Side) (s : State) (hm : Sub 4294967304 m) (hk : Kept m r s) : ResKept m r
    (@execBundleCrcError x s) := by
  unfold execBundleCrcError; try dsimp only
  repeat' first | exact hm.of (by decide) | with_reducible first | assumption | apply kept_setBundleSt | apply kept_takeFree
                                                                 | refine ResKept.next ?_ | refine ResKept.refused _
                                                                 | refine ResKept.fault _ | split | (refine kept_pair ‹_ = (_, _)› ?_)

theorem kept_retrainBundle {m : Nat} {r : State} (s : State) (die : Nat) (b : Nat) (hm : Sub 350594274040 m) (hk : Kept m r s) : Kept m r
    (@retrainBundle s die b) := by
  unfold retrainBundle; try dsimp only
  repeat' first | exact hm.of (by decide) | with_reducible first | assumption | apply kept_beginTraining | apply kept_fabricEvent | split

theorem kept_execBundleRetrain {m : Nat} {r : State} (x : Side) (s : State) (hm : Sub 350594274040 m) (hk : Kept m r s) : ResKept m r
    (@execBundleRetrain x s) := by
  unfold execBundleRetrain; try dsimp only
  repeat' first | exact hm.of (by decide) | with_reducible first | assumption | apply kept_retrainBundle | refine ResKept.next ?_
                                                                 | refine ResKept.fault _ | split

theorem kept_execBundleReplayThreshold {m : Nat} {r : State} (x : Side) (s : State) (hm : Sub 350594274040 m) (hk : Kept m r s) : ResKept
    m r (@execBundleReplayThreshold x s) := by
  unfold execBundleReplayThreshold; try dsimp only
  repeat' first | exact hm.of (by decide) | with_reducible first | assumption | apply kept_retrainBundle | refine ResKept.next ?_
                                                                 | refine ResKept.refused _ | refine ResKept.fault _ | split

theorem kept_offBundle {m : Nat} {r : State} (s : State) (die : Nat) (b : Nat) (off : Bool) (hm : Sub 350594274040 m) (hk : Kept m r s) :
    Kept m r (@offBundle s die b off) := by
  unfold offBundle; try dsimp only
  repeat' first | exact hm.of (by decide) | with_reducible first | assumption | apply kept_disableBundle | apply kept_setBundleSt | split

theorem kept_execBundleOff {m : Nat} {r : State} (x : Side) (off : Bool) (s : State) (hm : Sub 350594274040 m) (hk : Kept m r s) : ResKept
    m r (@execBundleOff x off s) := by
  unfold execBundleOff; try dsimp only
  repeat' first | exact hm.of (by decide) | with_reducible first | assumption | apply kept_offBundle | refine ResKept.next ?_
                                                                 | refine ResKept.fault _ | split

theorem kept_State_setTest {m : Nat} {r : State} (s : State) (die : Nat) (x : DieTest) (hm : Sub 4294967296 m) (hk : Kept m r s) : Kept m
    r (@State.setTest s die x) := by
  unfold State.setTest; try dsimp only
  repeat' with_reducible first | assumption | (refine Kept.record 4294967296 ?_ rfl rfl ?_ ?_; assumption)
                               | simp +decide only [mix, cond_eq_ite, if_true, if_false]

theorem kept_testEn {m : Nat} {r : State} (s : State) (die : Nat) (en : Bool) (hm : Sub 296352743424 m) (hk : Kept m r s) : Kept m r
    (@testEn s die en) := by
  unfold testEn; try dsimp only
  repeat' first | exact hm.of (by decide) | with_reducible first | assumption | apply kept_State_logTag | apply kept_State_setTest
                                                                 | apply kept_setBundleSt | apply kept_settleTest | split
                                                                 | apply kept_foldl | apply kept_foldl_snd | apply kept_foldl_fst
                                                                 | intro _

theorem kept_testGo {m : Nat} {r : State} (s : State) (die : Nat) (hm : Sub 4294967296 m) (hk : Kept m r s) : Kept m r (@testGo s die) :=
    by
  unfold testGo; try dsimp only
  repeat' first | exact hm.of (by decide) | with_reducible first | assumption | apply kept_State_setTest | split

theorem kept_execDietestEn {m : Nat} {r : State} (die : Fin 5) (who : DevAgent) (en : Bool) (s : State) (hm : Sub 299054667512 m) (hk :
    Kept m r s) : ResKept m r (@execDietestEn die who en s) := by
  unfold execDietestEn; try dsimp only
  repeat' first | exact hm.of (by decide) | with_reducible first | assumption | apply kept_devCommand | apply kept_devRefused
                                                                 | apply kept_testEn | split
                                                                 | (refine kept_next ‹_ = Host.Outcome.next _› ?_)

theorem kept_execDietestGo {m : Nat} {r : State} (die : Fin 5) (who : DevAgent) (s : State) (hm : Sub 281874798328 m) (hk : Kept m r s) :
    ResKept m r (@execDietestGo die who s) := by
  unfold execDietestGo; try dsimp only
  repeat' first | exact hm.of (by decide) | with_reducible first | assumption | apply kept_devCommand | apply kept_devRefused
                                                                 | apply kept_testGo | split
                                                                 | (refine kept_next ‹_ = Host.Outcome.next _› ?_)

theorem kept_execDietestDone {m : Nat} {r : State} (die : Fin 5) (good : List (BitVec 68)) (s : State) (hm : Sub 4294967296 m) (hk : Kept
    m r s) : ResKept m r (@execDietestDone die good s) := by
  unfold execDietestDone; try dsimp only
  repeat' first | exact hm.of (by decide) | with_reducible first | assumption | apply kept_State_setTest | apply kept_setBundleSt
                                                                 | refine ResKept.next ?_ | refine ResKept.refused _
                                                                 | refine ResKept.fault _ | split | apply kept_foldl
                                                                 | apply kept_foldl_snd | apply kept_foldl_fst | intro _

end Sys2Proof
end

