-- ==== Sys2Proof/Laws/KeptFlueRx.lean ====
section
/-! SUPPORT. What the definitions of Machine/FlueRx.lean leave of the state as it was. -/

namespace Sys2Proof

open Sys2Proof.Machine

set_option linter.unusedVariables false

theorem kept_answerPkt {m : Nat} {r : State} (s : State) (p : Pkt) (a2 : FlueMsg) (hm : Sub 8589934608 m) (hk : Kept m r s) : Kept m r
    (@answerPkt s p a2) := by
  unfold answerPkt; try dsimp only
  repeat' first | exact hm.of (by decide) | with_reducible first | assumption | apply kept_flueSend

theorem kept_refusePkt {m : Nat} {r : State} (s : State) (p : Pkt) (why : Nat) (hm : Sub 283467841552 m) (hk : Kept m r s) : Kept m r
    (@refusePkt s p why) := by
  unfold refusePkt; try dsimp only
  repeat' first | exact hm.of (by decide) | with_reducible first | assumption | apply kept_State_logE | apply kept_answerPkt

theorem kept_pktRun {m : Nat} {r : State} (p : Pkt) (len : Nat) (s : State) (run : Res) (hm : Sub 0 m) (hk : Kept m r s) (h_run : ResKept
    m r (run)) : ResKept m r (@pktRun p len s run) := by
  unfold pktRun; try dsimp only
  repeat' first | exact h_run | with_reducible first | assumption | apply h_run | refine ResKept.refused _ | refine ResKept.fault _
                                                     | split | (refine kept_next ‹_ = Host.Outcome.next _› ?_) | intro _

theorem kept_pktDone {m : Nat} {r : State} (s : State) (p : Pkt) (a2 : Resp) (ok : State) (hm : Sub 290464731896 m) (hk : Kept m r s) (hk1
    : Kept m r ok) : ResKept m r (@pktDone s p a2 ok) := by
  unfold pktDone; try dsimp only
  repeat' first | exact hm.of (by decide) | with_reducible first | assumption | apply kept_refusePkt | apply kept_settleAll
                                                                 | refine ResKept.next ?_ | split

theorem kept_execFlueWrite {m : Nat} {r : State} (p : Pkt) (enables : BitVec 128) (data : List Byte) (s : State) (hm : Sub 290464740088 m)
    (hk : Kept m r s) : ResKept m r (@execFlueWrite p enables data s) := by
  unfold execFlueWrite; try dsimp only
  repeat' first | exact hm.of (by decide) | with_reducible first | assumption | apply kept_answerPkt | apply kept_checkExtent
                                                                 | apply kept_countTally | apply kept_pktDone | apply kept_pktRun
                                                                 | apply kept_rawWrite | apply kept_refusePkt | refine ResKept.next ?_
                                                                 | split | (refine kept_pair ‹_ = (_, _)› ?_)
                                                                 | (refine kept_next ‹_ = Host.Outcome.next _› ?_)

theorem kept_execFlueMerge {m : Nat} {r : State} (p : Pkt) (norm : Bool) (data : List Byte) (s : State) (hm : Sub 290464740088 m) (hk :
    Kept m r s) : ResKept m r (@execFlueMerge p norm data s) := by
  unfold execFlueMerge; try dsimp only
  repeat' first | exact hm.of (by decide) | with_reducible first | assumption | apply kept_answerPkt | apply kept_checkExtent
                                                                 | apply kept_countTally | apply kept_pktDone | apply kept_pktRun
                                                                 | apply kept_rawWrite | apply kept_refusePkt | refine ResKept.next ?_
                                                                 | refine ResKept.fault _ | split | (refine kept_pair ‹_ = (_, _)› ?_)
                                                                 | (refine kept_next ‹_ = Host.Outcome.next _› ?_)

theorem kept_execFlueAtomic {m : Nat} {r : State} (p : Pkt) (op : AOp) (wide : Bool) (opnd : W64) (cmp : W64) (s : State) (hm : Sub
    290464740088 m) (hk : Kept m r s) : ResKept m r (@execFlueAtomic p op wide opnd cmp s) := by
  unfold execFlueAtomic; try dsimp only
  repeat' first | exact hm.of (by decide) | with_reducible first | assumption | apply kept_answerPkt | apply kept_countTally
                                                                 | apply kept_physAtomic | apply kept_pktDone | apply kept_pktRun
                                                                 | apply kept_refusePkt | refine ResKept.next ?_ | refine ResKept.fault _
                                                                 | split | (refine kept_triple ‹_ = (_, _, _)› ?_)
                                                                 | (refine kept_next ‹_ = Host.Outcome.next _› ?_)

theorem kept_execFlueRead {m : Nat} {r : State} (p : Pkt) (len : BitVec 8) (s : State) (hm : Sub 290464731896 m) (hk : Kept m r s) :
    ResKept m r (@execFlueRead p len s) := by
  unfold execFlueRead; try dsimp only
  repeat' first | exact hm.of (by decide) | with_reducible first | assumption | apply kept_answerPkt | apply kept_physRead
                                                                 | apply kept_pktDone | apply kept_pktRun | apply kept_refusePkt
                                                                 | refine ResKept.next ?_ | split
                                                                 | (refine kept_triple ‹_ = (_, _, _)› ?_)
                                                                 | (refine kept_next ‹_ = Host.Outcome.next _› ?_)

theorem kept_execFlueForward {m : Nat} {r : State} (f : FlueLinkNo) (src : Position) (dest : Position) (hop : BitVec 2) (addr : BitVec 52)
    (len : BitVec 8) (id : Nat) (s : State) (hm : Sub 8589934608 m) (hk : Kept m r s) : ResKept m r (@execFlueForward f src dest hop addr
    len id s) := by
  unfold execFlueForward; try dsimp only
  repeat' first | exact hm.of (by decide) | with_reducible first | assumption | apply kept_flueSend | refine ResKept.next ?_
                                                                 | refine ResKept.refused _ | refine ResKept.fault _
                                                                 | (refine Kept.record 8589934592 ?_ rfl rfl ?_ ?_; (first | assumption | apply kept_flueSend))
                                                                 | simp +decide only [mix, cond_eq_ite, if_true, if_false] | split

theorem kept_lateAnswer {m : Nat} {r : State} (s : State) (id : Nat) (hm : Sub 0 m) (hk : Kept m r s) : ResKept m r (@lateAnswer s id) :=
    by
  unfold lateAnswer; try dsimp only
  repeat' with_reducible first | assumption | refine ResKept.next ?_ | refine ResKept.refused _ | split

theorem kept_giveAck {m : Nat} {r : State} (s : State) (a1 : OutReq) (hm : Sub 290747881208 m) (hk : Kept m r s) : Kept m r (@giveAck s
    a1) := by
  unfold giveAck; try dsimp only
  repeat' first | exact hm.of (by decide) | with_reducible first | assumption | apply kept_State_setJob | apply kept_dropReq
                                                                 | apply kept_jobGo | apply kept_storeAcked | split

theorem kept_execFlueAck {m : Nat} {r : State} (id : Nat) (s : State) (hm : Sub 290747881208 m) (hk : Kept m r s) : ResKept m r
    (@execFlueAck id s) := by
  unfold execFlueAck; try dsimp only
  repeat' first | exact hm.of (by decide) | with_reducible first | assumption | apply kept_giveAck | apply kept_lateAnswer
                                                                 | apply kept_settleAll | refine ResKept.next ?_
                                                                 | refine ResKept.refused _ | split
                                                                 | (refine kept_next ‹_ = Host.Outcome.next _› ?_)

theorem kept_execFlueData {m : Nat} {r : State} (id : Nat) (data : List Byte) (s : State) (hm : Sub 290747881208 m) (hk : Kept m r s) :
    ResKept m r (@execFlueData id data s) := by
  unfold execFlueData; try dsimp only
  repeat' first | exact hm.of (by decide) | with_reducible first | assumption | apply kept_giveData | apply kept_lateAnswer
                                                                 | apply kept_settleAll | refine ResKept.next ?_
                                                                 | refine ResKept.refused _ | refine ResKept.fault _ | split
                                                                 | (refine kept_next ‹_ = Host.Outcome.next _› ?_)

theorem kept_execFlueErr {m : Nat} {r : State} (id : Nat) (why : FlueErrWhy) (s : State) (hm : Sub 290747881208 m) (hk : Kept m r s) :
    ResKept m r (@execFlueErr id why s) := by
  unfold execFlueErr; try dsimp only
  repeat' first | exact hm.of (by decide) | with_reducible first | assumption | apply kept_giveErr | apply kept_lateAnswer
                                                                 | apply kept_settleAll | refine ResKept.next ?_
                                                                 | refine ResKept.refused _ | split
                                                                 | (refine kept_next ‹_ = Host.Outcome.next _› ?_)

theorem kept_execFlueReadTimeout {m : Nat} {r : State} (id : Nat) (s : State) (hm : Sub 290747881208 m) (hk : Kept m r s) : ResKept m r
    (@execFlueReadTimeout id s) := by
  unfold execFlueReadTimeout; try dsimp only
  repeat' first | exact hm.of (by decide) | with_reducible first | assumption | apply kept_giveErr | apply kept_settleAll
                                                                 | refine ResKept.next ?_ | refine ResKept.refused _ | split

end Sys2Proof
end

