-- ==== Sys2Proof/Laws/KeptMaint.lean ====
section
/-! SUPPORT. What the definitions of Machine/Maint.lean leave of the state as it was. -/

namespace Sys2Proof

open Sys2Proof.Machine

set_option linter.unusedVariables false

theorem kept_dieReg {m : Nat} {r : State} (s : State) (d : Nat) (k : State) (hm : Sub 0 m) (hk : Kept m r s) (hk1 : Kept m r k) : ResKept
    m r (@dieReg s d k) := by
  unfold dieReg; try dsimp only
  repeat' with_reducible first | assumption | refine ResKept.next ?_ | split

theorem kept_maintErr {m : Nat} {r : State} (s : State) (d : Nat) (hm : Sub 536870912 m) (hk : Kept m r s) : Kept m r (@maintErr s d) :=
    by
  unfold maintErr; try dsimp only
  repeat' first | exact hm.of (by decide) | with_reducible first | assumption | apply kept_State_setMaint

theorem kept_maintStart {m : Nat} {r : State} (s : State) (d : Nat) (op : Nat) (hm : Sub 536870912 m) (hk : Kept m r s) : Kept m r
    (@maintStart s d op) := by
  unfold maintStart; try dsimp only
  repeat' first | exact hm.of (by decide) | with_reducible first | assumption | apply kept_State_setMaint | apply kept_maintErr | split

theorem kept_execClean {m : Nat} {r : State} (d : DieNo) (s : State) (hm : Sub 536870912 m) (hk : Kept m r s) : ResKept m r (@execClean d
    s) := by
  unfold execClean; try dsimp only
  repeat' first | exact hm.of (by decide) | with_reducible first | assumption | apply kept_dieReg | apply kept_maintStart

theorem kept_execFlush {m : Nat} {r : State} (d : DieNo) (s : State) (hm : Sub 536870912 m) (hk : Kept m r s) : ResKept m r (@execFlush d
    s) := by
  unfold execFlush; try dsimp only
  repeat' first | exact hm.of (by decide) | with_reducible first | assumption | apply kept_dieReg | apply kept_maintStart

theorem kept_execAshclr {m : Nat} {r : State} (d : DieNo) (s : State) (hm : Sub 536870912 m) (hk : Kept m r s) : ResKept m r (@execAshclr
    d s) := by
  unfold execAshclr; try dsimp only
  repeat' first | exact hm.of (by decide) | with_reducible first | assumption | apply kept_dieReg | apply kept_maintStart

theorem kept_lockStart {m : Nat} {r : State} (s : State) (d : Nat) (ways : Nat) (fill : Bool) (hm : Sub 536870944 m) (hk : Kept m r s) :
    Kept m r (@lockStart s d ways fill) := by
  unfold lockStart; try dsimp only
  repeat' first | exact hm.of (by decide) | with_reducible first | assumption | apply kept_State_setMaint | apply kept_State_zeroBytes
                                                                 | apply kept_maintErr | split

theorem kept_execLock {m : Nat} {r : State} (d : DieNo) (ways : BitVec 4) (fill : Bool) (s : State) (hm : Sub 536870944 m) (hk : Kept m r
    s) : ResKept m r (@execLock d ways fill s) := by
  unfold execLock; try dsimp only
  repeat' first | exact hm.of (by decide) | with_reducible first | assumption | apply kept_dieReg | apply kept_lockStart

theorem kept_copyKeys {m : Nat} {r : State} (s : State) (src dst n : Nat) (hm : Sub 32 m) (hk : Kept m r s) :
    Kept m r (copyKeys s src dst n) := by
  unfold copyKeys
  exact kept_foldl (kept_State_zeroBytes s dst n (hm.of (by decide)) hk)
    fun s x h => h.memory (hm.of (by decide)) _ fun hw => Tab.wf_put _ _ _ _ hw

theorem kept_fillLine {m : Nat} {r : State} (s : State) (src : Nat) (dst : Nat) (ctx : Nat) (hm : Sub 274877906984 m) (hk : Kept m r s) :
    Kept m r (@fillLine s src dst ctx) := by
  unfold fillLine; try dsimp only
  repeat' first | exact hm.of (by decide) | with_reducible first | assumption | apply kept_State_logE | apply kept_State_putBytes
                                                                 | apply kept_copyKeys | apply kept_takeFree | split
                                                                 | (refine kept_pair ‹_ = (_, _)› ?_)

theorem kept_fillWays {m : Nat} {r : State} (s : State) (d : Nat) (src : Nat) (now : Nat) (n : Nat) (hm : Sub 274877906984 m) (hk : Kept m
    r s) : Kept m r (@fillWays s d src now n) := by
  unfold fillWays; try dsimp only
  repeat' first | exact hm.of (by decide) | with_reducible first | assumption | apply kept_fillLine | apply kept_foldl
                                                                 | apply kept_foldl_snd | apply kept_foldl_fst | intro _

theorem kept_cleanLine {m : Nat} {r : State} (s : State) (inv : Bool) (line : Nat) (hm : Sub 4831838208 m) (hk : Kept m r s) : Kept m r
    (@cleanLine s inv line) := by
  unfold cleanLine; try dsimp only
  repeat' first | exact hm.of (by decide) | with_reducible first | assumption | apply kept_evictLine | apply kept_homeSnoop | split

theorem kept_cleanGo {m : Nat} {r : State} (s : State) (d : Nat) (inv : Bool) (hm : Sub 4831838208 m) (hk : Kept m r s) : Kept m r
    (@cleanGo s d inv) := by
  unfold cleanGo; try dsimp only
  repeat' first | exact hm.of (by decide) | with_reducible first | assumption | apply kept_State_setMaint | apply kept_State_setPool
                                                                 | apply kept_cleanLine | split | apply kept_foldl | apply kept_foldl_snd
                                                                 | apply kept_foldl_fst | intro _

theorem kept_lockGo {m : Nat} {r : State} (s : State) (d : Nat) (hm : Sub 279709745192 m) (hk : Kept m r s) : Kept m r (@lockGo s d) := by
  unfold lockGo; try dsimp only
  repeat' first | exact hm.of (by decide) | with_reducible first | assumption | apply kept_State_setMaint | apply kept_State_zeroBytes
                                                                 | apply kept_fillWays | apply kept_thinSet | split | apply kept_foldl
                                                                 | apply kept_foldl_snd | apply kept_foldl_fst | intro _

theorem kept_ashGo {m : Nat} {r : State} (s : State) (d : Nat) (hm : Sub 536870912 m) (hk : Kept m r s) : Kept m r (@ashGo s d) := by
  unfold ashGo; try dsimp only
  repeat' first | exact hm.of (by decide) | with_reducible first | assumption | apply kept_State_setMaint | apply kept_ashBump
                                                                 | (refine Kept.record 536870912 ?_ rfl rfl ?_ ?_; (first | assumption | apply kept_State_setMaint | apply kept_ashBump | apply kept_foldl))
                                                                 | simp +decide only [mix, cond_eq_ite, if_true, if_false]
                                                                 | apply kept_foldl | apply kept_foldl_snd | apply kept_foldl_fst
                                                                 | intro _

theorem kept_maintFinish {m : Nat} {r : State} (s : State) (d : Nat) (hm : Sub 290477315832 m) (hk : Kept m r s) : Kept m r (@maintFinish
    s d) := by
  unfold maintFinish; try dsimp only
  repeat' first | exact hm.of (by decide) | with_reducible first | assumption | apply kept_ashGo | apply kept_cleanGo | apply kept_lockGo
                                                                 | apply kept_wakeHomes | split

theorem kept_execMaintComplete {m : Nat} {r : State} (d : DieNo) (s : State) (hm : Sub 290477315832 m) (hk : Kept m r s) : ResKept m r
    (@execMaintComplete d s) := by
  unfold execMaintComplete; try dsimp only
  repeat' first | exact hm.of (by decide) | with_reducible first | assumption | apply kept_maintFinish | apply kept_ringsGo
                                                                 | apply kept_settleAll | refine ResKept.next ?_
                                                                 | refine ResKept.refused _ | split

theorem kept_ashClear {m : Nat} {r : State} (s : State) (d : Nat) (v : W64) (hm : Sub 275414777856 m) (hk : Kept m r s) : Kept m r
    (@ashClear s d v) := by
  unfold ashClear; try dsimp only
  repeat' first | exact hm.of (by decide) | with_reducible first | assumption | apply kept_State_logTag | apply kept_ashRemove | split

theorem kept_execAshClr {m : Nat} {r : State} (d : DieNo) (value : W64) (s : State) (hm : Sub 275414777856 m) (hk : Kept m r s) : ResKept
    m r (@execAshClr d value s) := by
  unfold execAshClr; try dsimp only
  repeat' first | exact hm.of (by decide) | with_reducible first | assumption | apply kept_ashClear | apply kept_dieReg

theorem kept_ashOvfW1c {m : Nat} {r : State} (s : State) (d : Nat) (i : Nat) (mask : W64) (hm : Sub 536870912 m) (hk : Kept m r s) : Kept
    m r (@ashOvfW1c s d i mask) := by
  unfold ashOvfW1c; try dsimp only
  repeat' with_reducible first | assumption | (refine Kept.record 536870912 ?_ rfl rfl ?_ ?_; assumption)
                               | simp +decide only [mix, cond_eq_ite, if_true, if_false]

theorem kept_execAshOvfClear {m : Nat} {r : State} (d : DieNo) (i : Fin 64) (mask : W64) (s : State) (hm : Sub 536870912 m) (hk : Kept m r
    s) : ResKept m r (@execAshOvfClear d i mask s) := by
  unfold execAshOvfClear; try dsimp only
  repeat' first | exact hm.of (by decide) | with_reducible first | assumption | apply kept_ashOvfW1c | apply kept_dieReg

theorem kept_poolEnter {m : Nat} {r : State} (s : State) (d : Nat) (pways : BitVec 4) (rv : BitVec 8) (hm : Sub 275414777856 m) (hk : Kept
    m r s) : Kept m r (@poolEnter s d pways rv) := by
  unfold poolEnter; try dsimp only
  repeat' first | exact hm.of (by decide) | with_reducible first | assumption | apply kept_State_logTag | apply kept_State_setPool | split

theorem kept_execPoolModeEnter {m : Nat} {r : State} (d : DieNo) (pways : BitVec 4) (rv : BitVec 8) (s : State) (hm : Sub 275414777856 m)
    (hk : Kept m r s) : ResKept m r (@execPoolModeEnter d pways rv s) := by
  unfold execPoolModeEnter; try dsimp only
  repeat' first | exact hm.of (by decide) | with_reducible first | assumption | apply kept_dieReg | apply kept_poolEnter

theorem kept_execPoolModeLeave {m : Nat} {r : State} (d : DieNo) (s : State) (hm : Sub 536870912 m) (hk : Kept m r s) : ResKept m r
    (@execPoolModeLeave d s) := by
  unfold execPoolModeLeave; try dsimp only
  repeat' first | exact hm.of (by decide) | with_reducible first | assumption | apply kept_State_setPool | apply kept_dieReg | split
                                                                 | (refine kept_next ‹_ = Host.Outcome.next _› ?_)

theorem kept_execPoolLeaveDone {m : Nat} {r : State} (d : DieNo) (s : State) (hm : Sub 290477315832 m) (hk : Kept m r s) : ResKept m r
    (@execPoolLeaveDone d s) := by
  unfold execPoolLeaveDone; try dsimp only
  repeat' first | exact hm.of (by decide) | with_reducible first | assumption | apply kept_State_setPool | apply kept_evictLine
                                                                 | apply kept_ringsGo | apply kept_settleAll | apply kept_wakeHomes
                                                                 | refine ResKept.next ?_ | refine ResKept.refused _ | split
                                                                 | apply kept_foldl | apply kept_foldl_snd | apply kept_foldl_fst
                                                                 | intro _

theorem kept_execPoolAgeSweep {m : Nat} {r : State} (s : State) (hm : Sub 536870912 m) (hk : Kept m r s) : ResKept m r (@execPoolAgeSweep
    s) := by
  unfold execPoolAgeSweep; try dsimp only
  repeat' first | exact hm.of (by decide) | with_reducible first | assumption | apply kept_State_setPool | refine ResKept.next ?_
                                                                 | refine ResKept.refused _
                                                                 | (refine Kept.record 536870912 ?_ rfl rfl ?_ ?_; (first | assumption | apply kept_State_setPool | apply kept_foldl))
                                                                 | simp +decide only [mix, cond_eq_ite, if_true, if_false] | split
                                                                 | apply kept_foldl | apply kept_foldl_snd | apply kept_foldl_fst
                                                                 | intro _

end Sys2Proof
end

