-- ==== Sys2Proof/Laws/KeptGrates.lean ====
section
/-! SUPPORT. What the definitions of Machine/Grates.lean leave of the state as it was. -/

namespace Sys2Proof

open Sys2Proof.Machine

set_option linter.unusedVariables false

theorem kept_execStopreq {m : Nat} {r : State} (g : GrateNo) (set : Bool) (s : State) (hm : Sub 512 m) (hk : Kept m r s) : ResKept m r
    (@execStopreq g set s) := by
  unfold execStopreq; try dsimp only
  repeat' first | exact hm.of (by decide) | with_reducible first | assumption | apply kept_State_modGr | apply kept_dieReg

theorem kept_ctlErr {m : Nat} {r : State} (s : State) (g : Nat) (hm : Sub 512 m) (hk : Kept m r s) : Kept m r (@ctlErr s g) := by
  unfold ctlErr; try dsimp only
  repeat' first | exact hm.of (by decide) | with_reducible first | assumption | apply kept_State_modGr

theorem kept_execGrateResume {m : Nat} {r : State} (g : GrateNo) (s : State) (hm : Sub 512 m) (hk : Kept m r s) : ResKept m r
    (@execGrateResume g s) := by
  unfold execGrateResume; try dsimp only
  repeat' first | exact hm.of (by decide) | with_reducible first | assumption | apply kept_State_setGr | apply kept_ctlErr
                                                                 | apply kept_dieReg | split
                                                                 | (refine kept_next ‹_ = Host.Outcome.next _› ?_)

theorem kept_beginClear {m : Nat} {r : State} (s : State) (g : Nat) (hm : Sub 281874797304 m) (hk : Kept m r s) : Kept m r (@beginClear s
    g) := by
  unfold beginClear; try dsimp only
  repeat' first | exact hm.of (by decide) | with_reducible first | assumption | apply kept_State_modGr | apply kept_endLaunch

theorem kept_execToidle {m : Nat} {r : State} (g : GrateNo) (s : State) (hm : Sub 281874797304 m) (hk : Kept m r s) : ResKept m r
    (@execToidle g s) := by
  unfold execToidle; try dsimp only
  repeat' first | exact hm.of (by decide) | with_reducible first | assumption | apply kept_beginClear | apply kept_ctlErr
                                                                 | apply kept_dieReg | split
                                                                 | (refine kept_next ‹_ = Host.Outcome.next _› ?_)

theorem kept_dropAgent {m : Nat} {r : State} (s : State) (a : Agent) (hm : Sub 4227072 m) (hk : Kept m r s) : Kept m r (@dropAgent s a) :=
    by
  unfold dropAgent; try dsimp only
  repeat' first | exact hm.of (by decide) | with_reducible first | assumption | apply kept_dropXlat
                                                                 | (refine Kept.record 4194304 ?_ rfl rfl ?_ ?_; (first | assumption | apply kept_dropXlat))
                                                                 | simp +decide only [mix, cond_eq_ite, if_true, if_false]

theorem kept_execIdleClearDone {m : Nat} {r : State} (g : GrateNo) (s : State) (hm : Sub 4227616 m) (hk : Kept m r s) : ResKept m r
    (@execIdleClearDone g s) := by
  unfold execIdleClearDone; try dsimp only
  repeat' first | exact hm.of (by decide) | with_reducible first | assumption | apply kept_clearGrate | apply kept_dropAgent
                                                                 | refine ResKept.next ?_ | refine ResKept.refused _ | split

theorem kept_execGuardModeWrite {m : Nat} {r : State} (g : GrateNo) (en : Bool) (s : State) (hm : Sub 274877907456 m) (hk : Kept m r s) :
    ResKept m r (@execGuardModeWrite g en s) := by
  unfold execGuardModeWrite; try dsimp only
  repeat' first | exact hm.of (by decide) | with_reducible first | assumption | apply kept_State_logTag | apply kept_State_setGr
                                                                 | apply kept_dieReg | split
                                                                 | (refine kept_next ‹_ = Host.Outcome.next _› ?_)

theorem kept_spadAccess {m : Nat} {r : State} (s : State) (a : Agent) (ctx : Nat) (pa : Nat) (a4 : SpadAcc) (hm : Sub 279709749992 m) (hk
    : Kept m r s) : Kept m r (@spadAccess s a ctx pa a4).2.2 := by
  unfold spadAccess; try dsimp only
  repeat' first | exact hm.of (by decide) | with_reducible first | assumption | apply kept_physAtomic | apply kept_physRead
                                                                 | apply kept_physWrite | split | (refine kept_triple ‹_ = (_, _, _)› ?_)
                                                                 | (refine kept_pair ‹_ = (_, _)› ?_)

theorem kept_spadFound {m : Nat} {r : State} (s : State) (a : Agent) (ctx : Nat) (g : Nat) (pa : Nat) (acc : SpadAcc) (find : EccFind) (hm
    : Sub 279709749992 m) (hk : Kept m r s) : Kept m r (@spadFound s a ctx g pa acc find).2.2 := by
  unfold spadFound; try dsimp only
  repeat' first | exact hm.of (by decide) | with_reducible first | assumption | apply kept_beginHalt | apply kept_checkExtent
                                                                 | apply kept_countFind | apply kept_spadAccess | split
                                                                 | (refine kept_triple ‹_ = (_, _, _)› ?_)
                                                                 | (refine kept_pair ‹_ = (_, _)› ?_)

theorem kept_execExternalScratchpadAccess {m : Nat} {r : State} (who : ExtAgent) (ctx : Ctx) (g : GrateNo) (off : BitVec 23) (acc :
    SpadAcc) (find : EccFind) (s : State) (hm : Sub 281874798328 m) (hk : Kept m r s) : ResKept m r (@execExternalScratchpadAccess who ctx
    g off acc find s) := by
  unfold execExternalScratchpadAccess; try dsimp only
  repeat' first | exact hm.of (by decide) | with_reducible first | assumption | apply kept_coreFail | apply kept_deliverLoad
                                                                 | apply kept_respFault | apply kept_settleAll | apply kept_spadFound
                                                                 | refine ResKept.next ?_ | split
                                                                 | (refine kept_triple ‹_ = (_, _, _)› ?_)

theorem kept_execRemoteWindowBusyClear {m : Nat} {r : State} (w : WinRef) (s : State) (hm : Sub 8589936640 m) (hk : Kept m r s) : ResKept
    m r (@execRemoteWindowBusyClear w s) := by
  unfold execRemoteWindowBusyClear; try dsimp only
  repeat' with_reducible first | assumption | refine ResKept.next ?_ | refine ResKept.refused _
                               | (refine Kept.record 8589936640 ?_ rfl rfl ?_ ?_; assumption)
                               | simp +decide only [mix, cond_eq_ite, if_true, if_false] | split

theorem kept_closeWindows {m : Nat} {r : State} (s : State) (g : Nat) (hm : Sub 2048 m) (hk : Kept m r s) : Kept m r (@closeWindows s g)
    := by
  unfold closeWindows; try dsimp only
  repeat' with_reducible first | assumption | (refine Kept.record 2048 ?_ rfl rfl ?_ ?_; assumption)
                               | simp +decide only [mix, cond_eq_ite, if_true, if_false]

theorem kept_execTideSwitch {m : Nat} {r : State} (g : GrateNo) (ctx : Ctx) (s : State) (hm : Sub 281874799352 m) (hk : Kept m r s) :
    ResKept m r (@execTideSwitch g ctx s) := by
  unfold execTideSwitch; try dsimp only
  repeat' first | exact hm.of (by decide) | with_reducible first | assumption | apply kept_State_setGr | apply kept_beginClear
                                                                 | apply kept_closeWindows | refine ResKept.next ?_ | split

end Sys2Proof
end

