-- ==== Sys2Proof/Laws/KeptHost.lean ====
section
/-! SUPPORT. What the definitions of Machine/Host.lean leave of the state as it was. -/

namespace Sys2Proof

open Sys2Proof.Machine

set_option linter.unusedVariables false

theorem kept_modHost {m : Nat} {r : State} (s : State) (h : Nat) (f : HostLink → HostLink) (hm : Sub 2147483648 m) (hk : Kept m r s) :
    Kept m r (@modHost s h f) := by
  unfold modHost; try dsimp only
  repeat' first | exact hm.of (by decide) | with_reducible first | assumption | apply kept_State_setHost

theorem kept_holdRings {m : Nat} {r : State} (s : State) (h : Nat) (hm : Sub 281874797304 m) (hk : Kept m r s) : Kept m r (@holdRings s h)
    := by
  unfold holdRings; try dsimp only
  repeat' first | exact hm.of (by decide) | with_reducible first | assumption | apply kept_State_setRing | apply kept_ringEvent
                                                                 | apply kept_foldl | apply kept_foldl_snd | apply kept_foldl_fst
                                                                 | intro _

theorem kept_rewriteRing {m : Nat} {r : State} (s : State) (rn : Nat) (h : Nat) (hm : Sub 2147483664 m) (hk : Kept m r s) : Kept m r
    (@rewriteRing s rn h) := by
  unfold rewriteRing; try dsimp only
  repeat' first | exact hm.of (by decide) | with_reducible first | assumption | apply kept_hostPosted | split | apply kept_foldl
                                                                 | apply kept_foldl_snd | apply kept_foldl_fst | intro _

theorem kept_resumeRings {m : Nat} {r : State} (s : State) (h : Nat) (hm : Sub 281874797304 m) (hk : Kept m r s) : Kept m r (@resumeRings
    s h) := by
  unfold resumeRings; try dsimp only
  repeat' first | exact hm.of (by decide) | with_reducible first | assumption | apply kept_State_setRing | apply kept_flushRing
                                                                 | apply kept_modHost | apply kept_rewriteRing | split | apply kept_foldl
                                                                 | apply kept_foldl_snd | apply kept_foldl_fst | intro _

theorem kept_staleRing {m : Nat} {r : State} (s : State) (rn : Nat) (hm : Sub 281874797304 m) (hk : Kept m r s) : Kept m r (@staleRing s
    rn) := by
  unfold staleRing; try dsimp only
  repeat' first | exact hm.of (by decide) | with_reducible first | assumption | apply kept_State_setRing | apply kept_State_setRq
                                                                 | apply kept_completeDesc | apply kept_releaseDesc | apply kept_ringEvent
                                                                 | (refine Kept.record 16777216 ?_ rfl rfl ?_ ?_; (first | assumption | apply kept_State_setRing | apply kept_State_setRq | apply kept_completeDesc | apply kept_releaseDesc | apply kept_ringEvent | apply kept_foldl))
                                                                 | simp +decide only [mix, cond_eq_ite, if_true, if_false]
                                                                 | apply kept_foldl | apply kept_foldl_snd | apply kept_foldl_fst
                                                                 | intro _

theorem kept_staleHost {m : Nat} {r : State} (s : State) (h : Nat) (hm : Sub 290477315832 m) (hk : Kept m r s) : Kept m r (@staleHost s h)
    := by
  unfold staleHost; try dsimp only
  repeat' first | exact hm.of (by decide) | with_reducible first | assumption | apply kept_declareDead | apply kept_modHost
                                                                 | apply kept_staleRing | split | apply kept_foldl | apply kept_foldl_snd
                                                                 | apply kept_foldl_fst | intro _

theorem kept_failHostJobs {m : Nat} {r : State} (s : State) (h : Nat) (hm : Sub 290747880184 m) (hk : Kept m r s) : Kept m r
    (@failHostJobs s h) := by
  unfold failHostJobs; try dsimp only
  repeat' first | exact hm.of (by decide) | with_reducible first | assumption | apply kept_jobFailed | split | apply kept_foldl
                                                                 | apply kept_foldl_snd | apply kept_foldl_fst | intro _

theorem kept_failHostReads {m : Nat} {r : State} (s : State) (h : Nat) (hm : Sub 290747881208 m) (hk : Kept m r s) : Kept m r
    (@failHostReads s h) := by
  unfold failHostReads; try dsimp only
  repeat' first | exact hm.of (by decide) | with_reducible first | assumption | apply kept_giveErr | split | apply kept_foldl
                                                                 | apply kept_foldl_snd | apply kept_foldl_fst | intro _

theorem kept_dropHosted {m : Nat} {r : State} (s : State) (hm : Sub 290477315832 m) (hk : Kept m r s) : Kept m r (@dropHosted s) := by
  unfold dropHosted; try dsimp only
  repeat' first | exact hm.of (by decide) | with_reducible first | assumption | apply kept_State_setAl | apply kept_failWaiting
                                                                 | (refine Kept.record 536870912 ?_ rfl rfl ?_ ?_; (first | assumption | apply kept_State_setAl | apply kept_failWaiting | apply kept_foldl))
                                                                 | simp +decide only [mix, cond_eq_ite, if_true, if_false] | split
                                                                 | apply kept_foldl | apply kept_foldl_snd | apply kept_foldl_fst
                                                                 | intro _

theorem kept_hostLost {m : Nat} {r : State} (s : State) (h : Nat) (cause : Nat) (hm : Sub 496906311416 m) (hk : Kept m r s) : Kept m r
    (@hostLost s h cause) := by
  unfold hostLost; try dsimp only
  repeat' first | exact hm.of (by decide) | with_reducible first | assumption | apply kept_State_setHost | apply kept_declareDead
                                                                 | apply kept_dropHosted | apply kept_dropSessions
                                                                 | apply kept_failHostJobs | apply kept_failHostReads
                                                                 | apply kept_holdRings | apply kept_partnerEvent | apply kept_setReady
                                                                 | apply kept_settleAll | split

theorem kept_execHostLinkDown {m : Nat} {r : State} (h : HostLinkNo) (s : State) (hm : Sub 496906311416 m) (hk : Kept m r s) : ResKept m r
    (@execHostLinkDown h s) := by
  unfold execHostLinkDown; try dsimp only
  repeat' first | exact hm.of (by decide) | with_reducible first | assumption | apply kept_hostLost | refine ResKept.next ?_
                                                                 | refine ResKept.refused _ | split

theorem kept_forceLost {m : Nat} {r : State} (s : State) (h : Nat) (hm : Sub 496906311416 m) (hk : Kept m r s) : Kept m r (@forceLost s h)
    := by
  unfold forceLost; try dsimp only
  repeat' first | exact hm.of (by decide) | with_reducible first | assumption | apply kept_hostLost

theorem kept_execHostLinkForce {m : Nat} {r : State} (h : HostLinkNo) (s : State) (hm : Sub 496906311416 m) (hk : Kept m r s) : ResKept m
    r (@execHostLinkForce h s) := by
  unfold execHostLinkForce; try dsimp only
  repeat' first | exact hm.of (by decide) | with_reducible first | assumption | apply kept_forceLost | refine ResKept.next ?_

theorem kept_execIdeInsecure {m : Nat} {r : State} (i : IdeOf) (s : State) (hm : Sub 496906311416 m) (hk : Kept
    m r s) : ResKept m r (@execIdeInsecure i s) := by
  unfold execIdeInsecure; try dsimp only
  repeat' first | exact hm.of (by decide) | with_reducible first | assumption | apply kept_hostLost | refine ResKept.next ?_
                                                                 | refine ResKept.refused _ | split

theorem kept_execHostSnoopTimeout {m : Nat} {r : State} (line : BitVec 45) (s : State) (hm : Sub 496906311416 m) (hk : Kept m r s) :
    ResKept m r (@execHostSnoopTimeout line s) := by
  unfold execHostSnoopTimeout; try dsimp only
  repeat' first | exact hm.of (by decide) | with_reducible first | assumption | apply kept_hostLost | refine ResKept.next ?_
                                                                 | refine ResKept.refused _ | split

theorem kept_execHostRequestTimeout {m : Nat} {r : State} (id : Nat) (s : State) (hm : Sub 496906311416 m) (hk : Kept m r s) : ResKept m r
    (@execHostRequestTimeout id s) := by
  unfold execHostRequestTimeout; try dsimp only
  repeat' first | exact hm.of (by decide) | with_reducible first | assumption | apply kept_giveErr | apply kept_hostLost
                                                                 | apply kept_modHost | apply kept_settleAll | refine ResKept.next ?_
                                                                 | refine ResKept.refused _ | split

theorem kept_execPerstAssert {m : Nat} {r : State} (h : HostLinkNo) (s : State) (hm : Sub 496906311416 m) (hk : Kept m r s) : ResKept m r
    (@execPerstAssert h s) := by
  unfold execPerstAssert; try dsimp only
  repeat' first | exact hm.of (by decide) | with_reducible first | assumption | apply kept_hostLost | apply kept_modHost
                                                                 | refine ResKept.next ?_ | split

theorem kept_execPerstRelease {m : Nat} {r : State} (h : HostLinkNo) (s : State) (hm : Sub 2147483648 m) (hk : Kept m r s) : ResKept m r
    (@execPerstRelease h s) := by
  unfold execPerstRelease; try dsimp only
  repeat' first | exact hm.of (by decide) | with_reducible first | assumption | apply kept_modHost | refine ResKept.next ?_
                                                                 | refine ResKept.refused _ | split

theorem kept_askGen {m : Nat} {r : State} (s : State) (h : Nat) (hm : Sub 290477315832 m) (hk : Kept m r s) : Kept m r (@askGen s h) := by
  unfold askGen; try dsimp only
  repeat' first | exact hm.of (by decide) | with_reducible first | assumption | apply kept_State_emit | apply kept_State_setHost
                                                                 | apply kept_staleHost | split

theorem kept_execHostLinkUp {m : Nat} {r : State} (h : HostLinkNo) (speed : BitVec 3) (width : BitVec 5) (flit : Bool) (cxl : Bool) (s :
    State) (hm : Sub 359196792568 m) (hk : Kept m r s) : ResKept m r (@execHostLinkUp h speed width flit cxl s) := by
  unfold execHostLinkUp; try dsimp only
  repeat' first | exact hm.of (by decide) | with_reducible first | assumption | apply kept_State_setHost | apply kept_askGen
                                                                 | apply kept_partnerEvent | apply kept_setReady | apply kept_settleAll
                                                                 | refine ResKept.next ?_ | refine ResKept.refused _
                                                                 | refine ResKept.fault _
                                                                 | (refine Kept.record 536870912 ?_ rfl rfl ?_ ?_; (first | assumption | apply kept_State_setHost | apply kept_askGen | apply kept_partnerEvent | apply kept_setReady | apply kept_settleAll))
                                                                 | simp +decide only [mix, cond_eq_ite, if_true, if_false] | split

theorem kept_execGenWordReadDone {m : Nat} {r : State} (h : HostLinkNo) (value : Option W64) (s : State) (hm : Sub 290477315832 m) (hk :
    Kept m r s) : ResKept m r (@execGenWordReadDone h value s) := by
  unfold execGenWordReadDone; try dsimp only
  repeat' first | exact hm.of (by decide) | with_reducible first | assumption | apply kept_State_setHost | apply kept_resumeRings
                                                                 | apply kept_staleHost | refine ResKept.next ?_
                                                                 | refine ResKept.refused _ | split

theorem kept_releaseTlp {m : Nat} {r : State} (s : State) (h : Nat) (t : HeldTlp) (hm : Sub 277029584912 m) (hk : Kept m r s) : Kept m r
    (@releaseTlp s h t) := by
  unfold releaseTlp; try dsimp only
  repeat' first | exact hm.of (by decide) | with_reducible first | assumption | apply kept_State_emit | apply kept_cxlSend
                                                                 | apply kept_raiseMsix
                                                                 | (refine Kept.record 4194304 ?_ rfl rfl ?_ ?_; (first | assumption | apply kept_State_emit | apply kept_cxlSend | apply kept_raiseMsix))
                                                                 | simp +decide only [mix, cond_eq_ite, if_true, if_false] | split

theorem kept_execIdeKm {m : Nat} {r : State} (i : IdeOf) (s : State) (hm : Sub 277029584912 m) (hk : Kept m r s)
    : ResKept m r (@execIdeKm i s) := by
  unfold execIdeKm; try dsimp only
  repeat' first | exact hm.of (by decide) | with_reducible first | assumption | apply kept_State_setHost | apply kept_releaseTlp
                                                                 | refine ResKept.next ?_ | refine ResKept.refused _ | split
                                                                 | apply kept_foldl | apply kept_foldl_snd | apply kept_foldl_fst
                                                                 | intro _

theorem kept_answerHost {m : Nat} {r : State} (s : State) (h : Nat) (o : Out) (hm : Sub 274877906960 m) (hk : Kept m r s) : Kept m r
    (@answerHost s h o) := by
  unfold answerHost; try dsimp only
  repeat' first | exact hm.of (by decide) | with_reducible first | assumption | apply kept_State_emit | apply kept_State_logTag | split

theorem kept_execHostCompletion {m : Nat} {r : State} (id : Nat) (ok : Bool) (data : List Byte) (s : State) (hm : Sub 290747881208 m) (hk
    : Kept m r s) : ResKept m r (@execHostCompletion id ok data s) := by
  unfold execHostCompletion; try dsimp only
  repeat' first | exact hm.of (by decide) | with_reducible first | assumption | apply kept_dropReq | apply kept_flushReturned
                                                                 | apply kept_giveData | apply kept_giveErr | apply kept_lateAnswer
                                                                 | apply kept_modHost | apply kept_settleAll | refine ResKept.next ?_
                                                                 | refine ResKept.refused _ | refine ResKept.fault _ | split
                                                                 | (refine kept_next ‹_ = Host.Outcome.next _› ?_)

theorem kept_barRefused {m : Nat} {r : State} (s : State) (h : Nat) (off : Nat) (hm : Sub 274877906944 m) (hk : Kept m r s) : Kept m r
    (@barRefused s h off) := by
  unfold barRefused; try dsimp only
  repeat' first | exact hm.of (by decide) | with_reducible first | assumption | apply kept_State_logE

theorem kept_tlpRun {m : Nat} {r : State} (s : State) (h : Nat) (off : Nat) (len : Nat) (most : Nat) (run : Res) (hm : Sub 0 m) (hk : Kept
    m r s) (h_run : ResKept m r (run)) : ResKept m r (@tlpRun s h off len most run) := by
  unfold tlpRun; try dsimp only
  repeat' first | exact h_run | with_reducible first | assumption | apply h_run | refine ResKept.refused _ | refine ResKept.fault _
                                                     | split | (refine kept_next ‹_ = Host.Outcome.next _› ?_) | intro _

theorem kept_execHostInboundWrite {m : Nat} {r : State} (h : HostLinkNo) (off : BitVec 38) (data : List Byte) (inIde : Bool) (s : State)
    (hm : Sub 281874797304 m) (hk : Kept m r s) : ResKept m r (@execHostInboundWrite h off data inIde s) := by
  unfold execHostInboundWrite; try dsimp only
  repeat' first | exact hm.of (by decide) | with_reducible first | assumption | apply kept_barRefused | apply kept_countHost
                                                                 | apply kept_physWrite | apply kept_respFault | apply kept_settleAll
                                                                 | apply kept_tlpRun | refine ResKept.next ?_ | split
                                                                 | (refine kept_pair ‹_ = (_, _)› ?_)
                                                                 | (refine kept_next ‹_ = Host.Outcome.next _› ?_)

theorem kept_execHostInboundRead {m : Nat} {r : State} (h : HostLinkNo) (off : BitVec 38) (len : BitVec 13) (inIde : Bool) (s : State) (hm
    : Sub 281874797304 m) (hk : Kept m r s) : ResKept m r (@execHostInboundRead h off len inIde s) := by
  unfold execHostInboundRead; try dsimp only
  repeat' first | exact hm.of (by decide) | with_reducible first | assumption | apply kept_answerHost | apply kept_barRefused
                                                                 | apply kept_countHost | apply kept_physRead | apply kept_respFault
                                                                 | apply kept_settleAll | apply kept_tlpRun | refine ResKept.next ?_
                                                                 | split | (refine kept_triple ‹_ = (_, _, _)› ?_)
                                                                 | (refine kept_next ‹_ = Host.Outcome.next _› ?_)

theorem kept_execHostAtomicop {m : Nat} {r : State} (h : HostLinkNo) (off : BitVec 38) (op : HostOp) (lg : BitVec 3) (opnd : W64) (cmp :
    W64) (inIde : Bool) (s : State) (hm : Sub 281874797304 m) (hk : Kept m r s) : ResKept m r (@execHostAtomicop h off op lg opnd cmp
    inIde s) := by
  unfold execHostAtomicop; try dsimp only
  repeat' first | exact hm.of (by decide) | with_reducible first | assumption | apply kept_answerHost | apply kept_barRefused
                                                                 | apply kept_countHost | apply kept_physAtomic | apply kept_respFault
                                                                 | apply kept_settleAll | apply kept_tlpRun | refine ResKept.next ?_
                                                                 | refine ResKept.fault _ | split
                                                                 | (refine kept_triple ‹_ = (_, _, _)› ?_)
                                                                 | (refine kept_next ‹_ = Host.Outcome.next _› ?_)

theorem kept_execHostBar0Read {m : Nat} {r : State} (h : HostLinkNo) (off : BitVec 19) (s : State) (hm : Sub 274877906960 m) (hk : Kept m
    r s) : ResKept m r (@execHostBar0Read h off s) := by
  unfold execHostBar0Read; try dsimp only
  repeat' first | exact hm.of (by decide) | with_reducible first | assumption | apply kept_answerHost | apply kept_barRefused
                                                                 | refine ResKept.next ?_ | refine ResKept.refused _ | split

theorem kept_sendPending {m : Nat} {r : State} (s : State) (h : Nat) (vecs : List Nat) (hm : Sub 277025390608 m) (hk : Kept m r s) : Kept
    m r (@sendPending s h vecs) := by
  unfold sendPending; try dsimp only
  repeat' first | exact hm.of (by decide) | with_reducible first | assumption | apply kept_State_setHost | apply kept_raiseMsix | split
                                                                 | apply kept_foldl | apply kept_foldl_snd | apply kept_foldl_fst
                                                                 | intro _

theorem kept_execMsiXTableWrite {m : Nat} {r : State} (h : HostLinkNo) (w : MsixWrite) (s : State) (hm : Sub 277025390608 m) (hk : Kept m
    r s) : ResKept m r (@execMsiXTableWrite h w s) := by
  unfold execMsiXTableWrite; try dsimp only
  repeat' first | exact hm.of (by decide) | with_reducible first | assumption | apply kept_State_setHost | apply kept_barRefused
                                                                 | apply kept_sendPending | refine ResKept.next ?_
                                                                 | refine ResKept.refused _ | refine ResKept.fault _ | split

theorem kept_execCxlMemrd {m : Nat} {r : State} (off : BitVec 40) (mv : CxlMeta) (s : State) (hm : Sub 290477315832 m) (hk : Kept m r s) :
    ResKept m r (@execCxlMemrd off mv s) := by
  unfold execCxlMemrd; try dsimp only
  repeat' first | exact hm.of (by decide) | with_reducible first | assumption | apply kept_cxlSend | apply kept_physRead
                                                                 | apply kept_requestArrives | apply kept_respFault | apply kept_settleAll
                                                                 | refine ResKept.next ?_ | refine ResKept.refused _ | split
                                                                 | (refine kept_triple ‹_ = (_, _, _)› ?_)
                                                                 | (refine kept_next ‹_ = Host.Outcome.next _› ?_)

theorem kept_execCxlMemwr {m : Nat} {r : State} (off : BitVec 40) (data : Option LineData) (s : State) (hm : Sub 290477315832 m) (hk :
    Kept m r s) : ResKept m r (@execCxlMemwr off data s) := by
  unfold execCxlMemwr; try dsimp only
  repeat' first | exact hm.of (by decide) | with_reducible first | assumption | apply kept_State_setAl | apply kept_State_setDir
                                                                 | apply kept_cxlAnswer | apply kept_cxlSend | apply kept_dropStale
                                                                 | apply kept_putLine | apply kept_requestArrives | refine ResKept.next ?_
                                                                 | refine ResKept.refused _ | split
                                                                 | (refine kept_next ‹_ = Host.Outcome.next _› ?_)

theorem kept_biRespond {m : Nat} {r : State} (s : State) (line : Nat) (sn : Snoop) (keepS : Bool) (hm : Sub 4831838208 m) (hk : Kept m r
    s) : Kept m r (@biRespond s line sn keepS) := by
  unfold biRespond; try dsimp only
  repeat' first | exact hm.of (by decide) | with_reducible first | assumption | apply kept_State_setAl | apply kept_forwardTo
                                                                 | apply kept_respond | split

theorem kept_execCxlBirsp {m : Nat} {r : State} (line : BitVec 45) (keepS : Bool) (s : State) (hm : Sub 6979321856 m) (hk : Kept m r s) :
    ResKept m r (@execCxlBirsp line keepS s) := by
  unfold execCxlBirsp; try dsimp only
  repeat' first | exact hm.of (by decide) | with_reducible first | assumption | apply kept_State_setAl | apply kept_State_setHost
                                                                 | apply kept_biRespond | refine ResKept.next ?_
                                                                 | refine ResKept.refused _ | split

end Sys2Proof
end

