-- ==== Sys2Proof/Laws/KeptResets.lean ====
section
/-! SUPPORT. What the definitions of Machine/Resets.lean leave of the state as it was. -/

namespace Sys2Proof

open Sys2Proof.Machine

set_option linter.unusedVariables false

/-- A record whose fuses are those of a state that keeps them, with an empty memory. -/
theorem Kept.wiped {m f : Nat} {r s t : State} (hs : Sub f m) (hk : Kept m r s) (hm : t.mem = [])
    (hr : fuseRow t.trust = fuseRow s.trust) (hx : mix f s t = s) : Kept m r t := by
  simp only [fuseRow, Prod.mk.injEq] at hr
  obtain ⟨h1, h2, h3, h4⟩ := hr
  exact ⟨fun _ => by rw [hm]; rfl, ⟨h1.trans hk.fuses.1, h2.trans hk.fuses.2.1, h3.trans hk.fuses.2.2⟩,
    fun i => by rw [arbValue_congr h4]; exact hk.arb i, fun p hp => Part.same_trans (hk.frame p hp) (mix_same hx p (hs.bit hp))⟩

theorem kept_mirrorLog {m : Nat} {r : State} (s : State) (hm : Sub 274877906944 m) (hk : Kept m r s) : Kept m r (@mirrorLog s) := by
  unfold mirrorLog; try dsimp only
  repeat' first | exact hm.of (by decide) | with_reducible first | assumption | apply kept_State_logStk
                                                                 | (refine Kept.record 274877906944 ?_ rfl rfl ?_ ?_; (first | assumption | apply kept_State_logStk))
                                                                 | simp +decide only [mix, cond_eq_ite, if_true, if_false] | split

theorem kept_tornRaise {m : Nat} {r : State} (s : State) (hm : Sub 137438953480 m) (hk : Kept m r s) : Kept m r (tornRaise s) := by
  unfold tornRaise
  dsimp only
  split
  · split
    · rename_i k hfree
      exact Kept.blow (f := 137438953472) (hm.of (by decide)) (kept_takeFree 24 s (hm.of (by decide)) hk) hfree rfl rfl rfl
    · exact kept_takeFree 24 s (hm.of (by decide)) hk
  · exact hk

theorem kept_keptState {m : Nat} {r : State} (s : State) (hm : Sub 2199014866914 m) (hk : Kept m r s) :
    Kept m r { keptState s with trust := s.trust } :=
  Kept.wiped hm hk rfl rfl (by simp +decide only [mix, keptState, State.reset, cond_eq_ite, if_true, if_false])

theorem kept_packageWiped {m : Nat} {r : State} (s : State) (hm : Sub 2199014866914 m) (hk : Kept m r s) : Kept m r (packageWiped s) :=
  Kept.wiped hm hk rfl rfl (by simp +decide only [mix, packageWiped, keptState, State.reset, cond_eq_ite, if_true, if_false])

theorem kept_moduleWiped {m : Nat} {r : State} (s : State) (hm : Sub 2199014866922 m) (hk : Kept m r s) : Kept m r (moduleWiped s) :=
  Kept.wiped hm (kept_tornRaise s (hm.of (by decide)) hk) rfl rfl
    (by simp +decide only [mix, moduleWiped, keptState, State.reset, cond_eq_ite, if_true, if_false])

theorem kept_powerLost {m : Nat} {r : State} (s : State) (hm : Sub 2199014866922 m) (hk : Kept m r s) : Kept m r (@powerLost s) := by
  unfold powerLost; try dsimp only
  repeat' first | exact hm.of (by decide) | with_reducible first | assumption | apply kept_moduleWiped
                                                                 | (refine Kept.record 446676598784 ?_ rfl rfl ?_ ?_; (first | assumption | apply kept_moduleWiped))
                                                                 | simp +decide only [mix, cond_eq_ite, if_true, if_false]

theorem kept_resetEvent {m : Nat} {r : State} (s : State) (bit : Nat) (kind : Nat) (cause : Nat) (hm : Sub 281874797304 m) (hk : Kept m r
    s) : Kept m r (@resetEvent s bit kind cause) := by
  unfold resetEvent; try dsimp only
  repeat' first | exact hm.of (by decide) | with_reducible first | assumption | apply kept_kindleEvent

theorem kept_packageReset {m : Nat} {r : State} (s : State) (cause : Nat) (hm : Sub 2199014866938 m) (hk : Kept m r s) : Kept m r
    (@packageReset s cause) := by
  unfold packageReset; try dsimp only
  repeat' first | exact hm.of (by decide) | with_reducible first | assumption | apply kept_packageWiped | apply kept_resetEvent
                                                                 | (refine Kept.record 377957122048 ?_ rfl rfl ?_ ?_; (first | assumption | apply kept_packageWiped | apply kept_resetEvent))
                                                                 | simp +decide only [mix, cond_eq_ite, if_true, if_false]

theorem kept_moduleReset {m : Nat} {r : State} (s : State) (cause : Nat) (hm : Sub 2199014866938 m) (hk : Kept m r s) : Kept m r
    (@moduleReset s cause) := by
  unfold moduleReset; try dsimp only
  repeat' first | exact hm.of (by decide) | with_reducible first | assumption | apply kept_mirrorLog | apply kept_moduleWiped
                                                                 | apply kept_resetEvent
                                                                 | (refine Kept.record 103079215104 ?_ rfl rfl ?_ ?_; (first | assumption | apply kept_mirrorLog | apply kept_moduleWiped | apply kept_resetEvent))
                                                                 | simp +decide only [mix, cond_eq_ite, if_true, if_false]

theorem kept_clusterReset {m : Nat} {r : State} (s : State) (c : Nat) (cause : Nat) (hm : Sub 359196825336 m) (hk : Kept m r s) : Kept m r
    (@clusterReset s c cause) := by
  unfold clusterReset; try dsimp only
  repeat' first | exact hm.of (by decide) | with_reducible first | assumption | apply kept_State_setHt | apply kept_clearResv
                                                                 | apply kept_declareDead | apply kept_dropAgent | apply kept_resetEvent
                                                                 | apply kept_setReady | apply kept_settleAll
                                                                 | (refine Kept.record 68719476736 ?_ rfl rfl ?_ ?_; (first | assumption | apply kept_State_setHt | apply kept_clearResv | apply kept_declareDead | apply kept_dropAgent | apply kept_resetEvent | apply kept_setReady | apply kept_settleAll | apply kept_foldl))
                                                                 | simp +decide only [mix, cond_eq_ite, if_true, if_false]
                                                                 | apply kept_foldl | apply kept_foldl_snd | apply kept_foldl_fst
                                                                 | intro _

theorem kept_failDieRings {m : Nat} {r : State} (s : State) (n : Nat) (hm : Sub 281874797304 m) (hk : Kept m r s) : Kept m r
    (@failDieRings s n) := by
  unfold failDieRings; try dsimp only
  repeat' first | exact hm.of (by decide) | with_reducible first | assumption | apply kept_State_setRq | apply kept_completeDesc
                                                                 | apply kept_foldl | apply kept_foldl_snd | apply kept_foldl_fst
                                                                 | intro _

theorem kept_failDieLines {m : Nat} {r : State} (s : State) (n : Nat) (hm : Sub 290477315832 m) (hk : Kept m r s) : Kept m r
    (@failDieLines s n) := by
  unfold failDieLines; try dsimp only
  repeat' first | exact hm.of (by decide) | with_reducible first | assumption | apply kept_State_setAl | apply kept_answer
                                                                 | apply kept_cxlAnswer | apply kept_failWaiting | split
                                                                 | apply kept_foldl | apply kept_foldl_snd | apply kept_foldl_fst
                                                                 | intro _

theorem kept_loseDieStores {m : Nat} {r : State} (s : State) (n : Nat) (hm : Sub 281874798328 m) (hk : Kept m r s) : Kept m r
    (@loseDieStores s n) := by
  unfold loseDieStores; try dsimp only
  repeat' first | exact hm.of (by decide) | with_reducible first | assumption | apply kept_State_setHt | apply kept_hartDrained
                                                                 | apply kept_takeFree | split | (refine kept_pair ‹_ = (_, _)› ?_)
                                                                 | apply kept_foldl | apply kept_foldl_snd | apply kept_foldl_fst
                                                                 | intro _

theorem kept_dropDieCoh {m : Nat} {r : State} (s : State) (n : Nat) (hm : Sub 2684354560 m) (hk : Kept m r s) : Kept m r (@dropDieCoh s n)
    := by
  unfold dropDieCoh; try dsimp only
  repeat' with_reducible first | assumption | (refine Kept.record 2684354560 ?_ rfl rfl ?_ ?_; assumption)
                               | simp +decide only [mix, cond_eq_ite, if_true, if_false]

theorem kept_dropDieMsgs {m : Nat} {r : State} (s : State) (n : Nat) (hm : Sub 4294967296 m) (hk : Kept m r s) : Kept m r (@dropDieMsgs s
    n) := by
  unfold dropDieMsgs; try dsimp only
  repeat' first | exact hm.of (by decide) | with_reducible first | assumption | apply kept_fabDrop
                                                                 | (refine Kept.record 4294967296 ?_ rfl rfl ?_ ?_; (first | assumption | apply kept_fabDrop))
                                                                 | simp +decide only [mix, cond_eq_ite, if_true, if_false]

theorem kept_freeDieTxns {m : Nat} {r : State} (s : State) (n : Nat) (hm : Sub 290477315832 m) (hk : Kept m r s) : Kept m r (@freeDieTxns
    s n) := by
  unfold freeDieTxns; try dsimp only
  repeat' first | exact hm.of (by decide) | with_reducible first | assumption | apply kept_orphanTxn | apply kept_wakeHomes
                                                                 | (refine Kept.record 536870912 ?_ rfl rfl ?_ ?_; (first | assumption | apply kept_orphanTxn | apply kept_wakeHomes | apply kept_foldl))
                                                                 | simp +decide only [mix, cond_eq_ite, if_true, if_false] | split
                                                                 | apply kept_foldl | apply kept_foldl_snd | apply kept_foldl_fst
                                                                 | intro _

theorem kept_wipeDie {m : Nat} {r : State} (s : State) (n : Nat) (hm : Sub 1236957106912 m) (hk : Kept m r s) : Kept m r (wipeDie s n) :=
  Kept.upd (f := 1236957106912) (s := { s with mem := (wipeDie s n).mem }) hm
    (hk.memory (hm.of (by decide)) _ fun hw => Mem.wf_zero _ _ _ (Mem.wf_zero _ _ _ (Mem.wf_zero _ _ _ hw))) rfl rfl
    (by simp +decide only [mix, wipeDie, cond_eq_ite, if_true, if_false])

theorem kept_resetDieSides {m : Nat} {r : State} (s : State) (n : Nat) (hm : Sub 21474836480 m) (hk : Kept m r s) : Kept m r
    (@resetDieSides s n) := by
  unfold resetDieSides; try dsimp only
  repeat' first | exact hm.of (by decide) | with_reducible first | assumption | apply kept_settleTest
                                                                 | (refine Kept.record 4294967296 ?_ rfl rfl ?_ ?_; (first | assumption | apply kept_settleTest))
                                                                 | simp +decide only [mix, cond_eq_ite, if_true, if_false]

theorem kept_clearDieReady {m : Nat} {r : State} (s : State) (n : Nat) (hm : Sub 350594274040 m) (hk : Kept m r s) : Kept m r
    (@clearDieReady s n) := by
  unfold clearDieReady; try dsimp only
  repeat' first | exact hm.of (by decide) | with_reducible first | assumption | apply kept_setReady | apply kept_foldl
                                                                 | apply kept_foldl_snd | apply kept_foldl_fst | intro _

theorem kept_hearthGone {m : Nat} {r : State} (s : State) (n : Nat) (cause : Nat) (hm : Sub 1647957743352 m) (hk : Kept m r s) : Kept m r
    (@hearthGone s n cause) := by
  unfold hearthGone; try dsimp only
  repeat' first | exact hm.of (by decide) | with_reducible first | assumption | apply kept_clearDieReady | apply kept_dropDieCoh
                                                                 | apply kept_dropDieMsgs | apply kept_endLaunch | apply kept_failDieLines
                                                                 | apply kept_failDieRings | apply kept_freeDieTxns
                                                                 | apply kept_fulStatAll | apply kept_loseDieStores
                                                                 | apply kept_resetDieSides | apply kept_resetEvent | apply kept_restripe
                                                                 | apply kept_settleAll | apply kept_wipeDie
                                                                 | (refine Kept.record 103079215104 ?_ rfl rfl ?_ ?_; (first | assumption | apply kept_clearDieReady | apply kept_dropDieCoh | apply kept_dropDieMsgs | apply kept_endLaunch | apply kept_failDieLines | apply kept_failDieRings | apply kept_freeDieTxns | apply kept_fulStatAll | apply kept_loseDieStores | apply kept_resetDieSides | apply kept_resetEvent | apply kept_restripe | apply kept_settleAll | apply kept_wipeDie | apply kept_foldl))
                                                                 | simp +decide only [mix, cond_eq_ite, if_true, if_false]
                                                                 | apply kept_foldl | apply kept_foldl_snd | apply kept_foldl_fst
                                                                 | intro _

theorem kept_hearthReset {m : Nat} {r : State} (s : State) (n : Nat) (cause : Nat) (hm : Sub 2199023255546 m) (hk : Kept m r s) : Kept m r
    (@hearthReset s n cause) := by
  unfold hearthReset; try dsimp only
  repeat' first | exact hm.of (by decide) | with_reducible first | assumption | apply kept_hearthGone | apply kept_packageReset
                                                                 | (refine Kept.record 34359738368 ?_ rfl rfl ?_ ?_; (first | assumption | apply kept_hearthGone | apply kept_packageReset))
                                                                 | simp +decide only [mix, cond_eq_ite, if_true, if_false] | split

end Sys2Proof
end

