-- ==== Sys2Proof/Laws/KeptKindle.lean ====
section
/-! SUPPORT. What the definitions of Machine/Kindle.lean leave of the state as it was. -/

namespace Sys2Proof

open Sys2Proof.Machine

set_option linter.unusedVariables false

theorem kept_writeSel {m : Nat} {r : State} (s : State) (x : SlotSel) (hm : Sub 68719476736 m) (hk : Kept m r s) : Kept m r (@writeSel s
    x) := by
  unfold writeSel; try dsimp only
  repeat' with_reducible first | assumption | (refine Kept.record 68719476736 ?_ rfl rfl ?_ ?_; assumption)
                               | simp +decide only [mix, cond_eq_ite, if_true, if_false] | split

theorem kept_confirmSel {m : Nat} {r : State} (s : State) (hm : Sub 68719476736 m) (hk : Kept m r s) : Kept m r (@confirmSel s) := by
  unfold confirmSel; try dsimp only
  repeat' first | exact hm.of (by decide) | with_reducible first | assumption | apply kept_writeSel

theorem kept_execConfirm {m : Nat} {r : State} (s : State) (hm : Sub 68719476736 m) (hk : Kept m r s) : ResKept m r (@execConfirm s) := by
  unfold execConfirm; try dsimp only
  repeat' first | exact hm.of (by decide) | with_reducible first | assumption | apply kept_confirmSel | refine ResKept.next ?_

theorem kept_entered {m : Nat} {r : State} (s : State) (key : Nat) (hm : Sub 68719476736 m) (hk : Kept m r s) : Kept m r (@entered s key)
    := by
  unfold entered; try dsimp only
  repeat' with_reducible first | assumption | (refine Kept.record 68719476736 ?_ rfl rfl ?_ ?_; assumption)
                               | simp +decide only [mix, cond_eq_ite, if_true, if_false]

theorem kept_toStage {m : Nat} {r : State} (s : State) (n : Nat) (hm : Sub 68719476736 m) (hk : Kept m r s) : Kept m r (@toStage s n) :=
    by
  unfold toStage; try dsimp only
  repeat' first | exact hm.of (by decide) | with_reducible first | assumption | apply kept_entered
                                                                 | (refine Kept.record 68719476736 ?_ rfl rfl ?_ ?_; (first | assumption | apply kept_entered))
                                                                 | simp +decide only [mix, cond_eq_ite, if_true, if_false] | split

theorem kept_holdAt {m : Nat} {r : State} (s : State) (reason : Nat) (hm : Sub 350594274040 m) (hk : Kept m r s) : Kept m r (@holdAt s
    reason) := by
  unfold holdAt; try dsimp only
  repeat' first | exact hm.of (by decide) | with_reducible first | assumption | apply kept_kindleEvent
                                                                 | (refine Kept.record 68719476736 ?_ rfl rfl ?_ ?_; (first | assumption | apply kept_kindleEvent))
                                                                 | simp +decide only [mix, cond_eq_ite, if_true, if_false]

theorem kept_measure {m : Nat} {r : State} (s : State) (is : List Nat) (hm : Sub 137438953472 m) (hk : Kept m r s) : Kept m r
    (@Machine.measure s is) := by
  unfold Machine.measure; try dsimp only
  repeat' with_reducible first | assumption | (refine Kept.record 137438953472 ?_ rfl rfl ?_ ?_; assumption)
                               | simp +decide only [mix, cond_eq_ite, if_true, if_false]

theorem kept_execKindleK0 {m : Nat} {r : State} (selfTestOk : Bool) (s : State) (hm : Sub 488033227512 m) (hk : Kept m r s) : ResKept m r
    (@execKindleK0 selfTestOk s) := by
  unfold execKindleK0; try dsimp only
  repeat' first | exact hm.of (by decide) | with_reducible first | assumption | apply kept_holdAt | apply kept_measure
                                                                 | apply kept_setReady | apply kept_toStage | refine ResKept.next ?_
                                                                 | refine ResKept.refused _
                                                                 | (refine Kept.record 137438953472 ?_ rfl rfl ?_ ?_; (first | assumption | apply kept_holdAt | apply kept_measure | apply kept_setReady | apply kept_toStage))
                                                                 | simp +decide only [mix, cond_eq_ite, if_true, if_false] | split

theorem kept_loadConfig {m : Nat} {r : State} (s : State) (hm : Sub 292057776128 m) (hk : Kept m r s) : Kept m r (@loadConfig s) := by
  unfold loadConfig; try dsimp only
  repeat' first | exact hm.of (by decide) | with_reducible first | assumption | apply kept_State_logStk | apply kept_setGroup
                                                                 | (refine Kept.record 274877906944 ?_ rfl rfl ?_ ?_; (first | assumption | apply kept_State_logStk | apply kept_setGroup))
                                                                 | simp +decide only [mix, cond_eq_ite, if_true, if_false] | split

theorem kept_recoverLog {m : Nat} {r : State} (s : State) (hm : Sub 274877906944 m) (hk : Kept m r s) : Kept m r (@recoverLog s) := by
  unfold recoverLog; try dsimp only
  repeat' first | exact hm.of (by decide) | with_reducible first | assumption | apply kept_State_logStk
                                                                 | (refine Kept.record 274877906944 ?_ rfl rfl ?_ ?_; (first | assumption | apply kept_State_logStk))
                                                                 | simp +decide only [mix, cond_eq_ite, if_true, if_false]

theorem kept_startStoker {m : Nat} {r : State} (s : State) (slot : Nat) (hm : Sub 505213096696 m) (hk : Kept m r s) : Kept m r
    (@startStoker s slot) := by
  unfold startStoker; try dsimp only
  repeat' first | exact hm.of (by decide) | with_reducible first | assumption | apply kept_loadConfig | apply kept_measure
                                                                 | apply kept_recoverLog | apply kept_setReady | apply kept_toStage
                                                                 | (refine Kept.record 68719476736 ?_ rfl rfl ?_ ?_; (first | assumption | apply kept_loadConfig | apply kept_measure | apply kept_recoverLog | apply kept_setReady | apply kept_toStage))
                                                                 | simp +decide only [mix, cond_eq_ite, if_true, if_false]

theorem kept_execKindleK1 {m : Nat} {r : State} (chainOk : Bool) (s : State) (hm : Sub 2199014866938 m) (hk : Kept m r s) : ResKept m r
    (@execKindleK1 chainOk s) := by
  unfold execKindleK1; try dsimp only
  repeat' first | exact hm.of (by decide) | with_reducible first | assumption | apply kept_holdAt | apply kept_loadConfig
                                                                 | apply kept_moduleReset | apply kept_startStoker | apply kept_toStage
                                                                 | apply kept_writeSel | refine ResKept.next ?_ | refine ResKept.refused _
                                                                 | (refine Kept.record 137438953472 ?_ rfl rfl ?_ ?_; (first | assumption | apply kept_holdAt | apply kept_loadConfig | apply kept_moduleReset | apply kept_startStoker | apply kept_toStage | apply kept_writeSel))
                                                                 | simp +decide only [mix, cond_eq_ite, if_true, if_false] | split

theorem kept_noPairing {m : Nat} {r : State} (s : State) (hm : Sub 350594274040 m) (hk : Kept m r s) : Kept m r (@noPairing s) := by
  unfold noPairing; try dsimp only
  repeat' first | exact hm.of (by decide) | with_reducible first | assumption | apply kept_entered | apply kept_holdAt
                                                                 | apply kept_setReady
                                                                 | (refine Kept.record 68719476736 ?_ rfl rfl ?_ ?_; (first | assumption | apply kept_entered | apply kept_holdAt | apply kept_setReady))
                                                                 | simp +decide only [mix, cond_eq_ite, if_true, if_false] | split

theorem kept_execKindleK2 {m : Nat} {r : State} (s : State) (hm : Sub 488033227512 m) (hk : Kept m r s) : ResKept m r (@execKindleK2 s) :=
    by
  unfold execKindleK2; try dsimp only
  repeat' first | exact hm.of (by decide) | with_reducible first | assumption | apply kept_entered | apply kept_holdAt
                                                                 | apply kept_measure | apply kept_noPairing | apply kept_toStage
                                                                 | apply kept_writeSel | refine ResKept.next ?_ | refine ResKept.refused _
                                                                 | (refine Kept.record 68719476736 ?_ rfl rfl ?_ ?_; (first | assumption | apply kept_entered | apply kept_holdAt | apply kept_measure | apply kept_noPairing | apply kept_toStage | apply kept_writeSel | apply kept_foldl))
                                                                 | simp +decide only [mix, cond_eq_ite, if_true, if_false] | split
                                                                 | apply kept_foldl | apply kept_foldl_snd | apply kept_foldl_fst
                                                                 | intro _

theorem kept_execKindleK3 {m : Nat} {r : State} (d : DieNo) (s : State) (hm : Sub 384954012408 m) (hk : Kept m r s) : ResKept m r
    (@execKindleK3 d s) := by
  unfold execKindleK3; try dsimp only
  repeat' first | exact hm.of (by decide) | with_reducible first | assumption | apply kept_entered | apply kept_refreshHth
                                                                 | apply kept_setReady | apply kept_toStage | refine ResKept.next ?_
                                                                 | refine ResKept.refused _
                                                                 | (refine Kept.record 103079215104 ?_ rfl rfl ?_ ?_; (first | assumption | apply kept_entered | apply kept_refreshHth | apply kept_setReady | apply kept_toStage))
                                                                 | simp +decide only [mix, cond_eq_ite, if_true, if_false] | split

theorem kept_tryChannel {m : Nat} {r : State} (s : State) (ch : Nat) (ok : Bool) (hm : Sub 350594274040 m) (hk : Kept m r s) : Kept m r
    (@tryChannel s ch ok) := by
  unfold tryChannel; try dsimp only
  repeat' first | exact hm.of (by decide) | with_reducible first | assumption | apply kept_setReady
                                                                 | (refine Kept.record 68719476736 ?_ rfl rfl ?_ ?_; (first | assumption | apply kept_setReady))
                                                                 | simp +decide only [mix, cond_eq_ite, if_true, if_false] | split

theorem kept_execKindleK4 {m : Nat} {r : State} (d : DieNo) (trained : W32) (s : State) (hm : Sub 350594274040 m) (hk : Kept m r s) :
    ResKept m r (@execKindleK4 d trained s) := by
  unfold execKindleK4; try dsimp only
  repeat' first | exact hm.of (by decide) | with_reducible first | assumption | apply kept_refreshHth | apply kept_toStage
                                                                 | apply kept_tryChannel | refine ResKept.next ?_
                                                                 | refine ResKept.refused _ | split | apply kept_foldl
                                                                 | apply kept_foldl_snd | apply kept_foldl_fst | intro _

theorem kept_installRuntime {m : Nat} {r : State} (s : State) (n : Nat) (hm : Sub 65568 m) (hk : Kept m r s) : Kept m r (@installRuntime s
    n) := by
  unfold installRuntime; try dsimp only
  repeat' first | exact hm.of (by decide) | with_reducible first | assumption | apply kept_State_zeroBytes
                                                                 | (refine Kept.record 65536 ?_ rfl rfl ?_ ?_; (first | assumption | apply kept_State_zeroBytes))
                                                                 | simp +decide only [mix, cond_eq_ite, if_true, if_false]

theorem kept_armHeartbeat {m : Nat} {r : State} (s : State) (hm : Sub 274877906944 m) (hk : Kept m r s) : Kept m r (@armHeartbeat s) := by
  unfold armHeartbeat; try dsimp only
  repeat' with_reducible first | assumption | (refine Kept.record 274877906944 ?_ rfl rfl ?_ ?_; assumption)
                               | simp +decide only [mix, cond_eq_ite, if_true, if_false]

theorem kept_execKindleK5 {m : Nat} {r : State} (image : RunImage) (passed : BitVec 12) (s : State) (hm : Sub
    350594339576 m) (hk : Kept m r s) : ResKept m r (@execKindleK5 image passed s) := by
  unfold execKindleK5; try dsimp only
  repeat' first | exact hm.of (by decide) | with_reducible first | assumption | apply kept_State_putBytes | apply kept_armHeartbeat
                                                                 | apply kept_entered | apply kept_installRuntime | apply kept_setReady
                                                                 | apply kept_toStage | refine ResKept.next ?_ | refine ResKept.refused _
                                                                 | (refine Kept.record 69256347648 ?_ rfl rfl ?_ ?_; (first | assumption | apply kept_State_putBytes | apply kept_armHeartbeat | apply kept_entered | apply kept_installRuntime | apply kept_setReady | apply kept_toStage | apply kept_foldl))
                                                                 | simp +decide only [mix, cond_eq_ite, if_true, if_false] | split
                                                                 | apply kept_foldl | apply kept_foldl_snd | apply kept_foldl_fst
                                                                 | intro _

theorem kept_execKindleK6 {m : Nat} {r : State} (s : State) (hm : Sub 515159922424 m) (hk : Kept m r s) : ResKept m r (@execKindleK6 s) :=
    by
  unfold execKindleK6; try dsimp only
  repeat' first | exact hm.of (by decide) | with_reducible first | assumption | apply kept_linkEn | apply kept_offerDue
                                                                 | refine ResKept.next ?_ | refine ResKept.refused _
                                                                 | (refine Kept.record 69793218560 ?_ rfl rfl ?_ ?_; (first | assumption | apply kept_linkEn | apply kept_offerDue | apply kept_foldl))
                                                                 | simp +decide only [mix, cond_eq_ite, if_true, if_false] | split
                                                                 | apply kept_foldl | apply kept_foldl_snd | apply kept_foldl_fst
                                                                 | intro _

theorem kept_execKindleStageTimeout {m : Nat} {r : State} (u : StageUnit) (s : State) (hm : Sub 2199023255546 m) (hk : Kept m r s) :
    ResKept m r (execKindleStageTimeout u s) := by
  have hr : ∀ c : Bool, ∀ n, ResKept m r (if c = true then .next (holdAt s n) else .refused .notPending) := fun c n =>
    ResKept.ite (ResKept.next (kept_holdAt s n (hm.of (by decide)) hk)) (ResKept.refused _)
  have hs : ∀ t z, Kept m r t → Kept m r { t with kindle := z } := fun t z h => Kept.record 68719476736 h rfl rfl rfl (hm.of (by decide))
  have hl : ∀ unit, Kept m r (s.logTag .chm unit 489 0) := fun unit => kept_State_logTag s .chm unit 489 0 (hm.of (by decide)) hk
  unfold execKindleStageTimeout
  cases u with
  | k0 => exact hr _ _
  | k1 => exact hr _ _
  | k2 => exact hr _ _
  | k3 d => exact ResKept.ite (ResKept.refused _) (ResKept.ite (ResKept.next (hl _))
      (ResKept.next (kept_hearthReset _ _ _ hm (hs s _ hk))))
  | k4 ch => exact ResKept.ite (ResKept.next (hs _ _ (hl _))) (ResKept.refused _)
  | k5 c => exact ResKept.ite (ResKept.next (hl _)) (ResKept.refused _)

theorem kept_resetErr {m : Nat} {r : State} (s : State) (hm : Sub 68719476736 m) (hk : Kept m r s) : Kept m r (@resetErr s) := by
  unfold resetErr; try dsimp only
  repeat' with_reducible first | assumption | (refine Kept.record 68719476736 ?_ rfl rfl ?_ ?_; assumption)
                               | simp +decide only [mix, cond_eq_ite, if_true, if_false]

theorem kept_resetRequest {m : Nat} {r : State} (s : State) (h : Nat) (clu : BitVec 12) (hth : BitVec 4) (pkg : Bool) (key : Byte) (hm :
    Sub 2199023255546 m) (hk : Kept m r s) : Kept m r (@resetRequest s h clu hth pkg key) := by
  unfold resetRequest; try dsimp only
  repeat' first | exact hm.of (by decide) | with_reducible first | assumption | apply kept_clusterReset | apply kept_hearthReset
                                                                 | apply kept_packageReset | apply kept_resetErr | split
                                                                 | apply kept_foldl | apply kept_foldl_snd | apply kept_foldl_fst
                                                                 | intro _

theorem kept_execResetCluster {m : Nat} {r : State} (who : HartNo) (mask : BitVec 12) (key : Byte) (s : State) (hm : Sub 2199023255546 m)
    (hk : Kept m r s) : ResKept m r (@execResetCluster who mask key s) := by
  unfold execResetCluster; try dsimp only
  repeat' first | exact hm.of (by decide) | with_reducible first | assumption | apply kept_devCommand | apply kept_resetRequest

theorem kept_execResetHearth {m : Nat} {r : State} (who : HartNo) (mask : BitVec 4) (key : Byte) (s : State) (hm : Sub 2199023255546 m)
    (hk : Kept m r s) : ResKept m r (@execResetHearth who mask key s) := by
  unfold execResetHearth; try dsimp only
  repeat' first | exact hm.of (by decide) | with_reducible first | assumption | apply kept_devCommand | apply kept_resetRequest

theorem kept_execResetPackage {m : Nat} {r : State} (who : HartNo) (key : Byte) (s : State) (hm : Sub 2199023255546 m) (hk : Kept m r s) :
    ResKept m r (@execResetPackage who key s) := by
  unfold execResetPackage; try dsimp only
  repeat' first | exact hm.of (by decide) | with_reducible first | assumption | apply kept_devCommand | apply kept_resetRequest

theorem kept_execModuleReset {m : Nat} {r : State} (cause : BitVec 5) (s : State) (hm : Sub 2199014866938 m) (hk : Kept m r s) : ResKept m
    r (@execModuleReset cause s) := by
  unfold execModuleReset; try dsimp only
  repeat' first | exact hm.of (by decide) | with_reducible first | assumption | apply kept_moduleReset | refine ResKept.next ?_
                                                                 | refine ResKept.refused _ | refine ResKept.fault _ | split

theorem kept_execPackageReset {m : Nat} {r : State} (cause : BitVec 5) (s : State) (hm : Sub 2199014866938 m) (hk : Kept m r s) : ResKept
    m r (@execPackageReset cause s) := by
  unfold execPackageReset; try dsimp only
  repeat' first | exact hm.of (by decide) | with_reducible first | assumption | apply kept_packageReset | refine ResKept.next ?_
                                                                 | refine ResKept.refused _ | refine ResKept.fault _ | split

theorem kept_execHearthDieReset {m : Nat} {r : State} (d : DieNo) (cause : BitVec 5) (s : State) (hm : Sub 2199023255546 m) (hk : Kept m r
    s) : ResKept m r (@execHearthDieReset d cause s) := by
  unfold execHearthDieReset; try dsimp only
  repeat' first | exact hm.of (by decide) | with_reducible first | assumption | apply kept_hearthReset | refine ResKept.next ?_
                                                                 | refine ResKept.refused _ | refine ResKept.fault _ | split

theorem kept_execClusterReset {m : Nat} {r : State} (c : Fin 12) (cause : BitVec 5) (s : State) (hm : Sub 359196825336 m) (hk : Kept m r
    s) : ResKept m r (@execClusterReset c cause s) := by
  unfold execClusterReset; try dsimp only
  repeat' first | exact hm.of (by decide) | with_reducible first | assumption | apply kept_clusterReset | refine ResKept.next ?_
                                                                 | refine ResKept.refused _ | refine ResKept.fault _ | split

theorem kept_execRstAssert {m : Nat} {r : State} (s : State) (hm : Sub 2199014866938 m) (hk : Kept m r s) : ResKept m r (@execRstAssert s)
    := by
  unfold execRstAssert; try dsimp only
  repeat' first | exact hm.of (by decide) | with_reducible first | assumption | apply kept_moduleReset | refine ResKept.next ?_
                                                                 | (refine Kept.record 68719476736 ?_ rfl rfl ?_ ?_; (first | assumption | apply kept_moduleReset))
                                                                 | simp +decide only [mix, cond_eq_ite, if_true, if_false] | split

theorem kept_execRstRelease {m : Nat} {r : State} (s : State) (hm : Sub 68719476736 m) (hk : Kept m r s) : ResKept m r (@execRstRelease s)
    := by
  unfold execRstRelease; try dsimp only
  repeat' with_reducible first | assumption | refine ResKept.next ?_ | refine ResKept.refused _
                               | (refine Kept.record 68719476736 ?_ rfl rfl ?_ ?_; assumption)
                               | simp +decide only [mix, cond_eq_ite, if_true, if_false] | split

end Sys2Proof
end

