-- ==== Sys2Proof/Laws/KeptPower.lean ====
section
/-! SUPPORT. What the definitions of Machine/Power.lean leave of the state as it was. -/

namespace Sys2Proof

open Sys2Proof.Machine

set_option linter.unusedVariables false

theorem kept_setPower {m : Nat} {r : State} (s : State) (p : PowerSt) (hm : Sub 34359738368 m) (hk : Kept m r s) : Kept m r (@setPower s
    p) := by
  unfold setPower; try dsimp only
  repeat' with_reducible first | assumption | (refine Kept.record 34359738368 ?_ rfl rfl ?_ ?_; assumption)
                               | simp +decide only [mix, cond_eq_ite, if_true, if_false]

theorem kept_newWindow {m : Nat} {r : State} (s : State) (hm : Sub 512 m) (hk : Kept m r s) : Kept m r (@newWindow s) := by
  unfold newWindow; try dsimp only
  repeat' with_reducible first | assumption | (refine Kept.record 512 ?_ rfl rfl ?_ ?_; assumption)
                               | simp +decide only [mix, cond_eq_ite, if_true, if_false]

theorem kept_execDamperWindow {m : Nat} {r : State} (w : WindowIn) (s : State) (hm : Sub 34359738880 m) (hk : Kept m r s) : ResKept m r
    (@execDamperWindow w s) := by
  unfold execDamperWindow; try dsimp only
  repeat' first | exact hm.of (by decide) | with_reducible first | assumption | apply kept_newWindow | apply kept_setPower
                                                                 | refine ResKept.next ?_ | refine ResKept.refused _
                                                                 | refine ResKept.fault _ | split

theorem kept_writeCorr {m : Nat} {r : State} (s : State) (v : Nat) (hm : Sub 34359738368 m) (hk : Kept m r s) : Kept m r (@writeCorr s v)
    := by
  unfold writeCorr; try dsimp only
  repeat' first | exact hm.of (by decide) | with_reducible first | assumption | apply kept_setPower

theorem kept_execDmpCorrWrite {m : Nat} {r : State} (value : W64) (s : State) (hm : Sub 34359738368 m) (hk : Kept m r s) : ResKept m r
    (@execDmpCorrWrite value s) := by
  unfold execDmpCorrWrite; try dsimp only
  repeat' first | exact hm.of (by decide) | with_reducible first | assumption | apply kept_writeCorr | refine ResKept.next ?_

theorem kept_execCorrectionUpdate {m : Nat} {r : State} (measured : BitVec 12) (s : State) (hm : Sub 34359738368 m) (hk : Kept m r s) :
    ResKept m r (@execCorrectionUpdate measured s) := by
  unfold execCorrectionUpdate; try dsimp only
  repeat' first | exact hm.of (by decide) | with_reducible first | assumption | apply kept_writeCorr | refine ResKept.next ?_
                                                                 | refine ResKept.refused _ | split

theorem kept_writeCap {m : Nat} {r : State} (s : State) (v : Nat) (hm : Sub 309237645312 m) (hk : Kept m r s) : Kept m r (@writeCap s v)
    := by
  unfold writeCap; try dsimp only
  repeat' first | exact hm.of (by decide) | with_reducible first | assumption | apply kept_State_logTag | apply kept_setPower | split

theorem kept_execDmpCapCfgWrite {m : Nat} {r : State} (value : W64) (s : State) (hm : Sub 309237645312 m) (hk : Kept m r s) : ResKept m r
    (@execDmpCapCfgWrite value s) := by
  unfold execDmpCapCfgWrite; try dsimp only
  repeat' first | exact hm.of (by decide) | with_reducible first | assumption | apply kept_writeCap | refine ResKept.next ?_

theorem kept_writeDroop {m : Nat} {r : State} (s : State) (v : Nat) (hm : Sub 309237645312 m) (hk : Kept m r s) : Kept m r (@writeDroop s
    v) := by
  unfold writeDroop; try dsimp only
  repeat' first | exact hm.of (by decide) | with_reducible first | assumption | apply kept_State_logTag | apply kept_setPower | split

theorem kept_execDmpDroopCfgWrite {m : Nat} {r : State} (value : W64) (s : State) (hm : Sub 309237645312 m) (hk : Kept m r s) : ResKept m
    r (@execDmpDroopCfgWrite value s) := by
  unfold execDmpDroopCfgWrite; try dsimp only
  repeat' first | exact hm.of (by decide) | with_reducible first | assumption | apply kept_writeDroop | refine ResKept.next ?_

theorem kept_execDroopDetect {m : Nat} {r : State} (g : GrateNo) (limited : Bool) (s : State) (hm : Sub 34359738368 m) (hk : Kept m r s) :
    ResKept m r (@execDroopDetect g limited s) := by
  unfold execDroopDetect; try dsimp only
  repeat' first | exact hm.of (by decide) | with_reducible first | assumption | apply kept_setPower | refine ResKept.next ?_
                                                                 | refine ResKept.refused _ | split

theorem kept_endTapers {m : Nat} {r : State} (s : State) (hm : Sub 1647957743352 m) (hk : Kept m r s) : Kept m r (@endTapers s) := by
  unfold endTapers; try dsimp only
  repeat' first | exact hm.of (by decide) | with_reducible first | assumption | apply kept_hearthGone | split | apply kept_foldl
                                                                 | apply kept_foldl_snd | apply kept_foldl_fst | intro _

theorem kept_execSlewGovernorStep {m : Nat} {r : State} (u : GovUnit) (demand : BitVec 7) (slack : Bool) (s : State) (hm : Sub
    1647957743352 m) (hk : Kept m r s) : ResKept m r (@execSlewGovernorStep u demand slack s) := by
  unfold execSlewGovernorStep; try dsimp only
  repeat' first | exact hm.of (by decide) | with_reducible first | assumption | apply kept_endTapers | apply kept_setPower
                                                                 | refine ResKept.next ?_ | refine ResKept.fault _ | split

theorem kept_execDipDetect {m : Nat} {r : State} (x : Supply) (minimum : W32) (s : State) (hm : Sub 309237645312 m) (hk : Kept m r s) :
    ResKept m r (@execDipDetect x minimum s) := by
  unfold execDipDetect; try dsimp only
  repeat' first | exact hm.of (by decide) | with_reducible first | assumption | apply kept_State_logTag | apply kept_setPower
                                                                 | refine ResKept.next ?_ | refine ResKept.refused _ | split

theorem kept_execDipRecover {m : Nat} {r : State} (x : Supply) (s : State) (hm : Sub 34359738368 m) (hk : Kept m r s) : ResKept m r
    (@execDipRecover x s) := by
  unfold execDipRecover; try dsimp only
  repeat' first | exact hm.of (by decide) | with_reducible first | assumption | apply kept_setPower | refine ResKept.next ?_
                                                                 | refine ResKept.refused _ | split

theorem kept_execDipHoldEnd {m : Nat} {r : State} (s : State) (hm : Sub 34359738368 m) (hk : Kept m r s) : ResKept m r (@execDipHoldEnd s)
    := by
  unfold execDipHoldEnd; try dsimp only
  repeat' first | exact hm.of (by decide) | with_reducible first | assumption | apply kept_setPower | refine ResKept.next ?_
                                                                 | refine ResKept.refused _ | split

theorem kept_sensorsOff {m : Nat} {r : State} (s : State) (hm : Sub 274877906944 m) (hk : Kept m r s) : Kept m r (@sensorsOff s) := by
  unfold sensorsOff; try dsimp only
  repeat' with_reducible first | assumption | (refine Kept.record 274877906944 ?_ rfl rfl ?_ ?_; assumption)
                               | simp +decide only [mix, cond_eq_ite, if_true, if_false]

theorem kept_removePower {m : Nat} {r : State} (s : State) (hm : Sub 2199014866914 m) (hk : Kept m r s) : Kept m r (@removePower s) := by
  unfold removePower; try dsimp only
  repeat' first | exact hm.of (by decide) | with_reducible first | assumption | apply kept_State_logTag | apply kept_packageWiped
                                                                 | apply kept_sensorsOff | apply kept_setPower

theorem kept_startDown {m : Nat} {r : State} (s : State) (why : Nat) (hm : Sub 274877906944 m) (hk : Kept m r s) : Kept m r (@startDown s
    why) := by
  unfold startDown; try dsimp only
  repeat' first | exact hm.of (by decide) | with_reducible first | assumption | apply kept_State_logStk | apply kept_mirrorLog
                                                                 | (refine Kept.record 274877906944 ?_ rfl rfl ?_ ?_; (first | assumption | apply kept_State_logStk | apply kept_mirrorLog))
                                                                 | simp +decide only [mix, cond_eq_ite, if_true, if_false] | split

theorem kept_writeBackAll {m : Nat} {r : State} (s : State) (hm : Sub 4831838208 m) (hk : Kept m r s) : Kept m r (@writeBackAll s) := by
  unfold writeBackAll; try dsimp only
  repeat' first | exact hm.of (by decide) | with_reducible first | assumption | apply kept_cleanLine | apply kept_foldl
                                                                 | apply kept_foldl_snd | apply kept_foldl_fst | intro _

theorem kept_execOrderlyPowerDown {m : Nat} {r : State} (why : BitVec 3) (s : State) (hm : Sub 2199014866914 m) (hk : Kept m r s) :
    ResKept m r (@execOrderlyPowerDown why s) := by
  unfold execOrderlyPowerDown; try dsimp only
  repeat' first | exact hm.of (by decide) | with_reducible first | assumption | apply kept_removePower | apply kept_writeBackAll
                                                                 | refine ResKept.next ?_ | refine ResKept.refused _
                                                                 | refine ResKept.fault _ | split

theorem kept_execThermalStep {m : Nat} {r : State} (die : Fin 5) (hottest : BitVec 16) (s : State) (hm : Sub 34359738368 m) (hk : Kept m r
    s) : ResKept m r (@execThermalStep die hottest s) := by
  unfold execThermalStep; try dsimp only
  repeat' first | exact hm.of (by decide) | with_reducible first | assumption | apply kept_setPower | refine ResKept.next ?_
                                                                 | refine ResKept.refused _ | split

theorem kept_execThermalTrip {m : Nat} {r : State} (die : Fin 5) (s : State) (hm : Sub 2199014866914 m) (hk : Kept m r s) : ResKept m r
    (@execThermalTrip die s) := by
  unfold execThermalTrip; try dsimp only
  repeat' first | exact hm.of (by decide) | with_reducible first | assumption | apply kept_State_logTag | apply kept_mirrorLog
                                                                 | apply kept_removePower | apply kept_setPower | refine ResKept.next ?_
                                                                 | refine ResKept.refused _ | split

theorem kept_execRootPllLock {m : Nat} {r : State} (s : State) (hm : Sub 103079215104 m) (hk : Kept m r s) : ResKept m r (@execRootPllLock
    s) := by
  unfold execRootPllLock; try dsimp only
  repeat' first | exact hm.of (by decide) | with_reducible first | assumption | apply kept_entered | apply kept_setPower
                                                                 | refine ResKept.next ?_ | refine ResKept.refused _ | split

theorem kept_execSlavePllLockLost {m : Nat} {r : State} (d : DieNo) (s : State) (hm : Sub 2199023255546 m) (hk : Kept m r s) : ResKept m r
    (@execSlavePllLockLost d s) := by
  unfold execSlavePllLockLost; try dsimp only
  repeat' first | exact hm.of (by decide) | with_reducible first | assumption | apply kept_hearthReset | apply kept_setPower
                                                                 | refine ResKept.next ?_ | refine ResKept.refused _ | split

theorem kept_execRefclkLost {m : Nat} {r : State} (s : State) (hm : Sub 548445918968 m) (hk : Kept m r s) : ResKept m r (@execRefclkLost
    s) := by
  unfold execRefclkLost; try dsimp only
  repeat' first | exact hm.of (by decide) | with_reducible first | assumption | apply kept_hostLost | apply kept_linkDown
                                                                 | apply kept_setPower | apply kept_startDown | refine ResKept.next ?_
                                                                 | refine ResKept.refused _ | split | apply kept_foldl
                                                                 | apply kept_foldl_snd | apply kept_foldl_fst | intro _

theorem kept_execRefclkReturn {m : Nat} {r : State} (s : State) (hm : Sub 34359738368 m) (hk : Kept m r s) : ResKept m r
    (@execRefclkReturn s) := by
  unfold execRefclkReturn; try dsimp only
  repeat' first | exact hm.of (by decide) | with_reducible first | assumption | apply kept_setPower | refine ResKept.next ?_
                                                                 | refine ResKept.refused _ | split

theorem kept_execFeedApplied {m : Nat} {r : State} (mv : W32) (s : State) (hm : Sub 384954012408 m) (hk : Kept m r s) : ResKept m r
    (@execFeedApplied mv s) := by
  unfold execFeedApplied; try dsimp only
  repeat' first | exact hm.of (by decide) | with_reducible first | assumption | apply kept_resetEvent | apply kept_setPower
                                                                 | refine ResKept.next ?_ | refine ResKept.refused _
                                                                 | (refine Kept.record 68719476736 ?_ rfl rfl ?_ ?_; (first | assumption | apply kept_resetEvent | apply kept_setPower))
                                                                 | simp +decide only [mix, cond_eq_ite, if_true, if_false] | split

theorem kept_execSoftStartDone {m : Nat} {r : State} (s : State) (hm : Sub 34359738368 m) (hk : Kept m r s) : ResKept m r
    (@execSoftStartDone s) := by
  unfold execSoftStartDone; try dsimp only
  repeat' first | exact hm.of (by decide) | with_reducible first | assumption | apply kept_setPower | refine ResKept.next ?_
                                                                 | refine ResKept.refused _ | split

theorem kept_feedLost {m : Nat} {r : State} (s : State) (hm : Sub 2199014866922 m) (hk : Kept m r s) : Kept m r (@feedLost s) := by
  unfold feedLost; try dsimp only
  repeat' first | exact hm.of (by decide) | with_reducible first | assumption | apply kept_powerLost | apply kept_setPower

theorem kept_execSupplyLoss {m : Nat} {r : State} (s : State) (hm : Sub 2199014866922 m) (hk : Kept m r s) : ResKept m r (@execSupplyLoss
    s) := by
  unfold execSupplyLoss; try dsimp only
  repeat' first | exact hm.of (by decide) | with_reducible first | assumption | apply kept_feedLost | refine ResKept.next ?_
                                                                 | refine ResKept.refused _ | split

theorem kept_execSenseOpen {m : Nat} {r : State} (s : State) (hm : Sub 2199014866922 m) (hk : Kept m r s) : ResKept m r (@execSenseOpen s)
    := by
  unfold execSenseOpen; try dsimp only
  repeat' first | exact hm.of (by decide) | with_reducible first | assumption | apply kept_feedLost | refine ResKept.next ?_
                                                                 | refine ResKept.refused _ | split

theorem kept_execSupplyResetLevel {m : Nat} {r : State} (x : Supply) (s : State) (hm : Sub 2199023255546 m) (hk : Kept m r s) : ResKept m
    r (@execSupplyResetLevel x s) := by
  unfold execSupplyResetLevel; try dsimp only
  repeat' first | exact hm.of (by decide) | with_reducible first | assumption | apply kept_State_logTag | apply kept_feedLost
                                                                 | apply kept_hearthReset | apply kept_packageReset
                                                                 | refine ResKept.next ?_ | refine ResKept.refused _ | split

end Sys2Proof
end

