-- ==== Sys2Proof/Laws/KeptTrust.lean ====
section
/-! SUPPORT. What the definitions of Machine/Trust.lean leave of the state as it was. -/

namespace Sys2Proof

open Sys2Proof.Machine

set_option linter.unusedVariables false

theorem kept_setTrust {m : Nat} {r : State} (s : State) (t : TrustSt) (hm : Sub 137438953472 m) (hk : Kept m r s)
    (hf : fuseRow t = fuseRow s.trust) : Kept m r (setTrust s t) := Kept.upd (f := 137438953472) (hm.of (by decide)) hk rfl hf rfl

theorem kept_raiseStart {m : Nat} {r : State} (s : State) (idx : BitVec 6) (val : BitVec 16) (hm : Sub 412316860416 m) (hk : Kept m r s) :
    Kept m r (@raiseStart s idx val) := by
  unfold raiseStart; try dsimp only
  repeat' first | exact hm.of (by decide) | with_reducible first | assumption | apply kept_State_logTag | apply kept_setTrust | rfl
                                                                 | split

theorem kept_execArbRaise {m : Nat} {r : State} (idx : BitVec 6) (val : BitVec 16) (s : State) (hm : Sub 412316860416 m) (hk : Kept m r s)
    : ResKept m r (@execArbRaise idx val s) := by
  unfold execArbRaise; try dsimp only
  repeat' first | exact hm.of (by decide) | with_reducible first | assumption | apply kept_raiseStart | refine ResKept.next ?_

theorem kept_execArbRaiseDone {m : Nat} {r : State} (readBack : BitVec 24) (s : State) (hm : Sub 137438953472 m) (hk : Kept m r s) :
    ResKept m r (execArbRaiseDone readBack s) := by
  unfold execArbRaiseDone
  dsimp only
  split
  · exact ResKept.refused _
  · split
    · exact ResKept.fault _
    · split
      · rename_i k hfree
        exact ResKept.next (kept_measure _ _ (hm.of (by decide)) (Kept.blow (f := 137438953472) (hm.of (by decide)) hk hfree rfl rfl rfl))
      · exact ResKept.refused _

theorem kept_keyStart {m : Nat} {r : State} (s : State) (ctx : Ctx) (op : BitVec 3) (hm : Sub 412316860416 m) (hk : Kept m r s) : Kept m r
    (@keyStart s ctx op) := by
  unfold keyStart; try dsimp only
  repeat' first | exact hm.of (by decide) | with_reducible first | assumption | apply kept_State_logTag | apply kept_setTrust | rfl
                                                                 | split

theorem kept_execKeyGenerate {m : Nat} {r : State} (ctx : Ctx) (s : State) (hm : Sub 412316860416 m) (hk : Kept m r s) : ResKept m r
    (@execKeyGenerate ctx s) := by
  unfold execKeyGenerate; try dsimp only
  repeat' first | exact hm.of (by decide) | with_reducible first | assumption | apply kept_keyStart | refine ResKept.next ?_

theorem kept_execKeyGenerateDone {m : Nat} {r : State} (s : State) (hm : Sub 137438953472 m) (hk : Kept m r s) : ResKept m r
    (@execKeyGenerateDone s) := by
  unfold execKeyGenerateDone; try dsimp only
  repeat' first | exact hm.of (by decide) | with_reducible first | assumption | apply kept_setTrust | refine ResKept.next ?_
                                                                 | refine ResKept.refused _ | rfl | split

theorem kept_execKeyTableReinstallDone {m : Nat} {r : State} (c : Fin 32) (s : State) (hm : Sub 427916269304 m) (hk : Kept m r s) :
    ResKept m r (@execKeyTableReinstallDone c s) := by
  unfold execKeyTableReinstallDone; try dsimp only
  repeat' first | exact hm.of (by decide) | with_reducible first | assumption | apply kept_ringsGo | apply kept_setTrust
                                                                 | apply kept_settleAll | apply kept_wakeHomes | refine ResKept.next ?_
                                                                 | refine ResKept.refused _ | rfl | split

theorem kept_spdmAnswer {m : Nat} {r : State} (s : State) (path : SpdmPath) (what : Nat) (fields : List Nat) (hm : Sub 24 m) (hk : Kept m
    r s) : Kept m r (@spdmAnswer s path what fields) := by
  unfold spdmAnswer; try dsimp only
  repeat' first | exact hm.of (by decide) | with_reducible first | assumption | apply kept_State_emit | apply kept_takeFree | split
                                                                 | (refine kept_pair ‹_ = (_, _)› ?_)

theorem kept_execGetMeasurements {m : Nat} {r : State} (path : SpdmPath) (nonce : BitVec 256) (s : State) (hm : Sub 24 m) (hk : Kept m r
    s) : ResKept m r (@execGetMeasurements path nonce s) := by
  unfold execGetMeasurements; try dsimp only
  repeat' first | exact hm.of (by decide) | with_reducible first | assumption | apply kept_spdmAnswer | refine ResKept.next ?_
                                                                 | refine ResKept.refused _ | split

theorem kept_execChallenge {m : Nat} {r : State} (path : SpdmPath) (nonce : BitVec 256) (s : State) (hm : Sub 24 m) (hk : Kept m r s) :
    ResKept m r (@execChallenge path nonce s) := by
  unfold execChallenge; try dsimp only
  repeat' first | exact hm.of (by decide) | with_reducible first | assumption | apply kept_spdmAnswer | refine ResKept.next ?_
                                                                 | refine ResKept.refused _ | split

theorem kept_execKeyExchange {m : Nat} {r : State} (path : SpdmPath) (s : State) (hm : Sub 137438953496 m) (hk : Kept m r s) : ResKept m r
    (@execKeyExchange path s) := by
  unfold execKeyExchange; try dsimp only
  repeat' first | exact hm.of (by decide) | with_reducible first | assumption | apply kept_State_emit | apply kept_setTrust
                                                                 | apply kept_spdmAnswer | refine ResKept.next ?_
                                                                 | refine ResKept.refused _ | rfl | split

theorem kept_execDebugToken {m : Nat} {r : State} (via : Mctp) (body : BitVec 1024) (certOk : Bool) (sigOk : Bool) (s : State) (hm : Sub
    412316860432 m) (hk : Kept m r s) : ResKept m r (@execDebugToken via body certOk sigOk s) := by
  unfold execDebugToken; try dsimp only
  repeat' first | exact hm.of (by decide) | with_reducible first | assumption | apply kept_State_emit | apply kept_refuseMsg
                                                                 | apply kept_setTrust | refine ResKept.next ?_ | refine ResKept.refused _
                                                                 | rfl | split

theorem kept_execPatrolScrub {m : Nat} {r : State} (line : BitVec 45) (find : LineFind) (s : State) (hm : Sub 274877907168 m) (hk : Kept m
    r s) : ResKept m r (@execPatrolScrub line find s) := by
  unfold execPatrolScrub; try dsimp only
  repeat' first | exact hm.of (by decide) | with_reducible first | assumption | apply kept_State_logE | apply kept_State_setMctl
                                                                 | apply kept_alterLine | apply kept_logTagFail | refine ResKept.next ?_
                                                                 | refine ResKept.refused _ | refine ResKept.fault _
                                                                 | (refine Kept.record 64 ?_ rfl rfl ?_ ?_; (first | assumption | apply kept_State_logE | apply kept_State_setMctl | apply kept_alterLine | apply kept_logTagFail))
                                                                 | simp +decide only [mix, cond_eq_ite, if_true, if_false] | split

end Sys2Proof
end

