-- ==== Sys2Proof/Laws/KeptStoker.lean ====
section
/-! SUPPORT. What the definitions of Machine/Stoker.lean leave of the state as it was. -/

namespace Sys2Proof

open Sys2Proof.Machine

set_option linter.unusedVariables false

theorem kept_setStk {m : Nat} {r : State} (s : State) (k : StokerSt) (hm : Sub 274877906944 m) (hk : Kept m r s) : Kept m r (@setStk s k)
    := by
  unfold setStk; try dsimp only
  repeat' with_reducible first | assumption | (refine Kept.record 274877906944 ?_ rfl rfl ?_ ?_; assumption)
                               | simp +decide only [mix, cond_eq_ite, if_true, if_false]

theorem kept_leakWet {m : Nat} {r : State} (s : State) (hm : Sub 2199014866914 m) (hk : Kept m r s) : Kept m r (@leakWet s) := by
  unfold leakWet; try dsimp only
  repeat' first | exact hm.of (by decide) | with_reducible first | assumption | apply kept_removePower | apply kept_setStk
                                                                 | apply kept_startDown | split

theorem kept_crossing {m : Nat} {r : State} (s : State) (i : Nat) (old : BitVec 2) (new : BitVec 2) (value : W32) (hm : Sub 274877906960
    m) (hk : Kept m r s) : Kept m r (@crossing s i old new value) := by
  unfold crossing; try dsimp only
  repeat' first | exact hm.of (by decide) | with_reducible first | assumption | apply kept_State_emit | apply kept_State_logE | split

theorem kept_takeSample {m : Nat} {r : State} (s : State) (i : Nat) (value : W32) (hm : Sub 2199014866930 m) (hk : Kept m r s) : Kept m r
    (@takeSample s i value) := by
  unfold takeSample; try dsimp only
  repeat' first | exact hm.of (by decide) | with_reducible first | assumption | apply kept_crossing | apply kept_leakWet
                                                                 | apply kept_setStk | apply kept_startDown | split

theorem kept_execSensorSample {m : Nat} {r : State} (i : Fin 220) (value : W32) (s : State) (hm : Sub 2199014866930 m) (hk : Kept m r s) :
    ResKept m r (@execSensorSample i value s) := by
  unfold execSensorSample; try dsimp only
  repeat' first | exact hm.of (by decide) | with_reducible first | assumption | apply kept_takeSample | refine ResKept.next ?_
                                                                 | refine ResKept.refused _ | refine ResKept.fault _ | split

theorem kept_execLeakDetected {m : Nat} {r : State} (s : State) (hm : Sub 2199014866914 m) (hk : Kept m r s) : ResKept m r
    (@execLeakDetected s) := by
  unfold execLeakDetected; try dsimp only
  repeat' first | exact hm.of (by decide) | with_reducible first | assumption | apply kept_leakWet | refine ResKept.next ?_
                                                                 | refine ResKept.refused _ | split

theorem kept_execGetSensorReading {m : Nat} {r : State} (i : Fin 220) (s : State) (hm : Sub 16 m) (hk : Kept m r s) : ResKept m r
    (@execGetSensorReading i s) := by
  unfold execGetSensorReading; try dsimp only
  repeat' first | exact hm.of (by decide) | with_reducible first | assumption | apply kept_State_emit | refine ResKept.next ?_
                                                                 | refine ResKept.refused _ | split

theorem kept_execLogMirror {m : Nat} {r : State} (s : State) (hm : Sub 274877906944 m) (hk : Kept m r s) : ResKept m r (@execLogMirror s)
    := by
  unfold execLogMirror; try dsimp only
  repeat' first | exact hm.of (by decide) | with_reducible first | assumption | apply kept_mirrorLog | refine ResKept.next ?_
                                                                 | refine ResKept.refused _ | split

theorem kept_execLogRead {m : Nat} {r : State} (via : Mctp) (seq : W32) (count : BitVec 16) (s : State) (hm : Sub 274877906960 m) (hk :
    Kept m r s) : ResKept m r (@execLogRead via seq count s) := by
  unfold execLogRead; try dsimp only
  repeat' first | exact hm.of (by decide) | with_reducible first | assumption | apply kept_State_emit | apply kept_refuseMsg
                                                                 | refine ResKept.next ?_ | refine ResKept.refused _ | split

theorem kept_execConfigWrite {m : Nat} {r : State} (via : Mctp) (body : BitVec 416) (crcOk : Bool) (s : State) (hm : Sub 274877906960 m)
    (hk : Kept m r s) : ResKept m r (@execConfigWrite via body crcOk s) := by
  unfold execConfigWrite; try dsimp only
  repeat' first | exact hm.of (by decide) | with_reducible first | assumption | apply kept_State_emit | apply kept_refuseMsg
                                                                 | apply kept_setStk | refine ResKept.next ?_ | refine ResKept.refused _
                                                                 | split

theorem kept_execModuleResetMessage {m : Nat} {r : State} (via : Mctp) (s : State) (hm : Sub 2199014866938 m) (hk : Kept m r s) : ResKept
    m r (@execModuleResetMessage via s) := by
  unfold execModuleResetMessage; try dsimp only
  repeat' first | exact hm.of (by decide) | with_reducible first | assumption | apply kept_moduleReset | apply kept_refuseMsg
                                                                 | refine ResKept.next ?_ | refine ResKept.refused _ | split

theorem kept_execPowerDown {m : Nat} {r : State} (via : Mctp) (s : State) (hm : Sub 274877906960 m) (hk : Kept m r s) : ResKept m r
    (@execPowerDown via s) := by
  unfold execPowerDown; try dsimp only
  repeat' first | exact hm.of (by decide) | with_reducible first | assumption | apply kept_refuseMsg | apply kept_startDown
                                                                 | refine ResKept.next ?_ | refine ResKept.refused _ | split

theorem kept_writeHeartbeat {m : Nat} {r : State} (s : State) (v : Nat) (hm : Sub 274877906944 m) (hk : Kept m r s) : Kept m r
    (@writeHeartbeat s v) := by
  unfold writeHeartbeat; try dsimp only
  repeat' first | exact hm.of (by decide) | with_reducible first | assumption | apply kept_setStk

theorem kept_heartbeatBy {m : Nat} {r : State} (s : State) (who : DevAgent) (v : Nat) (hm : Sub 281874798328 m) (hk : Kept m r s) : Kept m
    r (@heartbeatBy s who v) := by
  unfold heartbeatBy; try dsimp only
  repeat' first | exact hm.of (by decide) | with_reducible first | assumption | apply kept_State_logTag | apply kept_devRefused
                                                                 | apply kept_writeHeartbeat | split

theorem kept_execHeartbeatKick {m : Nat} {r : State} (who : DevAgent) (s : State) (hm : Sub 281874798328 m) (hk : Kept m r s) : ResKept m
    r (@execHeartbeatKick who s) := by
  unfold execHeartbeatKick; try dsimp only
  repeat' first | exact hm.of (by decide) | with_reducible first | assumption | apply kept_devCommand | apply kept_heartbeatBy

theorem kept_execHeartbeatPeriod {m : Nat} {r : State} (who : DevAgent) (ms : BitVec 16) (s : State) (hm : Sub 281874798328 m) (hk : Kept
    m r s) : ResKept m r (@execHeartbeatPeriod who ms s) := by
  unfold execHeartbeatPeriod; try dsimp only
  repeat' first | exact hm.of (by decide) | with_reducible first | assumption | apply kept_devCommand | apply kept_heartbeatBy

theorem kept_execHeartbeatExpired {m : Nat} {r : State} (s : State) (hm : Sub 2199014866938 m) (hk : Kept m r s) : ResKept m r
    (@execHeartbeatExpired s) := by
  unfold execHeartbeatExpired; try dsimp only
  repeat' first | exact hm.of (by decide) | with_reducible first | assumption | apply kept_State_logE | apply kept_packageReset
                                                                 | refine ResKept.next ?_ | refine ResKept.refused _ | split

theorem kept_putSlot {m : Nat} {r : State} (s : State) (w : Writing) (good : Bool) (hm : Sub 68719476736 m) (hk : Kept m r s) : Kept m r
    (@putSlot s w good) := by
  unfold putSlot; try dsimp only
  repeat' with_reducible first | assumption | (refine Kept.record 68719476736 ?_ rfl rfl ?_ ?_; assumption)
                               | simp +decide only [mix, cond_eq_ite, if_true, if_false] | split

theorem kept_execPldmComponentWrite {m : Nat} {r : State} (via : Mctp) (im : Image) (ver : W32) (arb : BitVec 6) (entries : List ManEnt)
    (good : Bool) (s : State) (hm : Sub 343597383704 m) (hk : Kept m r s) : ResKept m r (@execPldmComponentWrite via im ver arb entries
    good s) := by
  unfold execPldmComponentWrite; try dsimp only
  repeat' first | exact hm.of (by decide) | with_reducible first | assumption | apply kept_State_emit | apply kept_putSlot
                                                                 | apply kept_refuseMsg | apply kept_takeFree | refine ResKept.next ?_
                                                                 | refine ResKept.refused _ | refine ResKept.fault _
                                                                 | (refine Kept.record 68719476736 ?_ rfl rfl ?_ ?_; (first | assumption | apply kept_State_emit | apply kept_putSlot | apply kept_refuseMsg | apply kept_takeFree | (refine kept_pair ‹_ = (_, _)› ?_)))
                                                                 | simp +decide only [mix, cond_eq_ite, if_true, if_false] | split
                                                                 | (refine kept_pair ‹_ = (_, _)› ?_)

theorem kept_execPldmVerify {m : Nat} {r : State} (im : Image) (s : State) (hm : Sub 343597383696 m) (hk : Kept m r s) :
    ResKept m r (execPldmVerify im s) := by
  have hs : ∀ t z, Kept m r t → Kept m r { t with kindle := z } := fun t z h => Kept.record 68719476736 h rfl rfl rfl (hm.of (by decide))
  unfold execPldmVerify
  split
  · exact ResKept.ite (ResKept.refused _) (ResKept.next (kept_State_emit _ _ (hm.of (by decide)) (hs _ _
      (kept_State_logStk _ _ _ (hm.of (by decide)) (kept_putSlot _ _ _ (hm.of (by decide)) hk)))))
  · exact ResKept.refused _

theorem kept_execPldmApply {m : Nat} {r : State} (im : Image) (s : State) (hm : Sub 68719476752 m) (hk : Kept m r s) : ResKept m r
    (@execPldmApply im s) := by
  unfold execPldmApply; try dsimp only
  repeat' first | exact hm.of (by decide) | with_reducible first | assumption | apply kept_State_emit | apply kept_writeSel
                                                                 | refine ResKept.next ?_ | refine ResKept.refused _
                                                                 | (refine Kept.record 68719476736 ?_ rfl rfl ?_ ?_; (first | assumption | apply kept_State_emit | apply kept_writeSel))
                                                                 | simp +decide only [mix, cond_eq_ite, if_true, if_false] | split

end Sys2Proof
end

