-- ==== Sys2Proof/Laws/KeptTraining.lean ====
section
/-! SUPPORT. What the definitions of Machine/Training.lean leave of the state as it was. -/

namespace Sys2Proof

open Sys2Proof.Machine

set_option linter.unusedVariables false

theorem kept_setTrain {m : Nat} {r : State} (s : State) (t : TrainSt) (hm : Sub 549755813888 m) (hk : Kept m r s) : Kept m r (@setTrain s
    t) := by
  unfold setTrain; try dsimp only
  repeat' with_reducible first | assumption | (refine Kept.record 549755813888 ?_ rfl rfl ?_ ?_; assumption)
                               | simp +decide only [mix, cond_eq_ite, if_true, if_false]

theorem kept_recompute {m : Nat} {r : State} (s : State) (hm : Sub 549755813888 m) (hk : Kept m r s) : Kept m r (@recompute s) := by
  unfold recompute; try dsimp only
  repeat' first | exact hm.of (by decide) | with_reducible first | assumption | apply kept_setTrain | split

theorem kept_countMembers {m : Nat} {r : State} (s : State) (hm : Sub 549755813888 m) (hk : Kept m r s) : Kept m r (@countMembers s) := by
  unfold countMembers; try dsimp only
  repeat' first | exact hm.of (by decide) | with_reducible first | assumption | apply kept_setTrain

theorem kept_recordSteps {m : Nat} {r : State} (s : State) (steps : List StepIn) (hm : Sub 549755813888 m) (hk : Kept m r s) : Kept m r
    (@recordSteps s steps) := by
  unfold recordSteps; try dsimp only
  repeat' first | exact hm.of (by decide) | with_reducible first | assumption | apply kept_setTrain | apply kept_foldl
                                                                 | apply kept_foldl_snd | apply kept_foldl_fst | intro _

theorem kept_execCheckpoint {m : Nat} {r : State} (pos : Position) (c : CkptIn) (s : State) (hm : Sub 549755813904 m) (hk : Kept m r s) :
    ResKept m r (@execCheckpoint pos c s) := by
  unfold execCheckpoint; try dsimp only
  repeat' first | exact hm.of (by decide) | with_reducible first | assumption | apply kept_State_emit | apply kept_countMembers
                                                                 | apply kept_recompute | apply kept_recordSteps | apply kept_setTrain
                                                                 | refine ResKept.next ?_ | refine ResKept.refused _
                                                                 | refine ResKept.fault _ | split

theorem kept_execBuddyCopyDone {m : Nat} {r : State} (pos : Position) (us : W32) (steps : List StepIn) (s : State) (hm : Sub 549755813888
    m) (hk : Kept m r s) : ResKept m r (@execBuddyCopyDone pos us steps s) := by
  unfold execBuddyCopyDone; try dsimp only
  repeat' first | exact hm.of (by decide) | with_reducible first | assumption | apply kept_countMembers | apply kept_recompute
                                                                 | apply kept_recordSteps | apply kept_setTrain | refine ResKept.next ?_
                                                                 | refine ResKept.refused _ | split

theorem kept_execStagingDone {m : Nat} {r : State} (pos : Position) (steps : List StepIn) (s : State) (hm : Sub 549755813888 m) (hk : Kept
    m r s) : ResKept m r (@execStagingDone pos steps s) := by
  unfold execStagingDone; try dsimp only
  repeat' first | exact hm.of (by decide) | with_reducible first | assumption | apply kept_countMembers | apply kept_recordSteps
                                                                 | apply kept_setTrain | refine ResKept.next ?_ | refine ResKept.refused _
                                                                 | split

theorem kept_execRecovery {m : Nat} {r : State} (pos : Position) (spare : W64) (vers : W64) (s : State) (hm : Sub 824633720832 m) (hk :
    Kept m r s) : ResKept m r (@execRecovery pos spare vers s) := by
  unfold execRecovery; try dsimp only
  repeat' first | exact hm.of (by decide) | with_reducible first | assumption | apply kept_State_logTag | apply kept_countMembers
                                                                 | apply kept_recompute | apply kept_setTrain | refine ResKept.next ?_
                                                                 | refine ResKept.refused _ | split

theorem kept_logMismatch {m : Nat} {r : State} (s : State) (c : Ckpt) (l1 : W32) (l2 : W32) (hm : Sub 274877906944 m) (hk : Kept m r s) :
    Kept m r (@logMismatch s c l1 l2) := by
  unfold logMismatch; try dsimp only
  repeat' first | exact hm.of (by decide) | with_reducible first | assumption | apply kept_State_logE

theorem kept_execRestoreReplay {m : Nat} {r : State} (a0 : ReplayIn) (a1 : Bool) (s : State) (hm : Sub 824633720832 m) (hk : Kept m r s) : ResKept m r
    (@execRestoreReplay a0 a1 s) := by
  unfold execRestoreReplay; try dsimp only
  repeat' first | exact hm.of (by decide) | with_reducible first | assumption | apply kept_countMembers | apply kept_logMismatch
                                                                 | apply kept_recompute | apply kept_setTrain | refine ResKept.next ?_
                                                                 | refine ResKept.refused _ | split

end Sys2Proof
end

