-- ==== Sys2Proof/Laws/KeptXlat.lean ====
section
/-! SUPPORT. What the definitions of Machine/Xlat.lean leave of the state as it was. -/

namespace Sys2Proof

open Sys2Proof.Machine

set_option linter.unusedVariables false

theorem kept_execWalkReadReturn {m : Nat} {r : State} (x : XAgent) (s : State) (hm : Sub 290747881208 m) (hk : Kept m r s) : ResKept m r
    (@execWalkReadReturn x s) := by
  unfold execWalkReadReturn; try dsimp only
  repeat' first | exact hm.of (by decide) | with_reducible first | assumption | apply kept_resumeAgent | apply kept_settleAll
                                                                 | apply kept_walkStep | refine ResKept.next ?_ | refine ResKept.refused _
                                                                 | split | (refine kept_pair ‹_ = (_, _)› ?_)

theorem kept_forgetLeaf {m : Nat} {r : State} (s : State) (a : Agent) (ctx : Nat) (va : Nat) (hm : Sub 32768 m) (hk : Kept m r s) : Kept m
    r (@forgetLeaf s a ctx va) := by
  unfold forgetLeaf; try dsimp only
  repeat' with_reducible first | assumption | (refine Kept.record 32768 ?_ rfl rfl ?_ ?_; assumption)
                               | simp +decide only [mix, cond_eq_ite, if_true, if_false]

theorem kept_dropFault {m : Nat} {r : State} (s : State) (token : Nat) (hm : Sub 32768 m) (hk : Kept m r s) : Kept m r (@dropFault s
    token) := by
  unfold dropFault; try dsimp only
  repeat' with_reducible first | assumption | (refine Kept.record 32768 ?_ rfl rfl ?_ ?_; assumption)
                               | simp +decide only [mix, cond_eq_ite, if_true, if_false]

theorem kept_execXlatReplyReplay {m : Nat} {r : State} (token : BitVec 16) (s : State) (hm : Sub 290747881208 m) (hk : Kept m r s) :
    ResKept m r (@execXlatReplyReplay token s) := by
  unfold execXlatReplyReplay; try dsimp only
  repeat' first | exact hm.of (by decide) | with_reducible first | assumption | apply kept_State_logTag | apply kept_dropFault
                                                                 | apply kept_forgetLeaf | apply kept_resumeAgent | apply kept_settleAll
                                                                 | refine ResKept.next ?_ | split

theorem kept_execXlatReplyRefuse {m : Nat} {r : State} (token : BitVec 16) (s : State) (hm : Sub 290747880184 m) (hk : Kept m r s) :
    ResKept m r (@execXlatReplyRefuse token s) := by
  unfold execXlatReplyRefuse; try dsimp only
  repeat' first | exact hm.of (by decide) | with_reducible first | assumption | apply kept_State_logTag | apply kept_dropFault
                                                                 | apply kept_refuseAgent | apply kept_settleAll | refine ResKept.next ?_
                                                                 | split

theorem kept_dropWalks {m : Nat} {r : State} (s : State) (hm : Sub 32768 m) (hk : Kept m r s) : Kept m r (@dropWalks s) := by
  unfold dropWalks; try dsimp only
  repeat' with_reducible first | assumption | (refine Kept.record 32768 ?_ rfl rfl ?_ ?_; assumption)
                               | simp +decide only [mix, cond_eq_ite, if_true, if_false]

theorem kept_invStart {m : Nat} {r : State} (s : State) (x : XInv) (hm : Sub 32768 m) (hk : Kept m r s) : Kept m r (@invStart s x) := by
  unfold invStart; try dsimp only
  repeat' first | exact hm.of (by decide) | with_reducible first | assumption | apply kept_dropScope | apply kept_dropWalks
                                                                 | (refine Kept.record 32768 ?_ rfl rfl ?_ ?_; (first | assumption | apply kept_dropScope | apply kept_dropWalks))
                                                                 | simp +decide only [mix, cond_eq_ite, if_true, if_false] | split

theorem kept_execXlatInvRange {m : Nat} {r : State} (ctx : Ctx) (npg : W32) (s : State) (hm : Sub 32768 m) (hk : Kept m r s) : ResKept m r
    (@execXlatInvRange ctx npg s) := by
  unfold execXlatInvRange; try dsimp only
  repeat' first | exact hm.of (by decide) | with_reducible first | assumption | apply kept_invStart | refine ResKept.next ?_

theorem kept_execXlatInvContext {m : Nat} {r : State} (ctx : Ctx) (s : State) (hm : Sub 32768 m) (hk : Kept m r s) : ResKept m r
    (@execXlatInvContext ctx s) := by
  unfold execXlatInvContext; try dsimp only
  repeat' first | exact hm.of (by decide) | with_reducible first | assumption | apply kept_invStart | refine ResKept.next ?_

theorem kept_execXlatInvAll {m : Nat} {r : State} (s : State) (hm : Sub 32768 m) (hk : Kept m r s) : ResKept m r (@execXlatInvAll s) := by
  unfold execXlatInvAll; try dsimp only
  repeat' first | exact hm.of (by decide) | with_reducible first | assumption | apply kept_invStart | refine ResKept.next ?_

theorem kept_resumeHeld {m : Nat} {r : State} (s : State) (hm : Sub 290747881208 m) (hk : Kept m r s) : Kept m r (@resumeHeld s) := by
  unfold resumeHeld; try dsimp only
  repeat' first | exact hm.of (by decide) | with_reducible first | assumption | apply kept_jobGo | apply kept_tileRetry
                                                                 | apply kept_unstall | split | apply kept_foldl | apply kept_foldl_snd
                                                                 | apply kept_foldl_fst | intro _

theorem kept_execXlatInvDone {m : Nat} {r : State} (s : State) (hm : Sub 290747881208 m) (hk : Kept m r s) : ResKept m r (@execXlatInvDone
    s) := by
  unfold execXlatInvDone; try dsimp only
  repeat' first | exact hm.of (by decide) | with_reducible first | assumption | apply kept_resumeHeld | apply kept_settleAll
                                                                 | refine ResKept.next ?_ | refine ResKept.refused _
                                                                 | (refine Kept.record 32768 ?_ rfl rfl ?_ ?_; (first | assumption | apply kept_resumeHeld | apply kept_settleAll))
                                                                 | simp +decide only [mix, cond_eq_ite, if_true, if_false] | split

theorem kept_rotSnoop {m : Nat} {r : State} (s : State) (x : RotReg) (hm : Sub 4831838208 m) (hk : Kept m r s) : Kept m r (@rotSnoop s x)
    := by
  unfold rotSnoop; try dsimp only
  repeat' first | exact hm.of (by decide) | with_reducible first | assumption | apply kept_homeSnoop | split | apply kept_foldl
                                                                 | apply kept_foldl_snd | apply kept_foldl_fst | intro _

theorem kept_execRotChange_decodeWrite {m : Nat} {r : State} (s : State) (d : Nat) (hm : Sub 274877906944 m) (hk : Kept m r s) : Kept m r
    (@execRotChange.decodeWrite s d) := by
  unfold execRotChange.decodeWrite; try dsimp only
  repeat' first | exact hm.of (by decide) | with_reducible first | assumption | apply kept_State_logTag

theorem kept_execRotChange {m : Nat} {r : State} (d : DieNo) (owner : Ctx) (v : Bool) (rt : Bool) (nreg : BitVec 23) (s : State) (hm : Sub
    279709941760 m) (hk : Kept m r s) : ResKept m r (@execRotChange d owner v rt nreg s) := by
  unfold execRotChange; try dsimp only
  repeat' first | exact hm.of (by decide) | with_reducible first | assumption | apply kept_execRotChange_decodeWrite | apply kept_rotSnoop
                                                                 | refine ResKept.next ?_
                                                                 | (refine Kept.record 196608 ?_ rfl rfl ?_ ?_; (first | assumption | apply kept_execRotChange_decodeWrite | apply kept_rotSnoop))
                                                                 | simp +decide only [mix, cond_eq_ite, if_true, if_false] | split

theorem kept_rotRegion_freshTags {m : Nat} {r : State} (s : State) (a1 : Nat) (hm : Sub 128 m) (hk : Kept m r s) : Kept m r
    (@rotRegion.freshTags s a1) := by
  unfold rotRegion.freshTags; try dsimp only
  repeat' with_reducible first | assumption | (refine Kept.record 128 ?_ rfl rfl ?_ ?_; assumption)
                               | simp +decide only [mix, cond_eq_ite, if_true, if_false]

theorem kept_rotRegion {m : Nat} {r : State} (t : Owner) (s : State) (a2 : Nat) (hm : Sub 536940768 m) (hk : Kept m r s) : Kept m r
    (@rotRegion t s a2) := by
  unfold rotRegion; try dsimp only
  repeat' first | exact hm.of (by decide) | with_reducible first | assumption | apply kept_State_zeroBytes | apply kept_ashRemove
                                                                 | apply kept_rotRegion_freshTags
                                                                 | (refine Kept.record 536940608 ?_ rfl rfl ?_ ?_; (first | assumption | apply kept_State_zeroBytes | apply kept_ashRemove | apply kept_rotRegion_freshTags | apply kept_foldl))
                                                                 | simp +decide only [mix, cond_eq_ite, if_true, if_false]
                                                                 | apply kept_foldl | apply kept_foldl_snd | apply kept_foldl_fst
                                                                 | intro _

theorem kept_execRotChangeDone {m : Nat} {r : State} (d : DieNo) (s : State) (hm : Sub 4832039136 m) (hk : Kept m r s) : ResKept m r
    (@execRotChangeDone d s) := by
  unfold execRotChangeDone; try dsimp only
  repeat' first | exact hm.of (by decide) | with_reducible first | assumption | apply kept_rotRegion | apply kept_rotSnoop
                                                                 | refine ResKept.next ?_ | refine ResKept.refused _
                                                                 | (refine Kept.record 131072 ?_ rfl rfl ?_ ?_; (first | assumption | apply kept_rotRegion | apply kept_rotSnoop | apply kept_foldl))
                                                                 | simp +decide only [mix, cond_eq_ite, if_true, if_false] | split
                                                                 | apply kept_foldl | apply kept_foldl_snd | apply kept_foldl_fst
                                                                 | intro _

end Sys2Proof
end

