-- ==== Sys2Proof/Laws/KeptRegWrite.lean ====
section
/-! SUPPORT. What the definitions of Machine/RegWrite.lean leave of the state as it was. -/

namespace Sys2Proof

open Sys2Proof.Machine

set_option linter.unusedVariables false

theorem kept_after {m : Nat} {r : State} (s : State) (x : Res) (hm : Sub 0 m) (hk : Kept m r s) (h_r1 : ResKept m r x) :
    Kept m r (after s x) := by
  unfold after
  split
  · exact h_r1 _ rfl
  · exact hk

theorem kept_ignored {m : Nat} {r : State} (s : State) (src : LogSrc) (rule : Nat) (data : Nat) (hm : Sub 274877906944 m) (hk : Kept m r
    s) : Kept m r (@ignored s src rule data) := by
  unfold ignored; try dsimp only
  repeat' first | exact hm.of (by decide) | with_reducible first | assumption | apply kept_State_logTag

theorem kept_writeResetCtl {m : Nat} {r : State} (s : State) (who : DevAgent) (v : Nat) (hm : Sub 2199023255546 m) (hk : Kept m r s) :
    Kept m r (@writeResetCtl s who v) := by
  unfold writeResetCtl; try dsimp only
  repeat' first | exact hm.of (by decide) | with_reducible first | assumption | apply kept_resetRequest
                                                                 | (refine Kept.record 68719476736 ?_ rfl rfl ?_ ?_; (first | assumption | apply kept_resetRequest))
                                                                 | simp +decide only [mix, cond_eq_ite, if_true, if_false] | split

theorem kept_writeRingCmd {m : Nat} {r : State} (s : State) (v : Nat) (hm : Sub 281875845880 m) (hk : Kept m r s) : Kept m r
    (@writeRingCmd s v) := by
  unfold writeRingCmd; try dsimp only
  repeat' first | exact hm.of (by decide) | with_reducible first | assumption | apply kept_noteCmd | apply kept_ringCmdErr
                                                                 | apply kept_ringDisableOp | apply kept_ringEnableOp
                                                                 | apply kept_ringPauseOp | apply kept_ringResumeOp
                                                                 | (refine Kept.record 1048576 ?_ rfl rfl ?_ ?_; (first | assumption | apply kept_noteCmd | apply kept_ringCmdErr | apply kept_ringDisableOp | apply kept_ringEnableOp | apply kept_ringPauseOp | apply kept_ringResumeOp))
                                                                 | simp +decide only [mix, cond_eq_ite, if_true, if_false] | split

theorem kept_writeInvCtl {m : Nat} {r : State} (s : State) (v : Nat) (hm : Sub 274877939712 m) (hk : Kept m r s) :
    Kept m r (writeInvCtl s v) := by
  unfold writeInvCtl
  dsimp only
  generalize hb : (BitVec.ofNat 2 (field v 0 2), BitVec.ofNat 12 (field v 8 12), BitVec.ofNat 32 (field v 32 32)) = b
  have h1 : ∀ (c : Prop) [Decidable c], Kept m r (if c then ignored s .chm 581 v else s) := fun c _ => by
    split
    · exact kept_ignored _ _ _ _ (hm.of (by decide)) hk
    · exact hk
  have h2 : ∀ (c : Prop) [Decidable c] (z : State → XlatSt), Kept m r { (if c then ignored s .chm 581 v else s) with
      xlat := z (if c then ignored s .chm 581 v else s) } := fun c _ z => by
    have h := h1 c
    revert h
    generalize (if c then ignored s .chm 581 v else s) = t
    exact fun h => Kept.record 32768 h rfl rfl rfl (hm.of (by decide))
  split
  · exact kept_invStart _ _ (hm.of (by decide)) (h2 _ fun t => { t.xlat with inv := _ })
  · exact h2 _ fun t => { t.xlat with inv := _ }

theorem kept_writeXlatReply {m : Nat} {r : State} (s : State) (v : Nat) (hm : Sub 290747881208 m) (hk : Kept m r s) : Kept m r
    (@writeXlatReply s v) := by
  unfold writeXlatReply; try dsimp only
  repeat' first | exact hm.of (by decide) | with_reducible first | assumption | apply kept_after | apply kept_execXlatReplyRefuse
                                                                 | apply kept_execXlatReplyReplay | apply kept_ignored | split
                                                                 | (refine kept_next ‹_ = Host.Outcome.next _› ?_)

theorem kept_writeDietest {m : Nat} {r : State} (s : State) (die : Nat) (v : Nat) (hm : Sub 296352743424 m) (hk : Kept m r s) : Kept m r
    (@writeDietest s die v) := by
  unfold writeDietest; try dsimp only
  repeat' first | exact hm.of (by decide) | with_reducible first | assumption | apply kept_State_setTest | apply kept_ignored
                                                                 | apply kept_testEn | apply kept_testGo | split

theorem kept_writeBundle {m : Nat} {r : State} (s : State) (die : Nat) (b : Nat) (w : Nat) (v : Nat) (hm : Sub 350594274040 m) (hk : Kept
    m r s) : Kept m r (@writeBundle s die b w v) := by
  unfold writeBundle; try dsimp only
  repeat' first | exact hm.of (by decide) | with_reducible first | assumption | apply kept_offBundle | apply kept_retrainBundle | split

theorem kept_newRoot {m : Nat} {r : State} (s : State) (c : Nat) (hm : Sub 32768 m) (hk : Kept m r s) : Kept m r (@newRoot s c) := by
  unfold newRoot; try dsimp only
  repeat' with_reducible first | assumption | (refine Kept.record 32768 ?_ rfl rfl ?_ ?_; assumption)
                               | simp +decide only [mix, cond_eq_ite, if_true, if_false]

theorem kept_writeCtx {m : Nat} {r : State} (s : State) (c : Nat) (w : Nat) (v : Nat) (hm : Sub 274877956096 m) (hk : Kept m r s) : Kept m
    r (@writeCtx s c w v) := by
  unfold writeCtx; try dsimp only
  repeat' first | exact hm.of (by decide) | with_reducible first | assumption | apply kept_ignored | apply kept_newRoot
                                                                 | (refine Kept.record 16384 ?_ rfl rfl ?_ ?_; (first | assumption | apply kept_ignored | apply kept_newRoot))
                                                                 | simp +decide only [mix, cond_eq_ite, if_true, if_false] | split

theorem kept_writeMaint {m : Nat} {r : State} (s : State) (d : Nat) (v : Nat) (hm : Sub 275414777888 m) (hk : Kept m r s) : Kept m r
    (@writeMaint s d v) := by
  unfold writeMaint; try dsimp only
  repeat' first | exact hm.of (by decide) | with_reducible first | assumption | apply kept_State_setMaint | apply kept_ignored
                                                                 | apply kept_lockStart | apply kept_maintErr | apply kept_maintStart
                                                                 | split

theorem kept_writePool {m : Nat} {r : State} (s : State) (d : Nat) (v : Nat) (hm : Sub 275414777856 m) (hk : Kept m r s) : Kept m r
    (@writePool s d v) := by
  unfold writePool; try dsimp only
  repeat' first | exact hm.of (by decide) | with_reducible first | assumption | apply kept_State_setPool | apply kept_ignored
                                                                 | apply kept_poolEnter | split

theorem kept_writePoolRng {m : Nat} {r : State} (s : State) (d : Nat) (i : Nat) (w : Nat) (v : Nat) (hm : Sub 275414777856 m) (hk : Kept m
    r s) : Kept m r (@writePoolRng s d i w v) := by
  unfold writePoolRng; try dsimp only
  repeat' first | exact hm.of (by decide) | with_reducible first | assumption | apply kept_State_setPool | apply kept_ignored | split

theorem kept_writeGrtCtl {m : Nat} {r : State} (s : State) (g : GrateNo) (v : Nat) (hm : Sub 281874797304 m) (hk : Kept m r s) : Kept m r
    (@writeGrtCtl s g v) := by
  unfold writeGrtCtl; try dsimp only
  repeat' first | exact hm.of (by decide) | with_reducible first | assumption | apply kept_State_modGr | apply kept_after
                                                                 | apply kept_execGrateResume | apply kept_execToidle | split
                                                                 | (refine kept_next ‹_ = Host.Outcome.next _› ?_)

theorem kept_writeGuard {m : Nat} {r : State} (s : State) (g : GrateNo) (v : Nat) (hm : Sub 274877907456 m) (hk : Kept m r s) : Kept m r
    (@writeGuard s g v) := by
  unfold writeGuard; try dsimp only
  repeat' first | exact hm.of (by decide) | with_reducible first | assumption | apply kept_after | apply kept_execGuardModeWrite | split
                                                                 | (refine kept_next ‹_ = Host.Outcome.next _› ?_)

theorem kept_writeRwin {m : Nat} {r : State} (s : State) (i : Nat) (w : Nat) (v : Nat) (hm : Sub 274877908992 m) (hk : Kept m r s) : Kept
    m r (@writeRwin s i w v) := by
  unfold writeRwin; try dsimp only
  repeat' first | exact hm.of (by decide) | with_reducible first | assumption | apply kept_ignored
                                                                 | (refine Kept.record 2048 ?_ rfl rfl ?_ ?_; (first | assumption | apply kept_ignored))
                                                                 | simp +decide only [mix, cond_eq_ite, if_true, if_false] | split

theorem kept_writeRot {m : Nat} {r : State} (s : State) (d : DieNo) (v : Nat) (hm : Sub 279709941760 m) (hk : Kept m r s) :
    Kept m r (writeRot s d v) := by
  unfold writeRot
  have hp : ∀ t z, Kept m r t → Kept m r { t with rot := Tab.put {} t.rot d.val z } := fun t z h =>
    Kept.record 131072 h rfl rfl rfl (hm.of (by decide))
  have hi : ∀ (c : Prop) [Decidable c], Kept m r (if c then ignored s .mem 581 v else s) := fun c _ => by
    split
    · exact kept_ignored _ _ _ _ (hm.of (by decide)) hk
    · exact hk
  dsimp only
  split
  · refine kept_after _ _ (hm.of (by decide)) (hp _ _ (hi _)) ?_
    exact kept_execRotChange _ _ _ _ _ _ (hm.of (by decide)) (hp _ _ (hi _))
  · exact hp _ _ (hi _)

theorem kept_shareWrite {m : Nat} {r : State} (s : State) (src : LogSrc) (unit : Nat) (t : Tab (BitVec 16)) (k : Nat) (v : Nat) (put : Tab
    (BitVec 16) → State) (hm : Sub 274877906944 m) (hk : Kept m r s) (h_put : ∀ x0, Kept m r (put x0)) : Kept m r (@shareWrite s src unit
    t k v put) := by
  unfold shareWrite; try dsimp only
  repeat' first | exact hm.of (by decide) | with_reducible first | assumption | apply h_put | apply kept_State_logTag | apply kept_ignored
                                                                 | split | intro _

theorem kept_writeMembCmd {m : Nat} {r : State} (s : State) (v : Nat) (hm : Sub 376364077816 m) (hk : Kept m r s) : Kept m r
    (@writeMembCmd s v) := by
  unfold writeMembCmd; try dsimp only
  repeat' first | exact hm.of (by decide) | with_reducible first | assumption | apply kept_after | apply kept_cmdErr
                                                                 | apply kept_execMembAdmit | apply kept_execMembSetEmpty
                                                                 | apply kept_setGroup | split
                                                                 | (refine kept_next ‹_ = Host.Outcome.next _› ?_)

theorem kept_writeLinkCtl {m : Nat} {r : State} (s : State) (f : Nat) (v : Nat) (hm : Sub 514086180600 m) (hk : Kept m r s) : Kept m r
    (@writeLinkCtl s f v) := by
  unfold writeLinkCtl; try dsimp only
  repeat' first | exact hm.of (by decide) | with_reducible first | assumption | apply kept_linkEn | apply kept_linkHold
                                                                 | apply kept_linkLoop | apply kept_linkRetrain | split

theorem kept_writeFluWin {m : Nat} {r : State} (s : State) (i : Nat) (w : Nat) (v : Nat) (hm : Sub 283467841536 m) (hk : Kept m r s) :
    Kept m r (@writeFluWin s i w v) := by
  unfold writeFluWin; try dsimp only
  repeat' first | exact hm.of (by decide) | with_reducible first | assumption | apply kept_ignored
                                                                 | (refine Kept.record 8589934592 ?_ rfl rfl ?_ ?_; (first | assumption | apply kept_ignored))
                                                                 | simp +decide only [mix, cond_eq_ite, if_true, if_false] | split

theorem kept_writeHlkWin {m : Nat} {r : State} (s : State) (h : Nat) (i : Nat) (w : Nat) (v : Nat) (hm : Sub 277025390592 m) (hk : Kept m
    r s) : Kept m r (@writeHlkWin s h i w v) := by
  unfold writeHlkWin; try dsimp only
  repeat' first | exact hm.of (by decide) | with_reducible first | assumption | apply kept_State_setHost | apply kept_ignored | split

theorem kept_writeTally {m : Nat} {r : State} (s : State) (t : Nat) (w : Nat) (v : Nat) (hm : Sub 274877915136 m) (hk : Kept m r s) : Kept
    m r (@writeTally s t w v) := by
  unfold writeTally; try dsimp only
  repeat' first | exact hm.of (by decide) | with_reducible first | assumption | apply kept_State_setTally | apply kept_ignored | split

theorem kept_writePort {m : Nat} {r : State} (s : State) (p : Nat) (v : Nat) (hm : Sub 275951648768 m) (hk : Kept m r s) :
    Kept m r (writePort s p v) := by
  unfold writePort
  have hp : ∀ t z, Kept m r t → Kept m r { t with ports := Tab.put {} t.ports p z } := fun t z h =>
    Kept.record 1073741824 h rfl rfl rfl (hm.of (by decide))
  dsimp only
  split
  · refine hp _ _ ?_
    split
    · exact hk
    · exact kept_ignored _ _ _ _ (hm.of (by decide)) hk
  · exact hp _ _ hk

theorem kept_writeArb {m : Nat} {r : State} (s : State) (who : DevAgent) (v : Nat) (hm : Sub 412316860416 m) (hk : Kept m r s) : Kept m r
    (@writeArb s who v) := by
  unfold writeArb; try dsimp only
  repeat' first | exact hm.of (by decide) | with_reducible first | assumption | apply kept_ignored | apply kept_raiseStart
                                                                 | apply kept_setTrust | rfl | split

theorem kept_writeKey {m : Nat} {r : State} (s : State) (v : Nat) (hm : Sub 412316860416 m) (hk : Kept m r s) : Kept m r (@writeKey s v)
    := by
  unfold writeKey; try dsimp only
  repeat' first | exact hm.of (by decide) | with_reducible first | assumption | apply kept_ignored | apply kept_keyStart
                                                                 | apply kept_setTrust | rfl | split

theorem kept_writeRootclk {m : Nat} {r : State} (s : State) (v : Nat) (hm : Sub 34359738368 m) (hk : Kept m r s) : Kept m r (@writeRootclk
    s v) := by
  unfold writeRootclk; try dsimp only
  repeat' first | exact hm.of (by decide) | with_reducible first | assumption | apply kept_setPower

theorem kept_writeKindle {m : Nat} {r : State} (s : State) (who : DevAgent) (v : Nat) (hm : Sub 343597383680 m) (hk : Kept m r s) : Kept m
    r (@writeKindle s who v) := by
  unfold writeKindle; try dsimp only
  repeat' first | exact hm.of (by decide) | with_reducible first | assumption | apply kept_confirmSel | apply kept_ignored | split

theorem kept_writeT1Own {m : Nat} {r : State} (s : State) (d : Nat) (k : Nat) (v : Nat) (hm : Sub 536870912 m) (hk : Kept m r s) : Kept m
    r (@writeT1Own s d k v) := by
  unfold writeT1Own; try dsimp only
  repeat' with_reducible first | assumption | (refine Kept.record 536870912 ?_ rfl rfl ?_ ?_; assumption)
                               | simp +decide only [mix, cond_eq_ite, if_true, if_false]

theorem kept_writeCtxClass {m : Nat} {r : State} (s : State) (i : Nat) (v : Nat) (hm : Sub 256 m) (hk : Kept m r s) : Kept m r
    (@writeCtxClass s i v) := by
  unfold writeCtxClass; try dsimp only
  repeat' with_reducible first | assumption | (refine Kept.record 256 ?_ rfl rfl ?_ ?_; assumption)
                               | simp +decide only [mix, cond_eq_ite, if_true, if_false]

theorem kept_writeCoef {m : Nat} {r : State} (s : State) (t : Nat) (w : Nat) (v : Nat) (hm : Sub 134217728 m) (hk : Kept m r s) : Kept m r
    (@writeCoef s t w v) := by
  unfold writeCoef; try dsimp only
  repeat' with_reducible first | assumption | (refine Kept.record 134217728 ?_ rfl rfl ?_ ?_; assumption)
                               | simp +decide only [mix, cond_eq_ite, if_true, if_false]

theorem kept_writeEcc {m : Nat} {r : State} (s : State) (c : Nat) (v : Nat) (hm : Sub 128 m) (hk : Kept m r s) : Kept m r (@writeEcc s c
    v) := by
  unfold writeEcc; try dsimp only
  repeat' first | exact hm.of (by decide) | with_reducible first | assumption | apply kept_State_setMctl

theorem kept_writeMemShare {m : Nat} {r : State} (s : State) (c : Nat) (k : Nat) (v : Nat) (hm : Sub 274877907072 m) (hk : Kept m r s) :
    Kept m r (@writeMemShare s c k v) := by
  unfold writeMemShare; try dsimp only
  repeat' first | exact hm.of (by decide) | with_reducible first | assumption | apply kept_State_setMctl | apply kept_shareWrite | intro _

theorem kept_writeFluShare {m : Nat} {r : State} (s : State) (k : Nat) (v : Nat) (hm : Sub 283467841536 m) (hk : Kept m r s) : Kept m r
    (@writeFluShare s k v) := by
  unfold writeFluShare; try dsimp only
  repeat' first | exact hm.of (by decide) | with_reducible first | assumption | apply kept_shareWrite
                                                                 | (refine Kept.record 8589934592 ?_ rfl rfl ?_ ?_; (first | assumption | apply kept_shareWrite))
                                                                 | simp +decide only [mix, cond_eq_ite, if_true, if_false] | intro _

theorem kept_writeHlkShare {m : Nat} {r : State} (s : State) (p : Nat) (k : Nat) (v : Nat) (hm : Sub 277025390592 m) (hk : Kept m r s) :
    Kept m r (@writeHlkShare s p k v) := by
  unfold writeHlkShare; try dsimp only
  repeat' first | exact hm.of (by decide) | with_reducible first | assumption | apply kept_State_setHost | apply kept_shareWrite | intro _

theorem kept_writeHdmCtl {m : Nat} {r : State} (s : State) (v : Nat) (hm : Sub 2147483648 m) (hk : Kept m r s) : Kept m r (@writeHdmCtl s
    v) := by
  unfold writeHdmCtl; try dsimp only
  repeat' first | exact hm.of (by decide) | with_reducible first | assumption | apply kept_State_setHost

theorem kept_writeProt {m : Nat} {r : State} (s : State) (k : Nat) (v : Nat) (hm : Sub 34359738368 m) (hk : Kept m r s) : Kept m r
    (@writeProt s k v) := by
  unfold writeProt; try dsimp only
  repeat' first | exact hm.of (by decide) | with_reducible first | assumption | apply kept_setPower | split

theorem kept_withGrate {m : Nat} {r : State} (s : State) (g : Nat) (f : GrateNo → State) (hm : Sub 0 m) (hk : Kept m r s) (h_f : ∀ x0,
    Kept m r (f x0)) : Kept m r (@withGrate s g f) := by
  unfold withGrate; try dsimp only
  repeat' with_reducible first | assumption | apply h_f | split | intro _

theorem kept_regWrite {m : Nat} {r : State} (s : State) (who : DevAgent) (a2 : Reg) (v : Nat) (hm : Sub 2199023255546 m) (hk : Kept m r s)
    : Kept m r (@regWrite s who a2 v) := by
  unfold regWrite; try dsimp only
  repeat' first | exact hm.of (by decide) | with_reducible first | assumption | apply kept_State_modGr | apply kept_State_setHost
                                                                 | apply kept_State_setMaint | apply kept_ashClear | apply kept_ashOvfW1c
                                                                 | apply kept_forceLost | apply kept_heartbeatBy | apply kept_setPower
                                                                 | apply kept_withGrate | apply kept_writeArb | apply kept_writeBundle
                                                                 | apply kept_writeCap | apply kept_writeCoef | apply kept_writeCorr
                                                                 | apply kept_writeCtx | apply kept_writeCtxClass
                                                                 | apply kept_writeDietest | apply kept_writeDroop | apply kept_writeEcc
                                                                 | apply kept_writeFluShare | apply kept_writeFluWin
                                                                 | apply kept_writeGrtCtl | apply kept_writeGuard | apply kept_writeHdmCtl
                                                                 | apply kept_writeHlkShare | apply kept_writeHlkWin
                                                                 | apply kept_writeInvCtl | apply kept_writeKey | apply kept_writeKindle
                                                                 | apply kept_writeLinkCtl | apply kept_writeMaint
                                                                 | apply kept_writeMemShare | apply kept_writeMembCmd
                                                                 | apply kept_writePool | apply kept_writePoolRng | apply kept_writePort
                                                                 | apply kept_writeProt | apply kept_writeResetCtl
                                                                 | apply kept_writeRingCmd | apply kept_writeRingWord
                                                                 | apply kept_writeRootclk | apply kept_writeRot | apply kept_writeRwin
                                                                 | apply kept_writeT1Own | apply kept_writeTally
                                                                 | apply kept_writeXlatReply
                                                                 | (refine Kept.record 8590098432 ?_ rfl rfl ?_ ?_; (first | assumption | apply kept_State_modGr | apply kept_State_setHost | apply kept_State_setMaint | apply kept_ashClear | apply kept_ashOvfW1c | apply kept_forceLost | apply kept_heartbeatBy | apply kept_setPower | apply kept_withGrate | apply kept_writeArb | apply kept_writeBundle | apply kept_writeCap | apply kept_writeCoef | apply kept_writeCorr | apply kept_writeCtx | apply kept_writeCtxClass | apply kept_writeDietest | apply kept_writeDroop | apply kept_writeEcc | apply kept_writeFluShare | apply kept_writeFluWin | apply kept_writeGrtCtl | apply kept_writeGuard | apply kept_writeHdmCtl | apply kept_writeHlkShare | apply kept_writeHlkWin | apply kept_writeInvCtl | apply kept_writeKey | apply kept_writeKindle | apply kept_writeLinkCtl | apply kept_writeMaint | apply kept_writeMemShare | apply kept_writeMembCmd | apply kept_writePool | apply kept_writePoolRng | apply kept_writePort | apply kept_writeProt | apply kept_writeResetCtl | apply kept_writeRingCmd | apply kept_writeRingWord | apply kept_writeRootclk | apply kept_writeRot | apply kept_writeRwin | apply kept_writeT1Own | apply kept_writeTally | apply kept_writeXlatReply))
                                                                 | simp +decide only [mix, cond_eq_ite, if_true, if_false] | split
                                                                 | intro _

theorem kept_deliverReg {m : Nat} {r : State} (s : State) (who : DevAgent) (off : Nat) (n : Nat) (signed : Bool) (word : Nat) (hm : Sub
    1040 m) (hk : Kept m r s) : Kept m r (@deliverReg s who off n signed word) := by
  unfold deliverReg; try dsimp only
  repeat' first | exact hm.of (by decide) | with_reducible first | assumption | apply kept_State_emit | apply kept_State_setHt | split

theorem kept_regAccess {m : Nat} {r : State} (s : State) (who : DevAgent) (va : W64) (off : Nat) (n : Nat) (write : Bool) (signed : Bool)
    (v : Nat) (hm : Sub 2199023255546 m) (hk : Kept m r s) : Kept m r (@regAccess s who va off n write signed v) := by
  unfold regAccess; try dsimp only
  repeat' first | exact hm.of (by decide) | with_reducible first | assumption | apply kept_deliverReg | apply kept_devFail
                                                                 | apply kept_regWrite | split

theorem kept_bellAccess {m : Nat} {r : State} (s : State) (who : DevAgent) (va : W64) (off : Nat) (n : Nat) (write : Bool) (v : W64) (hm :
    Sub 281874798328 m) (hk : Kept m r s) : Kept m r (@bellAccess s who va off n write v) := by
  unfold bellAccess; try dsimp only
  repeat' first | exact hm.of (by decide) | with_reducible first | assumption | apply kept_State_modGr | apply kept_bellWrite
                                                                 | apply kept_devFail | split

theorem kept_execDeviceSpaceAccess {m : Nat} {r : State} (who : DevAgent) (va : W64) (pa : BitVec 52) (lg : BitVec 2) (write : Bool)
    (signed : Bool) (value : W64) (s : State) (hm : Sub 2199023255546 m) (hk : Kept m r s) : ResKept m r (@execDeviceSpaceAccess who va pa
    lg write signed value s) := by
  unfold execDeviceSpaceAccess; try dsimp only
  repeat' first | exact hm.of (by decide) | with_reducible first | assumption | apply kept_bellAccess | apply kept_devCommand
                                                                 | apply kept_regAccess | refine ResKept.fault _ | split
                                                                 | (refine kept_next ‹_ = Host.Outcome.next _› ?_)

theorem kept_execRegisterWrite {m : Nat} {r : State} (who : DevAgent) (off : BitVec 28) (wide : Bool) (value : W64) (s : State) (hm : Sub
    2199023255546 m) (hk : Kept m r s) : ResKept m r (@execRegisterWrite who off wide value s) := by
  unfold execRegisterWrite; try dsimp only
  repeat' first | exact hm.of (by decide) | with_reducible first | assumption | apply kept_devCommand | apply kept_regAccess
                                                                 | apply kept_takeFree | split | (refine kept_pair ‹_ = (_, _)› ?_)
                                                                 | (refine kept_next ‹_ = Host.Outcome.next _› ?_)

end Sys2Proof
end

