-- ==== Sys2Proof/Laws/KeptSlots.lean ====
section
/-! SUPPORT. What the definitions of Machine/Slots.lean leave of the state as it was. -/

namespace Sys2Proof

open Sys2Proof.Machine

set_option linter.unusedVariables false

theorem kept_execSlotSet {m : Nat} {r : State} (p : Site) (rs1 : W64) (rs2 : W64) (s : State) (hm : Sub 281874797304 m) (hk : Kept m r s)
    : ResKept m r (@execSlotSet p rs1 rs2 s) := by
  unfold execSlotSet; try dsimp only
  repeat' first | exact hm.of (by decide) | with_reducible first | assumption | apply kept_State_setGr | apply kept_haltAt
                                                                 | refine ResKept.next ?_ | refine ResKept.refused _ | split

theorem kept_execSlotGet {m : Nat} {r : State} (p : Site) (rd : Fin 32) (rs1 : W64) (s : State) (hm : Sub 512 m) (hk : Kept m r s) :
    ResKept m r (@execSlotGet p rd rs1 s) := by
  unfold execSlotGet; try dsimp only
  repeat' first | exact hm.of (by decide) | with_reducible first | assumption | apply kept_State_setGr | refine ResKept.next ?_
                                                                 | refine ResKept.refused _ | split

theorem kept_execSlotClear {m : Nat} {r : State} (p : Site) (rs1 : W64) (s : State) (hm : Sub 281874797304 m) (hk : Kept m r s) : ResKept
    m r (@execSlotClear p rs1 s) := by
  unfold execSlotClear; try dsimp only
  repeat' first | exact hm.of (by decide) | with_reducible first | assumption | apply kept_State_modGr | apply kept_State_zeroBytes
                                                                 | apply kept_bankConflicts | apply kept_haltAt | apply kept_notePast
                                                                 | refine ResKept.next ?_ | refine ResKept.refused _ | split

theorem kept_execSlotPublish {m : Nat} {r : State} (p : Site) (rs1 : W64) (s : State) (hm : Sub 281874797304 m) (hk : Kept m r s) :
    ResKept m r (@execSlotPublish p rs1 s) := by
  unfold execSlotPublish; try dsimp only
  repeat' first | exact hm.of (by decide) | with_reducible first | assumption | apply kept_State_setGr | apply kept_haltAt
                                                                 | refine ResKept.next ?_ | refine ResKept.refused _ | split

theorem kept_execSlotRetire {m : Nat} {r : State} (p : Site) (rs1 : W64) (s : State) (hm : Sub 281874797304 m) (hk : Kept m r s) : ResKept
    m r (@execSlotRetire p rs1 s) := by
  unfold execSlotRetire; try dsimp only
  repeat' first | exact hm.of (by decide) | with_reducible first | assumption | apply kept_State_setGr | apply kept_haltAt
                                                                 | refine ResKept.next ?_ | refine ResKept.refused _ | split

end Sys2Proof
end

