-- ==== Sys2Proof/Laws/State.lean ====
section
/-! SUPPORT. What each named update of the state leaves as it was, field by field and read by read, and what it writes. -/

namespace Sys2Proof.Machine

/-- The fields that State.setGr leaves. -/
@[simp] theorem State.setGr_fields (s : State) (g : Nat) (x : Grate) : (s.setGr g x).pending = s.pending ∧ (s.setGr g x).tick = s.tick ∧
    (s.setGr g x).elapsed = s.elapsed ∧ (s.setGr g x).free = s.free ∧ (s.setGr g x).out = s.out ∧ (s.setGr g x).mem = s.mem ∧
    (s.setGr g x).badLines = s.badLines ∧ (s.setGr g x).memCtl = s.memCtl ∧ (s.setGr g x).ctxClass = s.ctxClass ∧
    (s.setGr g x).harts = s.harts ∧ (s.setGr g x).spadWins = s.spadWins ∧ (s.setGr g x).resv = s.resv ∧
    (s.setGr g x).tallies = s.tallies ∧ (s.setGr g x).ctxs = s.ctxs ∧ (s.setGr g x).xlat = s.xlat ∧ (s.setGr g x).owners = s.owners ∧
    (s.setGr g x).rot = s.rot ∧ (s.setGr g x).rings = s.rings ∧ (s.setGr g x).ringq = s.ringq ∧ (s.setGr g x).ringCmd = s.ringCmd ∧
    (s.setGr g x).jobs = s.jobs ∧ (s.setGr g x).reqs = s.reqs ∧ (s.setGr g x).nextReq = s.nextReq ∧ (s.setGr g x).waitRecs = s.waitRecs ∧
    (s.setGr g x).streams = s.streams ∧ (s.setGr g x).streamBad = s.streamBad ∧ (s.setGr g x).coefs = s.coefs ∧
    (s.setGr g x).fulStat = s.fulStat ∧ (s.setGr g x).coh = s.coh ∧ (s.setGr g x).ports = s.ports ∧ (s.setGr g x).hosts = s.hosts ∧
    (s.setGr g x).fabric = s.fabric ∧ (s.setGr g x).flue = s.flue ∧ (s.setGr g x).group = s.group ∧ (s.setGr g x).power = s.power ∧
    (s.setGr g x).kindle = s.kindle ∧ (s.setGr g x).trust = s.trust ∧ (s.setGr g x).stoker = s.stoker ∧ (s.setGr g x).train = s.train ∧
    (s.setGr g x).served = s.served := by
  repeat' constructor

/-- The reads that State.setGr leaves. -/
@[simp] theorem State.setGr_reads (s : State) (g : Nat) (x : Grate) (k j : Nat) : (s.setGr g x).ht k = s.ht k ∧
    (s.setGr g x).ring k = s.ring k ∧ (s.setGr g x).rq k = s.rq k ∧ (s.setGr g x).stream k = s.stream k ∧
    (s.setGr g x).tally k = s.tally k ∧ (s.setGr g x).job k = s.job k ∧ (s.setGr g x).host k = s.host k ∧
    (s.setGr g x).port k = s.port k ∧ (s.setGr g x).ctxE k = s.ctxE k ∧ (s.setGr g x).fl k = s.fl k ∧ (s.setGr g x).memb k = s.memb k ∧
    (s.setGr g x).bundle k j = s.bundle k j ∧ (s.setGr g x).test k = s.test k ∧ (s.setGr g x).mctl k = s.mctl k ∧
    (s.setGr g x).maint k = s.maint k ∧ (s.setGr g x).pool k = s.pool k ∧ (s.setGr g x).dirE k = s.dirE k ∧
    (s.setGr g x).al k j = s.al k j ∧ (s.setGr g x).txn k = s.txn k := by
  repeat' constructor

@[simp] theorem State.setGr_same (s : State) (g : Nat) (x : Grate) : (s.setGr g x).gr g = x := Tab.get_put_same _ _ _ _

@[simp] theorem State.setGr_setGr (s : State) (g : Nat) (x y : Grate) : (s.setGr g x).setGr g y = s.setGr g y := by
  simp [State.setGr]

theorem State.setGr_other (s : State) (g : Nat) (x : Grate) {i : Nat} (hne : i ≠ g) :
    (s.setGr g x).gr i = s.gr i := Tab.get_put_other _ _ _ hne

/-- The fields that State.setHt leaves. -/
@[simp] theorem State.setHt_fields (s : State) (h : Nat) (x : Hart) : (s.setHt h x).pending = s.pending ∧ (s.setHt h x).tick = s.tick ∧
    (s.setHt h x).elapsed = s.elapsed ∧ (s.setHt h x).free = s.free ∧ (s.setHt h x).out = s.out ∧ (s.setHt h x).mem = s.mem ∧
    (s.setHt h x).badLines = s.badLines ∧ (s.setHt h x).memCtl = s.memCtl ∧ (s.setHt h x).ctxClass = s.ctxClass ∧
    (s.setHt h x).grates = s.grates ∧ (s.setHt h x).spadWins = s.spadWins ∧ (s.setHt h x).resv = s.resv ∧
    (s.setHt h x).tallies = s.tallies ∧ (s.setHt h x).ctxs = s.ctxs ∧ (s.setHt h x).xlat = s.xlat ∧ (s.setHt h x).owners = s.owners ∧
    (s.setHt h x).rot = s.rot ∧ (s.setHt h x).rings = s.rings ∧ (s.setHt h x).ringq = s.ringq ∧ (s.setHt h x).ringCmd = s.ringCmd ∧
    (s.setHt h x).jobs = s.jobs ∧ (s.setHt h x).reqs = s.reqs ∧ (s.setHt h x).nextReq = s.nextReq ∧ (s.setHt h x).waitRecs = s.waitRecs ∧
    (s.setHt h x).streams = s.streams ∧ (s.setHt h x).streamBad = s.streamBad ∧ (s.setHt h x).coefs = s.coefs ∧
    (s.setHt h x).fulStat = s.fulStat ∧ (s.setHt h x).coh = s.coh ∧ (s.setHt h x).ports = s.ports ∧ (s.setHt h x).hosts = s.hosts ∧
    (s.setHt h x).fabric = s.fabric ∧ (s.setHt h x).flue = s.flue ∧ (s.setHt h x).group = s.group ∧ (s.setHt h x).power = s.power ∧
    (s.setHt h x).kindle = s.kindle ∧ (s.setHt h x).trust = s.trust ∧ (s.setHt h x).stoker = s.stoker ∧ (s.setHt h x).train = s.train ∧
    (s.setHt h x).served = s.served := by
  repeat' constructor

/-- The reads that State.setHt leaves. -/
@[simp] theorem State.setHt_reads (s : State) (h : Nat) (x : Hart) (k j : Nat) : (s.setHt h x).gr k = s.gr k ∧
    (s.setHt h x).ring k = s.ring k ∧ (s.setHt h x).rq k = s.rq k ∧ (s.setHt h x).stream k = s.stream k ∧
    (s.setHt h x).tally k = s.tally k ∧ (s.setHt h x).job k = s.job k ∧ (s.setHt h x).host k = s.host k ∧
    (s.setHt h x).port k = s.port k ∧ (s.setHt h x).ctxE k = s.ctxE k ∧ (s.setHt h x).fl k = s.fl k ∧ (s.setHt h x).memb k = s.memb k ∧
    (s.setHt h x).bundle k j = s.bundle k j ∧ (s.setHt h x).test k = s.test k ∧ (s.setHt h x).mctl k = s.mctl k ∧
    (s.setHt h x).maint k = s.maint k ∧ (s.setHt h x).pool k = s.pool k ∧ (s.setHt h x).dirE k = s.dirE k ∧
    (s.setHt h x).al k j = s.al k j ∧ (s.setHt h x).txn k = s.txn k := by
  repeat' constructor

@[simp] theorem State.setHt_same (s : State) (h : Nat) (x : Hart) : (s.setHt h x).ht h = x := Tab.get_put_same _ _ _ _

@[simp] theorem State.setHt_setHt (s : State) (h : Nat) (x y : Hart) : (s.setHt h x).setHt h y = s.setHt h y := by
  simp [State.setHt]

theorem State.setHt_other (s : State) (h : Nat) (x : Hart) {i : Nat} (hne : i ≠ h) :
    (s.setHt h x).ht i = s.ht i := Tab.get_put_other _ _ _ hne

/-- The fields that State.setRing leaves. -/
@[simp] theorem State.setRing_fields (s : State) (r : Nat) (x : Ring) : (s.setRing r x).pending = s.pending ∧
    (s.setRing r x).tick = s.tick ∧ (s.setRing r x).elapsed = s.elapsed ∧ (s.setRing r x).free = s.free ∧ (s.setRing r x).out = s.out ∧
    (s.setRing r x).mem = s.mem ∧ (s.setRing r x).badLines = s.badLines ∧ (s.setRing r x).memCtl = s.memCtl ∧
    (s.setRing r x).ctxClass = s.ctxClass ∧ (s.setRing r x).grates = s.grates ∧ (s.setRing r x).harts = s.harts ∧
    (s.setRing r x).spadWins = s.spadWins ∧ (s.setRing r x).resv = s.resv ∧ (s.setRing r x).tallies = s.tallies ∧
    (s.setRing r x).ctxs = s.ctxs ∧ (s.setRing r x).xlat = s.xlat ∧ (s.setRing r x).owners = s.owners ∧ (s.setRing r x).rot = s.rot ∧
    (s.setRing r x).ringq = s.ringq ∧ (s.setRing r x).ringCmd = s.ringCmd ∧ (s.setRing r x).jobs = s.jobs ∧
    (s.setRing r x).reqs = s.reqs ∧ (s.setRing r x).nextReq = s.nextReq ∧ (s.setRing r x).waitRecs = s.waitRecs ∧
    (s.setRing r x).streams = s.streams ∧ (s.setRing r x).streamBad = s.streamBad ∧ (s.setRing r x).coefs = s.coefs ∧
    (s.setRing r x).fulStat = s.fulStat ∧ (s.setRing r x).coh = s.coh ∧ (s.setRing r x).ports = s.ports ∧
    (s.setRing r x).hosts = s.hosts ∧ (s.setRing r x).fabric = s.fabric ∧ (s.setRing r x).flue = s.flue ∧
    (s.setRing r x).group = s.group ∧ (s.setRing r x).power = s.power ∧ (s.setRing r x).kindle = s.kindle ∧
    (s.setRing r x).trust = s.trust ∧ (s.setRing r x).stoker = s.stoker ∧ (s.setRing r x).train = s.train ∧
    (s.setRing r x).served = s.served := by
  repeat' constructor

/-- The reads that State.setRing leaves. -/
@[simp] theorem State.setRing_reads (s : State) (r : Nat) (x : Ring) (k j : Nat) : (s.setRing r x).gr k = s.gr k ∧
    (s.setRing r x).ht k = s.ht k ∧ (s.setRing r x).rq k = s.rq k ∧ (s.setRing r x).stream k = s.stream k ∧
    (s.setRing r x).tally k = s.tally k ∧ (s.setRing r x).job k = s.job k ∧ (s.setRing r x).host k = s.host k ∧
    (s.setRing r x).port k = s.port k ∧ (s.setRing r x).ctxE k = s.ctxE k ∧ (s.setRing r x).fl k = s.fl k ∧
    (s.setRing r x).memb k = s.memb k ∧ (s.setRing r x).bundle k j = s.bundle k j ∧ (s.setRing r x).test k = s.test k ∧
    (s.setRing r x).mctl k = s.mctl k ∧ (s.setRing r x).maint k = s.maint k ∧ (s.setRing r x).pool k = s.pool k ∧
    (s.setRing r x).dirE k = s.dirE k ∧ (s.setRing r x).al k j = s.al k j ∧ (s.setRing r x).txn k = s.txn k := by
  repeat' constructor

@[simp] theorem State.setRing_same (s : State) (r : Nat) (x : Ring) : (s.setRing r x).ring r = x := Tab.get_put_same _ _ _ _

@[simp] theorem State.setRing_setRing (s : State) (r : Nat) (x y : Ring) : (s.setRing r x).setRing r y = s.setRing r y := by
  simp [State.setRing]

theorem State.setRing_other (s : State) (r : Nat) (x : Ring) {i : Nat} (hne : i ≠ r) :
    (s.setRing r x).ring i = s.ring i := Tab.get_put_other _ _ _ hne

/-- The fields that State.setRq leaves. -/
@[simp] theorem State.setRq_fields (s : State) (r : Nat) (x : RingQ) : (s.setRq r x).pending = s.pending ∧ (s.setRq r x).tick = s.tick ∧
    (s.setRq r x).elapsed = s.elapsed ∧ (s.setRq r x).free = s.free ∧ (s.setRq r x).out = s.out ∧ (s.setRq r x).mem = s.mem ∧
    (s.setRq r x).badLines = s.badLines ∧ (s.setRq r x).memCtl = s.memCtl ∧ (s.setRq r x).ctxClass = s.ctxClass ∧
    (s.setRq r x).grates = s.grates ∧ (s.setRq r x).harts = s.harts ∧ (s.setRq r x).spadWins = s.spadWins ∧ (s.setRq r x).resv = s.resv ∧
    (s.setRq r x).tallies = s.tallies ∧ (s.setRq r x).ctxs = s.ctxs ∧ (s.setRq r x).xlat = s.xlat ∧ (s.setRq r x).owners = s.owners ∧
    (s.setRq r x).rot = s.rot ∧ (s.setRq r x).rings = s.rings ∧ (s.setRq r x).ringCmd = s.ringCmd ∧ (s.setRq r x).jobs = s.jobs ∧
    (s.setRq r x).reqs = s.reqs ∧ (s.setRq r x).nextReq = s.nextReq ∧ (s.setRq r x).waitRecs = s.waitRecs ∧
    (s.setRq r x).streams = s.streams ∧ (s.setRq r x).streamBad = s.streamBad ∧ (s.setRq r x).coefs = s.coefs ∧
    (s.setRq r x).fulStat = s.fulStat ∧ (s.setRq r x).coh = s.coh ∧ (s.setRq r x).ports = s.ports ∧ (s.setRq r x).hosts = s.hosts ∧
    (s.setRq r x).fabric = s.fabric ∧ (s.setRq r x).flue = s.flue ∧ (s.setRq r x).group = s.group ∧ (s.setRq r x).power = s.power ∧
    (s.setRq r x).kindle = s.kindle ∧ (s.setRq r x).trust = s.trust ∧ (s.setRq r x).stoker = s.stoker ∧ (s.setRq r x).train = s.train ∧
    (s.setRq r x).served = s.served := by
  repeat' constructor

/-- The reads that State.setRq leaves. -/
@[simp] theorem State.setRq_reads (s : State) (r : Nat) (x : RingQ) (k j : Nat) : (s.setRq r x).gr k = s.gr k ∧
    (s.setRq r x).ht k = s.ht k ∧ (s.setRq r x).ring k = s.ring k ∧ (s.setRq r x).stream k = s.stream k ∧
    (s.setRq r x).tally k = s.tally k ∧ (s.setRq r x).job k = s.job k ∧ (s.setRq r x).host k = s.host k ∧
    (s.setRq r x).port k = s.port k ∧ (s.setRq r x).ctxE k = s.ctxE k ∧ (s.setRq r x).fl k = s.fl k ∧ (s.setRq r x).memb k = s.memb k ∧
    (s.setRq r x).bundle k j = s.bundle k j ∧ (s.setRq r x).test k = s.test k ∧ (s.setRq r x).mctl k = s.mctl k ∧
    (s.setRq r x).maint k = s.maint k ∧ (s.setRq r x).pool k = s.pool k ∧ (s.setRq r x).dirE k = s.dirE k ∧
    (s.setRq r x).al k j = s.al k j ∧ (s.setRq r x).txn k = s.txn k := by
  repeat' constructor

@[simp] theorem State.setRq_same (s : State) (r : Nat) (x : RingQ) : (s.setRq r x).rq r = x := Tab.get_put_same _ _ _ _

@[simp] theorem State.setRq_setRq (s : State) (r : Nat) (x y : RingQ) : (s.setRq r x).setRq r y = s.setRq r y := by
  simp [State.setRq]

theorem State.setRq_other (s : State) (r : Nat) (x : RingQ) {i : Nat} (hne : i ≠ r) :
    (s.setRq r x).rq i = s.rq i := Tab.get_put_other _ _ _ hne

/-- The fields that State.setStream leaves. -/
@[simp] theorem State.setStream_fields (s : State) (i : Nat) (x : Stream) : (s.setStream i x).pending = s.pending ∧
    (s.setStream i x).tick = s.tick ∧ (s.setStream i x).elapsed = s.elapsed ∧ (s.setStream i x).free = s.free ∧
    (s.setStream i x).out = s.out ∧ (s.setStream i x).mem = s.mem ∧ (s.setStream i x).badLines = s.badLines ∧
    (s.setStream i x).memCtl = s.memCtl ∧ (s.setStream i x).ctxClass = s.ctxClass ∧ (s.setStream i x).grates = s.grates ∧
    (s.setStream i x).harts = s.harts ∧ (s.setStream i x).spadWins = s.spadWins ∧ (s.setStream i x).resv = s.resv ∧
    (s.setStream i x).tallies = s.tallies ∧ (s.setStream i x).ctxs = s.ctxs ∧ (s.setStream i x).xlat = s.xlat ∧
    (s.setStream i x).owners = s.owners ∧ (s.setStream i x).rot = s.rot ∧ (s.setStream i x).rings = s.rings ∧
    (s.setStream i x).ringq = s.ringq ∧ (s.setStream i x).ringCmd = s.ringCmd ∧ (s.setStream i x).jobs = s.jobs ∧
    (s.setStream i x).reqs = s.reqs ∧ (s.setStream i x).nextReq = s.nextReq ∧ (s.setStream i x).waitRecs = s.waitRecs ∧
    (s.setStream i x).streamBad = s.streamBad ∧ (s.setStream i x).coefs = s.coefs ∧ (s.setStream i x).fulStat = s.fulStat ∧
    (s.setStream i x).coh = s.coh ∧ (s.setStream i x).ports = s.ports ∧ (s.setStream i x).hosts = s.hosts ∧
    (s.setStream i x).fabric = s.fabric ∧ (s.setStream i x).flue = s.flue ∧ (s.setStream i x).group = s.group ∧
    (s.setStream i x).power = s.power ∧ (s.setStream i x).kindle = s.kindle ∧ (s.setStream i x).trust = s.trust ∧
    (s.setStream i x).stoker = s.stoker ∧ (s.setStream i x).train = s.train ∧
    (s.setStream i x).served = s.served := by
  repeat' constructor

/-- The reads that State.setStream leaves. -/
@[simp] theorem State.setStream_reads (s : State) (i : Nat) (x : Stream) (k j : Nat) : (s.setStream i x).gr k = s.gr k ∧
    (s.setStream i x).ht k = s.ht k ∧ (s.setStream i x).ring k = s.ring k ∧ (s.setStream i x).rq k = s.rq k ∧
    (s.setStream i x).tally k = s.tally k ∧ (s.setStream i x).job k = s.job k ∧ (s.setStream i x).host k = s.host k ∧
    (s.setStream i x).port k = s.port k ∧ (s.setStream i x).ctxE k = s.ctxE k ∧ (s.setStream i x).fl k = s.fl k ∧
    (s.setStream i x).memb k = s.memb k ∧ (s.setStream i x).bundle k j = s.bundle k j ∧ (s.setStream i x).test k = s.test k ∧
    (s.setStream i x).mctl k = s.mctl k ∧ (s.setStream i x).maint k = s.maint k ∧ (s.setStream i x).pool k = s.pool k ∧
    (s.setStream i x).dirE k = s.dirE k ∧ (s.setStream i x).al k j = s.al k j ∧ (s.setStream i x).txn k = s.txn k := by
  repeat' constructor

@[simp] theorem State.setStream_same (s : State) (i : Nat) (x : Stream) : (s.setStream i x).stream i = x := Tab.get_put_same _ _ _ _

@[simp] theorem State.setStream_setStream (s : State) (i : Nat) (x y : Stream) : (s.setStream i x).setStream i y = s.setStream i y := by
  simp [State.setStream]

theorem State.setStream_other (s : State) (i : Nat) (x : Stream) {k : Nat} (hne : k ≠ i) :
    (s.setStream i x).stream k = s.stream k := Tab.get_put_other _ _ _ hne

/-- The fields that State.setTally leaves. -/
@[simp] theorem State.setTally_fields (s : State) (i : Nat) (x : Tally) : (s.setTally i x).pending = s.pending ∧
    (s.setTally i x).tick = s.tick ∧ (s.setTally i x).elapsed = s.elapsed ∧ (s.setTally i x).free = s.free ∧
    (s.setTally i x).out = s.out ∧ (s.setTally i x).mem = s.mem ∧ (s.setTally i x).badLines = s.badLines ∧
    (s.setTally i x).memCtl = s.memCtl ∧ (s.setTally i x).ctxClass = s.ctxClass ∧ (s.setTally i x).grates = s.grates ∧
    (s.setTally i x).harts = s.harts ∧ (s.setTally i x).spadWins = s.spadWins ∧ (s.setTally i x).resv = s.resv ∧
    (s.setTally i x).ctxs = s.ctxs ∧ (s.setTally i x).xlat = s.xlat ∧ (s.setTally i x).owners = s.owners ∧ (s.setTally i x).rot = s.rot ∧
    (s.setTally i x).rings = s.rings ∧ (s.setTally i x).ringq = s.ringq ∧ (s.setTally i x).ringCmd = s.ringCmd ∧
    (s.setTally i x).jobs = s.jobs ∧ (s.setTally i x).reqs = s.reqs ∧ (s.setTally i x).nextReq = s.nextReq ∧
    (s.setTally i x).waitRecs = s.waitRecs ∧ (s.setTally i x).streams = s.streams ∧ (s.setTally i x).streamBad = s.streamBad ∧
    (s.setTally i x).coefs = s.coefs ∧ (s.setTally i x).fulStat = s.fulStat ∧ (s.setTally i x).coh = s.coh ∧
    (s.setTally i x).ports = s.ports ∧ (s.setTally i x).hosts = s.hosts ∧ (s.setTally i x).fabric = s.fabric ∧
    (s.setTally i x).flue = s.flue ∧ (s.setTally i x).group = s.group ∧ (s.setTally i x).power = s.power ∧
    (s.setTally i x).kindle = s.kindle ∧ (s.setTally i x).trust = s.trust ∧ (s.setTally i x).stoker = s.stoker ∧
    (s.setTally i x).train = s.train ∧
    (s.setTally i x).served = s.served := by
  repeat' constructor

/-- The reads that State.setTally leaves. -/
@[simp] theorem State.setTally_reads (s : State) (i : Nat) (x : Tally) (k j : Nat) : (s.setTally i x).gr k = s.gr k ∧
    (s.setTally i x).ht k = s.ht k ∧ (s.setTally i x).ring k = s.ring k ∧ (s.setTally i x).rq k = s.rq k ∧
    (s.setTally i x).stream k = s.stream k ∧ (s.setTally i x).job k = s.job k ∧ (s.setTally i x).host k = s.host k ∧
    (s.setTally i x).port k = s.port k ∧ (s.setTally i x).ctxE k = s.ctxE k ∧ (s.setTally i x).fl k = s.fl k ∧
    (s.setTally i x).memb k = s.memb k ∧ (s.setTally i x).bundle k j = s.bundle k j ∧ (s.setTally i x).test k = s.test k ∧
    (s.setTally i x).mctl k = s.mctl k ∧ (s.setTally i x).maint k = s.maint k ∧ (s.setTally i x).pool k = s.pool k ∧
    (s.setTally i x).dirE k = s.dirE k ∧ (s.setTally i x).al k j = s.al k j ∧ (s.setTally i x).txn k = s.txn k := by
  repeat' constructor

@[simp] theorem State.setTally_same (s : State) (i : Nat) (x : Tally) : (s.setTally i x).tally i = x := Tab.get_put_same _ _ _ _

@[simp] theorem State.setTally_setTally (s : State) (i : Nat) (x y : Tally) : (s.setTally i x).setTally i y = s.setTally i y := by
  simp [State.setTally]

theorem State.setTally_other (s : State) (i : Nat) (x : Tally) {k : Nat} (hne : k ≠ i) :
    (s.setTally i x).tally k = s.tally k := Tab.get_put_other _ _ _ hne

/-- The fields that State.setJob leaves. -/
@[simp] theorem State.setJob_fields (s : State) (i : Nat) (x : Option Job) : (s.setJob i x).pending = s.pending ∧
    (s.setJob i x).tick = s.tick ∧ (s.setJob i x).elapsed = s.elapsed ∧ (s.setJob i x).free = s.free ∧ (s.setJob i x).out = s.out ∧
    (s.setJob i x).mem = s.mem ∧ (s.setJob i x).badLines = s.badLines ∧ (s.setJob i x).memCtl = s.memCtl ∧
    (s.setJob i x).ctxClass = s.ctxClass ∧ (s.setJob i x).grates = s.grates ∧ (s.setJob i x).harts = s.harts ∧
    (s.setJob i x).spadWins = s.spadWins ∧ (s.setJob i x).resv = s.resv ∧ (s.setJob i x).tallies = s.tallies ∧
    (s.setJob i x).ctxs = s.ctxs ∧ (s.setJob i x).xlat = s.xlat ∧ (s.setJob i x).owners = s.owners ∧ (s.setJob i x).rot = s.rot ∧
    (s.setJob i x).rings = s.rings ∧ (s.setJob i x).ringq = s.ringq ∧ (s.setJob i x).ringCmd = s.ringCmd ∧ (s.setJob i x).reqs = s.reqs ∧
    (s.setJob i x).nextReq = s.nextReq ∧ (s.setJob i x).waitRecs = s.waitRecs ∧ (s.setJob i x).streams = s.streams ∧
    (s.setJob i x).streamBad = s.streamBad ∧ (s.setJob i x).coefs = s.coefs ∧ (s.setJob i x).fulStat = s.fulStat ∧
    (s.setJob i x).coh = s.coh ∧ (s.setJob i x).ports = s.ports ∧ (s.setJob i x).hosts = s.hosts ∧ (s.setJob i x).fabric = s.fabric ∧
    (s.setJob i x).flue = s.flue ∧ (s.setJob i x).group = s.group ∧ (s.setJob i x).power = s.power ∧ (s.setJob i x).kindle = s.kindle ∧
    (s.setJob i x).trust = s.trust ∧ (s.setJob i x).stoker = s.stoker ∧ (s.setJob i x).train = s.train ∧
    (s.setJob i x).served = s.served := by
  repeat' constructor

/-- The reads that State.setJob leaves. -/
@[simp] theorem State.setJob_reads (s : State) (i : Nat) (x : Option Job) (k j : Nat) : (s.setJob i x).gr k = s.gr k ∧
    (s.setJob i x).ht k = s.ht k ∧ (s.setJob i x).ring k = s.ring k ∧ (s.setJob i x).rq k = s.rq k ∧
    (s.setJob i x).stream k = s.stream k ∧ (s.setJob i x).tally k = s.tally k ∧ (s.setJob i x).host k = s.host k ∧
    (s.setJob i x).port k = s.port k ∧ (s.setJob i x).ctxE k = s.ctxE k ∧ (s.setJob i x).fl k = s.fl k ∧
    (s.setJob i x).memb k = s.memb k ∧ (s.setJob i x).bundle k j = s.bundle k j ∧ (s.setJob i x).test k = s.test k ∧
    (s.setJob i x).mctl k = s.mctl k ∧ (s.setJob i x).maint k = s.maint k ∧ (s.setJob i x).pool k = s.pool k ∧
    (s.setJob i x).dirE k = s.dirE k ∧ (s.setJob i x).al k j = s.al k j ∧ (s.setJob i x).txn k = s.txn k := by
  repeat' constructor

@[simp] theorem State.setJob_same (s : State) (i : Nat) (x : Option Job) : (s.setJob i x).job i = x := Tab.get_put_same _ _ _ _

@[simp] theorem State.setJob_setJob (s : State) (i : Nat) (x y : Option Job) : (s.setJob i x).setJob i y = s.setJob i y := by
  simp [State.setJob]

theorem State.setJob_other (s : State) (i : Nat) (x : Option Job) {k : Nat} (hne : k ≠ i) :
    (s.setJob i x).job k = s.job k := Tab.get_put_other _ _ _ hne

/-- The fields that State.setHost leaves. -/
@[simp] theorem State.setHost_fields (s : State) (h : Nat) (x : HostLink) : (s.setHost h x).pending = s.pending ∧
    (s.setHost h x).tick = s.tick ∧ (s.setHost h x).elapsed = s.elapsed ∧ (s.setHost h x).free = s.free ∧ (s.setHost h x).out = s.out ∧
    (s.setHost h x).mem = s.mem ∧ (s.setHost h x).badLines = s.badLines ∧ (s.setHost h x).memCtl = s.memCtl ∧
    (s.setHost h x).ctxClass = s.ctxClass ∧ (s.setHost h x).grates = s.grates ∧ (s.setHost h x).harts = s.harts ∧
    (s.setHost h x).spadWins = s.spadWins ∧ (s.setHost h x).resv = s.resv ∧ (s.setHost h x).tallies = s.tallies ∧
    (s.setHost h x).ctxs = s.ctxs ∧ (s.setHost h x).xlat = s.xlat ∧ (s.setHost h x).owners = s.owners ∧ (s.setHost h x).rot = s.rot ∧
    (s.setHost h x).rings = s.rings ∧ (s.setHost h x).ringq = s.ringq ∧ (s.setHost h x).ringCmd = s.ringCmd ∧
    (s.setHost h x).jobs = s.jobs ∧ (s.setHost h x).reqs = s.reqs ∧ (s.setHost h x).nextReq = s.nextReq ∧
    (s.setHost h x).waitRecs = s.waitRecs ∧ (s.setHost h x).streams = s.streams ∧ (s.setHost h x).streamBad = s.streamBad ∧
    (s.setHost h x).coefs = s.coefs ∧ (s.setHost h x).fulStat = s.fulStat ∧ (s.setHost h x).coh = s.coh ∧
    (s.setHost h x).ports = s.ports ∧ (s.setHost h x).fabric = s.fabric ∧ (s.setHost h x).flue = s.flue ∧
    (s.setHost h x).group = s.group ∧ (s.setHost h x).power = s.power ∧ (s.setHost h x).kindle = s.kindle ∧
    (s.setHost h x).trust = s.trust ∧ (s.setHost h x).stoker = s.stoker ∧ (s.setHost h x).train = s.train ∧
    (s.setHost h x).served = s.served := by
  repeat' constructor

/-- The reads that State.setHost leaves. -/
@[simp] theorem State.setHost_reads (s : State) (h : Nat) (x : HostLink) (k j : Nat) : (s.setHost h x).gr k = s.gr k ∧
    (s.setHost h x).ht k = s.ht k ∧ (s.setHost h x).ring k = s.ring k ∧ (s.setHost h x).rq k = s.rq k ∧
    (s.setHost h x).stream k = s.stream k ∧ (s.setHost h x).tally k = s.tally k ∧ (s.setHost h x).job k = s.job k ∧
    (s.setHost h x).port k = s.port k ∧ (s.setHost h x).ctxE k = s.ctxE k ∧ (s.setHost h x).fl k = s.fl k ∧
    (s.setHost h x).memb k = s.memb k ∧ (s.setHost h x).bundle k j = s.bundle k j ∧ (s.setHost h x).test k = s.test k ∧
    (s.setHost h x).mctl k = s.mctl k ∧ (s.setHost h x).maint k = s.maint k ∧ (s.setHost h x).pool k = s.pool k ∧
    (s.setHost h x).dirE k = s.dirE k ∧ (s.setHost h x).al k j = s.al k j ∧ (s.setHost h x).txn k = s.txn k := by
  repeat' constructor

@[simp] theorem State.setHost_same (s : State) (h : Nat) (x : HostLink) : (s.setHost h x).host h = x := Tab.get_put_same _ _ _ _

@[simp] theorem State.setHost_setHost (s : State) (h : Nat) (x y : HostLink) : (s.setHost h x).setHost h y = s.setHost h y := by
  simp [State.setHost]

theorem State.setHost_other (s : State) (h : Nat) (x : HostLink) {i : Nat} (hne : i ≠ h) :
    (s.setHost h x).host i = s.host i := Tab.get_put_other _ _ _ hne

/-- The fields that State.setMctl leaves. -/
@[simp] theorem State.setMctl_fields (s : State) (c : Nat) (x : MemCtl) : (s.setMctl c x).pending = s.pending ∧
    (s.setMctl c x).tick = s.tick ∧ (s.setMctl c x).elapsed = s.elapsed ∧ (s.setMctl c x).free = s.free ∧ (s.setMctl c x).out = s.out ∧
    (s.setMctl c x).mem = s.mem ∧ (s.setMctl c x).badLines = s.badLines ∧ (s.setMctl c x).ctxClass = s.ctxClass ∧
    (s.setMctl c x).grates = s.grates ∧ (s.setMctl c x).harts = s.harts ∧ (s.setMctl c x).spadWins = s.spadWins ∧
    (s.setMctl c x).resv = s.resv ∧ (s.setMctl c x).tallies = s.tallies ∧ (s.setMctl c x).ctxs = s.ctxs ∧ (s.setMctl c x).xlat = s.xlat ∧
    (s.setMctl c x).owners = s.owners ∧ (s.setMctl c x).rot = s.rot ∧ (s.setMctl c x).rings = s.rings ∧ (s.setMctl c x).ringq = s.ringq ∧
    (s.setMctl c x).ringCmd = s.ringCmd ∧ (s.setMctl c x).jobs = s.jobs ∧ (s.setMctl c x).reqs = s.reqs ∧
    (s.setMctl c x).nextReq = s.nextReq ∧ (s.setMctl c x).waitRecs = s.waitRecs ∧ (s.setMctl c x).streams = s.streams ∧
    (s.setMctl c x).streamBad = s.streamBad ∧ (s.setMctl c x).coefs = s.coefs ∧ (s.setMctl c x).fulStat = s.fulStat ∧
    (s.setMctl c x).coh = s.coh ∧ (s.setMctl c x).ports = s.ports ∧ (s.setMctl c x).hosts = s.hosts ∧ (s.setMctl c x).fabric = s.fabric ∧
    (s.setMctl c x).flue = s.flue ∧ (s.setMctl c x).group = s.group ∧ (s.setMctl c x).power = s.power ∧
    (s.setMctl c x).kindle = s.kindle ∧ (s.setMctl c x).trust = s.trust ∧ (s.setMctl c x).stoker = s.stoker ∧
    (s.setMctl c x).train = s.train ∧
    (s.setMctl c x).served = s.served := by
  repeat' constructor

/-- The reads that State.setMctl leaves. -/
@[simp] theorem State.setMctl_reads (s : State) (c : Nat) (x : MemCtl) (k j : Nat) : (s.setMctl c x).gr k = s.gr k ∧
    (s.setMctl c x).ht k = s.ht k ∧ (s.setMctl c x).ring k = s.ring k ∧ (s.setMctl c x).rq k = s.rq k ∧
    (s.setMctl c x).stream k = s.stream k ∧ (s.setMctl c x).tally k = s.tally k ∧ (s.setMctl c x).job k = s.job k ∧
    (s.setMctl c x).host k = s.host k ∧ (s.setMctl c x).port k = s.port k ∧ (s.setMctl c x).ctxE k = s.ctxE k ∧
    (s.setMctl c x).fl k = s.fl k ∧ (s.setMctl c x).memb k = s.memb k ∧ (s.setMctl c x).bundle k j = s.bundle k j ∧
    (s.setMctl c x).test k = s.test k ∧ (s.setMctl c x).maint k = s.maint k ∧ (s.setMctl c x).pool k = s.pool k ∧
    (s.setMctl c x).dirE k = s.dirE k ∧ (s.setMctl c x).al k j = s.al k j ∧ (s.setMctl c x).txn k = s.txn k := by
  repeat' constructor

@[simp] theorem State.setMctl_same (s : State) (c : Nat) (x : MemCtl) : (s.setMctl c x).mctl c = x := Tab.get_put_same _ _ _ _

@[simp] theorem State.setMctl_setMctl (s : State) (c : Nat) (x y : MemCtl) : (s.setMctl c x).setMctl c y = s.setMctl c y := by
  simp [State.setMctl]

theorem State.setMctl_other (s : State) (c : Nat) (x : MemCtl) {i : Nat} (hne : i ≠ c) :
    (s.setMctl c x).mctl i = s.mctl i := Tab.get_put_other _ _ _ hne

/-- The fields that State.setFl leaves. -/
@[simp] theorem State.setFl_fields (s : State) (f : Nat) (x : FlueLink) : (s.setFl f x).pending = s.pending ∧
    (s.setFl f x).tick = s.tick ∧ (s.setFl f x).elapsed = s.elapsed ∧ (s.setFl f x).free = s.free ∧ (s.setFl f x).out = s.out ∧
    (s.setFl f x).mem = s.mem ∧ (s.setFl f x).badLines = s.badLines ∧ (s.setFl f x).memCtl = s.memCtl ∧
    (s.setFl f x).ctxClass = s.ctxClass ∧ (s.setFl f x).grates = s.grates ∧ (s.setFl f x).harts = s.harts ∧
    (s.setFl f x).spadWins = s.spadWins ∧ (s.setFl f x).resv = s.resv ∧ (s.setFl f x).tallies = s.tallies ∧ (s.setFl f x).ctxs = s.ctxs ∧
    (s.setFl f x).xlat = s.xlat ∧ (s.setFl f x).owners = s.owners ∧ (s.setFl f x).rot = s.rot ∧ (s.setFl f x).rings = s.rings ∧
    (s.setFl f x).ringq = s.ringq ∧ (s.setFl f x).ringCmd = s.ringCmd ∧ (s.setFl f x).jobs = s.jobs ∧ (s.setFl f x).reqs = s.reqs ∧
    (s.setFl f x).nextReq = s.nextReq ∧ (s.setFl f x).waitRecs = s.waitRecs ∧ (s.setFl f x).streams = s.streams ∧
    (s.setFl f x).streamBad = s.streamBad ∧ (s.setFl f x).coefs = s.coefs ∧ (s.setFl f x).fulStat = s.fulStat ∧
    (s.setFl f x).coh = s.coh ∧ (s.setFl f x).ports = s.ports ∧ (s.setFl f x).hosts = s.hosts ∧ (s.setFl f x).fabric = s.fabric ∧
    (s.setFl f x).group = s.group ∧ (s.setFl f x).power = s.power ∧ (s.setFl f x).kindle = s.kindle ∧ (s.setFl f x).trust = s.trust ∧
    (s.setFl f x).stoker = s.stoker ∧ (s.setFl f x).train = s.train ∧
    (s.setFl f x).served = s.served := by
  repeat' constructor

/-- The reads that State.setFl leaves. -/
@[simp] theorem State.setFl_reads (s : State) (f : Nat) (x : FlueLink) (k j : Nat) : (s.setFl f x).gr k = s.gr k ∧
    (s.setFl f x).ht k = s.ht k ∧ (s.setFl f x).ring k = s.ring k ∧ (s.setFl f x).rq k = s.rq k ∧ (s.setFl f x).stream k = s.stream k ∧
    (s.setFl f x).tally k = s.tally k ∧ (s.setFl f x).job k = s.job k ∧ (s.setFl f x).host k = s.host k ∧
    (s.setFl f x).port k = s.port k ∧ (s.setFl f x).ctxE k = s.ctxE k ∧ (s.setFl f x).memb k = s.memb k ∧
    (s.setFl f x).bundle k j = s.bundle k j ∧ (s.setFl f x).test k = s.test k ∧ (s.setFl f x).mctl k = s.mctl k ∧
    (s.setFl f x).maint k = s.maint k ∧ (s.setFl f x).pool k = s.pool k ∧ (s.setFl f x).dirE k = s.dirE k ∧
    (s.setFl f x).al k j = s.al k j ∧ (s.setFl f x).txn k = s.txn k := by
  repeat' constructor

@[simp] theorem State.setFl_same (s : State) (f : Nat) (x : FlueLink) : (s.setFl f x).fl f = x := Tab.get_put_same _ _ _ _

@[simp] theorem State.setFl_setFl (s : State) (f : Nat) (x y : FlueLink) : (s.setFl f x).setFl f y = s.setFl f y := by
  simp [State.setFl]

theorem State.setFl_other (s : State) (f : Nat) (x : FlueLink) {i : Nat} (hne : i ≠ f) :
    (s.setFl f x).fl i = s.fl i := Tab.get_put_other _ _ _ hne

/-- The fields that State.setMemb leaves. -/
@[simp] theorem State.setMemb_fields (s : State) (p : Nat) (x : Memb) : (s.setMemb p x).pending = s.pending ∧
    (s.setMemb p x).tick = s.tick ∧ (s.setMemb p x).elapsed = s.elapsed ∧ (s.setMemb p x).free = s.free ∧ (s.setMemb p x).out = s.out ∧
    (s.setMemb p x).mem = s.mem ∧ (s.setMemb p x).badLines = s.badLines ∧ (s.setMemb p x).memCtl = s.memCtl ∧
    (s.setMemb p x).ctxClass = s.ctxClass ∧ (s.setMemb p x).grates = s.grates ∧ (s.setMemb p x).harts = s.harts ∧
    (s.setMemb p x).spadWins = s.spadWins ∧ (s.setMemb p x).resv = s.resv ∧ (s.setMemb p x).tallies = s.tallies ∧
    (s.setMemb p x).ctxs = s.ctxs ∧ (s.setMemb p x).xlat = s.xlat ∧ (s.setMemb p x).owners = s.owners ∧ (s.setMemb p x).rot = s.rot ∧
    (s.setMemb p x).rings = s.rings ∧ (s.setMemb p x).ringq = s.ringq ∧ (s.setMemb p x).ringCmd = s.ringCmd ∧
    (s.setMemb p x).jobs = s.jobs ∧ (s.setMemb p x).reqs = s.reqs ∧ (s.setMemb p x).nextReq = s.nextReq ∧
    (s.setMemb p x).waitRecs = s.waitRecs ∧ (s.setMemb p x).streams = s.streams ∧ (s.setMemb p x).streamBad = s.streamBad ∧
    (s.setMemb p x).coefs = s.coefs ∧ (s.setMemb p x).fulStat = s.fulStat ∧ (s.setMemb p x).coh = s.coh ∧
    (s.setMemb p x).ports = s.ports ∧ (s.setMemb p x).hosts = s.hosts ∧ (s.setMemb p x).fabric = s.fabric ∧
    (s.setMemb p x).flue = s.flue ∧ (s.setMemb p x).power = s.power ∧ (s.setMemb p x).kindle = s.kindle ∧
    (s.setMemb p x).trust = s.trust ∧ (s.setMemb p x).stoker = s.stoker ∧ (s.setMemb p x).train = s.train ∧
    (s.setMemb p x).served = s.served := by
  repeat' constructor

/-- The reads that State.setMemb leaves. -/
@[simp] theorem State.setMemb_reads (s : State) (p : Nat) (x : Memb) (k j : Nat) : (s.setMemb p x).gr k = s.gr k ∧
    (s.setMemb p x).ht k = s.ht k ∧ (s.setMemb p x).ring k = s.ring k ∧ (s.setMemb p x).rq k = s.rq k ∧
    (s.setMemb p x).stream k = s.stream k ∧ (s.setMemb p x).tally k = s.tally k ∧ (s.setMemb p x).job k = s.job k ∧
    (s.setMemb p x).host k = s.host k ∧ (s.setMemb p x).port k = s.port k ∧ (s.setMemb p x).ctxE k = s.ctxE k ∧
    (s.setMemb p x).fl k = s.fl k ∧ (s.setMemb p x).bundle k j = s.bundle k j ∧ (s.setMemb p x).test k = s.test k ∧
    (s.setMemb p x).mctl k = s.mctl k ∧ (s.setMemb p x).maint k = s.maint k ∧ (s.setMemb p x).pool k = s.pool k ∧
    (s.setMemb p x).dirE k = s.dirE k ∧ (s.setMemb p x).al k j = s.al k j ∧ (s.setMemb p x).txn k = s.txn k := by
  repeat' constructor

@[simp] theorem State.setMemb_same (s : State) (p : Nat) (x : Memb) : (s.setMemb p x).memb p = x := Tab.get_put_same _ _ _ _

@[simp] theorem State.setMemb_setMemb (s : State) (p : Nat) (x y : Memb) : (s.setMemb p x).setMemb p y = s.setMemb p y := by
  simp [State.setMemb]

theorem State.setMemb_other (s : State) (p : Nat) (x : Memb) {i : Nat} (hne : i ≠ p) :
    (s.setMemb p x).memb i = s.memb i := Tab.get_put_other _ _ _ hne

/-- The fields that State.setBundle leaves. -/
@[simp] theorem State.setBundle_fields (s : State) (d b : Nat) (x : Bundle) : (s.setBundle d b x).pending = s.pending ∧
    (s.setBundle d b x).tick = s.tick ∧ (s.setBundle d b x).elapsed = s.elapsed ∧ (s.setBundle d b x).free = s.free ∧
    (s.setBundle d b x).out = s.out ∧ (s.setBundle d b x).mem = s.mem ∧ (s.setBundle d b x).badLines = s.badLines ∧
    (s.setBundle d b x).memCtl = s.memCtl ∧ (s.setBundle d b x).ctxClass = s.ctxClass ∧ (s.setBundle d b x).grates = s.grates ∧
    (s.setBundle d b x).harts = s.harts ∧ (s.setBundle d b x).spadWins = s.spadWins ∧ (s.setBundle d b x).resv = s.resv ∧
    (s.setBundle d b x).tallies = s.tallies ∧ (s.setBundle d b x).ctxs = s.ctxs ∧ (s.setBundle d b x).xlat = s.xlat ∧
    (s.setBundle d b x).owners = s.owners ∧ (s.setBundle d b x).rot = s.rot ∧ (s.setBundle d b x).rings = s.rings ∧
    (s.setBundle d b x).ringq = s.ringq ∧ (s.setBundle d b x).ringCmd = s.ringCmd ∧ (s.setBundle d b x).jobs = s.jobs ∧
    (s.setBundle d b x).reqs = s.reqs ∧ (s.setBundle d b x).nextReq = s.nextReq ∧ (s.setBundle d b x).waitRecs = s.waitRecs ∧
    (s.setBundle d b x).streams = s.streams ∧ (s.setBundle d b x).streamBad = s.streamBad ∧ (s.setBundle d b x).coefs = s.coefs ∧
    (s.setBundle d b x).fulStat = s.fulStat ∧ (s.setBundle d b x).coh = s.coh ∧ (s.setBundle d b x).ports = s.ports ∧
    (s.setBundle d b x).hosts = s.hosts ∧ (s.setBundle d b x).flue = s.flue ∧ (s.setBundle d b x).group = s.group ∧
    (s.setBundle d b x).power = s.power ∧ (s.setBundle d b x).kindle = s.kindle ∧ (s.setBundle d b x).trust = s.trust ∧
    (s.setBundle d b x).stoker = s.stoker ∧ (s.setBundle d b x).train = s.train ∧
    (s.setBundle d b x).served = s.served := by
  repeat' constructor

/-- The reads that State.setBundle leaves. -/
@[simp] theorem State.setBundle_reads (s : State) (d b : Nat) (x : Bundle) (k j : Nat) : (s.setBundle d b x).gr k = s.gr k ∧
    (s.setBundle d b x).ht k = s.ht k ∧ (s.setBundle d b x).ring k = s.ring k ∧ (s.setBundle d b x).rq k = s.rq k ∧
    (s.setBundle d b x).stream k = s.stream k ∧ (s.setBundle d b x).tally k = s.tally k ∧ (s.setBundle d b x).job k = s.job k ∧
    (s.setBundle d b x).host k = s.host k ∧ (s.setBundle d b x).port k = s.port k ∧ (s.setBundle d b x).ctxE k = s.ctxE k ∧
    (s.setBundle d b x).fl k = s.fl k ∧ (s.setBundle d b x).memb k = s.memb k ∧ (s.setBundle d b x).test k = s.test k ∧
    (s.setBundle d b x).mctl k = s.mctl k ∧ (s.setBundle d b x).maint k = s.maint k ∧ (s.setBundle d b x).pool k = s.pool k ∧
    (s.setBundle d b x).dirE k = s.dirE k ∧ (s.setBundle d b x).al k j = s.al k j ∧ (s.setBundle d b x).txn k = s.txn k := by
  repeat' constructor

@[simp] theorem State.setBundle_same (s : State) (d b : Nat) (x : Bundle) : (s.setBundle d b x).bundle d b = x := Tab.get_put_same _ _ _ _

@[simp] theorem State.setBundle_setBundle (s : State) (d b : Nat) (x y : Bundle) : (s.setBundle d b x).setBundle d b y = s.setBundle d b y := by
  simp [State.setBundle]

theorem State.setBundle_other (s : State) (d b : Nat) (x : Bundle) {i j : Nat} (hne : i * 64 + j ≠ d * 64 + b) :
    (s.setBundle d b x).bundle i j = s.bundle i j := Tab.get_put_other _ _ _ hne

/-- The fields that State.setTest leaves. -/
@[simp] theorem State.setTest_fields (s : State) (d : Nat) (x : DieTest) : (s.setTest d x).pending = s.pending ∧
    (s.setTest d x).tick = s.tick ∧ (s.setTest d x).elapsed = s.elapsed ∧ (s.setTest d x).free = s.free ∧ (s.setTest d x).out = s.out ∧
    (s.setTest d x).mem = s.mem ∧ (s.setTest d x).badLines = s.badLines ∧ (s.setTest d x).memCtl = s.memCtl ∧
    (s.setTest d x).ctxClass = s.ctxClass ∧ (s.setTest d x).grates = s.grates ∧ (s.setTest d x).harts = s.harts ∧
    (s.setTest d x).spadWins = s.spadWins ∧ (s.setTest d x).resv = s.resv ∧ (s.setTest d x).tallies = s.tallies ∧
    (s.setTest d x).ctxs = s.ctxs ∧ (s.setTest d x).xlat = s.xlat ∧ (s.setTest d x).owners = s.owners ∧ (s.setTest d x).rot = s.rot ∧
    (s.setTest d x).rings = s.rings ∧ (s.setTest d x).ringq = s.ringq ∧ (s.setTest d x).ringCmd = s.ringCmd ∧
    (s.setTest d x).jobs = s.jobs ∧ (s.setTest d x).reqs = s.reqs ∧ (s.setTest d x).nextReq = s.nextReq ∧
    (s.setTest d x).waitRecs = s.waitRecs ∧ (s.setTest d x).streams = s.streams ∧ (s.setTest d x).streamBad = s.streamBad ∧
    (s.setTest d x).coefs = s.coefs ∧ (s.setTest d x).fulStat = s.fulStat ∧ (s.setTest d x).coh = s.coh ∧
    (s.setTest d x).ports = s.ports ∧ (s.setTest d x).hosts = s.hosts ∧ (s.setTest d x).flue = s.flue ∧ (s.setTest d x).group = s.group ∧
    (s.setTest d x).power = s.power ∧ (s.setTest d x).kindle = s.kindle ∧ (s.setTest d x).trust = s.trust ∧
    (s.setTest d x).stoker = s.stoker ∧ (s.setTest d x).train = s.train ∧
    (s.setTest d x).served = s.served := by
  repeat' constructor

/-- The reads that State.setTest leaves. -/
@[simp] theorem State.setTest_reads (s : State) (d : Nat) (x : DieTest) (k j : Nat) : (s.setTest d x).gr k = s.gr k ∧
    (s.setTest d x).ht k = s.ht k ∧ (s.setTest d x).ring k = s.ring k ∧ (s.setTest d x).rq k = s.rq k ∧
    (s.setTest d x).stream k = s.stream k ∧ (s.setTest d x).tally k = s.tally k ∧ (s.setTest d x).job k = s.job k ∧
    (s.setTest d x).host k = s.host k ∧ (s.setTest d x).port k = s.port k ∧ (s.setTest d x).ctxE k = s.ctxE k ∧
    (s.setTest d x).fl k = s.fl k ∧ (s.setTest d x).memb k = s.memb k ∧ (s.setTest d x).bundle k j = s.bundle k j ∧
    (s.setTest d x).mctl k = s.mctl k ∧ (s.setTest d x).maint k = s.maint k ∧ (s.setTest d x).pool k = s.pool k ∧
    (s.setTest d x).dirE k = s.dirE k ∧ (s.setTest d x).al k j = s.al k j ∧ (s.setTest d x).txn k = s.txn k := by
  repeat' constructor

@[simp] theorem State.setTest_same (s : State) (d : Nat) (x : DieTest) : (s.setTest d x).test d = x := Tab.get_put_same _ _ _ _

@[simp] theorem State.setTest_setTest (s : State) (d : Nat) (x y : DieTest) : (s.setTest d x).setTest d y = s.setTest d y := by
  simp [State.setTest]

theorem State.setTest_other (s : State) (d : Nat) (x : DieTest) {i : Nat} (hne : i ≠ d) :
    (s.setTest d x).test i = s.test i := Tab.get_put_other _ _ _ hne

/-- The fields that State.setMaint leaves. -/
@[simp] theorem State.setMaint_fields (s : State) (d : Nat) (x : Maint) : (s.setMaint d x).pending = s.pending ∧
    (s.setMaint d x).tick = s.tick ∧ (s.setMaint d x).elapsed = s.elapsed ∧ (s.setMaint d x).free = s.free ∧
    (s.setMaint d x).out = s.out ∧ (s.setMaint d x).mem = s.mem ∧ (s.setMaint d x).badLines = s.badLines ∧
    (s.setMaint d x).memCtl = s.memCtl ∧ (s.setMaint d x).ctxClass = s.ctxClass ∧ (s.setMaint d x).grates = s.grates ∧
    (s.setMaint d x).harts = s.harts ∧ (s.setMaint d x).spadWins = s.spadWins ∧ (s.setMaint d x).resv = s.resv ∧
    (s.setMaint d x).tallies = s.tallies ∧ (s.setMaint d x).ctxs = s.ctxs ∧ (s.setMaint d x).xlat = s.xlat ∧
    (s.setMaint d x).owners = s.owners ∧ (s.setMaint d x).rot = s.rot ∧ (s.setMaint d x).rings = s.rings ∧
    (s.setMaint d x).ringq = s.ringq ∧ (s.setMaint d x).ringCmd = s.ringCmd ∧ (s.setMaint d x).jobs = s.jobs ∧
    (s.setMaint d x).reqs = s.reqs ∧ (s.setMaint d x).nextReq = s.nextReq ∧ (s.setMaint d x).waitRecs = s.waitRecs ∧
    (s.setMaint d x).streams = s.streams ∧ (s.setMaint d x).streamBad = s.streamBad ∧ (s.setMaint d x).coefs = s.coefs ∧
    (s.setMaint d x).fulStat = s.fulStat ∧ (s.setMaint d x).ports = s.ports ∧ (s.setMaint d x).hosts = s.hosts ∧
    (s.setMaint d x).fabric = s.fabric ∧ (s.setMaint d x).flue = s.flue ∧ (s.setMaint d x).group = s.group ∧
    (s.setMaint d x).power = s.power ∧ (s.setMaint d x).kindle = s.kindle ∧ (s.setMaint d x).trust = s.trust ∧
    (s.setMaint d x).stoker = s.stoker ∧ (s.setMaint d x).train = s.train ∧
    (s.setMaint d x).served = s.served := by
  repeat' constructor

/-- The reads that State.setMaint leaves. -/
@[simp] theorem State.setMaint_reads (s : State) (d : Nat) (x : Maint) (k j : Nat) : (s.setMaint d x).gr k = s.gr k ∧
    (s.setMaint d x).ht k = s.ht k ∧ (s.setMaint d x).ring k = s.ring k ∧ (s.setMaint d x).rq k = s.rq k ∧
    (s.setMaint d x).stream k = s.stream k ∧ (s.setMaint d x).tally k = s.tally k ∧ (s.setMaint d x).job k = s.job k ∧
    (s.setMaint d x).host k = s.host k ∧ (s.setMaint d x).port k = s.port k ∧ (s.setMaint d x).ctxE k = s.ctxE k ∧
    (s.setMaint d x).fl k = s.fl k ∧ (s.setMaint d x).memb k = s.memb k ∧ (s.setMaint d x).bundle k j = s.bundle k j ∧
    (s.setMaint d x).test k = s.test k ∧ (s.setMaint d x).mctl k = s.mctl k ∧ (s.setMaint d x).pool k = s.pool k ∧
    (s.setMaint d x).dirE k = s.dirE k ∧ (s.setMaint d x).al k j = s.al k j ∧ (s.setMaint d x).txn k = s.txn k := by
  repeat' constructor

@[simp] theorem State.setMaint_same (s : State) (d : Nat) (x : Maint) : (s.setMaint d x).maint d = x := Tab.get_put_same _ _ _ _

@[simp] theorem State.setMaint_setMaint (s : State) (d : Nat) (x y : Maint) : (s.setMaint d x).setMaint d y = s.setMaint d y := by
  simp [State.setMaint]

theorem State.setMaint_other (s : State) (d : Nat) (x : Maint) {i : Nat} (hne : i ≠ d) :
    (s.setMaint d x).maint i = s.maint i := Tab.get_put_other _ _ _ hne

/-- The fields that State.setPool leaves. -/
@[simp] theorem State.setPool_fields (s : State) (d : Nat) (x : Pool) : (s.setPool d x).pending = s.pending ∧
    (s.setPool d x).tick = s.tick ∧ (s.setPool d x).elapsed = s.elapsed ∧ (s.setPool d x).free = s.free ∧ (s.setPool d x).out = s.out ∧
    (s.setPool d x).mem = s.mem ∧ (s.setPool d x).badLines = s.badLines ∧ (s.setPool d x).memCtl = s.memCtl ∧
    (s.setPool d x).ctxClass = s.ctxClass ∧ (s.setPool d x).grates = s.grates ∧ (s.setPool d x).harts = s.harts ∧
    (s.setPool d x).spadWins = s.spadWins ∧ (s.setPool d x).resv = s.resv ∧ (s.setPool d x).tallies = s.tallies ∧
    (s.setPool d x).ctxs = s.ctxs ∧ (s.setPool d x).xlat = s.xlat ∧ (s.setPool d x).owners = s.owners ∧ (s.setPool d x).rot = s.rot ∧
    (s.setPool d x).rings = s.rings ∧ (s.setPool d x).ringq = s.ringq ∧ (s.setPool d x).ringCmd = s.ringCmd ∧
    (s.setPool d x).jobs = s.jobs ∧ (s.setPool d x).reqs = s.reqs ∧ (s.setPool d x).nextReq = s.nextReq ∧
    (s.setPool d x).waitRecs = s.waitRecs ∧ (s.setPool d x).streams = s.streams ∧ (s.setPool d x).streamBad = s.streamBad ∧
    (s.setPool d x).coefs = s.coefs ∧ (s.setPool d x).fulStat = s.fulStat ∧ (s.setPool d x).ports = s.ports ∧
    (s.setPool d x).hosts = s.hosts ∧ (s.setPool d x).fabric = s.fabric ∧ (s.setPool d x).flue = s.flue ∧
    (s.setPool d x).group = s.group ∧ (s.setPool d x).power = s.power ∧ (s.setPool d x).kindle = s.kindle ∧
    (s.setPool d x).trust = s.trust ∧ (s.setPool d x).stoker = s.stoker ∧ (s.setPool d x).train = s.train ∧
    (s.setPool d x).served = s.served := by
  repeat' constructor

/-- The reads that State.setPool leaves. -/
@[simp] theorem State.setPool_reads (s : State) (d : Nat) (x : Pool) (k j : Nat) : (s.setPool d x).gr k = s.gr k ∧
    (s.setPool d x).ht k = s.ht k ∧ (s.setPool d x).ring k = s.ring k ∧ (s.setPool d x).rq k = s.rq k ∧
    (s.setPool d x).stream k = s.stream k ∧ (s.setPool d x).tally k = s.tally k ∧ (s.setPool d x).job k = s.job k ∧
    (s.setPool d x).host k = s.host k ∧ (s.setPool d x).port k = s.port k ∧ (s.setPool d x).ctxE k = s.ctxE k ∧
    (s.setPool d x).fl k = s.fl k ∧ (s.setPool d x).memb k = s.memb k ∧ (s.setPool d x).bundle k j = s.bundle k j ∧
    (s.setPool d x).test k = s.test k ∧ (s.setPool d x).mctl k = s.mctl k ∧ (s.setPool d x).maint k = s.maint k ∧
    (s.setPool d x).dirE k = s.dirE k ∧ (s.setPool d x).al k j = s.al k j ∧ (s.setPool d x).txn k = s.txn k := by
  repeat' constructor

@[simp] theorem State.setPool_same (s : State) (d : Nat) (x : Pool) : (s.setPool d x).pool d = x := Tab.get_put_same _ _ _ _

@[simp] theorem State.setPool_setPool (s : State) (d : Nat) (x y : Pool) : (s.setPool d x).setPool d y = s.setPool d y := by
  simp [State.setPool]

theorem State.setPool_other (s : State) (d : Nat) (x : Pool) {i : Nat} (hne : i ≠ d) :
    (s.setPool d x).pool i = s.pool i := Tab.get_put_other _ _ _ hne

/-- The fields that State.setDir leaves. -/
@[simp] theorem State.setDir_fields (s : State) (l : Nat) (x : DirEnt) : (s.setDir l x).pending = s.pending ∧
    (s.setDir l x).tick = s.tick ∧ (s.setDir l x).elapsed = s.elapsed ∧ (s.setDir l x).free = s.free ∧ (s.setDir l x).out = s.out ∧
    (s.setDir l x).mem = s.mem ∧ (s.setDir l x).badLines = s.badLines ∧ (s.setDir l x).memCtl = s.memCtl ∧
    (s.setDir l x).ctxClass = s.ctxClass ∧ (s.setDir l x).grates = s.grates ∧ (s.setDir l x).harts = s.harts ∧
    (s.setDir l x).spadWins = s.spadWins ∧ (s.setDir l x).resv = s.resv ∧ (s.setDir l x).tallies = s.tallies ∧
    (s.setDir l x).ctxs = s.ctxs ∧ (s.setDir l x).xlat = s.xlat ∧ (s.setDir l x).owners = s.owners ∧ (s.setDir l x).rot = s.rot ∧
    (s.setDir l x).rings = s.rings ∧ (s.setDir l x).ringq = s.ringq ∧ (s.setDir l x).ringCmd = s.ringCmd ∧ (s.setDir l x).jobs = s.jobs ∧
    (s.setDir l x).reqs = s.reqs ∧ (s.setDir l x).nextReq = s.nextReq ∧ (s.setDir l x).waitRecs = s.waitRecs ∧
    (s.setDir l x).streams = s.streams ∧ (s.setDir l x).streamBad = s.streamBad ∧ (s.setDir l x).coefs = s.coefs ∧
    (s.setDir l x).fulStat = s.fulStat ∧ (s.setDir l x).ports = s.ports ∧ (s.setDir l x).hosts = s.hosts ∧
    (s.setDir l x).fabric = s.fabric ∧ (s.setDir l x).flue = s.flue ∧ (s.setDir l x).group = s.group ∧ (s.setDir l x).power = s.power ∧
    (s.setDir l x).kindle = s.kindle ∧ (s.setDir l x).trust = s.trust ∧ (s.setDir l x).stoker = s.stoker ∧ (s.setDir l x).train = s.train ∧
    (s.setDir l x).served = s.served := by
  repeat' constructor

/-- The reads that State.setDir leaves. -/
@[simp] theorem State.setDir_reads (s : State) (l : Nat) (x : DirEnt) (k j : Nat) : (s.setDir l x).gr k = s.gr k ∧
    (s.setDir l x).ht k = s.ht k ∧ (s.setDir l x).ring k = s.ring k ∧ (s.setDir l x).rq k = s.rq k ∧
    (s.setDir l x).stream k = s.stream k ∧ (s.setDir l x).tally k = s.tally k ∧ (s.setDir l x).job k = s.job k ∧
    (s.setDir l x).host k = s.host k ∧ (s.setDir l x).port k = s.port k ∧ (s.setDir l x).ctxE k = s.ctxE k ∧
    (s.setDir l x).fl k = s.fl k ∧ (s.setDir l x).memb k = s.memb k ∧ (s.setDir l x).bundle k j = s.bundle k j ∧
    (s.setDir l x).test k = s.test k ∧ (s.setDir l x).mctl k = s.mctl k ∧ (s.setDir l x).maint k = s.maint k ∧
    (s.setDir l x).pool k = s.pool k ∧ (s.setDir l x).al k j = s.al k j ∧ (s.setDir l x).txn k = s.txn k := by
  repeat' constructor

@[simp] theorem State.setDir_same (s : State) (l : Nat) (x : DirEnt) : (s.setDir l x).dirE l = x := Tab.get_put_same _ _ _ _

@[simp] theorem State.setDir_setDir (s : State) (l : Nat) (x y : DirEnt) : (s.setDir l x).setDir l y = s.setDir l y := by
  simp [State.setDir]

theorem State.setDir_other (s : State) (l : Nat) (x : DirEnt) {i : Nat} (hne : i ≠ l) :
    (s.setDir l x).dirE i = s.dirE i := Tab.get_put_other _ _ _ hne

/-- The fields that State.setAl leaves. -/
@[simp] theorem State.setAl_fields (s : State) (l b : Nat) (x : ALine) : (s.setAl l b x).pending = s.pending ∧
    (s.setAl l b x).tick = s.tick ∧ (s.setAl l b x).elapsed = s.elapsed ∧ (s.setAl l b x).free = s.free ∧ (s.setAl l b x).out = s.out ∧
    (s.setAl l b x).mem = s.mem ∧ (s.setAl l b x).badLines = s.badLines ∧ (s.setAl l b x).memCtl = s.memCtl ∧
    (s.setAl l b x).ctxClass = s.ctxClass ∧ (s.setAl l b x).grates = s.grates ∧ (s.setAl l b x).harts = s.harts ∧
    (s.setAl l b x).spadWins = s.spadWins ∧ (s.setAl l b x).resv = s.resv ∧ (s.setAl l b x).tallies = s.tallies ∧
    (s.setAl l b x).ctxs = s.ctxs ∧ (s.setAl l b x).xlat = s.xlat ∧ (s.setAl l b x).owners = s.owners ∧ (s.setAl l b x).rot = s.rot ∧
    (s.setAl l b x).rings = s.rings ∧ (s.setAl l b x).ringq = s.ringq ∧ (s.setAl l b x).ringCmd = s.ringCmd ∧
    (s.setAl l b x).jobs = s.jobs ∧ (s.setAl l b x).reqs = s.reqs ∧ (s.setAl l b x).nextReq = s.nextReq ∧
    (s.setAl l b x).waitRecs = s.waitRecs ∧ (s.setAl l b x).streams = s.streams ∧ (s.setAl l b x).streamBad = s.streamBad ∧
    (s.setAl l b x).coefs = s.coefs ∧ (s.setAl l b x).fulStat = s.fulStat ∧ (s.setAl l b x).ports = s.ports ∧
    (s.setAl l b x).hosts = s.hosts ∧ (s.setAl l b x).fabric = s.fabric ∧ (s.setAl l b x).flue = s.flue ∧
    (s.setAl l b x).group = s.group ∧ (s.setAl l b x).power = s.power ∧ (s.setAl l b x).kindle = s.kindle ∧
    (s.setAl l b x).trust = s.trust ∧ (s.setAl l b x).stoker = s.stoker ∧ (s.setAl l b x).train = s.train ∧
    (s.setAl l b x).served = s.served := by
  repeat' constructor

/-- The reads that State.setAl leaves. -/
@[simp] theorem State.setAl_reads (s : State) (l b : Nat) (x : ALine) (k j : Nat) : (s.setAl l b x).gr k = s.gr k ∧
    (s.setAl l b x).ht k = s.ht k ∧ (s.setAl l b x).ring k = s.ring k ∧ (s.setAl l b x).rq k = s.rq k ∧
    (s.setAl l b x).stream k = s.stream k ∧ (s.setAl l b x).tally k = s.tally k ∧ (s.setAl l b x).job k = s.job k ∧
    (s.setAl l b x).host k = s.host k ∧ (s.setAl l b x).port k = s.port k ∧ (s.setAl l b x).ctxE k = s.ctxE k ∧
    (s.setAl l b x).fl k = s.fl k ∧ (s.setAl l b x).memb k = s.memb k ∧ (s.setAl l b x).bundle k j = s.bundle k j ∧
    (s.setAl l b x).test k = s.test k ∧ (s.setAl l b x).mctl k = s.mctl k ∧ (s.setAl l b x).maint k = s.maint k ∧
    (s.setAl l b x).pool k = s.pool k ∧ (s.setAl l b x).dirE k = s.dirE k ∧ (s.setAl l b x).txn k = s.txn k := by
  repeat' constructor

@[simp] theorem State.setAl_same (s : State) (l b : Nat) (x : ALine) : (s.setAl l b x).al l b = x := Tab.get_put_same _ _ _ _

@[simp] theorem State.setAl_setAl (s : State) (l b : Nat) (x y : ALine) : (s.setAl l b x).setAl l b y = s.setAl l b y := by
  simp [State.setAl]

theorem State.setAl_other (s : State) (l b : Nat) (x : ALine) {i j : Nat} (hne : i * 16 + j ≠ l * 16 + b) :
    (s.setAl l b x).al i j = s.al i j := Tab.get_put_other _ _ _ hne

/-- The fields that State.setTxn leaves. -/
@[simp] theorem State.setTxn_fields (s : State) (l : Nat) (x : Option Txn) : (s.setTxn l x).pending = s.pending ∧
    (s.setTxn l x).tick = s.tick ∧ (s.setTxn l x).elapsed = s.elapsed ∧ (s.setTxn l x).free = s.free ∧ (s.setTxn l x).out = s.out ∧
    (s.setTxn l x).mem = s.mem ∧ (s.setTxn l x).badLines = s.badLines ∧ (s.setTxn l x).memCtl = s.memCtl ∧
    (s.setTxn l x).ctxClass = s.ctxClass ∧ (s.setTxn l x).grates = s.grates ∧ (s.setTxn l x).harts = s.harts ∧
    (s.setTxn l x).spadWins = s.spadWins ∧ (s.setTxn l x).resv = s.resv ∧ (s.setTxn l x).tallies = s.tallies ∧
    (s.setTxn l x).ctxs = s.ctxs ∧ (s.setTxn l x).xlat = s.xlat ∧ (s.setTxn l x).owners = s.owners ∧ (s.setTxn l x).rot = s.rot ∧
    (s.setTxn l x).rings = s.rings ∧ (s.setTxn l x).ringq = s.ringq ∧ (s.setTxn l x).ringCmd = s.ringCmd ∧ (s.setTxn l x).jobs = s.jobs ∧
    (s.setTxn l x).reqs = s.reqs ∧ (s.setTxn l x).nextReq = s.nextReq ∧ (s.setTxn l x).waitRecs = s.waitRecs ∧
    (s.setTxn l x).streams = s.streams ∧ (s.setTxn l x).streamBad = s.streamBad ∧ (s.setTxn l x).coefs = s.coefs ∧
    (s.setTxn l x).fulStat = s.fulStat ∧ (s.setTxn l x).ports = s.ports ∧ (s.setTxn l x).hosts = s.hosts ∧
    (s.setTxn l x).fabric = s.fabric ∧ (s.setTxn l x).flue = s.flue ∧ (s.setTxn l x).group = s.group ∧ (s.setTxn l x).power = s.power ∧
    (s.setTxn l x).kindle = s.kindle ∧ (s.setTxn l x).trust = s.trust ∧ (s.setTxn l x).stoker = s.stoker ∧ (s.setTxn l x).train = s.train ∧
    (s.setTxn l x).served = s.served := by
  repeat' constructor

/-- The reads that State.setTxn leaves. -/
@[simp] theorem State.setTxn_reads (s : State) (l : Nat) (x : Option Txn) (k j : Nat) : (s.setTxn l x).gr k = s.gr k ∧
    (s.setTxn l x).ht k = s.ht k ∧ (s.setTxn l x).ring k = s.ring k ∧ (s.setTxn l x).rq k = s.rq k ∧
    (s.setTxn l x).stream k = s.stream k ∧ (s.setTxn l x).tally k = s.tally k ∧ (s.setTxn l x).job k = s.job k ∧
    (s.setTxn l x).host k = s.host k ∧ (s.setTxn l x).port k = s.port k ∧ (s.setTxn l x).ctxE k = s.ctxE k ∧
    (s.setTxn l x).fl k = s.fl k ∧ (s.setTxn l x).memb k = s.memb k ∧ (s.setTxn l x).bundle k j = s.bundle k j ∧
    (s.setTxn l x).test k = s.test k ∧ (s.setTxn l x).mctl k = s.mctl k ∧ (s.setTxn l x).maint k = s.maint k ∧
    (s.setTxn l x).pool k = s.pool k ∧ (s.setTxn l x).dirE k = s.dirE k ∧ (s.setTxn l x).al k j = s.al k j := by
  repeat' constructor

@[simp] theorem State.setTxn_same (s : State) (l : Nat) (x : Option Txn) : (s.setTxn l x).txn l = x := Tab.get_put_same _ _ _ _

@[simp] theorem State.setTxn_setTxn (s : State) (l : Nat) (x y : Option Txn) : (s.setTxn l x).setTxn l y = s.setTxn l y := by
  simp [State.setTxn]

theorem State.setTxn_other (s : State) (l : Nat) (x : Option Txn) {i : Nat} (hne : i ≠ l) :
    (s.setTxn l x).txn i = s.txn i := Tab.get_put_other _ _ _ hne

/-- The fields that State.emit leaves. -/
@[simp] theorem State.emit_fields (s : State) (o : Out) : (s.emit o).pending = s.pending ∧ (s.emit o).tick = s.tick ∧
    (s.emit o).elapsed = s.elapsed ∧ (s.emit o).free = s.free ∧ (s.emit o).mem = s.mem ∧ (s.emit o).badLines = s.badLines ∧
    (s.emit o).memCtl = s.memCtl ∧ (s.emit o).ctxClass = s.ctxClass ∧ (s.emit o).grates = s.grates ∧ (s.emit o).harts = s.harts ∧
    (s.emit o).spadWins = s.spadWins ∧ (s.emit o).resv = s.resv ∧ (s.emit o).tallies = s.tallies ∧ (s.emit o).ctxs = s.ctxs ∧
    (s.emit o).xlat = s.xlat ∧ (s.emit o).owners = s.owners ∧ (s.emit o).rot = s.rot ∧ (s.emit o).rings = s.rings ∧
    (s.emit o).ringq = s.ringq ∧ (s.emit o).ringCmd = s.ringCmd ∧ (s.emit o).jobs = s.jobs ∧ (s.emit o).reqs = s.reqs ∧
    (s.emit o).nextReq = s.nextReq ∧ (s.emit o).waitRecs = s.waitRecs ∧ (s.emit o).streams = s.streams ∧
    (s.emit o).streamBad = s.streamBad ∧ (s.emit o).coefs = s.coefs ∧ (s.emit o).fulStat = s.fulStat ∧ (s.emit o).coh = s.coh ∧
    (s.emit o).ports = s.ports ∧ (s.emit o).hosts = s.hosts ∧ (s.emit o).fabric = s.fabric ∧ (s.emit o).flue = s.flue ∧
    (s.emit o).group = s.group ∧ (s.emit o).power = s.power ∧ (s.emit o).kindle = s.kindle ∧ (s.emit o).trust = s.trust ∧
    (s.emit o).stoker = s.stoker ∧ (s.emit o).train = s.train ∧
    (s.emit o).served = s.served := by
  repeat' constructor

/-- The reads that State.emit leaves. -/
@[simp] theorem State.emit_reads (s : State) (o : Out) (k j : Nat) : (s.emit o).gr k = s.gr k ∧ (s.emit o).ht k = s.ht k ∧
    (s.emit o).ring k = s.ring k ∧ (s.emit o).rq k = s.rq k ∧ (s.emit o).stream k = s.stream k ∧ (s.emit o).tally k = s.tally k ∧
    (s.emit o).job k = s.job k ∧ (s.emit o).host k = s.host k ∧ (s.emit o).port k = s.port k ∧ (s.emit o).ctxE k = s.ctxE k ∧
    (s.emit o).fl k = s.fl k ∧ (s.emit o).memb k = s.memb k ∧ (s.emit o).bundle k j = s.bundle k j ∧ (s.emit o).test k = s.test k ∧
    (s.emit o).mctl k = s.mctl k ∧ (s.emit o).maint k = s.maint k ∧ (s.emit o).pool k = s.pool k ∧ (s.emit o).dirE k = s.dirE k ∧
    (s.emit o).al k j = s.al k j ∧ (s.emit o).txn k = s.txn k := by
  repeat' constructor

/-- The fields that State.emits leaves. -/
@[simp] theorem State.emits_fields (s : State) (os : List Out) : (s.emits os).pending = s.pending ∧ (s.emits os).tick = s.tick ∧
    (s.emits os).elapsed = s.elapsed ∧ (s.emits os).free = s.free ∧ (s.emits os).mem = s.mem ∧ (s.emits os).badLines = s.badLines ∧
    (s.emits os).memCtl = s.memCtl ∧ (s.emits os).ctxClass = s.ctxClass ∧ (s.emits os).grates = s.grates ∧ (s.emits os).harts = s.harts ∧
    (s.emits os).spadWins = s.spadWins ∧ (s.emits os).resv = s.resv ∧ (s.emits os).tallies = s.tallies ∧ (s.emits os).ctxs = s.ctxs ∧
    (s.emits os).xlat = s.xlat ∧ (s.emits os).owners = s.owners ∧ (s.emits os).rot = s.rot ∧ (s.emits os).rings = s.rings ∧
    (s.emits os).ringq = s.ringq ∧ (s.emits os).ringCmd = s.ringCmd ∧ (s.emits os).jobs = s.jobs ∧ (s.emits os).reqs = s.reqs ∧
    (s.emits os).nextReq = s.nextReq ∧ (s.emits os).waitRecs = s.waitRecs ∧ (s.emits os).streams = s.streams ∧
    (s.emits os).streamBad = s.streamBad ∧ (s.emits os).coefs = s.coefs ∧ (s.emits os).fulStat = s.fulStat ∧ (s.emits os).coh = s.coh ∧
    (s.emits os).ports = s.ports ∧ (s.emits os).hosts = s.hosts ∧ (s.emits os).fabric = s.fabric ∧ (s.emits os).flue = s.flue ∧
    (s.emits os).group = s.group ∧ (s.emits os).power = s.power ∧ (s.emits os).kindle = s.kindle ∧ (s.emits os).trust = s.trust ∧
    (s.emits os).stoker = s.stoker ∧ (s.emits os).train = s.train ∧
    (s.emits os).served = s.served := by
  repeat' constructor

/-- The reads that State.emits leaves. -/
@[simp] theorem State.emits_reads (s : State) (os : List Out) (k j : Nat) : (s.emits os).gr k = s.gr k ∧ (s.emits os).ht k = s.ht k ∧
    (s.emits os).ring k = s.ring k ∧ (s.emits os).rq k = s.rq k ∧ (s.emits os).stream k = s.stream k ∧ (s.emits os).tally k = s.tally k ∧
    (s.emits os).job k = s.job k ∧ (s.emits os).host k = s.host k ∧ (s.emits os).port k = s.port k ∧ (s.emits os).ctxE k = s.ctxE k ∧
    (s.emits os).fl k = s.fl k ∧ (s.emits os).memb k = s.memb k ∧ (s.emits os).bundle k j = s.bundle k j ∧
    (s.emits os).test k = s.test k ∧ (s.emits os).mctl k = s.mctl k ∧ (s.emits os).maint k = s.maint k ∧ (s.emits os).pool k = s.pool k ∧
    (s.emits os).dirE k = s.dirE k ∧ (s.emits os).al k j = s.al k j ∧ (s.emits os).txn k = s.txn k := by
  repeat' constructor

/-- A record of the log changes Stoker only. -/
theorem State.logE_eq (s : State) (r : LogRec) : ∃ k, s.logE r = { s with stoker := k } := ⟨_, rfl⟩

/-- The fields that State.logE leaves. -/
@[simp] theorem State.logE_fields (s : State) (r : LogRec) : (s.logE r).pending = s.pending ∧ (s.logE r).tick = s.tick ∧
    (s.logE r).elapsed = s.elapsed ∧ (s.logE r).free = s.free ∧ (s.logE r).out = s.out ∧ (s.logE r).mem = s.mem ∧
    (s.logE r).badLines = s.badLines ∧ (s.logE r).memCtl = s.memCtl ∧ (s.logE r).ctxClass = s.ctxClass ∧ (s.logE r).grates = s.grates ∧
    (s.logE r).harts = s.harts ∧ (s.logE r).spadWins = s.spadWins ∧ (s.logE r).resv = s.resv ∧ (s.logE r).tallies = s.tallies ∧
    (s.logE r).ctxs = s.ctxs ∧ (s.logE r).xlat = s.xlat ∧ (s.logE r).owners = s.owners ∧ (s.logE r).rot = s.rot ∧
    (s.logE r).rings = s.rings ∧ (s.logE r).ringq = s.ringq ∧ (s.logE r).ringCmd = s.ringCmd ∧ (s.logE r).jobs = s.jobs ∧
    (s.logE r).reqs = s.reqs ∧ (s.logE r).nextReq = s.nextReq ∧ (s.logE r).waitRecs = s.waitRecs ∧ (s.logE r).streams = s.streams ∧
    (s.logE r).streamBad = s.streamBad ∧ (s.logE r).coefs = s.coefs ∧ (s.logE r).fulStat = s.fulStat ∧ (s.logE r).coh = s.coh ∧
    (s.logE r).ports = s.ports ∧ (s.logE r).hosts = s.hosts ∧ (s.logE r).fabric = s.fabric ∧ (s.logE r).flue = s.flue ∧
    (s.logE r).group = s.group ∧ (s.logE r).power = s.power ∧ (s.logE r).kindle = s.kindle ∧ (s.logE r).trust = s.trust ∧
    (s.logE r).train = s.train ∧
    (s.logE r).served = s.served := by
  obtain ⟨_, h⟩ := State.logE_eq s r
  rw [h]; repeat' constructor

/-- The reads that State.logE leaves. -/
@[simp] theorem State.logE_reads (s : State) (r : LogRec) (k j : Nat) : (s.logE r).gr k = s.gr k ∧ (s.logE r).ht k = s.ht k ∧
    (s.logE r).ring k = s.ring k ∧ (s.logE r).rq k = s.rq k ∧ (s.logE r).stream k = s.stream k ∧ (s.logE r).tally k = s.tally k ∧
    (s.logE r).job k = s.job k ∧ (s.logE r).host k = s.host k ∧ (s.logE r).port k = s.port k ∧ (s.logE r).ctxE k = s.ctxE k ∧
    (s.logE r).fl k = s.fl k ∧ (s.logE r).memb k = s.memb k ∧ (s.logE r).bundle k j = s.bundle k j ∧ (s.logE r).test k = s.test k ∧
    (s.logE r).mctl k = s.mctl k ∧ (s.logE r).maint k = s.maint k ∧ (s.logE r).pool k = s.pool k ∧ (s.logE r).dirE k = s.dirE k ∧
    (s.logE r).al k j = s.al k j ∧ (s.logE r).txn k = s.txn k := by
  obtain ⟨_, h⟩ := State.logE_eq s r
  rw [h]; repeat' constructor

/-- The fields that State.putBytes leaves. -/
@[simp] theorem State.putBytes_fields (s : State) (a : Nat) (bs : List Byte) : (s.putBytes a bs).pending = s.pending ∧
    (s.putBytes a bs).tick = s.tick ∧ (s.putBytes a bs).elapsed = s.elapsed ∧ (s.putBytes a bs).free = s.free ∧
    (s.putBytes a bs).out = s.out ∧ (s.putBytes a bs).badLines = s.badLines ∧ (s.putBytes a bs).memCtl = s.memCtl ∧
    (s.putBytes a bs).ctxClass = s.ctxClass ∧ (s.putBytes a bs).grates = s.grates ∧ (s.putBytes a bs).harts = s.harts ∧
    (s.putBytes a bs).spadWins = s.spadWins ∧ (s.putBytes a bs).resv = s.resv ∧ (s.putBytes a bs).tallies = s.tallies ∧
    (s.putBytes a bs).ctxs = s.ctxs ∧ (s.putBytes a bs).xlat = s.xlat ∧ (s.putBytes a bs).owners = s.owners ∧
    (s.putBytes a bs).rot = s.rot ∧ (s.putBytes a bs).rings = s.rings ∧ (s.putBytes a bs).ringq = s.ringq ∧
    (s.putBytes a bs).ringCmd = s.ringCmd ∧ (s.putBytes a bs).jobs = s.jobs ∧ (s.putBytes a bs).reqs = s.reqs ∧
    (s.putBytes a bs).nextReq = s.nextReq ∧ (s.putBytes a bs).waitRecs = s.waitRecs ∧ (s.putBytes a bs).streams = s.streams ∧
    (s.putBytes a bs).streamBad = s.streamBad ∧ (s.putBytes a bs).coefs = s.coefs ∧ (s.putBytes a bs).fulStat = s.fulStat ∧
    (s.putBytes a bs).coh = s.coh ∧ (s.putBytes a bs).ports = s.ports ∧ (s.putBytes a bs).hosts = s.hosts ∧
    (s.putBytes a bs).fabric = s.fabric ∧ (s.putBytes a bs).flue = s.flue ∧ (s.putBytes a bs).group = s.group ∧
    (s.putBytes a bs).power = s.power ∧ (s.putBytes a bs).kindle = s.kindle ∧ (s.putBytes a bs).trust = s.trust ∧
    (s.putBytes a bs).stoker = s.stoker ∧ (s.putBytes a bs).train = s.train ∧
    (s.putBytes a bs).served = s.served := by
  repeat' constructor

/-- The reads that State.putBytes leaves. -/
@[simp] theorem State.putBytes_reads (s : State) (a : Nat) (bs : List Byte) (k j : Nat) : (s.putBytes a bs).gr k = s.gr k ∧
    (s.putBytes a bs).ht k = s.ht k ∧ (s.putBytes a bs).ring k = s.ring k ∧ (s.putBytes a bs).rq k = s.rq k ∧
    (s.putBytes a bs).stream k = s.stream k ∧ (s.putBytes a bs).tally k = s.tally k ∧ (s.putBytes a bs).job k = s.job k ∧
    (s.putBytes a bs).host k = s.host k ∧ (s.putBytes a bs).port k = s.port k ∧ (s.putBytes a bs).ctxE k = s.ctxE k ∧
    (s.putBytes a bs).fl k = s.fl k ∧ (s.putBytes a bs).memb k = s.memb k ∧ (s.putBytes a bs).bundle k j = s.bundle k j ∧
    (s.putBytes a bs).test k = s.test k ∧ (s.putBytes a bs).mctl k = s.mctl k ∧ (s.putBytes a bs).maint k = s.maint k ∧
    (s.putBytes a bs).pool k = s.pool k ∧ (s.putBytes a bs).dirE k = s.dirE k ∧ (s.putBytes a bs).al k j = s.al k j ∧
    (s.putBytes a bs).txn k = s.txn k := by
  repeat' constructor

/-- The fields that State.zeroBytes leaves. -/
@[simp] theorem State.zeroBytes_fields (s : State) (a n : Nat) : (s.zeroBytes a n).pending = s.pending ∧ (s.zeroBytes a n).tick = s.tick ∧
    (s.zeroBytes a n).elapsed = s.elapsed ∧ (s.zeroBytes a n).free = s.free ∧ (s.zeroBytes a n).out = s.out ∧
    (s.zeroBytes a n).badLines = s.badLines ∧ (s.zeroBytes a n).memCtl = s.memCtl ∧ (s.zeroBytes a n).ctxClass = s.ctxClass ∧
    (s.zeroBytes a n).grates = s.grates ∧ (s.zeroBytes a n).harts = s.harts ∧ (s.zeroBytes a n).spadWins = s.spadWins ∧
    (s.zeroBytes a n).resv = s.resv ∧ (s.zeroBytes a n).tallies = s.tallies ∧ (s.zeroBytes a n).ctxs = s.ctxs ∧
    (s.zeroBytes a n).xlat = s.xlat ∧ (s.zeroBytes a n).owners = s.owners ∧ (s.zeroBytes a n).rot = s.rot ∧
    (s.zeroBytes a n).rings = s.rings ∧ (s.zeroBytes a n).ringq = s.ringq ∧ (s.zeroBytes a n).ringCmd = s.ringCmd ∧
    (s.zeroBytes a n).jobs = s.jobs ∧ (s.zeroBytes a n).reqs = s.reqs ∧ (s.zeroBytes a n).nextReq = s.nextReq ∧
    (s.zeroBytes a n).waitRecs = s.waitRecs ∧ (s.zeroBytes a n).streams = s.streams ∧ (s.zeroBytes a n).streamBad = s.streamBad ∧
    (s.zeroBytes a n).coefs = s.coefs ∧ (s.zeroBytes a n).fulStat = s.fulStat ∧ (s.zeroBytes a n).coh = s.coh ∧
    (s.zeroBytes a n).ports = s.ports ∧ (s.zeroBytes a n).hosts = s.hosts ∧ (s.zeroBytes a n).fabric = s.fabric ∧
    (s.zeroBytes a n).flue = s.flue ∧ (s.zeroBytes a n).group = s.group ∧ (s.zeroBytes a n).power = s.power ∧
    (s.zeroBytes a n).kindle = s.kindle ∧ (s.zeroBytes a n).trust = s.trust ∧ (s.zeroBytes a n).stoker = s.stoker ∧
    (s.zeroBytes a n).train = s.train ∧
    (s.zeroBytes a n).served = s.served := by
  repeat' constructor

/-- The reads that State.zeroBytes leaves. -/
@[simp] theorem State.zeroBytes_reads (s : State) (a n : Nat) (k j : Nat) : (s.zeroBytes a n).gr k = s.gr k ∧
    (s.zeroBytes a n).ht k = s.ht k ∧ (s.zeroBytes a n).ring k = s.ring k ∧ (s.zeroBytes a n).rq k = s.rq k ∧
    (s.zeroBytes a n).stream k = s.stream k ∧ (s.zeroBytes a n).tally k = s.tally k ∧ (s.zeroBytes a n).job k = s.job k ∧
    (s.zeroBytes a n).host k = s.host k ∧ (s.zeroBytes a n).port k = s.port k ∧ (s.zeroBytes a n).ctxE k = s.ctxE k ∧
    (s.zeroBytes a n).fl k = s.fl k ∧ (s.zeroBytes a n).memb k = s.memb k ∧ (s.zeroBytes a n).bundle k j = s.bundle k j ∧
    (s.zeroBytes a n).test k = s.test k ∧ (s.zeroBytes a n).mctl k = s.mctl k ∧ (s.zeroBytes a n).maint k = s.maint k ∧
    (s.zeroBytes a n).pool k = s.pool k ∧ (s.zeroBytes a n).dirE k = s.dirE k ∧ (s.zeroBytes a n).al k j = s.al k j ∧
    (s.zeroBytes a n).txn k = s.txn k := by
  repeat' constructor

end Sys2Proof.Machine
end

