-- ==== Sys2Proof/Tests/Slice0.lean ====
section
/-! SUPPORT. Tests: a term that each check of WellFormed refuses, and the spec's own worked examples, each a value or one step. -/

namespace Sys2Proof

open Sys2Proof.Machine

section

set_option Elab.async false

/-! ### What WellFormed refuses -/

/-- A die bundle number beyond a hearth die's 32 (Table 13.1). -/
def tFarSide : Side := { die := 0, b := 32 }

/-- A packet whose byte 120 starts its data. -/
def tLate : Pkt := { f := 0, spos := 1, depoch := 0, off := 120, id := 0 }

/-- A checkpoint of no position. -/
def tNoMembers : CkptIn :=
  { step := 0, pauseUs := 0, members := 0, lbound := 0, bytes := 0, dies := 1, idh := 0, vers := 0, dir := 0, steps := [], reruns := 0, accum := .exact }

theorem test_wf_load_device : (Instr.coreLoad 0 0 0xF00000000000 3 false).wf = false := by decide
theorem test_wf_store_device : (Instr.coreStore 0 0 0xF10000000000 3 0).wf = false := by decide
theorem test_wf_tile_cas : (Instr.tcAmo ⟨0, 0, 0⟩ 0 true (.amo .cas) 0 1 ⟨false, false⟩ .clean).wf = false := by decide
theorem test_wf_core_cas : (Instr.coreAmo 0 0 0 true (.amo .cas) 0 false false).wf = false := by decide
theorem test_wf_device_memory : (Instr.deviceSpaceAccess .stoker 0 0x1000 3 false false 0).wf = false := by decide
theorem test_wf_rdx_host : (Instr.rdx 12 0 0).wf = false := by decide
theorem test_wf_upg_host : (Instr.upg 12 0 0).wf = false := by decide
theorem test_wf_atomic_misaligned : (Instr.cohAtomic .stream 0 0 4 .add true 0 0).wf = false := by decide
theorem test_wf_flue_write : (Instr.flueWrite tLate 0 (List.replicate 9 0)).wf = false := by decide
theorem test_wf_flue_merge : (Instr.flueMerge { tLate with off := 0 } true (List.replicate 96 0)).wf = false := by decide
theorem test_wf_flue_atomic : (Instr.flueAtomic { tLate with off := 4 } .add true 0 0).wf = false := by decide
theorem test_wf_flue_read : (Instr.flueRead tLate 0).wf = false := by decide
theorem test_wf_table : (Instr.table 1 0 0 (List.replicate 65 ⟨0, 0, 0⟩) true).wf = false := by decide
theorem test_wf_bundles :
    (Instr.bundleBringUp tFarSide).wf = false ∧ (Instr.keptMapBringUp tFarSide).wf = false ∧ (Instr.bringUpDone tFarSide 0 0).wf = false ∧
      (Instr.sidebandTimeout tFarSide).wf = false ∧ (Instr.bundleCrcError tFarSide).wf = false ∧
      (Instr.bundleReplayThreshold tFarSide).wf = false ∧ (Instr.bundleRetrain tFarSide).wf = false ∧
      (Instr.bundleOff tFarSide true).wf = false := by decide
theorem test_wf_die_test : (Instr.dietestDone 4 (List.replicate 32 0)).wf = false := by decide
theorem test_wf_host_link : (Instr.hostLinkUp 0 6 16 true false).wf = false := by decide
theorem test_wf_host_write : (Instr.hostInboundWrite 0 0 [] true).wf = false := by decide
theorem test_wf_host_read : (Instr.hostInboundRead 0 1 4096 true).wf = false := by decide
theorem test_wf_host_atomic : (Instr.hostAtomicop 0 0 .fetchAdd 4 0 0 true).wf = false := by decide
theorem test_wf_damper : (Instr.damperWindow ⟨0, 0, [1, 2]⟩).wf = false := by decide
theorem test_wf_slew : (Instr.slewGovernorStep .chimney 65 false).wf = false := by decide
theorem test_wf_resets :
    (Instr.moduleReset 6).wf = false ∧ (Instr.packageReset 5).wf = false ∧ (Instr.hearthDieReset 0 0x0F).wf = false ∧
      (Instr.clusterReset 0 0x0E).wf = false := by decide
theorem test_wf_power_down : (Instr.orderlyPowerDown 0).wf = false := by decide
theorem test_wf_sensor : (Instr.sensorSample 219 2).wf = false := by decide
theorem test_wf_patrol : (Instr.patrolScrub 0x300000000 .clean).wf = false := by decide
theorem test_wf_component : (Instr.pldmComponentWrite .i3c .stoker 65536 0 [] true).wf = false := by decide
theorem test_wf_checkpoint : (Instr.checkpoint 0 tNoMembers).wf = false := by decide
theorem test_wf_msix : (Instr.msiXTableWrite 0 (.table 4 0)).wf = false := by decide

/-! ### The queue -/

/-- Two commands in order. -/
def tQueue : State := { pending := [.refclkReturn, .dipHoldEnd] }

theorem test_queue_order : step tQueue = exec .refclkReturn { tQueue with pending := [.dipHoldEnd] } := rfl

theorem test_idle : step State.reset = .next State.reset := rfl

/-! ### Addresses (chapter 1, chapter 21) -/

/-- The example of chapter 1. -/
theorem test_alias : placeOf 0x020000017ABC = placeOf 0x012000005ABC := by decide +kernel

/-- Its next block lies on die 0. -/
theorem test_alias_next : placeOf 0x020000018000 = placeOf 0x6000 := by decide +kernel

/-- Counter 77 and inbound window 2 (before Table 21.20). -/
theorem test_register_offsets : regAt 0x51009A0 = some (.tally 77 0) ∧ regAt 0x5005040 = some (.fluWin 2 0) := by decide +kernel

/-- The last write of Table 21.20 opens the window, for a core of the runtime. -/
theorem test_window_open :
    (match execRegisterWrite (.core 0 false) 0x5005040 true 0x004D000102A7001D { kindle := { ready0 := BitVec.allOnes 64 } } with
     | .next s => let w : FlueWin := Tab.get {} s.flue.inwin 2; w.v && w.wr && w.at_ && decide (w.mode = 1 ∧ w.ctx = 0x2A7 ∧ w.len = 1 ∧ w.tally = 77)
     | _ => false) = true := by decide +kernel

/-! ### Exact arithmetic (chapter 2, Table 2.9) -/

/-- The contributions of the dot product of (0x3C, 0xAC, 0x7E, 0x01) and (0x40, 0x44, 0xB8, 0x4A). -/
def tDot : List Acc :=
  [(0x3C, 0x40), (0xAC, 0x44), (0x7E, 0xB8), (0x01, 0x4A)].map
    (fun e => leafAcc 0 (contribution false (elemDecode .e4m3 e.1) (elemDecode .e4m3 e.2) 0 4 4))

theorem test_dot_contributions : tDot.map (fun x => (x.i, x.a, x.hi, x.res)) =
    [(96, -5, 3, 6), (-144, -7, 1, 93), (-112, 2, 10, 120), (10, -10, -2, 66)] := by decide +kernel

theorem test_dot_word : accTree 0 3 tDot = { i := -456822, a := -10, hi := 10, count := 4, res := 31 } := by decide +kernel

/-- Any order gives the word. -/
theorem test_dot_order : accTree 0 3 tDot.reverse = accTree 0 3 tDot := by decide +kernel

theorem test_dot_bf16 : accRead .bf16 .rne 0 false 0 (accTree 0 3 tDot) = (0xC3DF, { nx := true }) := by decide +kernel
theorem test_dot_e4m3 : accRead .e4m3 .rne 0 false 0 (accTree 0 3 tDot) = (0xFE, { nx := true }) := by decide +kernel

/-- The clip scalar of chapter 7: 1.0 / 2.5. -/
theorem test_clip : (fpDiv .rne 0x3F800000 0x40200000).1 = 0x3ECCCCCD := by decide +kernel

/-! ### Translation (chapter 10, Table 10.4) -/

/-- A walk of no agent here. -/
def tOtherWalk : Walk := { agent := .tile 0, ctx := 0, va := 0, acc := .read, level := 1, node := 0 }

/-- The tile of die 2 with a walk of the example at the level given; its two entries in memory. -/
def tWalk (level node : Nat) (seen : List Ptr) (last : Nat) : State :=
  { kindle := { ready0 := BitVec.allOnes 64, ready1 := BitVec.allOnes 64, ready2 := BitVec.allOnes 64 }
    owners := [(0x21, { owner := 0, v := true }), (0x34, { owner := 0, v := true })]
    fabric := { bundles := [0, 64, 128, 192, 256, 272, 288, 304].map (fun k => (k, { st := .up })) }
    mem := [(0x210028, 0x01), (0x21002A, 0x34), (0x340518, 0x07), (0x34051C, 0xD0)]
    xlat := { walks := [{ agent := .tile 50, ctx := 0x2A7, va := 0x141461C72E40, acc := .read, level := level, node := node, seen := seen,
                          lastEntry := last }] } }

/-- The first read leads to the level-2 node. -/
theorem test_walk_pointer :
    (walkStep (tWalk 1 0x210000 [] 0) (((tWalk 1 0x210000 [] 0).xlat.walks).head?.getD tOtherWalk)).2.xlat.walks.map (fun w => (w.level, w.node)) =
      [(2, 0x340000)] := by decide +kernel

/-- The second finds the page of 512 MiB, read-only. -/
theorem test_walk_leaf :
    (microOf (walkStep (tWalk 2 0x340000 [] 0x340001) (((tWalk 2 0x340000 [] 0x340001).xlat.walks).head?.getD tOtherWalk)).2 (.tile 50)).map
      (fun l => (l.pbase + 0x141461C72E40 % 2 ^ l.bits, l.rd, l.wr, l.level, l.entry)) =
      [(0xD001C72E40, true, false, 2, 0xD000000007)] := by decide +kernel

/-! ### Rings (chapter 11), trust (chapter 18), training (chapter 15) -/

/-- The expected lap of slot 1,027 of a ring of 256. -/
theorem test_lap : lapOf { log2sz := 8 } 1027 = 5 := by decide

/-- The records of Table 18.4. -/
theorem test_torn_raise : arbIntended 0x0510 = 0xD0510 ∧ arbIntended 0x0520 = 0xD0520 ∧ arbValid 0xD0510 = true ∧ arbValid 0x10120 = false := by
  decide +kernel

/-- Its torn end: the counter stays, the record is used, the next raise takes record 2. -/
theorem test_torn_raise_done :
    (match execArbRaiseDone 0x10120 { trust := { arb := [(16, 0xD0510)], arbIdx := 1, arbVal := 0x0520, arbBusy := true } } with
     | .next s => (arbValue s 1, s.trust.arbErr, arbFree s.trust 1)
     | _ => (0, false, none)) = (0x0510, true, some 2) := by decide +kernel

/-- The cadence at the start and after the twentieth failure. -/
theorem test_cadence :
    checkpointInterval 2592000 32 (2982 / 100000) 4 40 1 = 17 ∧ checkpointInterval (41299200 / 21) 32 (31 / 1000) 4 40 1 = 15 := by
  decide +kernel

end

end Sys2Proof
end

