-- ==== Sys2Proof/Tests/Witnesses.lean ====
section
/-! SUPPORT. For every obligation with hypotheses, a state and operands of each of its clauses that meet them together. -/

namespace Sys2Proof

open Sys2Proof.Machine

section

set_option Elab.async false
set_option linter.unusedVariables false

/-- A pair by its first part. -/
theorem pairOf {α β : Type} {x : α × β} {a : α} (h : x.1 = a) : x = (a, x.2) := by rw [← h]

/-- A triple by its first part. -/
theorem tripOf {α β γ : Type} {x : α × β × γ} {a : α} (h : x.1 = a) : x = (a, x.2.1, x.2.2) := by rw [← h]

/-- Four parts by the first. -/
theorem quadOf {α β γ δ : Type} {x : α × β × γ × δ} {a : α} (h : x.1 = a) : x = (a, x.2.1, x.2.2.1, x.2.2.2) := by rw [← h]

/-- What an option holds. -/
theorem someOf {α : Type} {x : Option α} (h : x.isSome = true) : x = some (x.get h) := by simp

/-- The end of a chain that was read. -/
def chainEnd : Chain → Option Nat × State
  | .done n s => (some n, s)
  | _ => (none, {})

/-- A chain by where it ends. -/
theorem chainOf {c : Chain} {n : Nat} (h : (chainEnd c).1 = some n) : c = .done n (chainEnd c).2 := by
  cases c <;> simp_all [chainEnd]

/-- A state in which every unit is ready and every hearth die has one bundle to the chimney die. -/
def wReady : State where
  kindle := { ready0 := BitVec.allOnes 64, ready1 := BitVec.allOnes 64, ready2 := BitVec.allOnes 64 }
  fabric := { bundles := [0, 64, 128, 192, 256, 272, 288, 304].map (fun k => (k, { st := .up })) }

/-- A state with one grate at work. -/
def wG (x : Grate) : State := { wReady with grates := [(0, { x with st := .running })] }

/-- The site of a command of grate 0. -/
def wP : Site := { g := 0, pc := 0x1000, insn := 0 }

/-- A ready state whose lowest region belongs to context 7. -/
def wMem : State := { wReady with owners := [(0, { owner := 7, v := true })] }

/-- A leaf that lets context 7 read, write and update the lowest region at its own address. -/
def wLeaf : Leaf := { ctx := 7, vbase := 0, bits := 16, pbase := 0, rd := true, wr := true, at_ := true, level := 3, entry := 0 }

/-- A state with grate 0 at work in context 7, its translation of the lowest region buffered, and the region its own. -/
def wT (x : Grate) : State :=
  { wMem with grates := [(0, { x with st := .running, ctx := 7 })], xlat := { micro := [(0, [wLeaf])] } }

/-- The same with another leaf. -/
def wTA (l : Leaf) (x : Grate) : State := { wT x with xlat := { micro := [(0, [l])] } }

/-- A state with hart 0 in device context 7. -/
def wH (x : Hart) : State := { wMem with harts := [(0, { x with dctx := 7 })] }

/-- A store of a holder's buffer. -/
def wStore : SbEnt := { pa := 0x80, size := 8, value := 1, ctx := 7 }

/-- An open transaction of line 5. -/
def wTxn : Txn := { req := .rdX, who := .caching 1, ctx := 7, payload := {}, owed := 1, asked := some .snpX, unsent := 1 }

/-- A reservation of host link 0 for line 5. -/
def wWait : WaitReq := { line := 5, req := .readOnce, who := .retry (.hostLink 0), ctx := 7, payload := {}, tick := 0 }

/-- A state with something of the coherence of line 5. -/
def wCoh (c : CohSt) : State := { wReady with coh := c }

/-- A state with an agent's line 5 in a state of Table 9.4. -/
def wAl (b : Nat) (a : ALine) : State := wCoh { agents := [(80 + b, a)] }

/-- A line of the CXL host. -/
def wHLine : Nat := 0x4000000000

/-- A state with an agent's copy of that line in a state of Table 9.4. -/
def wHosted (b : Nat) (a : ALine) : State :=
  { wReady with hosts := [(0, { dlup := true, cxlup := true })], coh := { agents := [(wHLine * 16 + b, a)] } }

/-- A state with registers of die 3's maintenance engine. -/
def wMaint (m : Maint) : State := wCoh { maint := [(3, m)] }

/-- A state with pool registers of die 3. -/
def wPool (p : Pool) : State := wCoh { pool := [(3, p)] }

/-- A descriptor of an operation with a body. -/
def wD (op b : Nat) : Desc := { idx := 0, head := BitVec.ofNat 512 (1 + op * 256 + b * 2 ^ 128) }

/-- Ring 1 takes records of context 7. -/
def wCring : Ring := { v := true, kind := true, ctx := 7, log2sz := 4, st := .active }

/-- A state in which submission ring 2 holds a fetched descriptor, with the translations of its dispatch buffered. -/
def wRing (r : Ring) (d : Desc) : State :=
  { wMem with
    rings := [(1, wCring), (2, { r with v := true, st := .active, log2sz := 4, cring := 1 })]
    ringq := [(2, { fetched := [d] })]
    xlat := { micro := [(2048, [wLeaf, { wLeaf with ctx := 0 }])] } }

/-- A state with ring 2 alone. -/
def wR2 (r : Ring) : State := { wReady with rings := [(1, wCring), (2, r)] }

/-- A state in which a LAUNCH for grate 0 has read its record, which names context 7. -/
def wLaunch (x : Grate) : State :=
  { wRing {} (wD 7 0) with
    grates := [(0, x)], ctxs := [(7, { v := true })]
    ringq := [(2, { fetched := [wD 7 0], launchRec := some (toBytes 64 (7 * 2 ^ 320)) })] }

/-- A job of ring 2 on the first inbound engine of die 0, at its end or at its flush. -/
def wJob (j : Job) : State := { wRing { ctx := 7 } (wD 1 0) with jobs := [(0, some j)] }

/-- A stream of context 7 with a chain of records, and a stream operation on it. -/
def wStream (e : Stream) (b : Nat) : State :=
  { wRing { ctx := 7, role := 1 } (wD 5 b) with
    streams := [(3, { e with v := true, ctx := 7, ring := 1, first := 0x1000, last := 0x1000 })] }

/-- A packet from position 1 on link 0 to inbound window 0. -/
def wPkt (off : BitVec 38) : Pkt := { f := 0, spos := 1, depoch := 0, off := off, id := 9 }

/-- A member whose link 0 is UP and whose inbound window 0 lets position 1 into the lowest region. -/
def wFlue (w : FlueWin) : State :=
  { wMem with
    group := { gst := .member, mv := true, memb := [(0, { st := 1 }), (1, { st := 1 })] }
    flue := { links := [(0, { st := .up })], inwin := [(0, { w with v := true, ctx := 7, src := 2, tally := 4 })] }
    tallies := [(4, { v := true, ctx := 7 })] }

/-- A request of hart 0 to position 1. -/
def wReq (kind : Acc3) : OutReq :=
  { id := 9, agent := .core 0, kind := kind, ctx := 7, va := 0, target := 1, toHost := false, addr := 0, len := 8, since := 0 }

/-- The state that a command leaves. -/
def stateOf : Res → Option State
  | .next s => some s
  | _ => none

/-- A command's answer by the state it leaves. -/
theorem nextOf {r : Res} (h : (stateOf r).isSome = true) : r = .next ((stateOf r).getD {}) := by
  cases r <;> simp_all [stateOf]

theorem succ_ne (x : W64) : x + 1 ≠ x := by
  intro h
  bv_omega

/-- A state with flue link 17. -/
def wL (x : FlueLink) : State := { flue := { links := [(17, x)] } }

/-- A state with the group's registers. -/
def wGrp (g : GroupState) : State := { group := g }

/-- A state with host link 0. -/
def wHost (x : HostLink) : State := { wMem with hosts := [(0, { x with dlup := true })] }

/-- Bundle 63 of the chimney die, whose far end is bundle 15 of die 3. -/
def wSide : Side := { die := 4, b := 63 }

/-- A state with the two ends of that bundle. -/
def wB (x y : Bundle) : State := { fabric := { bundles := [(207, y), (319, x)] } }

/-- The package under power at a stage of kindling. -/
def wStage (n : BitVec 3) (k : KindleSt) : State :=
  { wReady with kindle := { k with stage := n }, power := { feedOn := true, pkgPower := true } }

/-- A debug token of a level for this device and its present challenge. -/
def wToken (level : Nat) : BitVec 1024 :=
  BitVec.ofNat 1024 (1 + level * 2 ^ 16 + (Config.challengeValue 0).toNat * 2 ^ 64 + Config.ownDigest.toNat * 2 ^ 320)

theorem wToken_toNat (level : Nat) (h : level ≤ 2) :
    (wToken level).toNat = 1 + level * 2 ^ 16 + (Config.challengeValue 0).toNat * 2 ^ 64 + Config.ownDigest.toNat * 2 ^ 320 := by
  have a := (Config.challengeValue 0).isLt
  have b := Config.ownDigest.isLt
  simp only [wToken, BitVec.toNat_ofNat]
  exact Nat.mod_eq_of_lt (by omega)

theorem wToken_level (level : Nat) (h : level ≤ 2) : field (wToken level).toNat 16 2 = level := by
  have a := (Config.challengeValue 0).isLt
  have b := Config.ownDigest.isLt
  rw [wToken_toNat level h, field, Nat.shiftRight_eq_div_pow]
  omega

theorem wToken_ok (level : Nat) (h : level = 1 ∨ level = 2) : tokenOk {} (wToken level) true true = true := by
  have a := (Config.challengeValue 0).isLt
  have b := Config.ownDigest.isLt
  have hl : level ≤ 2 := by omega
  have h1 : field (wToken level).toNat 0 16 = 1 := by
    rw [wToken_toNat level hl, field, Nat.shiftRight_eq_div_pow]; omega
  have h2 : field (wToken level).toNat 64 256 = (Config.challengeValue 0).toNat := by
    rw [wToken_toNat level hl, field, Nat.shiftRight_eq_div_pow]; omega
  have h3 : field (wToken level).toNat 320 512 = Config.ownDigest.toNat := by
    rw [wToken_toNat level hl, field, Nat.shiftRight_eq_div_pow]; omega
  simp only [tokenOk, h1, h2, h3, wToken_level level hl]
  rcases h with rfl | rfl <;> decide

/-- A checkpoint of step 8, held and sealed. -/
def wCkpt : Ckpt := { step := 8, loss1 := some 1, loss2 := some 2, onBoard := true, buddy := true, staged := true }

/-- The master of a training group of positions 0 and 1, with a checkpoint of each. -/
def wTrain (t : TrainSt) : State :=
  { train := { t with members := 3, slots := [(0, wCkpt), (2, wCkpt)] }, group := { gst := .member, memb := [(0, { st := 1 })] } }

/-- What the runtime brings to a checkpoint of step 8. -/
def wCkptIn (lbound : BitVec 16) : CkptIn :=
  {
    step := 8, pauseUs := 0, members := 3, lbound := lbound, bytes := 1, dies := 4, idh := 0, vers := 0, dir := 0, steps := [],
    reruns := 0, accum := .bf16 }

/-- What a core's device access ends with. -/
theorem coreTurn {k : HartNo} {b : Bool} {run t : State} (e : t = deliverLost run k) :
    ∀ h user, DevAgent.core k b = .core h user → t = deliverLost run h := by
  intro _ _ q
  cases q
  exact e

/-- What a tile controller's device access ends with. -/
theorem tileTurn {p : Site} {s run t : State} (e : (s.gr p.g).lost = [] ∧ t = settleAll run) :
    ∀ q, DevAgent.tile p = .tile q → (s.gr q.g).lost = [] ∧ t = settleAll run := by
  intro _ q
  cases q
  exact e

theorem placeEight : placeOf 8 = .main 0 8 := by decide +kernel

/-- An address of the main memory is none of a scratchpad. -/
theorem atomicPlace {P : Prop} : (∃ g o, placeOf 8 = .spad g o) → P := by
  rintro ⟨g, o, h⟩
  rw [placeEight] at h
  cases h

theorem contStop : contSlots 1 = 0 := by decide +kernel

theorem readContStop (s : State) (r : Ring) (i : Nat) (host : List Slot) (k : Nat) :
    readCont (contSlots 1) s r i host k = (.ok [], s) := by
  rw [contStop]; rfl

theorem tagMatches_setStored (s : State) (line : Nat) (k : KeySet) (c : LineData) (t : BitVec 32) :
    tagMatches (setStored s line { keys := some k, cipher := c, tag := t }) line = decide (t = lineTag (lineKeys s line) line c) := by
  have h : storedAt (setStored s line { keys := some k, cipher := c, tag := t }) line = { keys := some k, cipher := c, tag := t } := by
    simp [storedAt, setStored]
  have g : lineKeys (setStored s line { keys := some k, cipher := c, tag := t }) line = lineKeys s line := rfl
  simp only [tagMatches, h, g]

theorem tagMatches_corr (s : State) (line : Nat) (n : W32) :
    tagMatches (s.setMctl (controllerOf (line * 128)) { s.mctl (controllerOf (line * 128)) with corr := n }) line = tagMatches s line := by
  have h : storedAt (s.setMctl (controllerOf (line * 128)) { s.mctl (controllerOf (line * 128)) with
    corr := n }) line = storedAt s line := by
    simp [storedAt]
  have g : lineKeys (s.setMctl (controllerOf (line * 128)) { s.mctl (controllerOf (line * 128)) with
    corr := n }) line = lineKeys s line := rfl
  simp only [tagMatches, h, g]

theorem tagMatches_alterLine (s : State) (line : Nat) (c : LineData) (t : BitVec 32) :
    tagMatches (alterLine s line c t) line = decide (t = lineTag (lineKeys s line) line c) := by
  unfold alterLine
  dsimp only
  split
  · exact tagMatches_setStored s line _ c t
  · exact tagMatches_setStored s line _ c t

/-- The last line of the main memory, with a stored tag that is none of its own. -/
def wStored : State :=
  setStored wReady 0x2FFFFFFFF { keys := some {}, cipher := 0, tag := lineTag (lineKeys wReady 0x2FFFFFFFF) 0x2FFFFFFFF 0 + 1 }

theorem tag_ne (x : BitVec 32) : decide (x + 1 = x) = false := by
  rw [decide_eq_false_iff_not]
  intro h
  bv_omega

theorem wStored_tag : tagMatches wStored 0x2FFFFFFFF = false := (tagMatches_setStored ..).trans (tag_ne _)

theorem witness_StepKeepsMemoryCanonical : ∃ s t : State, Mem.wf s.mem = true ∧ step s = .next t :=
  ⟨{ mem := [(5, 1)], elapsed := 65536, pending := [.poolAgeSweep] }, _, by decide +kernel, rfl⟩

theorem witness_StepKeepsFusesAndCounters :
    (∃ s t : State, step s = .next t) ∧
    (∃ s t : State, step s = .next t) :=
  ⟨⟨{ pending := [.stopreq 0 true], trust := { permlock := true } }, _, rfl⟩,
   ⟨{ pending := [.stopreq 0 true], trust := { arb := [(0, 0xFFFE)] } }, _, rfl⟩⟩

theorem witness_EachCommandWritesOnlyItsParts :
    ∃ (c : Instr) (s t : State), exec c s = .next t ∧ ∃ p : Part, p ∉ c.mayWrite :=
  ⟨(.stopreq 0 true), wReady, _, rfl, .mem, by decide +kernel⟩

theorem witness_IllFormedCommandsNeverComplete :
    ∃ (c : Instr) (s t : State), c.wf = false :=
  ⟨(.flueWrite { f := 0, spos := 0, depoch := 0, off := 0, id := 0 } 0 []), {}, {}, by decide +kernel⟩


theorem witness_StepRunsTheFrontCommand :
    ∃ (c : Instr) (rest : List Instr) (s : State), s.pending = c :: rest :=
  ⟨(.clean 0), ([.flush 1]), { pending := [.clean 0, .flush 1] }, by decide +kernel⟩

theorem witness_StepIdlesOnAnEmptyQueue :
    ∃ (s : State), s.pending = [] :=
  ⟨{ tick := 5 }, by decide +kernel⟩

theorem witness_AliasNamesItsDirectAddress :
    ∃ (p a n l d : Nat), 0x020000000000 ≤ p ∧ p < 0x020000000000 + 0x18000000000 ∧ a = p - 0x020000000000 ∧ n = a / 2 ^ 12 % 4 ∧ l = a / 2
      ^ 14 % 2 ^ 27 * 0x1000 + a % 2 ^ 12 ∧ d = n * 0x6000000000 + l :=
  ⟨0x037FFFFFFFFF, _, _, _, _, by decide +kernel, by decide +kernel, rfl, rfl, rfl, rfl⟩

theorem witness_DoorbellsLieAtTheirAddresses :
    ∃ (r : Nat), r < 65536 :=
  ⟨65535, by decide +kernel⟩

theorem witness_PassedAccessesLieInTheirContext :
    (∃ (s u : State) (agent : Agent) (ctx pa n : Nat) (acc : Acc3), checkExtent s agent ctx acc pa n = (.ok, u) ∧ ∃ i, i < n ∧ ∃ k d,
      placeOf (pa + i) = .main k d) ∧
    (∃ (s u : State) (agent : Agent) (ctx pa n : Nat) (acc : Acc3), checkExtent s agent ctx acc pa n = (.ok, u) ∧ ∃ i, i < n ∧ ∃ g off,
      placeOf (pa + i) = .spad g off ∧ agent ≠ .tile g) :=
  ⟨⟨wMem, _, (.core 0), 7, 0x8000, 128, .write, pairOf (by decide +kernel), 127, by decide +kernel, 0, 0x807F, by decide +kernel⟩,
   ⟨{ wReady with grates := [(3, { st := .stopped, ctx := 7 })] }, _, (.core 0), 7, 0x41001800000, 8, .read, pairOf (by decide +kernel),
     7, by decide +kernel, 3, 7, by decide +kernel, by decide +kernel⟩⟩

theorem witness_RefusedAccessesChangeNoMemory :
    (∃ (s u : State) (agent : Agent) (ctx pa : Nat) (r : Resp), r ≠ .ok ∧ ∃ n bs, physRead s agent ctx pa n = (r, bs, u)) ∧
    (∃ (s u : State) (agent : Agent) (ctx pa : Nat) (r : Resp), r ≠ .ok ∧ ∃ bs, physWrite s agent ctx pa bs = (r, u)) ∧
    (∃ (s u : State) (agent : Agent) (ctx pa : Nat) (r : Resp), r ≠ .ok ∧ ∃ n op v c old, physAtomic s agent ctx pa n op v c = (r, old,
      u)) :=
  ⟨⟨wReady, _, (.core 0), 7, 0, ((physRead wReady (.core 0) 7 0 8).1), by decide +kernel, 8, _, rfl⟩,
   ⟨wReady, _, (.core 0), 7, 0, ((physWrite wReady (.core 0) 7 0 [1, 2]).1), by decide +kernel, ([1, 2]), rfl⟩,
   ⟨wReady, _, (.core 0), 7, 0, ((physAtomic wReady (.core 0) 7 0 8 .add 1 0).1), by decide +kernel, 8, .add, 1, 0, _, rfl⟩⟩

theorem witness_CounterValueIsTheLargestValidRecord :
    ∃ (s : State) (i : Nat), ∃ k, k < 16 ∧ arbValid (arbRecord s i k) = true :=
  ⟨{ trust := { arb := [(15, 0x1FFFE)] } }, 0, 15, by decide +kernel, by decide +kernel⟩

theorem witness_TrainingTakesTheLanesThatPass :
    ∃ (f : FlueLinkNo) (s : State), (s.fl f).st = .training :=
  ⟨17, { flue := { links := [(17, { st := .training })] } }, by decide +kernel⟩

theorem witness_LaneMapsTakeTheLowestGoodLanes :
    ∃ (n : Nat) (good : BitVec 68), n ≤ popCount good ∧ ∃ i j, i < j ∧ (laneMap n good).getLsbD j = true ∧ good.getLsbD i = true :=
  ⟨64, 0xFFFFFFFFFFFFFFFF0, by decide +kernel, 4, 67, by decide +kernel, by decide +kernel, by decide +kernel⟩

theorem witness_StreamImagesKeepEveryField :
    ∃ (e : Stream), e.v = true :=
  ⟨{ v := true, st := 2, len := 4096 }, by decide +kernel⟩

theorem witness_SlotReadAndBreakInstructionsComplete :
    (∃ (p : Site) (rs1 rs2 : W64) (s : State), canIssue (s.gr p.g) = true ∧ slotSettable (s.gr p.g) (field rs1.toNat 0 8) (slotOfWord
      rs2.toNat) = true) ∧
    (∃ (p : Site) (rs1 : W64) (s : State) (e : SlotEnt), e = slotAt (s.gr p.g) (field rs1.toNat 0 8) ∧ canIssue (s.gr p.g) = true ∧ e.v =
      true ∧ roleCheck (s.gr p.g) (field rs1.toNat 0 8) 1 true ≠ .breach) ∧
    (∃ (p : Site) (rs1 : W64) (s : State) (e : SlotEnt), e = slotAt (s.gr p.g) (field rs1.toNat 0 8) ∧ canIssue (s.gr p.g) = true ∧ e.v =
      true ∧ (s.gr p.g).guardMode = true ∧ e.guard = true ∧ e.full = false) ∧
    (∃ (p : Site) (rs1 : W64) (s : State) (e : SlotEnt), e = slotAt (s.gr p.g) (field rs1.toNat 0 8) ∧ canIssue (s.gr p.g) = true ∧ e.v =
      true ∧ (s.gr p.g).guardMode = true ∧ e.guard = true ∧ e.full = true) ∧
    (∃ (p : Site) (s : State), canIssue (s.gr p.g) = true ∧ s.trust.level = 2) ∧
    (∃ (p : Site) (s : State), canIssue (s.gr p.g) = true ∧ s.trust.level ≠ 2 ∧ allDone (s.gr p.g) = false) :=
  ⟨⟨wP, 255, 0x80BFF000, (wG { guardMode := true }), by decide +kernel, by decide +kernel⟩,
   ⟨wP, 3, (wG { guardMode := true, slots := [(3, { v := true, len := 4095, guard := true })] }), _, rfl, by decide +kernel,
     by decide +kernel, by decide +kernel⟩,
   ⟨wP, 3, (wG { guardMode := true, slots := [(3, { v := true, guard := true, cons := 15 })] }), _, rfl, by decide +kernel,
     by decide +kernel, by decide +kernel, by decide +kernel, by decide +kernel⟩,
   ⟨wP, 3, (wG { guardMode := true, slots := [(3, { v := true, guard := true, full := true, remain := 1 })] }), _, rfl, by decide +kernel,
     by decide +kernel, by decide +kernel, by decide +kernel, by decide +kernel⟩,
   ⟨wP, { wG {} with trust := { level := 2 } }, by decide +kernel, by decide +kernel⟩,
   ⟨wP, (wG { wlQ := [{ seq := 0, pc := 0, insn := 0, cmd := 0, pstr := 0, base := 0 }] }), by decide +kernel, by decide +kernel,
     by decide +kernel⟩⟩

theorem witness_WaitsStallAndEndByTheirConditions :
    (∃ (p : Site) (s : State), canIssue (s.gr p.g) = true) ∧
    (∃ (g : GrateNo) (s t : State) (m : BitVec 5) (pc : W64) (insn : W32), (s.gr g).stall = .unitWait m pc insn ∧ t = (if m.getLsbD 2 ||
      m.getLsbD 3 then vecRun s g else s) ∧ (t.gr g).stall = .unitWait m pc insn ∧ unitsDone (t.gr g) m = true ∧ (m.getLsbD 4 = true →
      (t.gr g).lost = [])) ∧
    (∃ (g : GrateNo) (s : State) (n ctr : Nat) (inc pc : W64) (insn : W32), (s.gr g).stall = .signal n ctr inc pc insn ∧ allDone (s.gr g)
      = true ∧ (s.gr g).lost = [] ∧ signalOk s n (s.gr g).ctx.toNat = true) ∧
    (∃ (g : GrateNo) (s : State) (ctr since : Nat) (target pc : W64) (insn : W32), (s.gr g).stall = .eventWait ctr target since pc insn ∧
      target.toNat ≤ (Tab.get 0 (s.gr g).events ctr).toNat) ∧
    (∃ (g : GrateNo) (s : State) (ctr since : Nat) (pkts : Bool) (target pc : W64) (insn : W32), (s.gr g).stall = .tallyWait ctr pkts
      target since pc insn ∧ target.toNat ≤ tallyRead s ctr (s.gr g).ctx.toNat pkts) ∧
    (∃ (g : GrateNo) (s : State) (ctr since : Nat) (target pc : W64) (insn : W32), (s.gr g).stall = .eventWait ctr target since pc insn ∧
      (s.gr g).waitLimit ≠ 0 ∧ (s.gr g).waitLimit.toNat < s.elapsed - since) ∧
    (∃ (g : GrateNo) (s : State) (ctr since : Nat) (pkts : Bool) (target pc : W64) (insn : W32), (s.gr g).stall = .tallyWait ctr pkts
      target since pc insn ∧ (s.gr g).waitLimit ≠ 0 ∧ (s.gr g).waitLimit.toNat < s.elapsed - since) ∧
    (∃ (g : GrateNo) (s : State) (pc : W64) (insn : W32), (s.gr g).stall = .boundary pc insn ∧ allDone (s.gr g) = true ∧ (s.gr g).lost =
      []) ∧
    (∃ (g : GrateNo) (s : State) (pc : W64) (insn : W32), (s.gr g).stall = .ecall pc insn ∧ allDone (s.gr g) = true ∧ (s.gr g).lost = []) :=
  ⟨⟨wP, (wG {}), by decide +kernel⟩,
   ⟨0, (wG { stall := .unitWait 31 0 0 }), _, 31, 0, 0, by decide +kernel, rfl, by decide +kernel, by decide +kernel, by decide +kernel⟩,
   ⟨0, (wG { ctx := 7, stall := .signal 0 31 2 0 0 }), 0, 31, 2, 0, 0, by decide +kernel, by decide +kernel, by decide +kernel,
     by decide +kernel⟩,
   ⟨0, (wG { events := [(31, 9)], stall := .eventWait 31 9 0 0 0 }), 31, 0, 9, 0, 0, by decide +kernel, by decide +kernel⟩,
   ⟨0, { wG { ctx := 7, stall := .tallyWait 4095 true 9 0 0 0 } with tallies := [(4095, { v := true, ctx := 7, pkts := 9 })] }, 4095, 0,
     true, 9, 0, 0, by decide +kernel, by decide +kernel⟩,
   ⟨0, { wG { waitLimit := 1, stall := .eventWait 31 9 5 0 0 } with elapsed := 7 }, 31, 5, 9, 0, 0, by decide +kernel, by decide +kernel,
     by decide +kernel⟩,
   ⟨0, { wG { waitLimit := 1, stall := .tallyWait 31 true 9 5 0 0 } with elapsed := 7 }, 31, 5, true, 9, 0, 0, by decide +kernel,
     by decide +kernel, by decide +kernel⟩,
   ⟨0, (wG { stopreq := true, stall := .boundary 0 0 }), 0, 0, by decide +kernel, by decide +kernel, by decide +kernel⟩,
   ⟨0, (wG { stall := .ecall 0 0 }), 0, 0, by decide +kernel, by decide +kernel, by decide +kernel⟩⟩

theorem witness_MatrixInstructionsAreQueuedAndEnd :
    (∃ (p : Site) (rs1 rs2 : W64) (s : State) (x : Grate) (c : Nat) (fa : Fmt) (ro : Option ReadOut) (a d : Nat), x = s.gr p.g ∧ c =
      rs1.toNat + rs2.toNat * 2 ^ 64 ∧ canIssue x = true ∧ x.matQ.length < 8 ∧ mcAfmt c = some fa ∧ mcReadOut x c = some ro ∧ mcMalformed
      c = false ∧ (mcBegin c = 0 → heldMatches x c (modeOf fa) = true) ∧ slotSpan x (mcAslot c) (mcAoff c) (mcAbytes c fa) = some a ∧ (if
      mcUsesD c then slotSpan x (mcDslot c) 0 (mcDbytes c ((ro.map (·.ofmt)).getD .fp32)) else some 0) = some d ∧ mcRoles x c = .ok) ∧
    (∃ (p : Site) (rs1 rs2 : W64) (s : State) (x : Grate) (c : Nat) (f : Fmt) (base : Nat), x = s.gr p.g ∧ c = rs1.toNat ∧ canIssue x =
      true ∧ x.wlQ.length < 4 ∧ wlFmt c = some f ∧ wlMalformed c = false ∧ slotSpan x (wlSlot c) 0 0 = some base ∧ wlOff c ≤ slotBytes
      (slotAt x (wlSlot c)) ∧ (∀ e ∈ (wlArrays c).zipIdx, (slotSpan x (wlSlot c) (wlOff c + wlPartOff c f (field rs2.toNat 0 18) e.2)
      (wlPart c f)).isSome = true) ∧ roleCheck x (wlSlot c) (wlRole c) false = .ok) ∧
    (∃ (g : GrateNo) (find : EccFind) (s : State) (x : Grate) (op : WlOp) (rest : List WlOp) (f : Fmt), x = s.gr g ∧ x.wlQ = op :: rest ∧
      wlBlocked x op = false ∧ find ≠ .uncorrectable ∧ wlBad x op = false ∧ roleBroken x (wlSlot op.cmd) (wlRole op.cmd) false = false ∧
      wlFmt op.cmd = some f ∧ ∃ (v : Mem) (u : State), unitView s g op.seq = (v, u)) ∧
    (∃ (g : GrateNo) (find : MatFind) (s u : State) (v : Mem) (x y : Grate) (op : MatOp) (rest : List MatOp) (fa fb : Fmt) (t : Tab Acc)
      (wn : Bool) (cells : List Nat), x = s.gr g ∧ x.matQ = op :: rest ∧ matReady x op = true ∧ find ≠ .scratchpad ∧ find ≠ .weights ∧
      matBad x op = false ∧ matBroken x op = none ∧ mcAfmt op.cmd = some fa ∧ mcBfmt op.cmd = some fb ∧ unitView s g op.seq = (v, u) ∧
      matCompute v g x op fa fb = .ok (t, wn) ∧ cells = (outCells op.cmd).map (fun e => e.1 * 1024 + e.2.1 * 32 + e.2.2) ∧ y = roleDone
      { x with
        matQ := rest, status := raiseFlags x.status { wn := wn }, cubeSteps := x.cubeSteps + activeCubeSteps op.cmd fa fb,
        accs := if op.ro.isSome then resetArrays t op.cmd else t,
        drain := match op.ro with | some ro => some {
          op := op, ro := ro, words := t.filter (fun e => cells.contains e.1) } | none => x.drain }
      (mcAslot op.cmd) (mcArole op.cmd) false) ∧
    (∃ (g : GrateNo) (find : EccFind) (s u : State) (d : Drain) (fl : FlagSet), (s.gr g).drain = some d ∧ find ≠ .uncorrectable ∧
      roleBroken (s.gr g) (mcDslot d.op.cmd) (mcDrole d.op.cmd) true = false ∧ drainError d = none ∧ drainWrite s g d = (fl, u)) :=
  ⟨⟨wP, 0x2000000400, 0x80000000, (wG { slots := [(0, { v := true, len := 3 })] }), _, _, .e4m3, (some
     { ofmt := .fp32, rm := .rne, sat := false, t := 0, base := 0, key := 0 }), 0, 0, rfl, rfl, by decide +kernel, by decide +kernel,
     by decide +kernel, by decide +kernel, by decide +kernel, by decide +kernel, by decide +kernel, by decide +kernel, by decide +kernel⟩,
   ⟨wP, 0x0000F80004000000, 0, (wG { slots := [(0, { v := true, len := 3 })] }), _, _, .e4m3, 0, rfl, rfl, by decide +kernel,
     by decide +kernel, by decide +kernel, by decide +kernel, by decide +kernel, by decide +kernel, by decide +kernel, by decide +kernel⟩,
   ⟨0, .corrected, (wG { wlQ := [{ seq := 0, pc := 0, insn := 0, cmd := 0x0000F80004000000, pstr := 0, base := 0 }] }), _,
     { seq := 0, pc := 0, insn := 0, cmd := 0x0000F80004000000, pstr := 0, base := 0 }, [], .e4m3, rfl, by decide +kernel,
     by decide +kernel, by decide +kernel, by decide +kernel, by decide +kernel, by decide +kernel, _, _, rfl⟩,
   ⟨0, .corrected, (wG { matQ := [{ seq := 0, pc := 0, insn := 0, cmd := 0x2000000400, abase := 0, dbase := 0, ro := none }] }), _, _, _,
     _, { seq := 0, pc := 0, insn := 0, cmd := 0x2000000400, abase := 0, dbase := 0, ro := none }, [], .e4m3, .e4m3, _, _, _, rfl,
     by decide +kernel, by decide +kernel, by decide +kernel, by decide +kernel, by decide +kernel, by decide +kernel, by decide +kernel,
     by decide +kernel, rfl, rfl, rfl, rfl⟩,
   ⟨0, .corrected, (wG
     {
       drain := some {
         op := { seq := 0, pc := 0, insn := 0, cmd := 0x800000002000000000000000000, abase := 0, dbase := 0, ro := none },
         ro := { ofmt := .fp32, rm := .rne, sat := false, t := 0, base := 0, key := 0 }, words := [] } }),
     _,
     {
       op := { seq := 0, pc := 0, insn := 0, cmd := 0x800000002000000000000000000, abase := 0, dbase := 0, ro := none },
       ro := { ofmt := .fp32, rm := .rne, sat := false, t := 0, base := 0, key := 0 }, words := [] },
     _, by decide +kernel, by decide +kernel, by decide +kernel, by decide +kernel, rfl⟩⟩

theorem witness_VectorInstructionsAndCsrWritesComplete :
    (∃ (p : Site) (rs1 : W64) (role : BitVec 2) (s : State) (x : Grate) (off : Nat), x = s.gr p.g ∧ canIssue x = true ∧ x.vecQ.length < 16
      ∧ slotSpan x (vecSlot rs1) (vecOff rs1) 2048 = some off ∧ roleCheck x (vecSlot rs1) role.toNat false = .ok) ∧
    (∃ (p : Site) (rs1 : W64) (role : BitVec 2) (s : State) (x : Grate) (off : Nat), x = s.gr p.g ∧ canIssue x = true ∧ x.vecQ.length < 16
      ∧ slotSpan x (vecSlot rs1) (vecOff rs1) 2048 = some off ∧ roleCheck x (vecSlot rs1) role.toNat true = .ok) ∧
    (∃ (p : Site) (rm : BitVec 3) (op : VecOp) (s : State) (x : Grate) (m : RMode), x = s.gr p.g ∧ canIssue x = true ∧ x.vecQ.length < 16
      ∧ vecFormatOk op = true ∧ vecMode op rm x.status = some m) ∧
    (∃ (g : Nat) (s t : State) (v : VecInstr) (rest : List VecInstr), (s.gr g).vecQ = v :: rest ∧ v.find ≠ .uncorrectable ∧ vecBad (s.gr
      g) v.work = false ∧ vecBroken (s.gr g) v.work = none ∧ t = countFind (s.setGr g { s.gr g with vecQ := rest }) g v.find ∧ ∃ op m y
      fl, v.work = .op op m ∧ vecEval (t.gr g) op m v.key = .done y fl) ∧
    (∃ (g : Nat) (s t : State) (v : VecInstr) (rest : List VecInstr), (s.gr g).vecQ = v :: rest ∧ v.find ≠ .uncorrectable ∧ vecBad (s.gr
      g) v.work = false ∧ vecBroken (s.gr g) v.work = none ∧ t = countFind (s.setGr g { s.gr g with vecQ := rest }) g v.find ∧ ∃ rd off
      slot role a u, v.work = .load rd off slot role ∧ unitView t g v.seq = (a, u)) ∧
    (∃ (g : Nat) (s t : State) (v : VecInstr) (rest : List VecInstr), (s.gr g).vecQ = v :: rest ∧ v.find ≠ .uncorrectable ∧ vecBad (s.gr
      g) v.work = false ∧ vecBroken (s.gr g) v.work = none ∧ t = countFind (s.setGr g { s.gr g with vecQ := rest }) g v.find ∧ ∃ rs2 off
      slot role, v.work = .store rs2 off slot role) ∧
    (∃ (p : Site) (op : CsrOp) (csr : BitVec 12) (value : W64) (writes : Bool) (s : State) (x : Grate) (old v : W64), x = s.gr p.g ∧
      canIssue x = true ∧ csrRead x p.g csr.toNat = some old ∧ v = (match op with | .swap => value | .set => old ||| value | .clear => old
      &&& ~~~value) ∧ op ≠ .swap ∧ writes = false) ∧
    (∃ (p : Site) (op : CsrOp) (csr : BitVec 12) (value : W64) (writes : Bool) (s : State) (x : Grate) (old v : W64), x = s.gr p.g ∧
      canIssue x = true ∧ csrRead x p.g csr.toNat = some old ∧ v = (match op with | .swap => value | .set => old ||| value | .clear => old
      &&& ~~~value) ∧ (op = .swap ∨ writes = true) ∧ csr = 0x800) ∧
    (∃ (p : Site) (op : CsrOp) (csr : BitVec 12) (value : W64) (writes : Bool) (s : State) (x : Grate) (old v : W64), x = s.gr p.g ∧
      canIssue x = true ∧ csrRead x p.g csr.toNat = some old ∧ v = (match op with | .swap => value | .set => old ||| value | .clear => old
      &&& ~~~value) ∧ (op = .swap ∨ writes = true) ∧ csr = 0x801) ∧
    (∃ (p : Site) (op : CsrOp) (csr : BitVec 12) (value : W64) (writes : Bool) (s : State) (x : Grate) (old v : W64), x = s.gr p.g ∧
      canIssue x = true ∧ csrRead x p.g csr.toNat = some old ∧ v = (match op with | .swap => value | .set => old ||| value | .clear => old
      &&& ~~~value) ∧ (op = .swap ∨ writes = true) ∧ csr = 0x802) ∧
    (∃ (p : Site) (op : CsrOp) (csr : BitVec 12) (value : W64) (writes : Bool) (s : State) (x : Grate) (old v : W64), x = s.gr p.g ∧
      canIssue x = true ∧ csrRead x p.g csr.toNat = some old ∧ v = (match op with | .swap => value | .set => old ||| value | .clear => old
      &&& ~~~value) ∧ (op = .swap ∨ writes = true) ∧ csr = 0x803) ∧
    (∃ (p : Site) (op : CsrOp) (csr : BitVec 12) (value : W64) (writes : Bool) (s : State) (x : Grate) (old v : W64), x = s.gr p.g ∧
      canIssue x = true ∧ csrRead x p.g csr.toNat = some old ∧ v = (match op with | .swap => value | .set => old ||| value | .clear => old
      &&& ~~~value) ∧ (op = .swap ∨ writes = true) ∧ csr = 0x804) ∧
    (∃ (p : Site) (op : CsrOp) (csr : BitVec 12) (value : W64) (writes : Bool) (s : State) (x : Grate) (old v : W64), x = s.gr p.g ∧
      canIssue x = true ∧ csrRead x p.g csr.toNat = some old ∧ v = (match op with | .swap => value | .set => old ||| value | .clear => old
      &&& ~~~value) ∧ (op = .swap ∨ writes = true) ∧ csr = 0x805) :=
  ⟨⟨wP, 255, 2, (wG { slots := [(255, { v := true, base := 3071 })] }), _, 0x5FF800, rfl, by decide +kernel, by decide +kernel,
     by decide +kernel, by decide +kernel⟩,
   ⟨wP, 255, 2, (wG { slots := [(255, { v := true, base := 3071 })] }), _, 0x5FF800, rfl, by decide +kernel, by decide +kernel,
     by decide +kernel, by decide +kernel⟩,
   ⟨wP, 0, (.minimum 31 0 1), (wG {}), _, .rne, rfl, by decide +kernel, by decide +kernel, by decide +kernel, by decide +kernel⟩,
   ⟨0, (wG { vecQ := [{ seq := 0, pc := 0, insn := 0, work := .op (.minimum 31 0 1) .rne, key := 0, find := .corrected }] }), _,
     { seq := 0, pc := 0, insn := 0, work := .op (.minimum 31 0 1) .rne, key := 0, find := .corrected }, [], by decide +kernel,
     by decide +kernel, by decide +kernel, by decide +kernel, rfl, _, _, _, _, rfl, rfl⟩,
   ⟨0, (wG { vecQ := [{ seq := 0, pc := 0, insn := 0, work := .load 31 0x5FF800 255 0, key := 0, find := .corrected }] }), _,
     { seq := 0, pc := 0, insn := 0, work := .load 31 0x5FF800 255 0, key := 0, find := .corrected }, [], by decide +kernel,
     by decide +kernel, by decide +kernel, by decide +kernel, rfl, _, _, _, _, _, _, rfl, rfl⟩,
   ⟨0, (wG { vecQ := [{ seq := 0, pc := 0, insn := 0, work := .store 31 0x5FF800 255 0, key := 0, find := .corrected }] }), _,
     { seq := 0, pc := 0, insn := 0, work := .store 31 0x5FF800 255 0, key := 0, find := .corrected }, [], by decide +kernel,
     by decide +kernel, by decide +kernel, by decide +kernel, rfl, _, _, _, _, rfl⟩,
   ⟨wP, .set, 0xCCE, 0, false, (wG { guardMode := true }), _, _, _, rfl, by decide +kernel, someOf (by decide +kernel), rfl,
     by decide +kernel, rfl⟩,
   ⟨wP, .clear, 0x800, 0xFFFFFFFF, true, (wG { keyLo := 5, keyHi := 6, conflicts := [(0, 1)] }), _, _, _, rfl, by decide +kernel, someOf
     (by decide +kernel), rfl, by decide +kernel, rfl⟩,
   ⟨wP, .swap, 0x801, 0xFFFFFFFF, true, (wG { keyLo := 5, keyHi := 6, conflicts := [(0, 1)] }), _, _, _, rfl, by decide +kernel, someOf
     (by decide +kernel), rfl, by decide +kernel, rfl⟩,
   ⟨wP, .clear, 0x802, 0xFFFFFFFF, true, (wG { keyLo := 5, keyHi := 6, conflicts := [(0, 1)] }), _, _, _, rfl, by decide +kernel, someOf
     (by decide +kernel), rfl, by decide +kernel, rfl⟩,
   ⟨wP, .swap, 0x803, 0xFFFFFFFF, true, (wG { keyLo := 5, keyHi := 6, conflicts := [(0, 1)] }), _, _, _, rfl, by decide +kernel, someOf
     (by decide +kernel), rfl, by decide +kernel, rfl⟩,
   ⟨wP, .clear, 0x804, 0xFFFFFFFF, true, (wG { keyLo := 5, keyHi := 6, conflicts := [(0, 1)] }), _, _, _, rfl, by decide +kernel, someOf
     (by decide +kernel), rfl, by decide +kernel, rfl⟩,
   ⟨wP, .swap, 0x805, 0xFFFFFFFF, true, (wG { keyLo := 5, keyHi := 6, conflicts := [(0, 1)] }), _, _, _, rfl, by decide +kernel, someOf
     (by decide +kernel), rfl, by decide +kernel, rfl⟩⟩

theorem witness_TileAccessesToMemoryComplete :
    (∃ (p : Site) (va : W64) (lg : BitVec 2) (s u : State) (pa d : Nat) (w : State) (line : List Byte), canIssue (s.gr p.g) = true ∧
      va.toNat % 2 ^ lg.toNat = 0 ∧ inScope s (s.gr p.g).ctx.toNat va.toNat = false ∧ xlate s (.tile p.g) (s.gr p.g).ctx.toNat va.toNat
      .read = (.ok pa, u) ∧ placeOf pa = .main d pa ∧ (u.gr p.g).readBuf.find? (fun e => decide (e.1 = rbKey pa)) = none ∧ physRead u
      (.tile p.g) (u.gr p.g).ctx.toNat (pa / 128 * 128) 128 = (.ok, line, w)) ∧
    (∃ (p : Site) (va : W64) (lg : BitVec 2) (s u : State) (pa k : Nat) (line : List Byte), canIssue (s.gr p.g) = true ∧ va.toNat % 2 ^
      lg.toNat = 0 ∧ inScope s (s.gr p.g).ctx.toNat va.toNat = false ∧ xlate s (.tile p.g) (s.gr p.g).ctx.toNat va.toNat .read = (.ok pa,
      u) ∧ (u.gr p.g).readBuf.find? (fun e => decide (e.1 = rbKey pa)) = some (k, line)) ∧
    (∃ (p : Site) (va : W64) (lg : BitVec 2) (find : EccFind) (s u v w : State) (pa off : Nat) (a : Mem) (bs : List Byte), find ≠
      .uncorrectable ∧ canIssue (s.gr p.g) = true ∧ va.toNat % 2 ^ lg.toNat = 0 ∧ inScope s (s.gr p.g).ctx.toNat va.toNat = false ∧ xlate
      s (.tile p.g) (s.gr p.g).ctx.toNat va.toNat .read = (.ok pa, u) ∧ placeOf pa = .spad p.g off ∧ (u.gr p.g).readBuf.find? (fun e =>
      decide (e.1 = rbKey pa)) = none ∧ unitView (countFind u p.g find) p.g (u.gr p.g).issued = (a, v) ∧ physRead v (.tile p.g) (u.gr
      p.g).ctx.toNat (pa / 128 * 128) 128 = (.ok, bs, w)) ∧
    (∃ (p : Site) (va : W64) (s u : State) (pa d word : Nat) (w : State) (line : List Byte), canIssue (s.gr p.g) = true ∧ inScope s (s.gr
      p.g).ctx.toNat va.toNat = false ∧ xlate s (.tile p.g) (s.gr p.g).ctx.toNat va.toNat .fetch = (.ok pa, u) ∧ placeOf pa = .main d pa ∧
      (u.gr p.g).icache.find? (fun e => decide (e.1 = rbKey pa)) = none ∧ physRead u (.tile p.g) (u.gr p.g).ctx.toNat (pa / 128 * 128) 128
      = (.ok, line, w) ∧ word = ofBytes ((line.drop (pa % 128)).take 4) ∧ unlisted word = false) ∧
    (∃ (p : Site) (va : W64) (s u : State) (pa k word : Nat) (line : List Byte), canIssue (s.gr p.g) = true ∧ inScope s (s.gr
      p.g).ctx.toNat va.toNat = false ∧ xlate s (.tile p.g) (s.gr p.g).ctx.toNat va.toNat .fetch = (.ok pa, u) ∧ (u.gr p.g).icache.find?
      (fun e => decide (e.1 = rbKey pa)) = some (k, line) ∧ word = ofBytes ((line.drop (pa % 128)).take 4) ∧ unlisted word = false) ∧
    (∃ (p : Site) (va : W64) (lg : BitVec 2) (value : W64) (s u : State) (pa : Nat) (e : SbEnt), canIssue (s.gr p.g) = true ∧ va.toNat % 2
      ^ lg.toNat = 0 ∧ inScope s (s.gr p.g).ctx.toNat va.toNat = false ∧ xlate s (.tile p.g) (s.gr p.g).ctx.toNat va.toNat .write = (.ok
      pa, u) ∧ isDevice pa = false ∧ (u.gr p.g).sb.length < 8 ∧ e =
      {
        seq := (u.gr p.g).issued, pc := p.pc, insn := p.insn, va := va, pa := pa, size := 2 ^ lg.toNat, value := value,
        ctx := (u.gr p.g).ctx.toNat }) ∧
    (∃ (p : Site) (va : W64) (wide : Bool) (op : AmoOp) (value : W64) (aq rl : Bool) (s r u : State) (pa n d old : Nat) (w : State), op ≠
      .amo .cas ∧ canIssue (s.gr p.g) = true ∧ (rl = true → (s.gr p.g).sb = []) ∧ n = (if wide then 8 else 4) ∧ va.toNat % n = 0 ∧ r = (if
      aq then s.modGr p.g (fun x => { x with readBuf := [] }) else s) ∧ inScope r (r.gr p.g).ctx.toNat va.toNat = false ∧ xlate r (.tile
      p.g) (r.gr p.g).ctx.toNat va.toNat .atomic = (.ok pa, u) ∧ placeOf pa = .main d pa ∧ sbTouches (u.gr p.g).sb pa n = false ∧ amoDo u
      (.tile p.g) (u.gr p.g).ctx.toNat pa n op (if op = .lr then 0 else value.toNat) = (.ok, old, w)) :=
  ⟨⟨wP, 0xFFF8, 3, (wT {}), _, 0xFFF8, 0, _, _, by decide +kernel, by decide +kernel, by decide +kernel, pairOf (by decide +kernel),
     by decide +kernel, by decide +kernel, tripOf (by decide +kernel)⟩,
   ⟨wP, 8, 3, (wT { readBuf := [(0, List.replicate 128 1)] }), _, 8, 0, (List.replicate 128 1), by decide +kernel, by decide +kernel,
     by decide +kernel, pairOf (by decide +kernel), by decide +kernel⟩,
   ⟨wP, 0xFFF8, 3, .clean, (wTA { wLeaf with pbase := 0x41000000000 } {}), _, _, _, 0x4100000FFF8, 0xFFF8, _, _, by decide +kernel,
     by decide +kernel, by decide +kernel, by decide +kernel, pairOf (by decide +kernel), by decide +kernel, by decide +kernel, rfl,
     tripOf (by decide +kernel)⟩,
   ⟨wP, 4, (wT {}), _, 4, 0, _, _, _, by decide +kernel, by decide +kernel, pairOf (by decide +kernel), by decide +kernel,
     by decide +kernel, tripOf (by decide +kernel), rfl, by decide +kernel⟩,
   ⟨wP, 4, (wT { icache := [(0, List.replicate 128 1)] }), _, 4, 0, _, (List.replicate 128 1), by decide +kernel, by decide +kernel,
     pairOf (by decide +kernel), by decide +kernel, rfl, by decide +kernel⟩,
   ⟨wP, 8, 3, 5, (wT { sb := List.replicate 7 wStore }), _, 8, _, by decide +kernel, by decide +kernel, by decide +kernel, pairOf
     (by decide +kernel), by decide +kernel, by decide +kernel, rfl⟩,
   ⟨wP, 8, true, (.amo .add), 5, true, true, (wT { readBuf := [(1, [])] }), _, _, 8, 8, 0, _, _, by decide +kernel, by decide +kernel,
     by decide +kernel, by decide +kernel, by decide +kernel, rfl, by decide +kernel, pairOf (by decide +kernel), by decide +kernel,
     by decide +kernel, tripOf (by decide +kernel)⟩⟩

theorem witness_CoreAccessesToMemoryComplete :
    (∃ (h : HartNo) (pa : BitVec 52) (lg : BitVec 2) (signed : Bool) (s : State) (d : Nat), placeOf pa.toNat = .main d pa.toNat ∧
      hartReady s h = true ∧ behindLoad s h pa.toNat (2 ^ lg.toNat) = false ∧ ovfMeets s (s.ht h).dctx.toNat pa.toNat (2 ^ lg.toNat) =
      false ∧ loadMiss s (h.val / 8) (chunksOf pa.toNat (2 ^ lg.toNat)) = none ∧ ∃ v, v = extend signed (forward (s.ht h).sb pa.toNat
      (coreBytes s (h.val / 8) pa.toNat (2 ^ lg.toNat)))) ∧
    (∃ (h : HartNo) (pa : BitVec 52) (lg : BitVec 2) (s : State), isDevice pa.toNat = false ∧ hartReady s h = true ∧ (s.ht h).sb.length <
      32 ∧ behindLoad s h pa.toNat (2 ^ lg.toNat) = false) ∧
    (∃ (h : HartNo) (pa : BitVec 52) (wide : Bool) (op : AmoOp) (value : W64) (aq rl : Bool) (s : State) (n d old : Nat) (w u : State) (v
      : W64), op ≠ .amo .cas ∧ n = (if wide then 8 else 4) ∧ placeOf pa.toNat = .main d pa.toNat ∧ hartReady s h = true ∧ sbTouches (s.ht
      h).sb pa.toNat n = false ∧ behindLoad s h pa.toNat n = false ∧ pa.toNat % n = 0 ∧ (rl = true → (s.ht h).sb = [] ∧ hartLoads s h = []
      ∧ (s.ht h).lost = []) ∧ amoDo s (.core h) (s.ht h).dctx.toNat pa.toNat n op value.toNat = (.ok, old, w) ∧ v = extend (decide (op ≠
      .sc)) (toBytes n old) ∧ u = (w.setHt h { w.ht h with loaded := v }).emit (.coreData h v) ∧ (aq = true → hartLoads u h = []) ∧ (rl =
      true → (u.ht h).lost = [])) ∧
    (∃ (h : HartNo) (pa : BitVec 52) (s u : State), hartReady s h = true ∧ isDevice (pa.toNat / 128 * 128) = false ∧ sbTouches (s.ht h).sb
      (pa.toNat / 128 * 128) 128 = false ∧ behindLoad s h (pa.toNat / 128 * 128) 128 = false ∧ physWrite s (.core h) (s.ht h).dctx.toNat
      (pa.toNat / 128 * 128) (List.replicate 128 0) = (.ok, u)) :=
  ⟨⟨0, 0x280, 3, true, { wH {} with coh := { agents := [(80, { st := .sma })] } }, 0, by decide +kernel, by decide +kernel,
     by decide +kernel, by decide +kernel, by decide +kernel, _, rfl⟩,
   ⟨0, 8, 3, (wH { sb := List.replicate 31 wStore }), by decide +kernel, by decide +kernel, by decide +kernel, by decide +kernel⟩,
   ⟨0, 8, false, .sc, 5, true, true, (wH {}), 4, 0, _, _, _, _, by decide +kernel, by decide +kernel, by decide +kernel,
     by decide +kernel, by decide +kernel, by decide +kernel, by decide +kernel, by decide +kernel, tripOf (by decide +kernel), rfl, rfl,
     by decide +kernel, by decide +kernel⟩,
   ⟨0, 8, (wH {}), _, by decide +kernel, by decide +kernel, by decide +kernel, by decide +kernel, pairOf (by decide +kernel)⟩⟩

theorem witness_FencesAndStoresLeaveInOrder :
    (∃ (h : HartNo) (pred : BitVec 4) (s : State), hartReady s h = true ∧ (pred.getLsbD 0 = true → (s.ht h).lost = []) ∧ (pred.getLsbD 0 =
      true → (s.ht h).sb = []) ∧ (pred.getLsbD 1 = true → hartLoads s h = [])) ∧
    (∃ (h : HartNo) (pred : BitVec 4) (s : State), hartReady s h = true ∧ ((pred.getLsbD 0 = true ∧ (s.ht h).sb ≠ []) ∨ (pred.getLsbD 1 =
      true ∧ hartLoads s h ≠ []))) ∧
    (∃ (p : Site) (s : State), canIssue (s.gr p.g) = true ∧ (s.gr p.g).lost = []) ∧
    (∃ (h : HartNo) (s u : State) (e : SbEnt) (rest : List SbEnt) (d : Nat), (s.ht h).sb = e :: rest ∧ placeOf e.pa = .main d e.pa ∧
      ovfMeets s e.ctx e.pa e.size = false ∧ storeLines s h e.ctx (chunksOf e.pa e.size) = (true, u)) ∧
    (∃ (g : GrateNo) (s u : State) (e : SbEnt) (rest : List SbEnt) (d : Nat), (s.gr g).sb = e :: rest ∧ placeOf e.pa = .main d e.pa ∧
      physWrite s (.tile g) e.ctx e.pa (toBytes e.size e.value.toNat) = (.ok, u)) ∧
    (∃ (who : Holder) (s : State) (e : SbEnt) (rest : List SbEnt) (t id p off : Nat), holderSb s who = e :: rest ∧ e.sent = some (t, id) ∧
      placeOf e.pa = .remote p off) ∧
    (∃ (who : Holder) (s : State) (t id : Nat), refusable s who = some (t, id)) ∧
    (∃ (who : Holder) (s : State) (t id : Nat), sentOf s who = some (t, id) ∧ 225000 ≤ s.elapsed - t) :=
  ⟨⟨95, 1, wReady, by decide +kernel, by decide +kernel, by decide +kernel, by decide +kernel⟩,
   ⟨0, 1, (wH { sb := [wStore] }), by decide +kernel, by decide +kernel⟩,
   ⟨wP, (wT { sb := [wStore] }), by decide +kernel, by decide +kernel⟩,
   ⟨0, { wH { sb := [wStore] } with coh := { agents := [(16, { st := .e })] } }, _, wStore, [], 0, by decide +kernel, by decide +kernel,
     by decide +kernel, pairOf (by decide +kernel)⟩,
   ⟨0, (wT { sb := [wStore] }), _, wStore, [], 0, by decide +kernel, by decide +kernel, pairOf (by decide +kernel)⟩,
   ⟨(.core 0), (wH { sb := [{ wStore with pa := 0x100000000080, sent := some (0, 9) }] }),
     { wStore with pa := 0x100000000080, sent := some (0, 9) }, [], 0, 9, 0, 0x80, by decide +kernel, by decide +kernel,
     by decide +kernel⟩,
   ⟨(.core 0), (wH { sb := [{ wStore with pa := 0x100000000080, sent := some (0, 9) }] }), 0, 9, by decide +kernel⟩,
   ⟨(.tile 0), { wT { sb := [{ wStore with sent := some (1, 9) }] } with elapsed := 225001 }, 1, 9, by decide +kernel, by decide +kernel⟩⟩

theorem witness_GratesAreControlledAndSwitched :
    (∃ (g : GrateNo) (s : State), readyHth s (g.val / 24) = true ∧ (s.gr g).st = .stopped ∧ (s.gr g).clearing = false) ∧
    (∃ (g : GrateNo) (s : State), readyHth s (g.val / 24) = true ∧ ((s.gr g).st = .stopped ∨ (s.gr g).st = .halted) ∧ (s.gr g).clearing =
      false ∧ (s.gr g).launch = none) ∧
    (∃ (g : GrateNo) (s : State), readyHth s (g.val / 24) = true ∧ (s.gr g).clearing = true ∧ ∃ k, k ≠ g.val) ∧
    (∃ (g : GrateNo) (s : State), readyHth s (g.val / 24) = true ∧ (s.gr g).st = .idle ∧ (s.gr g).clearing = false) ∧
    (∃ (g : GrateNo) (s : State), readyHth s (g.val / 24) = true ∧ ((s.gr g).st ≠ .stopped ∨ (s.gr g).clearing = true)) ∧
    (∃ (g : GrateNo) (s : State), readyHth s (g.val / 24) = true ∧ ((s.gr g).st = .running ∨ (s.gr g).st = .idle ∨ (s.gr g).clearing =
      true)) ∧
    (∃ (g : GrateNo) (s : State), (s.gr g).clearing = false ∧ (s.gr g).st = .running ∧ (s.gr g).stopreq = false) ∧
    (∃ (g : GrateNo) (s : State), (s.gr g).clearing = false ∧ (s.gr g).st = .stopped ∧ s.spadWins.any (fun e => decide (e.2.grate.toNat =
      g.val) && e.2.v) = true) ∧
    (∃ (g : GrateNo) (s : State), (s.gr g).clearing = false ∧ (s.gr g).st = .stopped ∧ s.spadWins.any (fun e => decide (e.2.grate.toNat =
      g.val) && (e.2.v || e.2.busy)) = false ∧ tideBusy s g = false ∧ (s.gr g).launch = none) :=
  ⟨⟨95, { wReady with grates := [(95, { st := .stopped })] }, by decide +kernel, by decide +kernel, by decide +kernel⟩,
   ⟨95, { wReady with grates := [(95, { st := .halted })] }, by decide +kernel, by decide +kernel, by decide +kernel, by decide +kernel⟩,
   ⟨95, { wReady with grates := [(95, { st := .halted, clearing := true })] }, by decide +kernel, by decide +kernel, 0, by decide +kernel⟩,
   ⟨95, wReady, by decide +kernel, by decide +kernel, by decide +kernel⟩,
   ⟨95, { wReady with grates := [(95, { st := .halted })] }, by decide +kernel, by decide +kernel⟩,
   ⟨95, { wReady with grates := [(95, { st := .running })] }, by decide +kernel, by decide +kernel⟩,
   ⟨0, (wG {}), by decide +kernel, by decide +kernel, by decide +kernel⟩,
   ⟨95, { grates := [(95, { st := .stopped })], spadWins := [(511, { v := true, grate := 95 })] }, by decide +kernel, by decide +kernel,
     by decide +kernel⟩,
   ⟨95, { grates := [(95, { st := .stopped })] }, by decide +kernel, by decide +kernel, by decide +kernel, by decide +kernel,
     by decide +kernel⟩⟩

theorem witness_WindowAccessesComplete :
    (∃ (who : ExtAgent) (ctx : Ctx) (g : GrateNo) (off : BitVec 23) (n : Nat) (find : EccFind) (s u : State) (bs : List Byte), find ≠
      .uncorrectable ∧ physRead s (extAgent who) ctx.toNat (spadKey g off.toNat) n = (.ok, bs, u)) ∧
    (∃ (who : ExtAgent) (ctx : Ctx) (g : GrateNo) (off : BitVec 23) (bs : List Byte) (s u : State), physWrite s (extAgent who) ctx.toNat
      (spadKey g off.toNat) bs = (.ok, u)) ∧
    (∃ (who : ExtAgent) (ctx : Ctx) (g : GrateNo) (off : BitVec 23) (op : AOp) (wide : Bool) (v c : W64) (find : EccFind) (s u : State) (n
      old : Nat), find ≠ .uncorrectable ∧ n = (if wide then 8 else 4) ∧ physAtomic s (extAgent who) ctx.toNat (spadKey g off.toNat) n op
      v.toNat c.toNat = (.ok, old, u)) ∧
    (∃ (i : Fin 512) (s : State) (x : SpadWin), x = Tab.get {} s.spadWins i.val ∧ x.busy = true ∧ x.inflight = 0) ∧
    (∃ (i : Fin 63) (s : State), (Tab.get {} s.flue.inwin i.val).busy = true) :=
  ⟨⟨(.core 5), 7, 95, 0x5FFF80, 128, .corrected, { wReady with grates := [(95, { st := .stopped, ctx := 7 })] }, _, _, by decide +kernel,
     tripOf (by decide +kernel)⟩,
   ⟨(.flue 0), 7, 95, 0x5FFFFF, [1], { wReady with grates := [(95, { st := .running, ctx := 7 })] }, _, pairOf (by decide +kernel)⟩,
   ⟨(.engine (.copyIn 0 0)), 7, 95, 0x5FFFF8, .cas, true, 1, 0, .clean, { wReady with grates := [(95, { st := .running, ctx := 7 })] }, _,
     _, _, by decide +kernel, rfl, tripOf (by decide +kernel)⟩,
   ⟨511, { spadWins := [(511, { busy := true })] }, _, rfl, by decide +kernel, by decide +kernel⟩,
   ⟨62, { flue := { inwin := [(62, { busy := true })] } }, by decide +kernel⟩⟩

theorem witness_WalksAndRepliesMoveTheirAgentOn :
    (∃ (x : XAgent) (s u : State) (w : Walk) (l : Leaf) (bs : List Byte) (e n : Nat), walkOf s (xagent x) = some w ∧ walkHasWalker s w =
      true ∧ physRead s w.agent 0 (w.node + 8 * levelIndex w.level w.va) 8 = (.ok, bs, u) ∧ e = ofBytes bs ∧ pteV e = true ∧ pteMalformed
      e w.level = false ∧ pteLeaf e = true ∧ n = levelBits w.level ∧ l =
      {
        ctx := w.ctx, vbase := w.va / 2 ^ n * 2 ^ n, bits := n, pbase := ptePa e, rd := bitAt e 2, wr := bitAt e 3, at_ := bitAt e 4,
        level := w.level, entry := e }
      ∧ leafAllows l w.acc = true) ∧
    (∃ (x : XAgent) (s u : State) (w w' : Walk) (bs : List Byte) (e : Nat), walkOf s (xagent x) = some w ∧ walkHasWalker s w = true ∧
      physRead s w.agent 0 (w.node + 8 * levelIndex w.level w.va) 8 = (.ok, bs, u) ∧ e = ofBytes bs ∧ pteV e = true ∧ pteMalformed e
      w.level = false ∧ pteLeaf e = false ∧ w' =
      { w with
        level := w.level + 1, node := ptePa e, lastEntry := e,
        seen := w.seen ++ [{
          ctx := w.ctx, level := w.level + 1, vbase := w.va / 2 ^ levelBits w.level * 2 ^ levelBits w.level, node := ptePa e }] }) ∧
    (∃ (token : BitVec 16) (s : State) (f : XFault), s.xlat.faults.find? (fun f => decide (f.token = token.toNat)) = some f) ∧
    (∃ (token : BitVec 16) (s : State), s.xlat.faults.find? (fun f => decide (f.token = token.toNat)) = none) :=
  ⟨⟨(.copyIn 0 7),
     { wReady with
       owners := [(1, { v := true })], mem := [(0x10000, 7), (0x10002, 2)],
       xlat := { walks := [{ agent := .copyIn 0 7, ctx := 7, va := 0, acc := .read, level := 3, node := 0x10000 }] } },
     _, { agent := .copyIn 0 7, ctx := 7, va := 0, acc := .read, level := 3, node := 0x10000 }, _, _, _, _, by decide +kernel,
     by decide +kernel, tripOf (by decide +kernel), rfl, by decide +kernel, by decide +kernel, by decide +kernel, rfl, rfl,
     by decide +kernel⟩,
   ⟨(.copyIn 0 7),
     { wReady with
       owners := [(1, { v := true })], mem := [(0x10000, 1), (0x10002, 2)],
       xlat := { walks := [{ agent := .copyIn 0 7, ctx := 7, va := 0, acc := .read, level := 1, node := 0x10000 }] } },
     _, { agent := .copyIn 0 7, ctx := 7, va := 0, acc := .read, level := 1, node := 0x10000 }, _, _, _, by decide +kernel,
     by decide +kernel, tripOf (by decide +kernel), rfl, by decide +kernel, by decide +kernel, by decide +kernel, rfl⟩,
   ⟨0xFFFF, { xlat := { faults := [{ token := 0xFFFF, agent := .copyIn 0 7, ctx := 7, va := 0, acc := .read, reason := 1 }] } },
     { token := 0xFFFF, agent := .copyIn 0 7, ctx := 7, va := 0, acc := .read, reason := 1 }, by decide +kernel⟩,
   ⟨0, {}, by decide +kernel⟩⟩

theorem witness_InvalidationsAndOwnerChangesRunToTheirEnd :
    (∃ (ctx : Ctx) (npg : W32) (s : State) (x : XInv), s.xlat.inv.busy = false ∧ s.xlat.inv.page.toNat + npg.toNat + 1 ≤ 2 ^ 39 ∧ x =
      { s.xlat.inv with scope := 0, ctx := ctx, npg := npg, busy := true, va := s.xlat.inv.page } ∧ ∃ y, y =
      { x with dropped := droppedPages s x }) ∧
    (∃ (ctx : Ctx) (s : State) (x : XInv), s.xlat.inv.busy = false ∧ x =
      { s.xlat.inv with scope := 1, ctx := ctx, busy := true, va := s.xlat.inv.page } ∧ ∃ y, y = { x with dropped := droppedPages s x }) ∧
    (∃ (s : State) (x : XInv), s.xlat.inv.busy = false ∧ x = { s.xlat.inv with scope := 2, busy := true, va := s.xlat.inv.page } ∧ ∃ y, y
      = { x with dropped := droppedPages s x }) ∧
    (∃ (npg : W32) (s : State), s.xlat.inv.busy = false ∧ 2 ^ 39 < s.xlat.inv.page.toNat + npg.toNat + 1) ∧
    (∃ (s t : State), s.xlat.inv.busy = true ∧ t = { s with xlat := { s.xlat with inv := { s.xlat.inv with err := true } } }) ∧
    (∃ (s : State), s.xlat.inv.busy = true ∧ invPending s = false) ∧
    (∃ (d : DieNo) (owner : Ctx) (v rt : Bool) (nreg : BitVec 23) (s : State) (old x : RotReg), old = Tab.get {} s.rot d.val ∧ readyHth s
      d = true ∧ old.busy = false ∧ d.val * 0x600000 ≤ old.page.toNat ∧ old.page.toNat + nreg.toNat + 1 ≤ (d.val + 1) * 0x600000 - 0xC0 ∧
      x = { old with addr := old.page, owner := owner, v := v, rt := rt, nreg := nreg, busy := true }) ∧
    (∃ (d : DieNo) (s : State), readyHth s d = true ∧ (Tab.get {} s.rot d.val : RotReg).busy = true) ∧
    (∃ (d : DieNo) (s t u : State) (x : RotReg), x = Tab.get {} s.rot d.val ∧ x.busy = true ∧ t = rotSnoop s x ∧ rotBusyLines t x = false
      ∧ u = (movingRegions t x).foldl (rotRegion { owner := x.owner, v := x.v, rt := x.rt }) t) ∧
    (∃ (d : DieNo) (s t : State) (x : RotReg), x = Tab.get {} s.rot d.val ∧ x.busy = true ∧ t = rotSnoop s x ∧ rotBusyLines t x = true) :=
  ⟨⟨7, 0xFFFFFFFF, { xlat := { inv := { page := 0x7F00000000 } } }, _, by decide +kernel, by decide +kernel, rfl, _, rfl⟩,
   ⟨4095, {}, _, by decide +kernel, rfl, _, rfl⟩,
   ⟨{}, _, by decide +kernel, rfl, _, rfl⟩,
   ⟨0xFFFFFFFF, { xlat := { inv := { page := 0x7FFFFFFFFF } } }, by decide +kernel, by decide +kernel⟩,
   ⟨{ xlat := { inv := { busy := true } } }, _, by decide +kernel, rfl⟩,
   
     ⟨{
       xlat := { inv := { busy := true, ctx := 7 } },
       reqs := [{
         id := 0, agent := .core 0, kind := .read, ctx := 8, va := 0, target := 1, toHost := false, addr := 0, len := 8, since := 0 }] },
     by decide +kernel, by decide +kernel⟩,
   ⟨3, 7, true, true, 0x3F, { wReady with rot := [(3, { page := 0x17FFF00 })] }, _, _, rfl, by decide +kernel, by decide +kernel,
     by decide +kernel, by decide +kernel, rfl⟩,
   ⟨3, { wReady with rot := [(3, { busy := true })] }, by decide +kernel, by decide +kernel⟩,
   ⟨3, { wReady with rot := [(3, { busy := true, addr := 0x1200000 })], owners := [(0x1200000, { moving := true })] }, _, _, _, rfl,
     by decide +kernel, rfl, by decide +kernel, rfl⟩,
   ⟨3,
     { wReady with
       rot := [(3, { busy := true, addr := 0x1200000 })], owners := [(0x1200000, { moving := true })],
       coh := { txns := [(0x1200000 * 512, some wTxn)] } },
     _, _, rfl, by decide +kernel, rfl, by decide +kernel⟩⟩

theorem witness_RequestsReachTheirHome :
    (∃ (b : CacheBit) (ctx : Ctx) (line : BitVec 45) (s u : State) (a : ALine) (l : Nat), l = line.toNat ∧ a = u.al l b ∧ isHosted s (l *
      128) = false ∧ ((s.al l b).st ≠ .i ∧ u = s ∨ (s.al l b).st = .i ∧ agentPlace s b l = some u) ∧ u.coh.dead.getLsbD b = false ∧
      requestOpen u l b = false ∧ entriesOf u (lineDie l) b < entriesFor b ∧ b ≠ 12 ∧ requestCtx s l b ctx.toNat = true ∧ (a.st = .i ∨
      a.st = .s ∨ a.st = .isd)) ∧
    (∃ (b : CacheBit) (ctx : Ctx) (line : BitVec 45) (s u : State) (a : ALine) (l : Nat), l = line.toNat ∧ a = u.al l b ∧ isHosted s (l *
      128) = false ∧ ((s.al l b).st ≠ .i ∧ u = s ∨ (s.al l b).st = .i ∧ agentPlace s b l = some u) ∧ u.coh.dead.getLsbD b = false ∧
      requestOpen u l b = false ∧ entriesOf u (lineDie l) b < entriesFor b ∧ b ≠ 12 ∧ requestCtx s l b ctx.toNat = true ∧ a.st = .isdi ∧ u
      = s) ∧
    (∃ (b : CacheBit) (ctx : Ctx) (line : BitVec 45) (s u : State) (a : ALine) (l : Nat), l = line.toNat ∧ a = u.al l b ∧ isHosted s (l *
      128) = false ∧ ((s.al l b).st ≠ .i ∧ u = s ∨ (s.al l b).st = .i ∧ agentPlace s b l = some u) ∧ u.coh.dead.getLsbD b = false ∧
      requestOpen u l b = false ∧ entriesOf u (lineDie l) b < entriesFor b ∧ b ≠ 12 ∧ requestCtx s l b ctx.toNat = true ∧ (a.st = .i ∨
      a.st = .s ∨ a.st = .imd)) ∧
    (∃ (b : CacheBit) (ctx : Ctx) (line : BitVec 45) (s : State) (a : ALine) (l : Nat), l = line.toNat ∧ a = s.al l b ∧ isHosted s (l *
      128) = false ∧ s.coh.dead.getLsbD b = false ∧ requestOpen s l b = false ∧ entriesOf s (lineDie l) b < entriesFor b ∧ b ≠ 12 ∧
      requestCtx s l b ctx.toNat = true ∧ (a.st = .s ∨ a.st = .sma)) ∧
    (∃ (b : CacheBit) (ctx : Ctx) (line : BitVec 45) (s : State) (a : ALine) (l : Nat), l = line.toNat ∧ a = s.al l b ∧ isHosted s (l *
      128) = false ∧ s.coh.dead.getLsbD b = false ∧ requestOpen s l b = false ∧ entriesOf s (lineDie l) b < entriesFor b ∧ b ≠ 12 ∧
      requestCtx s l b ctx.toNat = true ∧ a.st = .imd) ∧
    (∃ (b : CacheBit) (line : BitVec 45) (s : State) (a : ALine) (l : Nat), l = line.toNat ∧ a = s.al l b ∧ isHosted s (l * 128) = false ∧
      s.coh.dead.getLsbD b = false ∧ requestOpen s l b = false ∧ entriesOf s (lineDie l) b < entriesFor b ∧ (a.st = .m ∨ b = 13 ∧ a.st =
      .e)) ∧
    (∃ (b : CacheBit) (line : BitVec 45) (s : State) (a : ALine) (l : Nat), l = line.toNat ∧ a = s.al l b ∧ isHosted s (l * 128) = false ∧
      s.coh.dead.getLsbD b = false ∧ requestOpen s l b = false ∧ entriesOf s (lineDie l) b < entriesFor b ∧ a.st = .e) ∧
    (∃ (b : CacheBit) (ctx : Ctx) (line : BitVec 45) (s u : State) (l : Nat), l = line.toNat ∧ isHosted s (l * 128) = true ∧ b.val < 12 ∧
      s.coh.dead.getLsbD b = false ∧ (∀ r ∈ s.reqs, r.agent = .cluster b → r.addr ≠ l * 128) ∧ (s.al l b).incoming = none ∧ (s.al l
      b).ackDue = false ∧ requestCtx s l b ctx.toNat = true ∧ ((s.al l b).st ≠ .i ∧ u = s ∨ (s.al l b).st = .i ∧ agentPlace s b l = some
      u) ∧ ((s.al l b).st = .i ∨ (s.al l b).st = .s ∨ (s.al l b).st = .isd)) ∧
    (∃ (b : CacheBit) (ctx : Ctx) (line : BitVec 45) (s u : State) (l : Nat), l = line.toNat ∧ isHosted s (l * 128) = true ∧ b.val < 12 ∧
      s.coh.dead.getLsbD b = false ∧ (∀ r ∈ s.reqs, r.agent = .cluster b → r.addr ≠ l * 128) ∧ (s.al l b).incoming = none ∧ (s.al l
      b).ackDue = false ∧ requestCtx s l b ctx.toNat = true ∧ ((s.al l b).st ≠ .i ∧ u = s ∨ (s.al l b).st = .i ∧ agentPlace s b l = some
      u) ∧ ((s.al l b).st = .i ∨ (s.al l b).st = .s ∨ (s.al l b).st = .imd)) ∧
    (∃ (b : CacheBit) (ctx : Ctx) (line : BitVec 45) (s u : State) (l : Nat), l = line.toNat ∧ isHosted s (l * 128) = true ∧ b.val < 12 ∧
      s.coh.dead.getLsbD b = false ∧ (∀ r ∈ s.reqs, r.agent = .cluster b → r.addr ≠ l * 128) ∧ (s.al l b).incoming = none ∧ (s.al l
      b).ackDue = false ∧ requestCtx s l b ctx.toNat = true ∧ ((s.al l b).st ≠ .i ∧ u = s ∨ (s.al l b).st = .i ∧ agentPlace s b l = some
      u) ∧ (s.al l b).st = .isdi) ∧
    (∃ (b : CacheBit) (ctx : Ctx) (line : BitVec 45) (s u : State) (l : Nat), l = line.toNat ∧ isHosted s (l * 128) = true ∧ b.val < 12 ∧
      s.coh.dead.getLsbD b = false ∧ (∀ r ∈ s.reqs, r.agent = .cluster b → r.addr ≠ l * 128) ∧ (s.al l b).incoming = none ∧ (s.al l
      b).ackDue = false ∧ requestCtx s l b ctx.toNat = true ∧ ((s.al l b).st ≠ .i ∧ u = s ∨ (s.al l b).st = .i ∧ agentPlace s b l = some
      u) ∧ ((s.al l b).st = .s ∨ (s.al l b).st = .sma)) ∧
    (∃ (b : CacheBit) (ctx : Ctx) (line : BitVec 45) (s u : State) (l : Nat), l = line.toNat ∧ isHosted s (l * 128) = true ∧ b.val < 12 ∧
      s.coh.dead.getLsbD b = false ∧ (∀ r ∈ s.reqs, r.agent = .cluster b → r.addr ≠ l * 128) ∧ (s.al l b).incoming = none ∧ (s.al l
      b).ackDue = false ∧ requestCtx s l b ctx.toNat = true ∧ ((s.al l b).st ≠ .i ∧ u = s ∨ (s.al l b).st = .i ∧ agentPlace s b l = some
      u) ∧ (s.al l b).st = .imd) ∧
    (∃ (b : CacheBit) (ctx : Ctx) (line : BitVec 45) (s u : State) (l : Nat), l = line.toNat ∧ isHosted s (l * 128) = true ∧ b.val < 12 ∧
      s.coh.dead.getLsbD b = false ∧ (∀ r ∈ s.reqs, r.agent = .cluster b → r.addr ≠ l * 128) ∧ (s.al l b).incoming = none ∧ (s.al l
      b).ackDue = false ∧ requestCtx s l b ctx.toNat = true ∧ ((s.al l b).st ≠ .i ∧ u = s ∨ (s.al l b).st = .i ∧ agentPlace s b l = some
      u) ∧ ∃ w, (s.al l b).st = .m ∧ w = setHosted (s.setAl l b { s.al l b with st := .xia }) l b 0) ∧
    (∃ (b : CacheBit) (ctx : Ctx) (line : BitVec 45) (s u : State) (l : Nat), l = line.toNat ∧ isHosted s (l * 128) = true ∧ b.val < 12 ∧
      s.coh.dead.getLsbD b = false ∧ (∀ r ∈ s.reqs, r.agent = .cluster b → r.addr ≠ l * 128) ∧ (s.al l b).incoming = none ∧ (s.al l
      b).ackDue = false ∧ requestCtx s l b ctx.toNat = true ∧ ((s.al l b).st ≠ .i ∧ u = s ∨ (s.al l b).st = .i ∧ agentPlace s b l = some
      u) ∧ ∃ w, (s.al l b).st = .e ∧ w = setHosted (s.setAl l b { s.al l b with st := .xia }) l b 0) ∧
    (∃ (ctx : Ctx) (line : BitVec 45) (s u : State) (l : Nat) (w : WaitReq), l = line.toNat ∧ isHosted s (l * 128) = false ∧ retryBusy s l
      (.caching 12) = false ∧ (s.al l 12).incoming = none ∧ agentPlace s 12 l = some u ∧ w =
      { line := l, req := .rdS, who := .caching 12, ctx := ctx.toNat, payload := {}, tick := u.tick.toNat }) ∧
    (∃ (who : RetryAgent) (ctx : Ctx) (line : BitVec 45) (s : State) (l : Nat) (c : Instr) (w : WaitReq), l = line.toNat ∧ retryBusy s l
      (.retry (retryAgent who)) = false ∧ w.line = l ∧ w.who = .retry (retryAgent who) ∧ w.ctx = ctx.toNat ∧ w.tick = s.tick.toNat ∧
      w.told = false ∧ (c = .readonce who ctx line .clean ∧ w.req = .readOnce ∧ w.payload = {} ∨ (∃ data, c = .writefull who ctx line data
      ∧ w.req = .writeFull ∧ w.payload = { data := data }) ∨ (∃ mask data, c = .writepart who ctx line mask data ∧ w.req = .writePart ∧
      w.payload = { mask := mask, data := data }) ∨ (∃ (off : BitVec 7) (op : AOp) (wide : Bool) (v x : W64), off.toNat % (if wide then 8
      else 4) = 0 ∧ c = .cohAtomic who ctx line off op wide v x ∧ w.req = .atomic ∧ w.payload =
      { op := op, offset := off.toNat, size := if wide then 8 else 4, opnd := v, cmp := x }))) ∧
    (∃ (who : Retrier) (line : BitVec 45) (s : State) (w : WaitReq), reserved s line.toNat who = some w ∧ ∃ u, w.told = false ∧ fabTake s
      .completion w.who.die line.toNat w.who.num = some u) ∧
    (∃ (who : Retrier) (line : BitVec 45) (s : State) (w : WaitReq), reserved s line.toNat who = some w ∧ w ∈ readyReservations s (lineDie
      line.toNat) ∧ (∀ x ∈ readyReservations s (lineDie line.toNat), older x w = false) ∧ trackerFull s line.toNat = false ∧ onWay s
      .completion w.who.die line.toNat w.who.num = none) :=
  ⟨⟨11, 7, 5, (wAl 11 { st := .s, ctx := some 7 }), (wAl 11 { st := .s, ctx := some 7 }), _, _, rfl, rfl, by decide +kernel, Or.inl
     ⟨by decide +kernel, rfl⟩, by decide +kernel, by decide +kernel, by decide +kernel, by decide +kernel, by decide +kernel,
     by decide +kernel⟩,
   ⟨11, 7, 5, (wAl 11 { st := .isdi, ctx := some 7 }), (wAl 11 { st := .isdi, ctx := some 7 }), _, _, rfl, rfl, by decide +kernel, Or.inl
     ⟨by decide +kernel, rfl⟩, by decide +kernel, by decide +kernel, by decide +kernel, by decide +kernel, by decide +kernel,
     by decide +kernel, rfl⟩,
   ⟨13, 7, 5, (wAl 13 { st := .s, ctx := some 7 }), (wAl 13 { st := .s, ctx := some 7 }), _, _, rfl, rfl, by decide +kernel, Or.inl
     ⟨by decide +kernel, rfl⟩, by decide +kernel, by decide +kernel, by decide +kernel, by decide +kernel, by decide +kernel,
     by decide +kernel⟩,
   ⟨11, 7, 5, (wAl 11 { st := .sma, ctx := some 7 }), _, _, rfl, rfl, by decide +kernel, by decide +kernel, by decide +kernel,
     by decide +kernel, by decide +kernel, by decide +kernel, by decide +kernel⟩,
   ⟨11, 7, 5, (wAl 11 { st := .imd, ctx := some 7 }), _, _, rfl, rfl, by decide +kernel, by decide +kernel, by decide +kernel,
     by decide +kernel, by decide +kernel, by decide +kernel, by decide +kernel⟩,
   ⟨11, 5, (wAl 11 { st := .m, ctx := some 7 }), _, _, rfl, rfl, by decide +kernel, by decide +kernel, by decide +kernel,
     by decide +kernel, by decide +kernel⟩,
   ⟨11, 5, (wAl 11 { st := .e }), _, _, rfl, rfl, by decide +kernel, by decide +kernel, by decide +kernel, by decide +kernel,
     by decide +kernel⟩,
   ⟨11, 7, 0x4000000000, (wHosted 11 { st := .s, ctx := some 7 }), (wHosted 11 { st := .s, ctx := some 7 }), _, rfl, by decide +kernel,
     by decide +kernel, by decide +kernel, by decide +kernel, by decide +kernel, by decide +kernel, by decide +kernel, Or.inl
     ⟨by decide +kernel, rfl⟩, by decide +kernel⟩,
   ⟨11, 7, 0x4000000000, (wHosted 11 { st := .s, ctx := some 7 }), (wHosted 11 { st := .s, ctx := some 7 }), _, rfl, by decide +kernel,
     by decide +kernel, by decide +kernel, by decide +kernel, by decide +kernel, by decide +kernel, by decide +kernel, Or.inl
     ⟨by decide +kernel, rfl⟩, by decide +kernel⟩,
   ⟨11, 7, 0x4000000000, (wHosted 11 { st := .isdi, ctx := some 7 }), (wHosted 11 { st := .isdi, ctx := some 7 }), _, rfl,
     by decide +kernel, by decide +kernel, by decide +kernel, by decide +kernel, by decide +kernel, by decide +kernel, by decide +kernel,
     Or.inl ⟨by decide +kernel, rfl⟩, by decide +kernel⟩,
   ⟨11, 7, 0x4000000000, (wHosted 11 { st := .sma, ctx := some 7 }), (wHosted 11 { st := .sma, ctx := some 7 }), _, rfl,
     by decide +kernel, by decide +kernel, by decide +kernel, by decide +kernel, by decide +kernel, by decide +kernel, by decide +kernel,
     Or.inl ⟨by decide +kernel, rfl⟩, by decide +kernel⟩,
   ⟨11, 7, 0x4000000000, (wHosted 11 { st := .imd, ctx := some 7 }), (wHosted 11 { st := .imd, ctx := some 7 }), _, rfl,
     by decide +kernel, by decide +kernel, by decide +kernel, by decide +kernel, by decide +kernel, by decide +kernel, by decide +kernel,
     Or.inl ⟨by decide +kernel, rfl⟩, by decide +kernel⟩,
   ⟨11, 7, 0x4000000000, (wHosted 11 { st := .m, ctx := some 7 }), (wHosted 11 { st := .m, ctx := some 7 }), _, rfl, by decide +kernel,
     by decide +kernel, by decide +kernel, by decide +kernel, by decide +kernel, by decide +kernel, by decide +kernel, Or.inl
     ⟨by decide +kernel, rfl⟩, _, by decide +kernel, rfl⟩,
   ⟨11, 7, 0x4000000000, (wHosted 11 { st := .e, ctx := some 7 }), (wHosted 11 { st := .e, ctx := some 7 }), _, rfl, by decide +kernel,
     by decide +kernel, by decide +kernel, by decide +kernel, by decide +kernel, by decide +kernel, by decide +kernel, Or.inl
     ⟨by decide +kernel, rfl⟩, _, by decide +kernel, rfl⟩,
   ⟨7, 5, wReady, _, _, _, rfl, by decide +kernel, by decide +kernel, by decide +kernel, someOf (by decide +kernel), rfl⟩,
   ⟨(.host 0), 7, 5, wReady, _, (.readonce (.host 0) 7 5 .clean), wWait, rfl, by decide +kernel, rfl, by decide +kernel,
     by decide +kernel, by decide +kernel, by decide +kernel, Or.inl ⟨rfl, by decide +kernel, rfl⟩⟩,
   ⟨(.agent (.host 0)), 5, (wCoh { waits := [wWait] }), wWait, by decide +kernel, _, by decide +kernel, someOf (by decide +kernel)⟩,
   ⟨(.agent (.host 0)), 5, (wCoh { waits := [{ wWait with who := .retry (.hostLink 1) }, wWait] }), wWait, by decide +kernel,
     by decide +kernel, by decide +kernel, by decide +kernel, by decide +kernel⟩⟩

theorem witness_SnoopsGrantsAndCompletionsAreTakenUp :
    (∃ (b : CacheBit) (line : BitVec 45) (s : State) (l : Nat), l = line.toNat ∧ ∃ (sn : Snoop) (c : Instr), (c = Instr.snps b line ∧ sn =
      .snpS ∨ c = .snpx b line ∧ sn = .snpX ∨ c = .snpxi b line ∧ sn = .snpXI ∨ c = .snpinv b line ∧ sn = .snpInv) ∧ ∃ (u v w : State),
      isHosted s (l * 128) = false ∧ snoopDue s l b sn = true ∧ fabTake s .snoop 4 l b = some u ∧ (if b = 13 then snoopHost (snoopArrived
      s l b) l sn else snoopAt (snoopArrived s l b) l b sn) = some v ∧ (if b = 13 then snoopHost (snoopArrived u l b) l sn else snoopAt
      (snoopArrived u l b) l b sn) = some w) ∧
    (∃ (b : CacheBit) (line : BitVec 45) (s : State) (l : Nat), l = line.toNat ∧ ∃ (sn : Snoop) (c : Instr), (c = Instr.snps b line ∧ sn =
      .snpS ∨ c = .snpx b line ∧ sn = .snpX ∨ c = .snpxi b line ∧ sn = .snpXI ∨ c = .snpinv b line ∧ sn = .snpInv) ∧ ∃ (w : State),
      isHosted s (l * 128) = true ∧ b.val < 12 ∧ hostedSnoop s l b sn = some w) ∧
    (∃ (b : CacheBit) (line : BitVec 45) (s : State) (l : Nat), l = line.toNat ∧ ∃ (t : Txn) (rsp : SnpRsp) (u : State), s.txn l = some t
      ∧ (b.val, rsp) ∈ t.rsps ∧ fabTake s .response (lineDie l) l b = some u) ∧
    (∃ (b : CacheBit) (line : BitVec 45) (s u : State) (a : ALine) (l : Nat), l = line.toNat ∧ a = s.al l b ∧ isHosted s (l * 128) = false
      ∧ fabTake s .response 4 l b = some u ∧ ∃ (g : Grant) (d : LineData), a.incoming = some (g, d) ∧ b ≠ 12 ∧ a.st = .isd) ∧
    (∃ (b : CacheBit) (line : BitVec 45) (s u : State) (a : ALine) (l : Nat), l = line.toNat ∧ a = s.al l b ∧ isHosted s (l * 128) = false
      ∧ fabTake s .response 4 l b = some u ∧ ∃ (g : Grant) (d : LineData), a.incoming = some (g, d) ∧ b ≠ 12 ∧ a.st = .isdi) ∧
    (∃ (b : CacheBit) (line : BitVec 45) (s u : State) (a : ALine) (l : Nat), l = line.toNat ∧ a = s.al l b ∧ isHosted s (l * 128) = false
      ∧ fabTake s .response 4 l b = some u ∧ ∃ (d : LineData), a.incoming = some (.m, d) ∧ b ≠ 12 ∧ a.st = .imd) ∧
    (∃ (b : CacheBit) (line : BitVec 45) (s u : State) (a : ALine) (l : Nat), l = line.toNat ∧ a = s.al l b ∧ isHosted s (l * 128) = false
      ∧ fabTake s .response 4 l b = some u ∧ ∃ (g : Grant) (d : LineData), a.incoming = some (g, d) ∧ b = 12) ∧
    (∃ (b : CacheBit) (line : BitVec 45) (s u : State) (a : ALine) (l : Nat), l = line.toNat ∧ a = s.al l b ∧ fabTake s .response 4 l b =
      some u ∧ a.st = .sma ∧ a.ackDue = true) ∧
    (∃ (b : CacheBit) (line : BitVec 45) (s u : State) (a : ALine) (l : Nat), l = line.toNat ∧ a = s.al l b ∧ fabTake s .completion 4 l b
      = some u ∧ (a.st = .xia ∨ a.st = .iia) ∧ requestOpen s l b = false) ∧
    (∃ (who : Retrier) (line : BitVec 45) (s : State) (l : Nat) (t : Txn), l = line.toNat ∧ s.txn l = some t ∧ (retrierAs who).contains
      t.who = true ∧ t.ready = true) ∧
    (∃ (who : Retrier) (line : BitVec 45) (s : State) (l : Nat) (t : Txn), l = line.toNat ∧ s.txn l = some t ∧ (retrierAs who).contains
      t.who = true ∧ ∃ (a : Agent), t.ready = false ∧ t.awaitDone = true ∧ t.who = .unit a) ∧
    (∃ (who : Retrier) (line : BitVec 45) (s : State) (l : Nat) (t : Txn), l = line.toNat ∧ s.txn l = some t ∧ (retrierAs who).contains
      t.who = true ∧ ∃ (a : RetryAgent) (x : HomeAns), t.ready = false ∧ t.awaitDone = true ∧ who = .agent a ∧ t.who = .retry (retryAgent
      a) ∧ s.coh.answers.find? (fun x => decide (x.agent = retryAgent a) && decide (x.line = l)) = some x) ∧
    (∃ (who : Retrier) (line : BitVec 45) (s : State) (l : Nat) (t : Txn), l = line.toNat ∧ s.txn l = some t ∧ (retrierAs who).contains
      t.who = true ∧ t.ready = false ∧ t.awaitDone = true ∧ who = .lastLevel ∧ (s.al l 12).incoming = none) :=
  ⟨⟨11, 5, (wCoh
     { agents := [(91, { st := .e })], txns := [(5, some { wTxn with asked := some .snpS, unsent := 0x800, owed := 0x800 })] }), _, rfl,
     .snpS, _, Or.inl ⟨rfl, rfl⟩, _, _, _, by decide +kernel, by decide +kernel, someOf (by decide +kernel), someOf (by decide +kernel),
     someOf (by decide +kernel)⟩,
   ⟨11, 0x4000000000, (wHosted 11 { st := .e }), _, rfl, .snpS, _, Or.inl ⟨rfl, rfl⟩, _, by decide +kernel, by decide +kernel, someOf
     (by decide +kernel)⟩,
   ⟨3, 5, (wCoh { txns := [(5, some { wTxn with rsps := [(3, .invAck)] })] }), _, rfl, { wTxn with rsps := [(3, .invAck)] }, .invAck, _,
     by decide +kernel, by decide +kernel, someOf (by decide +kernel)⟩,
   ⟨13, 5, (wAl 13 { st := .isd, incoming := some (.e, 0) }), _, _, _, rfl, rfl, by decide +kernel, someOf (by decide +kernel), .e, 0,
     by decide +kernel, by decide +kernel, by decide +kernel⟩,
   ⟨11, 5, (wAl 11 { st := .isdi, incoming := some (.e, 0) }), _, _, _, rfl, rfl, by decide +kernel, someOf (by decide +kernel), .e, 0,
     by decide +kernel, by decide +kernel, by decide +kernel⟩,
   ⟨13, 5, (wAl 13 { st := .imd, incoming := some (.m, 0) }), _, _, _, rfl, rfl, by decide +kernel, someOf (by decide +kernel), 0,
     by decide +kernel, by decide +kernel, by decide +kernel⟩,
   ⟨12, 5, (wAl 12 { st := .isd, incoming := some (.s, 0) }), _, _, _, rfl, rfl, by decide +kernel, someOf (by decide +kernel), .s, 0,
     by decide +kernel, by decide +kernel⟩,
   ⟨11, 5, (wAl 11 { st := .sma, ackDue := true }), _, _, _, rfl, rfl, someOf (by decide +kernel), by decide +kernel, by decide +kernel⟩,
   ⟨12, 5, (wAl 12 { st := .iia }), _, _, _, rfl, rfl, someOf (by decide +kernel), by decide +kernel, by decide +kernel⟩,
   ⟨(.agent (.host 0)), 5, (wCoh { txns := [(5, some { wTxn with who := .retry (.hostLink 0), ready := true })] }), _, _, rfl, someOf
     (by decide +kernel), by decide +kernel, by decide +kernel⟩,
   ⟨(.agent (.host 0)), 5, (wCoh { txns := [(5, some { wTxn with who := .unit (.hostLink 0), awaitDone := true })] }), _, _, rfl, someOf
     (by decide +kernel), by decide +kernel, (.hostLink 0), by decide +kernel, by decide +kernel, by decide +kernel⟩,
   ⟨(.agent (.host 0)), 5, (wCoh
     {
       txns := [(5, some { wTxn with who := .retry (.hostLink 0), awaitDone := true })],
       answers := [{ agent := .hostLink 0, line := 5, status := 0 }] }),
     _, _, rfl, someOf (by decide +kernel), by decide +kernel, (.host 0), _, by decide +kernel, by decide +kernel, by decide +kernel,
     by decide +kernel, someOf (by decide +kernel)⟩,
   ⟨.lastLevel, 5, (wCoh { txns := [(5, some { wTxn with who := .caching 12, awaitDone := true })] }), _, _, rfl, someOf
     (by decide +kernel), by decide +kernel, by decide +kernel, by decide +kernel, by decide +kernel, by decide +kernel⟩⟩

theorem witness_EvictionsAndDeadAgentsAreDealtWith :
    (∃ (d : DieNo) (s u : State) (l : Nat) (o : Owner), s.coh.evict.find? (fun l => decide (lineDie l = d.val)) = some l ∧ o = Tab.get {}
      s.owners (regionOf (l * 128)) ∧ u = storeLine (countMem s (l * 128) o.owner.toNat 128) l) ∧
    (∃ (b : CacheBit) (line : BitVec 45) (s : State) (t : Txn), b.val < 12 ∧ s.txn line.toNat = some t ∧ t.owed.getLsbD b.val = true ∧
      225000 ≤ s.elapsed - t.since) ∧
    (∃ (b : CacheBit) (s u v : State) (rec : BitVec 512), s.coh.walking.getLsbD b.val = true ∧ u =
      { s with
        coh := { s.coh with
          walking := s.coh.walking &&& ~~~(bitMask b.val),
          dead := if b.val = 13 ∧ (s.host 0).cxlup = true then s.coh.dead &&& ~~~(bitMask 13) else s.coh.dead } }
      ∧ takeFree 512 (u.logTag .hth 0 289 b.val) = (rec, v)) :=
  ⟨⟨0, (wCoh { evict := [5] }), _, 5, _, by decide +kernel, rfl, rfl⟩,
   ⟨11, 5, { wCoh { txns := [(5, some { wTxn with owed := 0x800 })] } with elapsed := 225000 }, { wTxn with owed := 0x800 },
     by decide +kernel, by decide +kernel, by decide +kernel, by decide +kernel⟩,
   ⟨12, (wCoh { walking := 0x1000 }), _, _, _, by decide +kernel, rfl, rfl⟩⟩

theorem witness_MaintenanceStartsAndEnds :
    (∃ (d : DieNo) (s : State) (c : Instr) (op : BitVec 3) (m : Maint), (c = .clean d ∧ op = 1 ∨ c = .flush d ∧ op = 2 ∨ c = .ashclr d ∧
      op = 3) ∧ m = { s.maint d with runBase := (s.maint d).base, runLen := (s.maint d).len } ∧ readyHth s d = true ∧ (s.maint d).busy =
      false ∧ rangeOfDie d (m.runBase.toNat * 128) ((m.runLen.toNat + 1) * 128) = true) ∧
    (∃ (d : DieNo) (s : State) (c : Instr) (op : BitVec 3) (m : Maint), (c = .clean d ∧ op = 1 ∨ c = .flush d ∧ op = 2 ∨ c = .ashclr d ∧
      op = 3) ∧ m = { s.maint d with runBase := (s.maint d).base, runLen := (s.maint d).len } ∧ readyHth s d = true ∧ ((s.maint d).busy =
      true ∨ rangeOfDie d (m.runBase.toNat * 128) ((m.runLen.toNat + 1) * 128) = false)) ∧
    (∃ (d : DieNo) (s : State) (c : Instr) (op : BitVec 3) (m : Maint), (c = .clean d ∧ op = 1 ∨ c = .flush d ∧ op = 2 ∨ c = .ashclr d ∧
      op = 3) ∧ m = { s.maint d with runBase := (s.maint d).base, runLen := (s.maint d).len } ∧ readyHth s d = false) ∧
    (∃ (d : DieNo) (ways : BitVec 4) (fill : Bool) (s : State) (m : Maint) (now n : Nat) (good : Bool), now = (s.maint d).locked.toNat ∧ n
      = ways.toNat ∧ m =
      { s.maint d with runBase := (s.maint d).base, runLen := (s.maint d).len, op := 4, busy := true, ways := ways, fill := fill } ∧ good
      = (!(s.maint d).busy && decide (n ≤ 8) && !(s.pool d).mode && (fill || decide (n ≤ now) || rangeOfDie d (m.runBase.toNat * 128) ((n
      - now) * nearWayBytes))) ∧ readyHth s d = true ∧ good = true ∧ n < now) ∧
    (∃ (d : DieNo) (ways : BitVec 4) (fill : Bool) (s : State) (m : Maint) (now n : Nat) (good : Bool), now = (s.maint d).locked.toNat ∧ n
      = ways.toNat ∧ m =
      { s.maint d with runBase := (s.maint d).base, runLen := (s.maint d).len, op := 4, busy := true, ways := ways, fill := fill } ∧ good
      = (!(s.maint d).busy && decide (n ≤ 8) && !(s.pool d).mode && (fill || decide (n ≤ now) || rangeOfDie d (m.runBase.toNat * 128) ((n
      - now) * nearWayBytes))) ∧ readyHth s d = true ∧ good = true ∧ now ≤ n) ∧
    (∃ (d : DieNo) (ways : BitVec 4) (fill : Bool) (s : State) (m : Maint) (now n : Nat) (good : Bool), now = (s.maint d).locked.toNat ∧ n
      = ways.toNat ∧ m =
      { s.maint d with runBase := (s.maint d).base, runLen := (s.maint d).len, op := 4, busy := true, ways := ways, fill := fill } ∧ good
      = (!(s.maint d).busy && decide (n ≤ 8) && !(s.pool d).mode && (fill || decide (n ≤ now) || rangeOfDie d (m.runBase.toNat * 128) ((n
      - now) * nearWayBytes))) ∧ readyHth s d = true ∧ good = false) ∧
    (∃ (d : DieNo) (ways : BitVec 4) (fill : Bool) (s : State) (m : Maint) (now n : Nat) (good : Bool), now = (s.maint d).locked.toNat ∧ n
      = ways.toNat ∧ m =
      { s.maint d with runBase := (s.maint d).base, runLen := (s.maint d).len, op := 4, busy := true, ways := ways, fill := fill } ∧ good
      = (!(s.maint d).busy && decide (n ≤ 8) && !(s.pool d).mode && (fill || decide (n ≤ now) || rangeOfDie d (m.runBase.toNat * 128) ((n
      - now) * nearWayBytes))) ∧ readyHth s d = false) ∧
    (∃ (d : DieNo) (s u : State) (keep : Nat × AshEnt → Bool), (s.maint d).busy = true ∧ (s.maint d).op = 3 ∧ keep = (fun e => !(decide
      (e.1 / 4096 = d.val) && inRange ((s.maint d).runBase.toNat * 128) (((s.maint d).runLen.toNat + 1) * 128) e.2.addr.toNat)) ∧ u =
      (s.coh.ash.filter (fun e => !(keep e))).foldl (fun s _ => ashBump s d) s) ∧
    (∃ (d : DieNo) (s u : State) (inv : Bool), (s.maint d).busy = true ∧ (s.maint d).op = (if inv then 2 else 1) ∧ u = (s.maint
      d).todo.foldl (fun s l => cleanLine s inv l) s ∧ (∀ l ∈ (u.maint d).todo, cleanDue u inv l = false)) ∧
    (∃ (d : DieNo) (s : State), (s.maint d).busy = true ∧ (s.maint d).op = 4 ∧ (s.maint d).ways.toNat ≤ (s.maint d).locked.toNat ∧ crowded
      s d = []) :=
  ⟨⟨3, (wMaint { base := 0x240000000, len := 0xBFFFFFFF }), (.ashclr 3), 3, _, by decide +kernel, rfl, by decide +kernel,
     by decide +kernel, by decide +kernel⟩,
   ⟨3, (wMaint { base := 0x240000000, len := 0xC0000000 }), (.clean 3), 1, _, by decide +kernel, rfl, by decide +kernel,
     by decide +kernel⟩,
   ⟨3, { coh := { maint := [(3, { base := 5 })] } }, (.ashclr 3), 3, _, by decide +kernel, rfl, by decide +kernel⟩,
   ⟨3, 3, true, (wMaint { locked := 8 }), _, _, _, _, rfl, rfl, rfl, rfl, by decide +kernel, rfl, by decide +kernel⟩,
   ⟨3, 8, true, (wMaint { locked := 3 }), _, _, _, _, rfl, rfl, rfl, rfl, by decide +kernel, rfl, by decide +kernel⟩,
   ⟨3, 9, true, (wMaint { locked := 8 }), _, _, _, _, rfl, rfl, rfl, rfl, by decide +kernel, rfl⟩,
   ⟨3, 8, true, { coh := { maint := [(3, { locked := 8 })] } }, _, _, _, _, rfl, rfl, rfl, rfl, by decide +kernel⟩,
   ⟨3, (wCoh
     { maint := [(3, { busy := true, op := 3, runBase := 0x240000000 })], ash := [(0x3000, { v := true, addr := 0x240000000 })] }), _, _,
     by decide +kernel, by decide +kernel, rfl, rfl⟩,
   ⟨0, (wCoh { maint := [(0, { busy := true, op := 2, runBase := 5 })], dir := [(5, { dst := 2, vec := 1 })], txns := [(5, some wTxn)] }),
     _, true, by decide +kernel, by decide +kernel, rfl, by decide +kernel⟩,
   ⟨3, (wMaint { busy := true, op := 4, ways := 8, locked := 8 }), by decide +kernel, by decide +kernel, by decide +kernel,
     by decide +kernel⟩⟩

theorem witness_AshListAndPoolModeCommandsComplete :
    (∃ (d : DieNo) (s : State), readyHth s d = true ∧ ∃ (value : W64), lineDie (field value.toNat 7 45) = d.val) ∧
    (∃ (d : DieNo) (s : State), readyHth s d = true ∧ ∃ (value : W64), lineDie (field value.toNat 7 45) ≠ d.val) ∧
    (∃ (d : DieNo) (pways : BitVec 4) (rv : BitVec 8) (s : State), readyHth s d = true ∧ (s.pool d).mode = false ∧ (s.pool d).busy = false
      ∧ poolRefused s d pways.toNat rv = false) ∧
    (∃ (d : DieNo) (pways : BitVec 4) (rv : BitVec 8) (s : State), readyHth s d = true ∧ (s.pool d).mode = false ∧ (s.pool d).busy = false
      ∧ poolRefused s d pways.toNat rv = true) ∧
    (∃ (d : DieNo) (s : State), readyHth s d = true ∧ (s.pool d).mode = true ∧ (s.pool d).busy = false) ∧
    (∃ (d : DieNo) (s : State), (s.pool d).busy = true ∧ (∀ e ∈ (s.pool d).lines, (s.dirE e.1).dirty = false ∧ e.1 ∉ s.coh.evict)) ∧
    (∃ (d : DieNo) (s u : State), (s.pool d).busy = true ∧ u = ((s.pool d).lines.map (·.1)).foldl (fun s l => if evictFull s d then s else
      evictLine s l) s ∧ (∃ e ∈ (s.pool d).lines, (u.dirE e.1).dirty = true ∨ e.1 ∈ u.coh.evict)) ∧
    (∃ (s : State), s.coh.swept < s.elapsed / 65536 * 65536) :=
  ⟨⟨3, wReady, by decide +kernel, 0x12000000000, by decide +kernel⟩,
   ⟨3, wReady, by decide +kernel, 0x11FFFFFFF80, by decide +kernel⟩,
   ⟨3, 8, 1, (wPool { ranges := [(0, 0x12000000000)] }), by decide +kernel, by decide +kernel, by decide +kernel, by decide +kernel⟩,
   ⟨3, 9, 1, wReady, by decide +kernel, by decide +kernel, by decide +kernel, by decide +kernel⟩,
   ⟨3, (wPool { mode := true }), by decide +kernel, by decide +kernel, by decide +kernel⟩,
   ⟨3, (wPool { busy := true, lines := [(0x240000000, 1)] }), by decide +kernel, by decide +kernel⟩,
   ⟨3, (wCoh { pool := [(3, { busy := true, lines := [(0x240000000, 1)] })], dir := [(0x240000000, { dirty := true })] }), _,
     by decide +kernel, rfl, by decide +kernel⟩,
   ⟨{ elapsed := 65536 }, by decide +kernel⟩⟩

theorem witness_RingCommandsAndDoorbellsComplete :
    (∃ (n : RingNo) (s : State) (r : Ring) (q : RingQ), r = s.ring n.toNat ∧ q = s.rq n.toNat ∧ r.st = .off ∧ enableBad s r = false) ∧
    (∃ (n : RingNo) (s : State) (r : Ring) (q : RingQ), r = s.ring n.toNat ∧ q = s.rq n.toNat ∧ (r.st ≠ .off ∨ enableBad s r = true)) ∧
    (∃ (n : RingNo) (s : State) (r : Ring) (q : RingQ), r = s.ring n.toNat ∧ q = s.rq n.toNat ∧ r.st = .active) ∧
    (∃ (n : RingNo) (s : State) (r : Ring) (q : RingQ), r = s.ring n.toNat ∧ q = s.rq n.toNat ∧ r.st = .paused) ∧
    (∃ (n : RingNo) (s : State) (r : Ring) (q : RingQ), r = s.ring n.toNat ∧ q = s.rq n.toNat ∧ r.st ≠ .active) ∧
    (∃ (n : RingNo) (s : State) (r : Ring) (q : RingQ), r = s.ring n.toNat ∧ q = s.rq n.toNat ∧ r.st ≠ .paused) ∧
    (∃ (n : RingNo) (s : State) (r : Ring) (q : RingQ), r = s.ring n.toNat ∧ q = s.rq n.toNat ∧ ∃ u, u = ((noteCmd s n.toNat 4).setRing
      n.toNat { r with st := .off }).setRq n.toNat
      { q with
        fetched := [], waitMet := false, stale := false, refetches := 0, returns := 0, stalled := false, faulting := false,
        launchRec := none, launchReq := none }
      ∧ r.st ≠ .off) ∧
    (∃ (who : BellAgent) (n : RingNo) (v : W64) (s u : State) (r : Ring) (t : W32), r = s.ring n.toNat ∧ t = BitVec.ofNat 32 v.toNat ∧ (2
      ^ 32 ≤ v.toNat ∧ u = s.logTag .chm (bellSource who) 339 n.toNat ∨ v.toNat < 2 ^ 32 ∧ isSubmitter s r who = false ∧ u = s.logTag .chm
      (bellSource who) 341 n.toNat ∨ v.toNat < 2 ^ 32 ∧ isSubmitter s r who = true ∧ r.st = .off ∧ u = s ∨ v.toNat < 2 ^ 32 ∧ isSubmitter
      s r who = true ∧ r.st = .error ∧ u = s.logTag .chm (bellSource who) 341 n.toNat ∨ v.toNat < 2 ^ 32 ∧ isSubmitter s r who = true ∧
      r.st ≠ .off ∧ r.st ≠ .error ∧ (r.kind = false ∧ 2 ^ 31 ≤ (t - r.tail).toNat ∧ u = s ∨ r.kind = false ∧ (t - r.tail).toNat < 2 ^ 31 ∧
      (t - r.head).toNat ≤ ringSize r ∧ u = s.setRing n.toNat { r with tail := t } ∨ r.kind = false ∧ (t - r.tail).toNat < 2 ^ 31 ∧
      ringSize r < (t - r.head).toNat ∧ u = ringEvent (s.setRing n.toNat { r with st := .error }) n.toNat 2 r.tail.toNat ∨ r.kind = true ∧
      (t - r.head).toNat ≤ (r.tail - r.head).toNat ∧ u = flushRing ((s.setRing n.toNat { r with head := t }).setRq n.toNat
      { s.rq n.toNat with written := (s.rq n.toNat).written.drop (t - r.head).toNat }) n.toNat ∨ r.kind = true ∧ (r.tail - r.head).toNat <
      (t - r.head).toNat ∧ u = s.logTag .chm 0 340 n.toNat)) ∧ ∃ c, (c = Instr.doorbell who n v ∨ c = .recordDoorbell who n v) ∧ ∃ (h :
      HartNo), who = .core h ∧ hartReady s h = true ∧ (s.ht h).sb = [] ∧ (u.ht h).lost = []) ∧
    (∃ (who : BellAgent) (n : RingNo) (v : W64) (s u : State) (r : Ring) (t : W32), r = s.ring n.toNat ∧ t = BitVec.ofNat 32 v.toNat ∧ (2
      ^ 32 ≤ v.toNat ∧ u = s.logTag .chm (bellSource who) 339 n.toNat ∨ v.toNat < 2 ^ 32 ∧ isSubmitter s r who = false ∧ u = s.logTag .chm
      (bellSource who) 341 n.toNat ∨ v.toNat < 2 ^ 32 ∧ isSubmitter s r who = true ∧ r.st = .off ∧ u = s ∨ v.toNat < 2 ^ 32 ∧ isSubmitter
      s r who = true ∧ r.st = .error ∧ u = s.logTag .chm (bellSource who) 341 n.toNat ∨ v.toNat < 2 ^ 32 ∧ isSubmitter s r who = true ∧
      r.st ≠ .off ∧ r.st ≠ .error ∧ (r.kind = false ∧ 2 ^ 31 ≤ (t - r.tail).toNat ∧ u = s ∨ r.kind = false ∧ (t - r.tail).toNat < 2 ^ 31 ∧
      (t - r.head).toNat ≤ ringSize r ∧ u = s.setRing n.toNat { r with tail := t } ∨ r.kind = false ∧ (t - r.tail).toNat < 2 ^ 31 ∧
      ringSize r < (t - r.head).toNat ∧ u = ringEvent (s.setRing n.toNat { r with st := .error }) n.toNat 2 r.tail.toNat ∨ r.kind = true ∧
      (t - r.head).toNat ≤ (r.tail - r.head).toNat ∧ u = flushRing ((s.setRing n.toNat { r with head := t }).setRq n.toNat
      { s.rq n.toNat with written := (s.rq n.toNat).written.drop (t - r.head).toNat }) n.toNat ∨ r.kind = true ∧ (r.tail - r.head).toNat <
      (t - r.head).toNat ∧ u = s.logTag .chm 0 340 n.toNat)) ∧ ∃ c, (c = Instr.doorbell who n v ∨ c = .recordDoorbell who n v) ∧ ∃ (h :
      HartNo), who = .core h ∧ hartReady s h = true ∧ (s.ht h).sb ≠ []) ∧
    (∃ (who : BellAgent) (n : RingNo) (v : W64) (s u : State) (r : Ring) (t : W32), r = s.ring n.toNat ∧ t = BitVec.ofNat 32 v.toNat ∧ (2
      ^ 32 ≤ v.toNat ∧ u = s.logTag .chm (bellSource who) 339 n.toNat ∨ v.toNat < 2 ^ 32 ∧ isSubmitter s r who = false ∧ u = s.logTag .chm
      (bellSource who) 341 n.toNat ∨ v.toNat < 2 ^ 32 ∧ isSubmitter s r who = true ∧ r.st = .off ∧ u = s ∨ v.toNat < 2 ^ 32 ∧ isSubmitter
      s r who = true ∧ r.st = .error ∧ u = s.logTag .chm (bellSource who) 341 n.toNat ∨ v.toNat < 2 ^ 32 ∧ isSubmitter s r who = true ∧
      r.st ≠ .off ∧ r.st ≠ .error ∧ (r.kind = false ∧ 2 ^ 31 ≤ (t - r.tail).toNat ∧ u = s ∨ r.kind = false ∧ (t - r.tail).toNat < 2 ^ 31 ∧
      (t - r.head).toNat ≤ ringSize r ∧ u = s.setRing n.toNat { r with tail := t } ∨ r.kind = false ∧ (t - r.tail).toNat < 2 ^ 31 ∧
      ringSize r < (t - r.head).toNat ∧ u = ringEvent (s.setRing n.toNat { r with st := .error }) n.toNat 2 r.tail.toNat ∨ r.kind = true ∧
      (t - r.head).toNat ≤ (r.tail - r.head).toNat ∧ u = flushRing ((s.setRing n.toNat { r with head := t }).setRq n.toNat
      { s.rq n.toNat with written := (s.rq n.toNat).written.drop (t - r.head).toNat }) n.toNat ∨ r.kind = true ∧ (r.tail - r.head).toNat <
      (t - r.head).toNat ∧ u = s.logTag .chm 0 340 n.toNat)) ∧ ∃ c, (c = Instr.doorbell who n v ∨ c = .recordDoorbell who n v) ∧ ∃ (p :
      Site), who = .tile p ∧ canIssue (s.gr p.g) = true ∧ (s.gr p.g).sb = [] ∧ (u.gr p.g).lost = []) ∧
    (∃ (who : BellAgent) (n : RingNo) (v : W64) (s u : State) (r : Ring) (t : W32), r = s.ring n.toNat ∧ t = BitVec.ofNat 32 v.toNat ∧ (2
      ^ 32 ≤ v.toNat ∧ u = s.logTag .chm (bellSource who) 339 n.toNat ∨ v.toNat < 2 ^ 32 ∧ isSubmitter s r who = false ∧ u = s.logTag .chm
      (bellSource who) 341 n.toNat ∨ v.toNat < 2 ^ 32 ∧ isSubmitter s r who = true ∧ r.st = .off ∧ u = s ∨ v.toNat < 2 ^ 32 ∧ isSubmitter
      s r who = true ∧ r.st = .error ∧ u = s.logTag .chm (bellSource who) 341 n.toNat ∨ v.toNat < 2 ^ 32 ∧ isSubmitter s r who = true ∧
      r.st ≠ .off ∧ r.st ≠ .error ∧ (r.kind = false ∧ 2 ^ 31 ≤ (t - r.tail).toNat ∧ u = s ∨ r.kind = false ∧ (t - r.tail).toNat < 2 ^ 31 ∧
      (t - r.head).toNat ≤ ringSize r ∧ u = s.setRing n.toNat { r with tail := t } ∨ r.kind = false ∧ (t - r.tail).toNat < 2 ^ 31 ∧
      ringSize r < (t - r.head).toNat ∧ u = ringEvent (s.setRing n.toNat { r with st := .error }) n.toNat 2 r.tail.toNat ∨ r.kind = true ∧
      (t - r.head).toNat ≤ (r.tail - r.head).toNat ∧ u = flushRing ((s.setRing n.toNat { r with head := t }).setRq n.toNat
      { s.rq n.toNat with written := (s.rq n.toNat).written.drop (t - r.head).toNat }) n.toNat ∨ r.kind = true ∧ (r.tail - r.head).toNat <
      (t - r.head).toNat ∧ u = s.logTag .chm 0 340 n.toNat)) ∧ ∃ c, (c = Instr.doorbell who n v ∨ c = .recordDoorbell who n v) ∧ ∃ (p :
      Site), who = .tile p ∧ canIssue (s.gr p.g) = true ∧ (s.gr p.g).sb ≠ []) ∧
    (∃ (who : BellAgent) (n : RingNo) (v : W64) (s u : State) (r : Ring) (t : W32), r = s.ring n.toNat ∧ t = BitVec.ofNat 32 v.toNat ∧ (2
      ^ 32 ≤ v.toNat ∧ u = s.logTag .chm (bellSource who) 339 n.toNat ∨ v.toNat < 2 ^ 32 ∧ isSubmitter s r who = false ∧ u = s.logTag .chm
      (bellSource who) 341 n.toNat ∨ v.toNat < 2 ^ 32 ∧ isSubmitter s r who = true ∧ r.st = .off ∧ u = s ∨ v.toNat < 2 ^ 32 ∧ isSubmitter
      s r who = true ∧ r.st = .error ∧ u = s.logTag .chm (bellSource who) 341 n.toNat ∨ v.toNat < 2 ^ 32 ∧ isSubmitter s r who = true ∧
      r.st ≠ .off ∧ r.st ≠ .error ∧ (r.kind = false ∧ 2 ^ 31 ≤ (t - r.tail).toNat ∧ u = s ∨ r.kind = false ∧ (t - r.tail).toNat < 2 ^ 31 ∧
      (t - r.head).toNat ≤ ringSize r ∧ u = s.setRing n.toNat { r with tail := t } ∨ r.kind = false ∧ (t - r.tail).toNat < 2 ^ 31 ∧
      ringSize r < (t - r.head).toNat ∧ u = ringEvent (s.setRing n.toNat { r with st := .error }) n.toNat 2 r.tail.toNat ∨ r.kind = true ∧
      (t - r.head).toNat ≤ (r.tail - r.head).toNat ∧ u = flushRing ((s.setRing n.toNat { r with head := t }).setRq n.toNat
      { s.rq n.toNat with written := (s.rq n.toNat).written.drop (t - r.head).toNat }) n.toNat ∨ r.kind = true ∧ (r.tail - r.head).toNat <
      (t - r.head).toNat ∧ u = s.logTag .chm 0 340 n.toNat)) ∧ ∃ c, (c = Instr.doorbell who n v ∨ c = .recordDoorbell who n v) ∧ ∃ (h :
      HostLinkNo), who = .host h ∧ (s.host h).dlup = true ∧ ideHeld s h = false) :=
  ⟨⟨2, (wR2 { v := true, ctx := 7, cring := 1, log2sz := 4 }), _, _, rfl, rfl, by decide +kernel, by decide +kernel⟩,
   ⟨2, (wR2 { v := true, ctx := 7, cring := 1, log2sz := 3 }), _, _, rfl, rfl, by decide +kernel⟩,
   ⟨1, (wR2 {}), _, _, rfl, rfl, by decide +kernel⟩,
   ⟨2, (wR2 { st := .paused }), _, _, rfl, rfl, by decide +kernel⟩,
   ⟨2, (wR2 { st := .paused }), _, _, rfl, rfl, by decide +kernel⟩,
   ⟨2, (wR2 { st := .active }), _, _, rfl, rfl, by decide +kernel⟩,
   ⟨2, (wR2 { v := true, st := .active }), _, _, rfl, rfl, _, rfl, by decide +kernel⟩,
   ⟨(.core 0), 2, 16, (wR2 { v := true, st := .active, log2sz := 4, ctx := 7 }), _, _, _, rfl, rfl, Or.inr (Or.inr (Or.inr (Or.inr
     (⟨by decide +kernel, by decide +kernel, by decide +kernel, by decide +kernel, Or.inr (Or.inl ⟨by decide +kernel, by decide +kernel,
     by decide +kernel, rfl⟩)⟩)))), _, Or.inl rfl, 0, by decide +kernel, by decide +kernel, by decide +kernel, by decide +kernel⟩,
   ⟨(.core 0), 2, 0x100000000, { wR2 { v := true, st := .active, log2sz := 4, ctx := 7 } with harts := [(0, { sb := [wStore] })] }, _, _,
     _, rfl, rfl, Or.inl ⟨by decide +kernel, rfl⟩, _, Or.inr rfl, 0, by decide +kernel, by decide +kernel, by decide +kernel⟩,
   ⟨(.tile wP), 2, 16, { wR2 { v := true, st := .active, log2sz := 4, ctx := 7 } with grates := [(0, { st := .running })] }, _, _, _, rfl,
     rfl, Or.inr (Or.inl ⟨by decide +kernel, by decide +kernel, rfl⟩), _, Or.inl rfl, wP, by decide +kernel, by decide +kernel,
     by decide +kernel, by decide +kernel⟩,
   ⟨(.tile wP), 2, 16,
     { wR2 { v := true, st := .active, log2sz := 4, ctx := 7 } with grates := [(0, { st := .running, sb := [wStore] })] }, _, _, _, rfl,
     rfl, Or.inr (Or.inl ⟨by decide +kernel, by decide +kernel, rfl⟩), _, Or.inl rfl, wP, by decide +kernel, by decide +kernel,
     by decide +kernel⟩,
   ⟨(.host 3), 2, 16, { wR2 { v := true, st := .active, log2sz := 4, ctx := 7 } with hosts := [(3, { dlup := true })] }, _, _, _, rfl,
     rfl, Or.inr (Or.inl ⟨by decide +kernel, by decide +kernel, rfl⟩), _, Or.inl rfl, 3, by decide +kernel, by decide +kernel,
     by decide +kernel⟩⟩

theorem witness_DescriptorsAreFetchedAndWaited :
    (∃ (n : RingNo) (s : State) (r : Ring) (q : RingQ), r = s.ring n.toNat ∧ q = s.rq n.toNat ∧ ∃ (host : List Slot) (d : Slot) (u v :
      State) (cs : List Slot), fetchable r = true ∧ q.stale = false ∧ q.fetched.length < 16 ∧ readSlot s r r.head.toNat host 0 = (.data d,
      u) ∧ hdLap d = lapOf r r.head.toNat ∧ contSlots d < (r.tail - r.head).toNat ∧ readCont (contSlots d) u r (r.head.toNat + 1) host 1 =
      (.ok cs, v)) ∧
    (∃ (n : RingNo) (s : State) (r : Ring) (q : RingQ), r = s.ring n.toNat ∧ q = s.rq n.toNat ∧ ∃ (host : List Slot) (d : Slot) (u :
      State), fetchable r = true ∧ q.stale = false ∧ q.fetched.length < 16 ∧ readSlot s r r.head.toNat host 0 = (.data d, u) ∧ hdLap d ≠
      lapOf r r.head.toNat) ∧
    (∃ (n : RingNo) (s : State) (r : Ring) (q : RingQ), r = s.ring n.toNat ∧ q = s.rq n.toNat ∧ ∃ (host : List Slot) (d : Slot) (u :
      State), fetchable r = true ∧ q.stale = true ∧ q.returns < q.refetches ∧ readSlot s r r.head.toNat host 0 = (.data d, u) ∧ hdLap d ≠
      lapOf r r.head.toNat ∧ q.returns < 63) ∧
    (∃ (n : RingNo) (s : State) (r : Ring) (q : RingQ), r = s.ring n.toNat ∧ q = s.rq n.toNat ∧ ∃ (host : List Slot) (d : Slot) (u :
      State), fetchable r = true ∧ q.stale = true ∧ q.returns < q.refetches ∧ readSlot s r r.head.toNat host 0 = (.data d, u) ∧ hdLap d ≠
      lapOf r r.head.toNat ∧ q.returns = 63) ∧
    (∃ (n : RingNo) (s : State) (r : Ring) (q : RingQ), r = s.ring n.toNat ∧ q = s.rq n.toNat ∧ fetchable r = true ∧ q.stale = true ∧
      q.refetches < 64) ∧
    (∃ (n : RingNo) (s : State) (r : Ring) (q : RingQ), r = s.ring n.toNat ∧ q = s.rq n.toNat ∧ ∃ (d : Desc) (ds : List Desc), q.fetched =
      d :: ds ∧ r.st = .active ∧ hdWait d.head ≠ 0 ∧ q.waitMet = false ∧ waitMetNow s n.toNat d.head = true) ∧
    (∃ (n : RingNo) (s : State) (r : Ring) (q : RingQ), r = s.ring n.toNat ∧ q = s.rq n.toNat ∧ ∃ (d : Desc), startable s n.toNat (hdOp
      d.head) = some d ∧ q.fetched.head? = some d ∧ (hdOp d.head = 0 ∨ 9 ≤ hdOp d.head)) :=
  ⟨⟨2, { wMem with mem := [(0, 1)], rings := [(2, { v := true, ctx := 7, tail := 1, log2sz := 4, st := .active })] }, _, _, rfl, rfl, [],
     1, _, _, [], by decide +kernel, by decide +kernel, by decide +kernel, pairOf (by decide +kernel), by decide +kernel,
     by decide +kernel, readContStop ..⟩,
   ⟨2, { wMem with rings := [(2, { v := true, ctx := 7, tail := 1, log2sz := 4, st := .active })] }, _, _, rfl, rfl, [], 0, _,
     by decide +kernel, by decide +kernel, by decide +kernel, pairOf (by decide +kernel), by decide +kernel⟩,
   ⟨2,
     { wMem with
       rings := [(2, { v := true, ctx := 7, tail := 1, log2sz := 4, st := .active })],
       ringq := [(2, { stale := true, refetches := 64, returns := 62 })] },
     _, _, rfl, rfl, [], 0, _, by decide +kernel, by decide +kernel, by decide +kernel, pairOf (by decide +kernel), by decide +kernel,
     by decide +kernel⟩,
   ⟨2,
     { wMem with
       rings := [(2, { v := true, ctx := 7, tail := 1, log2sz := 4, st := .active })],
       ringq := [(2, { stale := true, refetches := 64, returns := 63 })] },
     _, _, rfl, rfl, [], 0, _, by decide +kernel, by decide +kernel, by decide +kernel, pairOf (by decide +kernel), by decide +kernel,
     by decide +kernel⟩,
   ⟨2, { wR2 { v := true, tail := 1, st := .active } with ringq := [(2, { stale := true, refetches := 63 })] }, _, _, rfl, rfl,
     by decide +kernel, by decide +kernel, by decide +kernel⟩,
   ⟨2, (wRing { ctx := 7 } { idx := 0, head := 0x40101 }), _, _, rfl, rfl, { idx := 0, head := 0x40101 }, [], by decide +kernel,
     by decide +kernel, by decide +kernel, by decide +kernel, by decide +kernel⟩,
   ⟨2, (wRing { ctx := 7 } (wD 9 0)), _, _, rfl, rfl, (wD 9 0), by decide +kernel, by decide +kernel, by decide +kernel⟩⟩

theorem witness_EnginesTakeTheirDescriptors :
    (∃ (n : RingNo) (s : State) (d : Desc) (r : Ring) (c : Instr) (op : Nat) (run : State → Nat → Job → State), r = s.ring n.toNat ∧ (c =
      .copy n ∧ op = 1 ∧ run = copyRun ∨ c = .inlineOp n ∧ op = 2 ∧ run = inlineRun ∨ c = .reduce n ∧ op = 3 ∧ run = reduceRun ∨ c =
      .atomic n ∧ op = 8 ∧ run = atomicRun) ∧ startable s n.toNat op = some d ∧ (descBad r d.head = true ∨ copyOpBad s d = true)) ∧
    (∃ (n : RingNo) (s : State) (d : Desc) (r : Ring) (c : Instr) (op : Nat) (run : State → Nat → Job → State), r = s.ring n.toNat ∧ (c =
      .copy n ∧ op = 1 ∧ run = copyRun ∨ c = .inlineOp n ∧ op = 2 ∧ run = inlineRun ∨ c = .reduce n ∧ op = 3 ∧ run = reduceRun ∨ c =
      .atomic n ∧ op = 8 ∧ run = atomicRun) ∧ startable s n.toNat op = some d ∧ ∃ (va : Nat) (acc : Acc3) (die : Nat), descBad r d.head =
      false ∧ copyOpBad s d = false ∧ copyOpDest d.head = (va, acc) ∧ die = r.die.toNat ∧ xlatBusy s (.dispatch die 0) = false ∧ inScope s
      r.ctx.toNat va = false ∧ ∃ (l : Leaf) (kind : Nat) (u : State), findLeaf s (.dispatch die 0) r.ctx.toNat (va % 2 ^ 55) = some l ∧
      leafAllows l acc = true ∧ u = fillMicro s (.dispatch die 0) l ∧ kind = (if inboundPlace die (l.pbase + va % 2 ^ 55 % 2 ^ l.bits)
      then 0 else 1) ∧ ∃ k, copyTurn s die (decide (kind = 0)) = some n.toNat ∧ freeEngine s die kind = some k) ∧
    (∃ (n : RingNo) (s : State) (d : Desc) (r : Ring) (c : Instr) (op : Nat) (run : State → Nat → Job → State), r = s.ring n.toNat ∧ (c =
      .copy n ∧ op = 1 ∧ run = copyRun ∨ c = .inlineOp n ∧ op = 2 ∧ run = inlineRun ∨ c = .reduce n ∧ op = 3 ∧ run = reduceRun ∨ c =
      .atomic n ∧ op = 8 ∧ run = atomicRun) ∧ startable s n.toNat op = some d ∧ ∃ (va : Nat) (acc : Acc3) (die : Nat), descBad r d.head =
      false ∧ copyOpBad s d = false ∧ copyOpDest d.head = (va, acc) ∧ die = r.die.toNat ∧ xlatBusy s (.dispatch die 0) = false ∧ inScope s
      r.ctx.toNat va = false ∧ ∃ (l : Leaf) (kind : Nat) (u : State), findLeaf s (.dispatch die 0) r.ctx.toNat (va % 2 ^ 55) = some l ∧
      leafAllows l acc = true ∧ u = fillMicro s (.dispatch die 0) l ∧ kind = (if inboundPlace die (l.pbase + va % 2 ^ 55 % 2 ^ l.bits)
      then 0 else 1) ∧ (copyTurn s die (decide (kind = 0)) ≠ some n.toNat ∨ freeEngine s die kind = none)) ∧
    (∃ (n : RingNo) (s : State) (d : Desc) (r : Ring) (c : Instr) (op : Nat) (run : State → Nat → Job → State), r = s.ring n.toNat ∧ (c =
      .copy n ∧ op = 1 ∧ run = copyRun ∨ c = .inlineOp n ∧ op = 2 ∧ run = inlineRun ∨ c = .reduce n ∧ op = 3 ∧ run = reduceRun ∨ c =
      .atomic n ∧ op = 8 ∧ run = atomicRun) ∧ startable s n.toNat op = some d ∧ ∃ (va : Nat) (acc : Acc3) (die : Nat), descBad r d.head =
      false ∧ copyOpBad s d = false ∧ copyOpDest d.head = (va, acc) ∧ die = r.die.toNat ∧ xlatBusy s (.dispatch die 0) = false ∧ inScope s
      r.ctx.toNat va = false ∧ findLeaf s (.dispatch die 0) r.ctx.toNat (va % 2 ^ 55) = none ∧ (s.ctxE r.ctx.toNat).v = false ∧ ∃ u, u =
      s.logE
      {
        src := agentLogSrc (.dispatch die 0), unit := agentUnit (.dispatch die 0), kind := 0x10, code := 6, ctx := some r.ctx.toNat,
        addr := va % 2 ^ 55 }) ∧
    (∃ (n : RingNo) (s : State) (d : Desc) (r : Ring), r = s.ring n.toNat ∧ startable s n.toNat 4 = some d ∧ descBad r d.head = false ∧
      tileBad s d = false ∧ ∃ k, freeEngine s r.die.toNat 2 = some k) ∧
    (∃ (n : RingNo) (s : State) (d : Desc) (r : Ring), r = s.ring n.toNat ∧ startable s n.toNat 4 = some d ∧ descBad r d.head = false ∧
      tileBad s d = false ∧ freeEngine s r.die.toNat 2 = none) ∧
    (∃ (n : RingNo) (s : State) (d : Desc) (r : Ring), r = s.ring n.toNat ∧ startable s n.toNat 4 = some d ∧ (descBad r d.head = true ∨
      tileBad s d = true)) ∧
    (∃ (n : RingNo) (s u : State) (d : Desc) (r : Ring) (die k : Nat) (tb : List W32), r = s.ring n.toNat ∧ die = r.die.toNat ∧ k = jobKey
      die 3 0 ∧ tb = copyTable s (fuTable d.head) ∧ u = takeStart (setServed s die 3 n.toNat) n.toNat d ∧ startable s n.toNat 6 = some d ∧
      descBad r d.head = true) ∧
    (∃ (n : RingNo) (s u : State) (d : Desc) (r : Ring) (die k : Nat) (tb : List W32), r = s.ring n.toNat ∧ die = r.die.toNat ∧ k = jobKey
      die 3 0 ∧ tb = copyTable s (fuTable d.head) ∧ u = takeStart (setServed s die 3 n.toNat) n.toNat d ∧ startable s n.toNat 6 = some d ∧
      descBad r d.head = false ∧ ((s.job k).isSome = true ∨ fullerTurn s die ≠ some n.toNat)) ∧
    (∃ (n : RingNo) (s u : State) (d : Desc) (r : Ring) (die k : Nat) (tb : List W32), r = s.ring n.toNat ∧ die = r.die.toNat ∧ k = jobKey
      die 3 0 ∧ tb = copyTable s (fuTable d.head) ∧ u = takeStart (setServed s die 3 n.toNat) n.toNat d ∧ startable s n.toNat 6 = some d ∧
      descBad r d.head = false ∧ s.job k = none ∧ fullerTurn s die = some n.toNat ∧ fullerBad d.head tb r.ctx.toNat = true) ∧
    (∃ (n : RingNo) (s u : State) (d : Desc) (r : Ring) (die k : Nat) (tb : List W32), r = s.ring n.toNat ∧ die = r.die.toNat ∧ k = jobKey
      die 3 0 ∧ tb = copyTable s (fuTable d.head) ∧ u = takeStart (setServed s die 3 n.toNat) n.toNat d ∧ startable s n.toNat 6 = some d ∧
      descBad r d.head = false ∧ s.job k = none ∧ fullerTurn s die = some n.toNat ∧ fullerBad d.head tb r.ctx.toNat = false) :=
  ⟨⟨2, (wRing { ctx := 7 } (wD 3 (2 ^ 55))), (wD 3 (2 ^ 55)), _, _, 3, reduceRun, rfl, Or.inr (Or.inr (Or.inl ⟨rfl, rfl, rfl⟩)),
     by decide +kernel, by decide +kernel⟩,
   ⟨2, (wRing { ctx := 7 } (wD 3 0)), (wD 3 0), _, _, 3, reduceRun, rfl, Or.inr (Or.inr (Or.inl ⟨rfl, rfl, rfl⟩)), by decide +kernel, 0,
     .write, 0, by decide +kernel, by decide +kernel, by decide +kernel, by decide +kernel, by decide +kernel, by decide +kernel, _, _, _,
     someOf (by decide +kernel), by decide +kernel, rfl, rfl, 0, by decide +kernel, by decide +kernel⟩,
   ⟨2, { wRing { ctx := 7 } (wD 3 0) with jobs := (List.range 8).map (fun i => (i, some { ring := 0, desc := wD 1 0 })) }, (wD 3 0), _,
     (.reduce 2), 3, reduceRun, rfl, Or.inr (Or.inr (Or.inl ⟨rfl, rfl, rfl⟩)), by decide +kernel, 0, .write, 0, by decide +kernel,
     by decide +kernel, by decide +kernel, by decide +kernel, by decide +kernel, by decide +kernel, _, _, _, someOf (by decide +kernel),
     by decide +kernel, rfl, rfl, by decide +kernel⟩,
   ⟨2, { wRing { ctx := 7 } (wD 3 0) with xlat := {} }, (wD 3 0), _, _, 3, reduceRun, rfl, Or.inr (Or.inr (Or.inl ⟨rfl, rfl, rfl⟩)),
     by decide +kernel, 0, .write, 0, by decide +kernel, by decide +kernel, by decide +kernel, by decide +kernel, by decide +kernel,
     by decide +kernel, by decide +kernel, by decide +kernel, _, rfl⟩,
   ⟨2, (wRing { ctx := 7 } (wD 4 (1056 * 2 ^ 224))), (wD 4 (1056 * 2 ^ 224)), _, rfl, by decide +kernel, by decide +kernel,
     by decide +kernel, 32, by decide +kernel⟩,
   ⟨2,
     { wRing { ctx := 7 } (wD 4 (1056 * 2 ^ 224)) with jobs := (List.range 8).map (fun i => (32 + i, some { ring := 0, desc := wD 4 0 })) },
     (wD 4 (1056 * 2 ^ 224)), _, rfl, by decide +kernel, by decide +kernel, by decide +kernel, by decide +kernel⟩,
   ⟨2, (wRing { ctx := 7 } (wD 4 0)), (wD 4 0), _, rfl, by decide +kernel, by decide +kernel⟩,
   ⟨2, (wRing { ctx := 7 } (wD 6 0)), _, (wD 6 0), _, _, _, _, rfl, rfl, rfl, rfl, rfl, by decide +kernel, by decide +kernel⟩,
   ⟨2, { wRing { ctx := 7, role := 2 } (wD 6 0) with jobs := [(48, some { ring := 0, desc := wD 6 0 })] }, _, (wD 6 0), _, _, _, _, rfl,
     rfl, rfl, rfl, rfl, by decide +kernel, by decide +kernel, by decide +kernel⟩,
   ⟨2, { wRing { ctx := 7, role := 2 } (wD 6 (63 * 2 ^ 264)) with coefs := [(1023, 0x80000800)] }, _, (wD 6 (63 * 2 ^ 264)), _, _, _, _,
     rfl, rfl, rfl, rfl, rfl, by decide +kernel, by decide +kernel, by decide +kernel, by decide +kernel, by decide +kernel⟩,
   ⟨2, { wRing { ctx := 7, role := 2 } (wD 6 (63 * 2 ^ 264)) with coefs := [(1023, 0x80000700)] }, _, (wD 6 (63 * 2 ^ 264)), _, _, _, _,
     rfl, rfl, rfl, rfl, rfl, by decide +kernel, by decide +kernel, by decide +kernel, by decide +kernel, by decide +kernel⟩⟩

theorem witness_LaunchesStartAndEnginesEnd :
    (∃ (n : RingNo) (s u v : State) (d : Desc) (bs : List Byte) (w k : Nat) (g : Grate), startable s n.toNat 7 = some d ∧ descBad (s.ring
      n.toNat) d.head = false ∧ launchBad d.head = false ∧ launchRead s n.toNat (s.ring n.toNat).die.toNat (laAddr d.head) = .got bs u ∧ w
      = ofBytes bs ∧ v = u.setRq n.toNat { u.rq n.toNat with launchRec := none, launchReq := none } ∧ k = laGrate d.head ∧ g = v.gr k ∧
      recordBad u w = true) ∧
    (∃ (n : RingNo) (s u v : State) (d : Desc) (bs : List Byte) (w k : Nat) (g : Grate), startable s n.toNat 7 = some d ∧ descBad (s.ring
      n.toNat) d.head = false ∧ launchBad d.head = false ∧ launchRead s n.toNat (s.ring n.toNat).die.toNat (laAddr d.head) = .got bs u ∧ w
      = ofBytes bs ∧ v = u.setRq n.toNat { u.rq n.toNat with launchRec := none, launchReq := none } ∧ k = laGrate d.head ∧ g = v.gr k ∧
      recordBad u w = false ∧ g.clearing = true) ∧
    (∃ (n : RingNo) (s u v : State) (d : Desc) (bs : List Byte) (w k : Nat) (g : Grate), startable s n.toNat 7 = some d ∧ descBad (s.ring
      n.toNat) d.head = false ∧ launchBad d.head = false ∧ launchRead s n.toNat (s.ring n.toNat).die.toNat (laAddr d.head) = .got bs u ∧ w
      = ofBytes bs ∧ v = u.setRq n.toNat { u.rq n.toNat with launchRec := none, launchReq := none } ∧ k = laGrate d.head ∧ g = v.gr k ∧
      recordBad u w = false ∧ g.clearing = false ∧ ∃ t, (g.st = .idle ∧ t = takeStart v n.toNat d ∨ g.st = .stopped ∧ g.ctx.toNat = field
      w 320 12 ∧ t = takeStart (endLaunch v k 0x17 0) n.toNat d)) ∧
    (∃ (n : RingNo) (s u v : State) (d : Desc) (bs : List Byte) (w k : Nat) (g : Grate), startable s n.toNat 7 = some d ∧ descBad (s.ring
      n.toNat) d.head = false ∧ launchBad d.head = false ∧ launchRead s n.toNat (s.ring n.toNat).die.toNat (laAddr d.head) = .got bs u ∧ w
      = ofBytes bs ∧ v = u.setRq n.toNat { u.rq n.toNat with launchRec := none, launchReq := none } ∧ k = laGrate d.head ∧ g = v.gr k ∧
      recordBad u w = false ∧ g.clearing = false ∧ (g.st = .running ∨ g.st = .halted)) ∧
    (∃ (n : RingNo) (s u v : State) (d : Desc) (bs : List Byte) (w k : Nat) (g : Grate), startable s n.toNat 7 = some d ∧ descBad (s.ring
      n.toNat) d.head = false ∧ launchBad d.head = false ∧ launchRead s n.toNat (s.ring n.toNat).die.toNat (laAddr d.head) = .got bs u ∧ w
      = ofBytes bs ∧ v = u.setRq n.toNat { u.rq n.toNat with launchRec := none, launchReq := none } ∧ k = laGrate d.head ∧ g = v.gr k ∧
      recordBad u w = false ∧ g.clearing = false ∧ g.st = .stopped ∧ g.ctx.toNat ≠ field w 320 12) ∧
    (∃ (n : RingNo) (idx : W32) (s : State) (k : Nat) (j : Job), jobWith jobReady s n.toNat idx.toNat = some (k, j) ∧ j.ending = none) ∧
    (∃ (n : RingNo) (idx : W32) (s : State) (k : Nat) (j : Job), jobWith jobReady s n.toNat idx.toNat = some (k, j) ∧ ∃ (e : Ending) (u v
      : State), j.ending = some e ∧ u = completeDesc (s.setJob k none) j.ring j.desc e ∧ v = (if e.status = 0 then descSignal u j.ring
      j.desc else u) ∧ (recordDue j.desc e = false ∨ cringTakes s j.ring = true)) ∧
    (∃ (n : RingNo) (idx : W32) (s : State) (k : Nat) (j : Job), jobWith jobReady s n.toNat idx.toNat = some (k, j) ∧ ∃ (e : Ending) (u v
      : State), j.ending = some e ∧ u = completeDesc (s.setJob k none) j.ring j.desc e ∧ v = (if e.status = 0 then descSignal u j.ring
      j.desc else u) ∧ recordDue j.desc e = true ∧ cringTakes s j.ring = false) ∧
    (∃ (h : HostLinkNo) (n : RingNo) (idx : W32) (s : State) (k : Nat) (j : Job) (q : OutReq) (m : BitVec 4), jobWith (jobFlushes h) s
      n.toNat idx.toNat = some (k, j) ∧ s.reqs.find? (fun q => j.reqs.contains q.id && decide (q.target = h.val) && decide (q.len = 0)) =
      some q ∧ heldAt s h q.id = false ∧ m = j.hostMask ^^^ BitVec.ofNat 4 (2 ^ h.val)) :=
  ⟨⟨2, { wLaunch {} with ctxs := [] }, { wLaunch {} with ctxs := [] }, _, (wD 7 0), (toBytes 64 (7 * 2 ^ 320)), _, _, _,
     by decide +kernel, by decide +kernel, by decide +kernel, by decide +kernel, rfl, rfl, rfl, rfl, by decide +kernel⟩,
   ⟨2, (wLaunch { clearing := true }), (wLaunch { clearing := true }), _, (wD 7 0), (toBytes 64 (7 * 2 ^ 320)), _, _, _,
     by decide +kernel, by decide +kernel, by decide +kernel, by decide +kernel, rfl, rfl, rfl, rfl, by decide +kernel, by decide +kernel⟩,
   ⟨2, (wLaunch { st := .stopped, ctx := 7 }), (wLaunch { st := .stopped, ctx := 7 }), _, (wD 7 0), (toBytes 64 (7 * 2 ^ 320)), _, _, _,
     by decide +kernel, by decide +kernel, by decide +kernel, by decide +kernel, rfl, rfl, rfl, rfl, by decide +kernel, by decide +kernel,
     _, Or.inr ⟨by decide +kernel, by decide +kernel, rfl⟩⟩,
   ⟨2, (wLaunch { st := .halted }), (wLaunch { st := .halted }), _, (wD 7 0), (toBytes 64 (7 * 2 ^ 320)), _, _, _, by decide +kernel,
     by decide +kernel, by decide +kernel, by decide +kernel, rfl, rfl, rfl, rfl, by decide +kernel, by decide +kernel, by decide +kernel⟩,
   ⟨2, (wLaunch { st := .stopped, ctx := 8 }), (wLaunch { st := .stopped, ctx := 8 }), _, (wD 7 0), (toBytes 64 (7 * 2 ^ 320)), _, _, _,
     by decide +kernel, by decide +kernel, by decide +kernel, by decide +kernel, rfl, rfl, rfl, rfl, by decide +kernel, by decide +kernel,
     by decide +kernel, by decide +kernel⟩,
   ⟨2, 0, (wJob { ring := 2, desc := wD 1 0 }), 0, { ring := 2, desc := wD 1 0 }, by decide +kernel, by decide +kernel⟩,
   ⟨2, 0, (wJob { ring := 2, desc := wD 1 0, ending := some { status := 0 } }), 0,
     { ring := 2, desc := wD 1 0, ending := some { status := 0 } }, by decide +kernel, { status := 0 }, _, _, by decide +kernel, rfl, rfl,
     by decide +kernel⟩,
   ⟨2, 0,
     { wJob { ring := 2, desc := wD 1 0, ending := some { status := 3 } } with
       rings := [(1, { wCring with tail := 16 }), (2, { v := true, cring := 1, st := .active })] },
     0, { ring := 2, desc := wD 1 0, ending := some { status := 3 } }, by decide +kernel, { status := 3 }, _, _, by decide +kernel, rfl,
     rfl, by decide +kernel, by decide +kernel⟩,
   ⟨3, 2, 0,
     { wJob { ring := 2, desc := wD 1 0, wait := .flush, hostMask := 8, reqs := [9] } with
       reqs := [{ wReq .read with target := 3, toHost := true, len := 0 }] },
     0, { ring := 2, desc := wD 1 0, wait := .flush, hostMask := 8, reqs := [9] },
     { wReq .read with target := 3, toHost := true, len := 0 }, _, by decide +kernel, by decide +kernel, by decide +kernel, rfl⟩⟩

theorem witness_StreamOperationsAndDeadlines :
    (∃ (r : RingNo) (s u : State) (d : Desc) (i : Nat) (e : Stream) (ctx : Nat) (fin : State → List (Nat × Nat × Nat) → Res), startable s
      r.toNat 5 = some d ∧ descBad (s.ring r.toNat) d.head = false ∧ cringTakes s r.toNat = true ∧ streamBodyBad d.head = false ∧ i =
      stStream d.head ∧ u = missesTo s i ∧ Tab.get false u.streamBad i = false ∧ e = u.stream i ∧ ctx = (s.ring r.toNat).ctx.toNat ∧ fin =
      (fun v extra => .next (completeDesc (takeStart v r.toNat d) r.toNat d { status := 0 } extra)) ∧ stOp d.head = 1 ∧ e.st = 0 ∧ ∃ bs w,
      physRead u .streamTable ctx (stArea d.head) 128 = (.ok, bs, w) ∧ imageOk w (ofBytes bs) = true) ∧
    (∃ (r : RingNo) (s u : State) (d : Desc) (i : Nat) (e : Stream) (ctx : Nat) (fin : State → List (Nat × Nat × Nat) → Res), startable s
      r.toNat 5 = some d ∧ descBad (s.ring r.toNat) d.head = false ∧ cringTakes s r.toNat = true ∧ streamBodyBad d.head = false ∧ i =
      stStream d.head ∧ u = missesTo s i ∧ Tab.get false u.streamBad i = false ∧ e = u.stream i ∧ ctx = (s.ring r.toNat).ctx.toNat ∧ fin =
      (fun v extra => .next (completeDesc (takeStart v r.toNat d) r.toNat d { status := 0 } extra)) ∧ stOp d.head = 2 ∧ e.st ≠ 0 ∧ ∃ w,
      physWrite u .streamTable ctx (stArea d.head) (toBytes 128 (streamImage e)) = (.ok, w)) ∧
    (∃ (r : RingNo) (s u : State) (d : Desc) (i : Nat) (e : Stream) (ctx : Nat) (fin : State → List (Nat × Nat × Nat) → Res), startable s
      r.toNat 5 = some d ∧ descBad (s.ring r.toNat) d.head = false ∧ cringTakes s r.toNat = true ∧ streamBodyBad d.head = false ∧ i =
      stStream d.head ∧ u = missesTo s i ∧ Tab.get false u.streamBad i = false ∧ e = u.stream i ∧ ctx = (s.ring r.toNat).ctx.toNat ∧ fin =
      (fun v extra => .next (completeDesc (takeStart v r.toNat d) r.toNat d { status := 0 } extra)) ∧ stOp d.head = 3 ∧ e.v = true ∧ (e.st
      = 1 ∨ e.st = 2 ∨ e.st = 3) ∧ ∃ n node w, n = stCount d.head * (e.bps.toNat + 1) ∧ e.nblk.toNat + n ≤ 16777215 ∧ chainRead
      e.ctx.toNat n u (chainFrom e).1 (chainFrom e).2 = .done node w) ∧
    (∃ (r : RingNo) (s u : State) (d : Desc) (i : Nat) (e : Stream) (ctx : Nat) (fin : State → List (Nat × Nat × Nat) → Res), startable s
      r.toNat 5 = some d ∧ descBad (s.ring r.toNat) d.head = false ∧ cringTakes s r.toNat = true ∧ streamBodyBad d.head = false ∧ i =
      stStream d.head ∧ u = missesTo s i ∧ Tab.get false u.streamBad i = false ∧ e = u.stream i ∧ ctx = (s.ring r.toNat).ctx.toNat ∧ fin =
      (fun v extra => .next (completeDesc (takeStart v r.toNat d) r.toNat d { status := 0 } extra)) ∧ stOp d.head = 5 ∧ e.v = true ∧ (e.st
      = 1 ∨ e.st = 2 ∨ e.st = 3)) ∧
    (∃ (r : RingNo) (s u : State) (d : Desc) (i : Nat) (e : Stream) (ctx : Nat) (fin : State → List (Nat × Nat × Nat) → Res), startable s
      r.toNat 5 = some d ∧ descBad (s.ring r.toNat) d.head = false ∧ cringTakes s r.toNat = true ∧ streamBodyBad d.head = false ∧ i =
      stStream d.head ∧ u = missesTo s i ∧ Tab.get false u.streamBad i = false ∧ e = u.stream i ∧ ctx = (s.ring r.toNat).ctx.toNat ∧ fin =
      (fun v extra => .next (completeDesc (takeStart v r.toNat d) r.toNat d { status := 0 } extra)) ∧ stOp d.head = 6 ∧ e.v = true ∧ (e.st
      = 1 ∨ e.st = 2)) ∧
    (∃ (r : RingNo) (s u : State) (d : Desc) (i : Nat) (e : Stream) (ctx : Nat) (fin : State → List (Nat × Nat × Nat) → Res), startable s
      r.toNat 5 = some d ∧ descBad (s.ring r.toNat) d.head = false ∧ cringTakes s r.toNat = true ∧ streamBodyBad d.head = false ∧ i =
      stStream d.head ∧ u = missesTo s i ∧ Tab.get false u.streamBad i = false ∧ e = u.stream i ∧ ctx = (s.ring r.toNat).ctx.toNat ∧ fin =
      (fun v extra => .next (completeDesc (takeStart v r.toNat d) r.toNat d { status := 0 } extra)) ∧ stOp d.head = 7 ∧ e.v = true ∧ e.st
      = 3) ∧
    (∃ (r : RingNo) (s u : State) (d : Desc) (i : Nat) (e : Stream) (ctx : Nat) (fin : State → List (Nat × Nat × Nat) → Res), startable s
      r.toNat 5 = some d ∧ descBad (s.ring r.toNat) d.head = false ∧ cringTakes s r.toNat = true ∧ streamBodyBad d.head = false ∧ i =
      stStream d.head ∧ u = missesTo s i ∧ Tab.get false u.streamBad i = false ∧ e = u.stream i ∧ ctx = (s.ring r.toNat).ctx.toNat ∧ fin =
      (fun v extra => .next (completeDesc (takeStart v r.toNat d) r.toNat d { status := 0 } extra)) ∧ stOp d.head = 8 ∧ e.st ≠ 0) ∧
    (∃ (r : RingNo) (s u : State) (d : Desc) (i : Nat) (e : Stream) (ctx : Nat) (fin : State → List (Nat × Nat × Nat) → Res), startable s
      r.toNat 5 = some d ∧ descBad (s.ring r.toNat) d.head = false ∧ cringTakes s r.toNat = true ∧ streamBodyBad d.head = false ∧ i =
      stStream d.head ∧ u = missesTo s i ∧ Tab.get false u.streamBad i = false ∧ e = u.stream i ∧ ctx = (s.ring r.toNat).ctx.toNat ∧ fin =
      (fun v extra => .next (completeDesc (takeStart v r.toNat d) r.toNat d { status := 0 } extra)) ∧ stOp d.head = 9 ∧ e.v = true ∧ (e.st
      = 1 ∨ e.st = 2 ∨ e.st = 3) ∧ lenRefusal e (stCount d.head) = none) ∧
    (∃ (r : RingNo) (s u : State) (d : Desc) (i n : Nat) (e e1 e2 : Stream), startable s r.toNat 5 = some d ∧ descBad (s.ring r.toNat)
      d.head = false ∧ cringTakes s r.toNat = true ∧ streamBodyBad d.head = false ∧ stOp d.head = 4 ∧ i = stStream d.head ∧ u = missesTo s
      i ∧ Tab.get false u.streamBad i = false ∧ e = u.stream i ∧ n = stCount d.head ∧ e.v = true ∧ (e.st = 1 ∨ e.st = 2) ∧ lenRefusal e n
      = none ∧ ringHoldsBack u e = false ∧ e1 =
      { e with len := e.len + BitVec.ofNat 22 n, tok := true, lastc := u.tick, rctr := e.rctr + BitVec.ofNat 64 (stDraws d.head) } ∧ e2 =
      { e1 with
        late := false, st := if stFinal d.head then 4 else 2, ndl := if e.tdi = 0 then 0 else u.tick + BitVec.ofNat 64 (n * e.tdi.toNat) })
        ∧
    (∃ (r : RingNo) (s u : State) (d : Desc) (i n : Nat) (e : Stream), startable s r.toNat 5 = some d ∧ descBad (s.ring r.toNat) d.head =
      false ∧ cringTakes s r.toNat = true ∧ streamBodyBad d.head = false ∧ stOp d.head = 4 ∧ i = stStream d.head ∧ u = missesTo s i ∧
      Tab.get false u.streamBad i = false ∧ e = u.stream i ∧ n = stCount d.head ∧ e.v = true ∧ e.st = 5) ∧
    (∃ (i : StreamNo) (s : State), (tokenDue s (s.stream i.toNat) = true ∨ requestDue s (s.stream i.toNat) = true)) ∧
    (∃ (i : Nat) (s : State) (e : Stream), e = s.stream i ∧ tokenDue s e = true ∧ requestDue s e = false ∧ e.misses.toNat < 255 ∧ (s.ring
      e.ring.toNat).policy.toNat ≠ 1 ∧ (s.ring e.ring.toNat).policy.toNat ≠ 2) :=
  ⟨⟨2,
     { wStream {} (1 + 4 * 2 ^ 8 + 0x80 * 2 ^ 128) with
       mem := (toBytes 128 (streamImage {
         st := 1, ctx := 7, ring := 1, first := 0x10000, last := 0x10000, v := true })).zipIdx.filterMap (fun e => if e.1 = 0 then none else some (e.2 + 0x80, e.1)) },
     _, (wD 5 (1 + 4 * 2 ^ 8 + 0x80 * 2 ^ 128)), _, _, _, _, by decide +kernel, by decide +kernel, by decide +kernel, by decide +kernel,
     rfl, rfl, by decide +kernel, rfl, rfl, rfl, by decide +kernel, by decide +kernel, _, _, tripOf (by decide +kernel),
     by decide +kernel⟩,
   ⟨2, (wStream { st := 1 } (2 + 3 * 2 ^ 8 + 0x80 * 2 ^ 128)), _, (wD 5 (2 + 3 * 2 ^ 8 + 0x80 * 2 ^ 128)), _, _, _, _, by decide +kernel,
     by decide +kernel, by decide +kernel, by decide +kernel, rfl, rfl, by decide +kernel, rfl, rfl, rfl, by decide +kernel,
     by decide +kernel, _, pairOf (by decide +kernel)⟩,
   ⟨2, { wStream { st := 3 } (3 + 3 * 2 ^ 8 + 1 * 2 ^ 32) with mem := [(0x1000, 1)] }, _, (wD 5 (3 + 3 * 2 ^ 8 + 1 * 2 ^ 32)), _, _, _, _,
     by decide +kernel, by decide +kernel, by decide +kernel, by decide +kernel, rfl, rfl, by decide +kernel, rfl, rfl, rfl,
     by decide +kernel, by decide +kernel, by decide +kernel, _, 0x1000, _, rfl, by decide +kernel, chainOf (by decide +kernel)⟩,
   ⟨2, (wStream { st := 2 } (5 + 3 * 2 ^ 8 + 7 * 2 ^ 49)), _, (wD 5 (5 + 3 * 2 ^ 8 + 7 * 2 ^ 49)), _, _, _, _, by decide +kernel,
     by decide +kernel, by decide +kernel, by decide +kernel, rfl, rfl, by decide +kernel, rfl, rfl, rfl, by decide +kernel,
     by decide +kernel, by decide +kernel⟩,
   ⟨2, (wStream { st := 2 } (6 + 3 * 2 ^ 8)), _, (wD 5 (6 + 3 * 2 ^ 8)), _, _, _, _, by decide +kernel, by decide +kernel,
     by decide +kernel, by decide +kernel, rfl, rfl, by decide +kernel, rfl, rfl, rfl, by decide +kernel, by decide +kernel,
     by decide +kernel⟩,
   ⟨2, (wStream { st := 3 } (7 + 3 * 2 ^ 8)), _, (wD 5 (7 + 3 * 2 ^ 8)), _, _, _, _, by decide +kernel, by decide +kernel,
     by decide +kernel, by decide +kernel, rfl, rfl, by decide +kernel, rfl, rfl, rfl, by decide +kernel, by decide +kernel,
     by decide +kernel⟩,
   ⟨2, (wStream { st := 5 } (8 + 3 * 2 ^ 8)), _, (wD 5 (8 + 3 * 2 ^ 8)), _, _, _, _, by decide +kernel, by decide +kernel,
     by decide +kernel, by decide +kernel, rfl, rfl, by decide +kernel, rfl, rfl, rfl, by decide +kernel, by decide +kernel⟩,
   ⟨2, (wStream { st := 3, nblk := 2 } (9 + 3 * 2 ^ 8 + 2 * 2 ^ 32)), _, (wD 5 (9 + 3 * 2 ^ 8 + 2 * 2 ^ 32)), _, _, _, _,
     by decide +kernel, by decide +kernel, by decide +kernel, by decide +kernel, rfl, rfl, by decide +kernel, rfl, rfl, rfl,
     by decide +kernel, by decide +kernel, by decide +kernel, by decide +kernel⟩,
   ⟨2, (wStream { st := 1, nblk := 8 } (4 + 3 * 2 ^ 8 + 8 * 2 ^ 32)), _, (wD 5 (4 + 3 * 2 ^ 8 + 8 * 2 ^ 32)), _, _, _, _, _,
     by decide +kernel, by decide +kernel, by decide +kernel, by decide +kernel, by decide +kernel, rfl, rfl, by decide +kernel, rfl, rfl,
     by decide +kernel, by decide +kernel, by decide +kernel, by decide +kernel, rfl, rfl⟩,
   ⟨2, (wStream { st := 5 } (4 + 3 * 2 ^ 8 + 1 * 2 ^ 32)), _, (wD 5 (4 + 3 * 2 ^ 8 + 1 * 2 ^ 32)), _, _, _, by decide +kernel,
     by decide +kernel, by decide +kernel, by decide +kernel, by decide +kernel, rfl, rfl, by decide +kernel, rfl, rfl, by decide +kernel,
     by decide +kernel⟩,
   ⟨3, { wStream { st := 1, ndl := 4 } 0 with tick := 5 }, by decide +kernel⟩,
   ⟨3, { wStream { st := 1, ndl := 4, misses := 254 } 0 with tick := 5 }, _, rfl, by decide +kernel, by decide +kernel, by decide +kernel,
     by decide +kernel, by decide +kernel⟩⟩

theorem witness_PacketsAndAnswersAreCarriedOut :
    (∃ (p : Pkt) (s u : State) (a : Admit) (answer : State → FlueMsg → State), linkUp s p.f = true ∧ answer = (fun v m => flueSend v p.f
      (.flue p.f p.spos m)) ∧ ∃ (data : List Byte) (en : BitVec 128) (n : _), n = ((List.range data.length).filter (fun i => en.getLsbD
      (p.off.toNat % 128 + i))).length ∧ 0 < data.length ∧ p.off.toNat % 128 + data.length ≤ 128 ∧ pktAdmit s p data.length .write = some
      a ∧ n = data.length ∧ checkExtent s (.flueLink p.f) a.ctx .write a.pa data.length = (.ok, u)) ∧
    (∃ (p : Pkt) (s u : State) (a : Admit) (answer : State → FlueMsg → State), linkUp s p.f = true ∧ answer = (fun v m => flueSend v p.f
      (.flue p.f p.spos m)) ∧ ∃ (data : List Byte) (en : BitVec 128) (n : _), n = ((List.range data.length).filter (fun i => en.getLsbD
      (p.off.toNat % 128 + i))).length ∧ 0 < data.length ∧ p.off.toNat % 128 + data.length ≤ 128 ∧ pktAdmit s p data.length .write = some
      a ∧ ∃ (acc : Acc3), n < data.length ∧ ((∃ g off, placeOf a.pa = .spad g off) → acc = .write) ∧ ((∀ g off, placeOf a.pa ≠ .spad g
      off) → acc = .atomic) ∧ checkExtent s (.flueLink p.f) a.ctx acc a.pa data.length = (.ok, u)) ∧
    (∃ (p : Pkt) (s u : State) (a : Admit) (answer : State → FlueMsg → State), linkUp s p.f = true ∧ answer = (fun v m => flueSend v p.f
      (.flue p.f p.spos m)) ∧ ∃ (norm : _) (data : List Byte) (bs : _), 0 < data.length ∧ p.off.toNat % 128 + data.length ≤ 128 ∧
      data.length % 32 = 0 ∧ p.off.toNat % 32 = 0 ∧ (norm = true → data.length = 128) ∧ pktAdmit s p data.length (.merge norm) = some a ∧
      checkExtent s (.flueLink p.f) a.ctx .atomic a.pa data.length = (.ok, u) ∧ mergeWords norm (rawRead u a.pa data.length) data = some
      bs) ∧
    (∃ (p : Pkt) (s u : State) (a : Admit) (answer : State → FlueMsg → State), linkUp s p.f = true ∧ answer = (fun v m => flueSend v p.f
      (.flue p.f p.spos m)) ∧ ∃ (op : AOp) (wide : Bool) (v c : W64) (n old : Nat), n = (if wide then 8 else 4) ∧ p.off.toNat % n = 0 ∧
      pktAdmit s p n .atomic = some a ∧ physAtomic s (.flueLink p.f) a.ctx a.pa n op v.toNat c.toNat = (.ok, old, u)) ∧
    (∃ (p : Pkt) (s u : State) (a : Admit) (answer : State → FlueMsg → State), linkUp s p.f = true ∧ answer = (fun v m => flueSend v p.f
      (.flue p.f p.spos m)) ∧ ∃ (len : BitVec 8), 0 < len.toNat ∧ p.off.toNat % 128 + len.toNat ≤ 128 ∧ pktAdmit s p len.toNat .read =
      some a ∧ ∃ bs, physRead s (.flueLink p.f) a.ctx a.pa len.toNat = (.ok, bs, u)) ∧
    (∃ (p : Pkt) (s t : State), linkUp s p.f = true ∧ t = flueSend (s.logE
      { src := .flu, unit := p.f, tag := 137, addr := p.off.toNat, data := p.spos }) p.f (.flue p.f p.spos (.err p.id 0)) ∧ ∃ (data : List
      Byte), 0 < data.length ∧ p.off.toNat % 128 + data.length ≤ 128 ∧ pktAdmit s p data.length .write = none) ∧
    (∃ (p : Pkt) (s t : State), linkUp s p.f = true ∧ t = flueSend (s.logE
      { src := .flu, unit := p.f, tag := 137, addr := p.off.toNat, data := p.spos }) p.f (.flue p.f p.spos (.err p.id 0)) ∧ ∃ (norm : _)
      (data : List Byte), 0 < data.length ∧ p.off.toNat % 128 + data.length ≤ 128 ∧ data.length % 32 = 0 ∧ p.off.toNat % 32 = 0 ∧ (norm =
      true → data.length = 128) ∧ pktAdmit s p data.length (.merge norm) = none) ∧
    (∃ (p : Pkt) (s t : State), linkUp s p.f = true ∧ t = flueSend (s.logE
      { src := .flu, unit := p.f, tag := 137, addr := p.off.toNat, data := p.spos }) p.f (.flue p.f p.spos (.err p.id 0)) ∧ ∃ (wide :
      Bool) (n : Nat), n = (if wide then 8 else 4) ∧ p.off.toNat % n = 0 ∧ pktAdmit s p n .atomic = none) ∧
    (∃ (p : Pkt) (s t : State), linkUp s p.f = true ∧ t = flueSend (s.logE
      { src := .flu, unit := p.f, tag := 137, addr := p.off.toNat, data := p.spos }) p.f (.flue p.f p.spos (.err p.id 0)) ∧ ∃ (len :
      BitVec 8), 0 < len.toNat ∧ p.off.toNat % 128 + len.toNat ≤ 128 ∧ pktAdmit s p len.toNat .read = none) ∧
    (∃ (id : Nat) (s : State) (r : OutReq), reqOf s id = some r ∧ r.toHost = false ∧ r.kind = .write) ∧
    (∃ (id : Nat) (s : State) (r : OutReq), reqOf s id = some r ∧ r.toHost = false ∧ ∃ (data : List Byte), r.kind ≠ .write ∧ data.length =
      r.len) ∧
    (∃ (id : Nat) (s : State) (r : OutReq), reqOf s id = some r ∧ r.toHost = false ∧ 225000 ≤ s.elapsed - r.since) ∧
    (∃ (id : Nat) (s : State), reqOf s id = none ∧ id < s.nextReq) ∧
    (∃ (f : FlueLinkNo) (dest : Position) (hop : BitVec 2) (addr : BitVec 52) (s : State), ¬ (s.group.mv = true ∧ s.group.mypos.toNat =
      dest.val) ∧ linkUp s f = true ∧ ∃ out key, pickLink s dest addr.toNat = some out ∧ hop.toNat < 2 ∧ key = out * 16 +
      s.flue.fwdClass.toNat) ∧
    (∃ (f : FlueLinkNo) (dest : Position) (hop : BitVec 2) (addr : BitVec 52) (s : State), ¬ (s.group.mv = true ∧ s.group.mypos.toNat =
      dest.val) ∧ linkUp s f = true ∧ (pickLink s dest addr.toNat = none ∨ 2 ≤ hop.toNat)) :=
  ⟨⟨(wPkt 8), (wFlue { wr := true }), _, { pa := 8, ctx := 7, tally := 4, mode := 0 }, _, by decide +kernel, rfl, ([1, 2]), 0x300, _, rfl,
     by decide +kernel, by decide +kernel, by decide +kernel, by decide +kernel, pairOf (by decide +kernel)⟩,
   ⟨(wPkt 8), (wFlue { wr := true }), _, { pa := 8, ctx := 7, tally := 4, mode := 0 }, _, by decide +kernel, rfl, ([1, 2]), 0x100, _, rfl,
     by decide +kernel, by decide +kernel, by decide +kernel, .atomic, by decide +kernel, atomicPlace, fun _ => rfl, pairOf
     (by decide +kernel)⟩,
   ⟨(wPkt 0x20), (wFlue { mode := 1, at_ := true, wr := true, rd := true }), _, { pa := 0x20, ctx := 7, tally := 4, mode := 1 }, _,
     by decide +kernel, rfl, false, (toBytes 32 (accEncode accZero)), _, by decide +kernel, by decide +kernel, by decide +kernel,
     by decide +kernel, by decide +kernel, by decide +kernel, pairOf (by decide +kernel), someOf (by decide +kernel)⟩,
   ⟨(wPkt 0xFFF8), (wFlue { at_ := true, wr := true, rd := true }), _, { pa := 0xFFF8, ctx := 7, tally := 4, mode := 0 }, _,
     by decide +kernel, rfl, .add, true, (1 : W64), (0 : W64), _, _, rfl, by decide +kernel, by decide +kernel, tripOf
     (by decide +kernel)⟩,
   ⟨(wPkt 0xFF80), (wFlue { rd := true }), _, { pa := 0xFF80, ctx := 7, tally := 4, mode := 0 }, _, by decide +kernel, rfl, 128,
     by decide +kernel, by decide +kernel, by decide +kernel, _, tripOf (by decide +kernel)⟩,
   ⟨(wPkt 8), (wFlue {}), _, by decide +kernel, rfl, [1], by decide +kernel, by decide +kernel, by decide +kernel⟩,
   ⟨(wPkt 0x20), (wFlue { wr := true, rd := true }), _, by decide +kernel, rfl, false, (toBytes 32 (accEncode accZero)),
     by decide +kernel, by decide +kernel, by decide +kernel, by decide +kernel, by decide +kernel, by decide +kernel⟩,
   ⟨(wPkt 8), (wFlue {}), _, by decide +kernel, rfl, true, _, rfl, by decide +kernel, by decide +kernel⟩,
   ⟨(wPkt 0x10000), (wFlue { rd := true }), _, by decide +kernel, rfl, 1, by decide +kernel, by decide +kernel, by decide +kernel⟩,
   ⟨9, { reqs := [wReq .write] }, (wReq .write), by decide +kernel, by decide +kernel, by decide +kernel⟩,
   ⟨9, { reqs := [wReq .read] }, (wReq .read), by decide +kernel, by decide +kernel, (List.replicate 8 1), by decide +kernel,
     by decide +kernel⟩,
   ⟨9, { reqs := [wReq .atomic], elapsed := 225000 }, (wReq .atomic), by decide +kernel, by decide +kernel, by decide +kernel⟩,
   ⟨9, { nextReq := 10 }, by decide +kernel, by decide +kernel⟩,
   ⟨1, 63, 1, 0, { wFlue {} with flue := { links := [(0, { st := .up }), (1, { st := .up })], route := [(63, 1)], fwdClass := 15 } },
     by decide +kernel, by decide +kernel, 0, _, by decide +kernel, by decide +kernel, rfl⟩,
   ⟨1, 63, 2, 0, { wFlue {} with flue := { links := [(1, { st := .up })] } }, by decide +kernel, by decide +kernel, by decide +kernel⟩⟩

theorem witness_FlueLinksComeUpAndGoDown :
    (∃ (f : FlueLinkNo) (s : State) (x : FlueLink), x = s.fl f ∧ x.st = .down ∧ x.en = true ∧ 2250000 ≤ s.elapsed - x.since) ∧
    (∃ (f : FlueLinkNo) (s : State) (x : FlueLink), x = s.fl f ∧ ∃ lanes, x.st = .training ∧ widthOf lanes ≠ 0) ∧
    (∃ (f : FlueLinkNo) (s : State) (x : FlueLink), x = s.fl f ∧ ∃ (a : AttestIn), x.st = .attest ∧ a.chainOk = true ∧ a.listed = true ∧
      a.invasive = false ∧ a.idh ≠ Config.ownIdh) ∧
    (∃ (f : FlueLinkNo) (s : State) (x : FlueLink), x = s.fl f ∧ x.st = .probation ∧ 225000000 ≤ s.elapsed - x.since ∧ x.second = 0 ∧
      x.replays.toNat < 4096) ∧
    (∃ (f : FlueLinkNo) (s : State) (x : FlueLink), x = s.fl f ∧ x.st = .ctrlonly ∧ x.admitted = true ∧ x.pv = true ∧ isMember s = true ∧
      (s.memb x.peerpos.toNat).st = 1 ∧ (s.memb x.peerpos.toNat).idh = x.idh ∧ x.holdctl = false) ∧
    (∃ (f : FlueLinkNo) (s : State) (x : FlueLink), x = s.fl f ∧ trainedSt x.st = true ∧ 9 ≤ x.crcRun) ∧
    (∃ (f : FlueLinkNo) (s : State) (x : FlueLink), x = s.fl f ∧ (x.st = .ctrlonly ∨ x.st = .up) ∧ ∃ a b rest, x.secondAt = a :: b :: rest
      ∧ a - b < 2 ^ 30) ∧
    (∃ (f : FlueLinkNo) (s : State) (x : FlueLink), x = s.fl f ∧ (x.st = .training ∨ trainedSt x.st = true)) ∧
    (∃ (f : FlueLinkNo) (s : State) (x : FlueLink), x = s.fl f ∧ ∃ lanes, x.st = .training ∧ widthOf lanes = 0) ∧
    (∃ (f : FlueLinkNo) (s : State) (x : FlueLink), x = s.fl f ∧ x.st = .training ∧ 56250000 ≤ s.elapsed - x.since) ∧
    (∃ (f : FlueLinkNo) (s : State) (x : FlueLink), x = s.fl f ∧ ∃ (a : AttestIn), x.st = .attest ∧ (a.chainOk = false ∨ a.listed = false
      ∨ a.invasive = true ∨ a.idh = Config.ownIdh)) ∧
    (∃ (f : FlueLinkNo) (s : State) (x : FlueLink), x = s.fl f ∧ x.st = .probation ∧ 225000000 ≤ s.elapsed - x.since ∧ (x.second ≠ 0 ∨
      4096 ≤ x.replays.toNat)) ∧
    (∃ (f : FlueLinkNo) (s : State) (x : FlueLink), x = s.fl f ∧ trainedSt x.st = true ∧ x.keyed = true) ∧
    (∃ (f : FlueLinkNo) (s : State) (x : FlueLink), x = s.fl f ∧ x.keyed = true ∧ 2 ^ 40 ≤ x.sentFlits + 1) :=
  ⟨⟨17, { wL { en := true, since := 1 } with elapsed := 2250001 }, _, rfl, by decide +kernel, by decide +kernel, by decide +kernel⟩,
   ⟨17, (wL { st := .training }), _, rfl, 15, by decide +kernel, by decide +kernel⟩,
   ⟨17, (wL { st := .attest }), _, rfl, { chainOk := true, idh := Config.ownIdh + 1, listed := true, invasive := false },
     by decide +kernel, by decide +kernel, by decide +kernel, by decide +kernel, succ_ne _⟩,
   ⟨17, { wL { st := .probation, replays := 4095 } with elapsed := 225000000 }, _, rfl, by decide +kernel, by decide +kernel,
     by decide +kernel, by decide +kernel⟩,
   ⟨17,
     { wL { st := .ctrlonly, admitted := true, pv := true, peerpos := 63, idh := 5 } with
       group := { gst := .member, memb := [(63, { st := 1, idh := 5 })] } },
     _, rfl, by decide +kernel, by decide +kernel, by decide +kernel, by decide +kernel, by decide +kernel, by decide +kernel,
     by decide +kernel⟩,
   ⟨17, (wL { st := .attest, crcRun := 9 }), _, rfl, by decide +kernel, by decide +kernel⟩,
   ⟨17, (wL { st := .up, secondAt := [5, 4] }), _, rfl, by decide +kernel, 5, 4, [], by decide +kernel, by decide +kernel⟩,
   ⟨17, (wL { st := .training }), _, rfl, by decide +kernel⟩,
   ⟨17, (wL { st := .training }), _, rfl, 6, by decide +kernel, by decide +kernel⟩,
   ⟨17, { wL { st := .training } with elapsed := 56250000 }, _, rfl, by decide +kernel, by decide +kernel⟩,
   ⟨17, (wL { st := .attest }), _, rfl, { chainOk := true, idh := Config.ownIdh, listed := true, invasive := false }, by decide +kernel,
     Or.inr (Or.inr (Or.inr rfl))⟩,
   ⟨17, { wL { st := .probation, replays := 4096 } with elapsed := 225000000 }, _, rfl, by decide +kernel, by decide +kernel,
     by decide +kernel⟩,
   ⟨17, (wL { st := .up, keyed := true }), _, rfl, by decide +kernel, by decide +kernel⟩,
   ⟨17, (wL { st := .up, keyed := true, sentFlits := 2 ^ 40 - 1 }), _, rfl, by decide +kernel, by decide +kernel⟩⟩

theorem witness_FlueFlitsKeysAndControl :
    (∃ (f : FlueLinkNo) (s : State) (x : FlueLink), x = s.fl f ∧ (trainedSt x.st = true ∨ x.st = .loopback)) ∧
    (∃ (f : FlueLinkNo) (s : State) (x : FlueLink), x = s.fl f ∧ x.st = .loopback) ∧
    (∃ (f : FlueLinkNo) (s : State) (x : FlueLink), x = s.fl f ∧ ∃ (kind : BitVec 2), trainedSt x.st = true ∧ x.keyed = false ∧ (x.st ≠
      .attest ∨ kind ≠ 1)) ∧
    (∃ (f : FlueLinkNo) (s : State) (x : FlueLink), x = s.fl f ∧ ∃ (kind : BitVec 2) (hdr : FlitHdr) (tagOk : Bool) (v : _), trainedSt
      x.st = true ∧ (x.keyed = true ∧ tagOk = true ∨ x.keyed = false ∧ x.st = .attest ∧ kind = 1) ∧ x.keyNext ≠ some (x.rxSeq + 1).toNat ∧
      v = flueAcked (s.setFl f { x with flits := x.flits + 1, rxSeq := x.rxSeq + 1, crcRun := 0 }) f hdr.ack) ∧
    (∃ (f : FlueLinkNo) (s : State) (x : FlueLink), x = s.fl f ∧ ∃ (kind : BitVec 2) (hdr : FlitHdr) (tagOk : Bool) (v : _), trainedSt
      x.st = true ∧ (x.keyed = true ∧ tagOk = true ∨ x.keyed = false ∧ x.st = .attest ∧ kind = 1) ∧ x.keyNext = some (x.rxSeq + 1).toNat ∧
      v = flueAcked (s.setFl f
      { x with flits := x.flits + 1, rxSeq := x.rxSeq + 1, crcRun := 0, keyGen := x.keyGen + 1, keyNext := none }) f hdr.ack) ∧
    (∃ (f : FlueLinkNo) (s : State) (x : FlueLink), x = s.fl f ∧ trainedSt x.st = true ∧ x.keyed = true) ∧
    (∃ (f : FlueLinkNo) (s : State) (x : FlueLink), x = s.fl f ∧ x.keyed = true ∧ 2 ^ 39 ≤ x.sentFlits ∧ x.sentFlits + 1 < 2 ^ 40) ∧
    (∃ (f : FlueLinkNo) (s : State) (x : FlueLink), x = s.fl f ∧ x.st = .disabled) ∧
    (∃ (f : FlueLinkNo) (s : State) (x : FlueLink), x = s.fl f ∧ x.st ≠ .down ∧ x.st ≠ .disabled) ∧
    (∃ (f : FlueLinkNo) (s : State) (x : FlueLink), x = s.fl f ∧ (x.st = .down ∨ x.st = .disabled)) ∧
    (∃ (f : FlueLinkNo) (s : State) (x : FlueLink), x = s.fl f ∧ x.st = .up) ∧
    (∃ (f : FlueLinkNo) (s : State) (x : FlueLink), x = s.fl f ∧ ∃ hold, (hold = false ∨ x.st ≠ .up)) ∧
    (∃ (f : FlueLinkNo) (s : State) (x : FlueLink), x = s.fl f ∧ x.st ≠ .loopback) ∧
    (∃ (f : FlueLinkNo) (s : State) (x : FlueLink), x = s.fl f ∧ (x.st = .training ∨ trainedSt x.st = true)) :=
  ⟨⟨17, (wL { st := .up }), _, rfl, by decide +kernel⟩,
   ⟨17, (wL { st := .loopback }), _, rfl, by decide +kernel⟩,
   ⟨17, (wL { st := .up }), _, rfl, (0 : BitVec 2), by decide +kernel, by decide +kernel, by decide +kernel⟩,
   ⟨17, (wL { st := .up, keyed := true }), _, rfl, (0 : BitVec 2), ({ ack := 0, replay := true } : FlitHdr), true, _, by decide +kernel,
     by decide +kernel, by decide +kernel, rfl⟩,
   ⟨17, (wL { st := .up, keyed := true, keyNext := some 1 }), _, rfl, (0 : BitVec 2), ({ ack := 0, replay := true } : FlitHdr), true, _,
     by decide +kernel, by decide +kernel, by decide +kernel, rfl⟩,
   ⟨17, (wL { st := .up, keyed := true }), _, rfl, by decide +kernel, by decide +kernel⟩,
   ⟨17, (wL { st := .up, keyed := true, sentFlits := 2 ^ 39, idh := Config.ownIdh }), _, rfl, by decide +kernel, by decide +kernel,
     by decide +kernel⟩,
   ⟨17, (wL { st := .disabled }), _, rfl, by decide +kernel⟩,
   ⟨17, (wL { st := .up }), _, rfl, by decide +kernel, by decide +kernel⟩,
   ⟨17, (wL { st := .disabled }), _, rfl, by decide +kernel⟩,
   ⟨17, (wL { st := .up }), _, rfl, by decide +kernel⟩,
   ⟨17, (wL { st := .ctrlonly }), _, rfl, _, Or.inl rfl⟩,
   ⟨17, (wL { st := .up }), _, rfl, by decide +kernel⟩,
   ⟨17, (wL { st := .up }), _, rfl, by decide +kernel⟩⟩

theorem witness_GroupsFormAndChangeInOrder :
    (∃ (m : OfferMsg) (s : State), m.auth = true ∧ s.group.gst = .forming ∧ m.gid = s.stoker.cfg.gid ∧ m.gpv = s.kindle.gpv ∧
      s.stoker.cfg.pmask.getLsbD m.pos.val = true) ∧
    (∃ (s : State) (t : Nat), s.group.offerSent = some t ∧ s.group.gst = .forming ∧ (allOffered s = true ∨ 1125000000 ≤ s.elapsed - t) ∧
      s.group.offers.foldl (fun n o => min n o.pos) 64 = s.group.mypos.toNat) ∧
    (∃ (s : State) (t : Nat), s.group.offerSent = some t ∧ s.group.gst = .forming ∧ (allOffered s = true ∨ 1125000000 ≤ s.elapsed - t) ∧
      s.group.offers.foldl (fun n o => min n o.pos) 64 ≠ s.group.mypos.toNat) ∧
    (∃ (epoch : W32) (mpos : Position) (l : List MembIn) (s u : State), l.length ≤ 64 ∧ s.group.gst = .forming ∧ (Tab.get {} (tableOf l)
      s.group.mypos.toNat : Memb).st = 1 ∧ u =
      { s with
        group := { s.group with
          gst := .member, epoch := epoch, mpos := BitVec.ofNat 6 mpos.val, mv := true, memb := tableOf l, tbSync := true, tbLock := true } }) ∧
    (∃ (epoch : W32) (s : State), s.group.tableSent.isSome = true ∧ epoch = s.group.epoch) ∧
    (∃ (s u : State) (t : Nat) (missing : List Nat), s.group.tableSent = some t ∧ missing = (members s).filter (fun p => decide (p ≠
      s.group.mypos.toNat) && !(s.group.acks.contains p)) ∧ u = { s with group := { s.group with tableSent := none, acks := [] } } ∧
      missing = []) ∧
    (∃ (s u : State) (t : Nat) (missing : List Nat), s.group.tableSent = some t ∧ missing = (members s).filter (fun p => decide (p ≠
      s.group.mypos.toNat) && !(s.group.acks.contains p)) ∧ u = { s with group := { s.group with tableSent := none, acks := [] } } ∧
      missing ≠ [] ∧ 225000000 ≤ s.elapsed - t) ∧
    (∃ (src : Position) (epoch : W32) (st : BitVec 2) (s : State), s.group.gst = .member ∧ st ≠ 3 ∧ s.group.mv = true ∧ s.group.mpos.toNat
      = src.val ∧ epoch = s.group.epoch + 1) ∧
    (∃ (src : Position) (epoch : W32) (st : BitVec 2) (s : State), s.group.gst = .member ∧ st ≠ 3 ∧ s.group.mv = true ∧ s.group.mpos.toNat
      = src.val ∧ epoch.toNat < s.group.epoch.toNat ∧ s.group.epoch.toNat < 2 ^ 32 - 1) ∧
    (∃ (reporter : Position) (s : State), isMember s = true ∧ (s.memb reporter.val).st = 1) ∧
    (∃ (m : OfferMsg) (s : State), m.auth = true ∧ isMaster s = true ∧ m.gid = s.stoker.cfg.gid ∧ m.gpv = s.kindle.gpv ∧ (s.memb
      m.pos.val).st ≠ 1) ∧
    (∃ (s : State), isMaster s = false) ∧
    (∃ (pos : Position) (s : State), (isMaster s = false ∨ (s.memb pos.val).st = 1 ∨ s.group.joins.filter (fun j => decide (j.pos =
      pos.val)) = [])) ∧
    (∃ (pos : Position) (s : State) (j : Offer) (rest : List Offer), isMaster s = true ∧ (s.memb pos.val).st ≠ 1 ∧ s.group.joins.filter
      (fun j => decide (j.pos = pos.val)) = j :: rest) :=
  ⟨⟨{ gid := 1, pos := 63, gpv := 2, count := 0, idh := 0, auth := true },
     { wGrp { gst := .forming } with kindle := { gpv := 2 }, stoker := { cfg := { gid := 1, pmask := 0x8000000000000000 } } },
     by decide +kernel, by decide +kernel, by decide +kernel, by decide +kernel, by decide +kernel⟩,
   
     ⟨{ wGrp { gst := .forming, mypos := 3, offerSent := some 0, offers := [{ pos := 3, idh := 0, count := 0 }] } with
       stoker := { cfg := { pmask := 8 } } },
     0, by decide +kernel, by decide +kernel, by decide +kernel, by decide +kernel⟩,
   
     ⟨{ wGrp { gst := .forming, mypos := 4, offerSent := some 0, offers := [{ pos := 3, idh := 0, count := 0 }] } with
       elapsed := 1125000000, stoker := { cfg := { pmask := 0x18 } } },
     0, by decide +kernel, by decide +kernel, by decide +kernel, by decide +kernel⟩,
   ⟨1, 0, (List.replicate 64 { st := 1, epoch := 0, idh := 0 }), (wGrp { gst := .forming, mypos := 63 }), _, by decide +kernel,
     by decide +kernel, by decide +kernel, rfl⟩,
   ⟨1, (wGrp { tableSent := some 0, epoch := 1 }), by decide +kernel, by decide +kernel⟩,
   ⟨(wGrp { tableSent := some 0, mypos := 1, memb := [(1, { st := 1 }), (2, { st := 1 })], acks := [2] }), _, 0, _, by decide +kernel,
     rfl, rfl, by decide +kernel⟩,
   ⟨{ wGrp { tableSent := some 0, mypos := 1, memb := [(1, { st := 1 }), (2, { st := 1 })] } with elapsed := 225000000 }, _, 0, _,
     by decide +kernel, rfl, rfl, by decide +kernel, by decide +kernel⟩,
   ⟨0, 0, 2, (wGrp { gst := .member, mv := true, epoch := 0xFFFFFFFF }), by decide +kernel, by decide +kernel, by decide +kernel,
     by decide +kernel, by decide +kernel⟩,
   ⟨0, 0, 1, (wGrp { gst := .member, mv := true, epoch := 0xFFFFFFFE }), by decide +kernel, by decide +kernel, by decide +kernel,
     by decide +kernel, by decide +kernel, by decide +kernel⟩,
   ⟨1, (wGrp { gst := .member, memb := [(1, { st := 1 })] }), by decide +kernel, by decide +kernel⟩,
   ⟨{ gid := 1, pos := 63, gpv := 2, count := 0, idh := 0, auth := true },
     { wGrp { gst := .member, mv := true } with kindle := { gpv := 2 }, stoker := { cfg := { gid := 1 } } }, by decide +kernel,
     by decide +kernel, by decide +kernel, by decide +kernel, by decide +kernel⟩,
   ⟨(wGrp { gst := .member, mv := true, mpos := 1 }), by decide +kernel⟩,
   ⟨63, {}, by decide +kernel⟩,
   ⟨63, (wGrp { gst := .member, mv := true, joins := [{ pos := 63, idh := 5, count := 0 }] }), { pos := 63, idh := 5, count := 0 }, [],
     by decide +kernel, by decide +kernel, by decide +kernel⟩⟩

theorem witness_HellosAndTheTimebase :
    (∃ (s : State) (pv : Bool), 2250000 ≤ s.elapsed - s.group.lastHello ∧ (pv = true ↔ s.group.gst = .member ∨ s.group.gst = .forming)) ∧
    (∃ (f : FlueLinkNo) (p : BitVec 256) (s : State) (l : FlueLink), l = s.fl f ∧ trainedSt l.st = true ∧ l.keyed = true ∧ field p.toNat 0
      8 = 1 ∧ field p.toNat 18 14 = 0 ∧ field p.toNat 48 16 = 0 ∧ field p.toNat 231 25 = 0 ∧ BitVec.ofNat 64 (field p.toNat 160 64) =
      l.idh ∧ ((peerOf s l.idh).isSome = true ∨ field p.toNat 32 16 = s.kindle.gpv.toNat) ∧ field p.toNat 8 3 = 3) ∧
    (∃ (f : FlueLinkNo) (p : BitVec 256) (s : State) (l : FlueLink), l = s.fl f ∧ trainedSt l.st = true ∧ l.keyed = true ∧ field p.toNat 0
      8 = 1 ∧ field p.toNat 18 14 = 0 ∧ field p.toNat 48 16 = 0 ∧ field p.toNat 231 25 = 0 ∧ BitVec.ofNat 64 (field p.toNat 160 64) =
      l.idh ∧ ((peerOf s l.idh).isSome = true ∨ field p.toNat 32 16 = s.kindle.gpv.toNat) ∧ (field p.toNat 8 3 = 0 ∨ field p.toNat 8 3 =
      2)) ∧
    (∃ (f : FlueLinkNo) (p : BitVec 256) (s : State) (l : FlueLink), l = s.fl f ∧ trainedSt l.st = true ∧ l.keyed = true ∧ field p.toNat 0
      8 = 1 ∧ field p.toNat 18 14 = 0 ∧ field p.toNat 48 16 = 0 ∧ field p.toNat 231 25 = 0 ∧ BitVec.ofNat 64 (field p.toNat 160 64) =
      l.idh ∧ ((peerOf s l.idh).isSome = true ∨ field p.toNat 32 16 = s.kindle.gpv.toNat) ∧ field p.toNat 8 3 = 1 ∧ ∃ v, v = (if bitAt
      p.toNat 230 then joinGroup (helloPeer s f l.idh (bitAt p.toNat 11) (field p.toNat 12 6) false) (field p.toNat 224 6) else helloPeer
      s f l.idh (bitAt p.toNat 11) (field p.toNat 12 6) false) ∧ (isMember v = false ∨ v.group.mv = false ∨ bitAt p.toNat 230 = false ∨
      field p.toNat 224 6 = v.group.mpos.toNat)) ∧
    (∃ (f : FlueLinkNo) (p : BitVec 256) (s : State) (l : FlueLink), l = s.fl f ∧ trainedSt l.st = true ∧ l.keyed = true ∧ field p.toNat 0
      8 = 1 ∧ field p.toNat 18 14 = 0 ∧ field p.toNat 48 16 = 0 ∧ field p.toNat 231 25 = 0 ∧ BitVec.ofNat 64 (field p.toNat 160 64) =
      l.idh ∧ ((peerOf s l.idh).isSome = true ∨ field p.toNat 32 16 = s.kindle.gpv.toNat) ∧ field p.toNat 8 3 = 1 ∧ ∃ v, v = (if bitAt
      p.toNat 230 then joinGroup (helloPeer s f l.idh (bitAt p.toNat 11) (field p.toNat 12 6) false) (field p.toNat 224 6) else helloPeer
      s f l.idh (bitAt p.toNat 11) (field p.toNat 12 6) false) ∧ isMember v = true ∧ v.group.mv = true ∧ bitAt p.toNat 230 = true ∧ field
      p.toNat 224 6 ≠ v.group.mpos.toNat) ∧
    (∃ (f : FlueLinkNo) (p : BitVec 256) (s : State) (l : FlueLink), l = s.fl f ∧ trainedSt l.st = true ∧ l.keyed = true ∧ field p.toNat 0
      8 = 1 ∧ field p.toNat 18 14 = 0 ∧ field p.toNat 48 16 = 0 ∧ field p.toNat 231 25 = 0 ∧ BitVec.ofNat 64 (field p.toNat 160 64) =
      l.idh ∧ peerOf s l.idh = none ∧ field p.toNat 8 3 ≤ 3 ∧ field p.toNat 32 16 ≠ s.kindle.gpv.toNat) ∧
    (∃ (idh : W64) (s : State) (x : Peer), peerOf s idh = some x ∧ 6750001 ≤ s.elapsed - x.last) ∧
    (∃ (upset : Option ArrayUpset) (s w u : State), w = upset.elim (vecRunAll (missesTo s 16383)) (arrayUpset (vecRunAll (missesTo s
      16383))) ∧ u = offerDue (runBursts { w with elapsed := w.elapsed + 1 }) ∧ u.power.clk.rlock = false) ∧
    (∃ (upset : Option ArrayUpset) (s w u : State), w = upset.elim (vecRunAll (missesTo s 16383)) (arrayUpset (vecRunAll (missesTo s
      16383))) ∧ u = offerDue (runBursts { w with elapsed := w.elapsed + 1 }) ∧ u.power.clk.rlock = true ∧ u.group.tbHold = false ∧
      (u.group.slew = 0 ∨ u.elapsed - u.group.slewFrom < 4096)) ∧
    (∃ (upset : Option ArrayUpset) (s w u : State), w = upset.elim (vecRunAll (missesTo s 16383)) (arrayUpset (vecRunAll (missesTo s
      16383))) ∧ u = offerDue (runBursts { w with elapsed := w.elapsed + 1 }) ∧ u.power.clk.rlock = true ∧ u.group.tbHold = true) ∧
    (∃ (upset : Option ArrayUpset) (s w u : State), w = upset.elim (vecRunAll (missesTo s 16383)) (arrayUpset (vecRunAll (missesTo s
      16383))) ∧ u = offerDue (runBursts { w with elapsed := w.elapsed + 1 }) ∧ u.power.clk.rlock = true ∧ u.group.tbHold = false ∧ 0 <
      u.group.slew ∧ 4096 ≤ u.elapsed - u.group.slewFrom) ∧
    (∃ (upset : Option ArrayUpset) (s w u : State), w = upset.elim (vecRunAll (missesTo s 16383)) (arrayUpset (vecRunAll (missesTo s
      16383))) ∧ u = offerDue (runBursts { w with elapsed := w.elapsed + 1 }) ∧ u.power.clk.rlock = true ∧ u.group.tbHold = false ∧
      u.group.slew < 0 ∧ 4096 ≤ u.elapsed - u.group.slewFrom) ∧
    (∃ (s : State), isMaster s = true ∧ 225000 ≤ s.elapsed - s.group.lastSync) ∧
    (∃ (f : FlueLinkNo) (s : State), trainedSt (s.fl f).st = true ∧ (isMaster s = true ∨ (s.group.gst ≠ .member ∧ s.group.gst ≠
      .joining))) ∧
    (∃ (f : FlueLinkNo) (count : W64) (s u : State), trainedSt (s.fl f).st = true ∧ isMaster s = false ∧ (s.group.gst = .member ∨
      s.group.gst = .joining) ∧ u = follow s count) :=
  ⟨⟨{ elapsed := 2250000 }, false, by decide +kernel, by decide +kernel⟩,
   ⟨17, (BitVec.ofNat 256 (1 + 3 * 2 ^ 8 + 5 * 2 ^ 160)),
     { wL { st := .attest, keyed := true, idh := 5 } with
       group := { peers := [{ idh := 5, pv := false, pos := 0, spare := false, last := 0 }] } },
     _, rfl, by decide +kernel, by decide +kernel, by decide +kernel, by decide +kernel, by decide +kernel, by decide +kernel,
     by decide +kernel, by decide +kernel, by decide +kernel⟩,
   ⟨17, (BitVec.ofNat 256 (1 + 2 * 2 ^ 8 + 5 * 2 ^ 160)),
     { wL { st := .attest, keyed := true, idh := 5 } with
       group := { peers := [{ idh := 5, pv := false, pos := 0, spare := false, last := 0 }] } },
     _, rfl, by decide +kernel, by decide +kernel, by decide +kernel, by decide +kernel, by decide +kernel, by decide +kernel,
     by decide +kernel, by decide +kernel, by decide +kernel⟩,
   ⟨17, (BitVec.ofNat 256 (1 + 2 ^ 8 + 5 * 2 ^ 160)),
     { wL { st := .attest, keyed := true, idh := 5 } with
       group := { peers := [{ idh := 5, pv := false, pos := 0, spare := false, last := 0 }] } },
     _, rfl, by decide +kernel, by decide +kernel, by decide +kernel, by decide +kernel, by decide +kernel, by decide +kernel,
     by decide +kernel, by decide +kernel, by decide +kernel, _, rfl, by decide +kernel⟩,
   ⟨17, (BitVec.ofNat 256 (1 + 2 ^ 8 + 5 * 2 ^ 160 + 2 ^ 224 + 2 ^ 230)),
     { wL { st := .attest, keyed := true, idh := 5 } with
       group := { gst := .member, mv := true, peers := [{ idh := 5, pv := false, pos := 0, spare := false, last := 0 }] } },
     _, rfl, by decide +kernel, by decide +kernel, by decide +kernel, by decide +kernel, by decide +kernel, by decide +kernel,
     by decide +kernel, by decide +kernel, by decide +kernel, _, rfl, by decide +kernel, by decide +kernel, by decide +kernel,
     by decide +kernel⟩,
   ⟨17, (BitVec.ofNat 256 (1 + 2 ^ 9 + 2 ^ 32 + 5 * 2 ^ 160)), (wL { st := .attest, keyed := true, idh := 5 }), _, rfl, by decide +kernel,
     by decide +kernel, by decide +kernel, by decide +kernel, by decide +kernel, by decide +kernel, by decide +kernel, by decide +kernel,
     by decide +kernel, by decide +kernel⟩,
   ⟨5, { group := { peers := [{ idh := 5, pv := false, pos := 0, spare := false, last := 1 }] }, elapsed := 6750002 },
     { idh := 5, pv := false, pos := 0, spare := false, last := 1 }, by decide +kernel, by decide +kernel⟩,
   ⟨none, {}, _, _, rfl, rfl, by decide +kernel⟩,
   ⟨none, { power := { clk := { rlock := true } }, group := { slew := 1 }, elapsed := 4094 }, _, _, rfl, rfl, by decide +kernel,
     by decide +kernel, by decide +kernel⟩,
   ⟨none, { power := { clk := { rlock := true } }, group := { tbHold := true }, elapsed := 0 }, _, _, rfl, rfl, by decide +kernel,
     by decide +kernel⟩,
   ⟨none, { power := { clk := { rlock := true } }, group := { slew := 1 }, elapsed := 4095 }, _, _, rfl, rfl, by decide +kernel,
     by decide +kernel, by decide +kernel, by decide +kernel⟩,
   ⟨none, { power := { clk := { rlock := true } }, group := { slew := -1 }, elapsed := 4095 }, _, _, rfl, rfl, by decide +kernel,
     by decide +kernel, by decide +kernel, by decide +kernel⟩,
   ⟨{ wGrp { gst := .member, mv := true } with elapsed := 225000 }, by decide +kernel, by decide +kernel⟩,
   ⟨17, (wL { st := .ctrlonly }), by decide +kernel, by decide +kernel⟩,
   ⟨17, 5, { wL { st := .ctrlonly } with group := { gst := .joining } }, _, by decide +kernel, by decide +kernel, by decide +kernel, rfl⟩⟩

theorem witness_BundlesComeUpAndAreRetrained :
    (∃ (x : Side) (s : State) (d b : Nat), sideOk x = true ∧ (d, b) = farEnd x.die x.b ∧ ((s.bundle x.die x.b).st = .down ∨ (s.bundle
      x.die x.b).st = .disabled) ∧ ((s.bundle d b).st = .down ∨ (s.bundle d b).st = .disabled) ∧ heldOff s x.die x.b = false) ∧
    (∃ (x : Side) (s : State) (d b : Nat), sideOk x = true ∧ (d, b) = farEnd x.die x.b ∧ ((s.bundle x.die x.b).st = .down ∨ (s.bundle
      x.die x.b).st = .disabled) ∧ ((s.bundle d b).st = .down ∨ (s.bundle d b).st = .disabled) ∧ heldOff s x.die x.b = true) ∧
    (∃ (x : Side) (s : State) (d b : Nat), sideOk x = true ∧ (d, b) = farEnd x.die x.b ∧ (s.bundle d b).st = .down ∧ (s.bundle x.die
      x.b).st ≠ .loopback ∧ ((s.bundle x.die x.b).st = .disabled ∨ heldOff s x.die x.b = true)) ∧
    (∃ (x : Side) (s : State) (d b : Nat), sideOk x = true ∧ (d, b) = farEnd x.die x.b ∧ (s.bundle d b).st = .down ∧ (s.bundle x.die
      x.b).st ≠ .loopback ∧ (s.bundle x.die x.b).st ≠ .disabled ∧ heldOff s x.die x.b = false) ∧
    (∃ (x : Side) (s : State) (d b : Nat), sideOk x = true ∧ (d, b) = farEnd x.die x.b ∧ (s.bundle x.die x.b).st = .training) ∧
    (∃ (x : Side) (s : State) (d b : Nat), sideOk x = true ∧ (d, b) = farEnd x.die x.b ∧ ∃ rx tx t w, exec (.bringUpDone x rx tx) s =
      .next t ∧ (s.bundle x.die x.b).kept = false ∧ (s.bundle d b).kept = false ∧ w = widthFor (min (popCount rx) (popCount tx))) ∧
    (∃ (x : Side) (s : State) (d b : Nat), sideOk x = true ∧ (d, b) = farEnd x.die x.b ∧ ∃ n u, (s.bundle x.die x.b).st = .up ∧ takeFree 9
      s = (n, u)) ∧
    (∃ (x : Side) (s : State) (d b : Nat), sideOk x = true ∧ (d, b) = farEnd x.die x.b ∧ heldOff s x.die x.b = false ∧ (s.bundle x.die
      x.b).st ≠ .training ∧ (s.bundle x.die x.b).st ≠ .loopback ∧ (s.bundle x.die x.b).st = .up ∧ 8 ≤ (s.bundle x.die x.b).replays.toNat) ∧
    (∃ (x : Side) (s : State) (d b : Nat), sideOk x = true ∧ (d, b) = farEnd x.die x.b ∧ (heldOff s x.die x.b = true ∨ (s.bundle x.die
      x.b).st = .training ∨ (s.bundle x.die x.b).st = .loopback)) ∧
    (∃ (x : Side) (s : State) (d b : Nat), sideOk x = true ∧ (d, b) = farEnd x.die x.b ∧ ∃ u, u = setBundleSt s x.die x.b (fun y =>
      { y with off := true }) ∧ (u.bundle x.die x.b).st ≠ .loopback) ∧
    (∃ (x : Side) (s : State) (d b : Nat), sideOk x = true ∧ (d, b) = farEnd x.die x.b ∧ ∃ u, u = setBundleSt s x.die x.b (fun y =>
      { y with off := true }) ∧ (u.bundle x.die x.b).st = .loopback) ∧
    (∃ (x : Side) (s : State) (d b : Nat), sideOk x = true ∧ (d, b) = farEnd x.die x.b ∧ ∃ (i j : Fin 5), draining s i j = true) :=
  ⟨⟨wSide, (wB {} { st := .disabled }), 3, 15, by decide +kernel, by decide +kernel, by decide +kernel, by decide +kernel,
     by decide +kernel⟩,
   ⟨wSide, (wB {} { off := true }), 3, 15, by decide +kernel, by decide +kernel, by decide +kernel, by decide +kernel, by decide +kernel⟩,
   ⟨wSide, (wB { st := .disabled } {}), 3, 15, by decide +kernel, by decide +kernel, by decide +kernel, by decide +kernel,
     by decide +kernel⟩,
   ⟨wSide, (wB { st := .up } {}), 3, 15, by decide +kernel, by decide +kernel, by decide +kernel, by decide +kernel, by decide +kernel,
     by decide +kernel⟩,
   ⟨wSide, (wB { st := .training } {}), 3, 15, by decide +kernel, by decide +kernel, by decide +kernel⟩,
   ⟨wSide, (wB { st := .training } { st := .training }), 3, 15, by decide +kernel, by decide +kernel, (BitVec.allOnes 68), 0xFFFF, _, _,
     nextOf (by decide +kernel), by decide +kernel, by decide +kernel, rfl⟩,
   ⟨wSide, (wB { st := .up } { st := .up }), 3, 15, by decide +kernel, by decide +kernel, _, _, by decide +kernel, rfl⟩,
   ⟨wSide, (wB { st := .up, replays := 8 } { st := .up }), 3, 15, by decide +kernel, by decide +kernel, by decide +kernel,
     by decide +kernel, by decide +kernel, by decide +kernel, by decide +kernel⟩,
   ⟨wSide, (wB { st := .training } {}), 3, 15, by decide +kernel, by decide +kernel, by decide +kernel⟩,
   ⟨{ die := 3, b := 16 }, {}, 0, 24, by decide +kernel, by decide +kernel, _, rfl, by decide +kernel⟩,
   ⟨wSide, (wB { st := .loopback } {}), 3, 15, by decide +kernel, by decide +kernel, _, rfl, by decide +kernel⟩,
   ⟨wSide, { fabric := { draining := [(4, true)] } }, 3, 15, by decide +kernel, by decide +kernel, 0, 4, by decide +kernel⟩⟩

theorem witness_DieTestsRunToTheirEnd :
    (∃ (die : Fin 5) (who : DevAgent) (s : State) (x : DieTest), x = s.test die ∧ x.busy = false ∧ (who = .stoker ∨ who = .thirun) ∧ x.en
      = false ∧ (∀ b ∈ bundlesOf die, (s.bundle die b).st = .down ∨ (s.bundle die b).st = .disabled)) ∧
    (∃ (die : Fin 5) (who : DevAgent) (s : State) (x : DieTest), x = s.test die ∧ x.busy = false ∧ (who = .stoker ∨ who = .thirun) ∧ x.en
      = false ∧ ∃ b ∈ bundlesOf die, (s.bundle die b).st ≠ .down ∧ (s.bundle die b).st ≠ .disabled) ∧
    (∃ (die : Fin 5) (who : DevAgent) (s : State) (x : DieTest), x = s.test die ∧ x.busy = false ∧ (who = .stoker ∨ who = .thirun) ∧ x.en
      = true ∧ 20 ≤ x.log2ui.toNat ∧ x.log2ui.toNat ≤ 30) ∧
    (∃ (die : Fin 5) (who : DevAgent) (s : State) (x : DieTest), x = s.test die ∧ x.busy = false ∧ (who = .stoker ∨ who = .thirun) ∧ (x.en
      = false ∨ x.log2ui.toNat < 20 ∨ 30 < x.log2ui.toNat)) ∧
    (∃ (die : Fin 5) (who : DevAgent) (s : State) (x : DieTest), x = s.test die ∧ x.busy = false ∧ (who = .stoker ∨ who = .thirun) ∧ ∃ (t
      u : State) (good : List (BitVec 68)), t.test die = { x with busy := true } ∧ good.length = (bundlesOf die).length ∧ u =
      good.zipIdx.foldl (fun s (e : BitVec 68 × Nat) => setBundleSt s die e.2 (fun y => { y with rxmap := e.1 })) t) :=
  ⟨⟨4, .stoker, {}, _, rfl, by decide +kernel, by decide +kernel, by decide +kernel, by decide +kernel⟩,
   ⟨4, .stoker, { fabric := { bundles := [(256, { st := .up })] } }, _, rfl, by decide +kernel, by decide +kernel, by decide +kernel, 0,
     (by decide +kernel), by decide +kernel, by decide +kernel⟩,
   ⟨3, .stoker, { fabric := { tests := [(3, { en := true, log2ui := 30 })] } }, _, rfl, by decide +kernel, by decide +kernel,
     by decide +kernel, by decide +kernel, by decide +kernel⟩,
   ⟨3, .thirun, { fabric := { tests := [(3, { en := true, log2ui := 31 })] } }, _, rfl, by decide +kernel, by decide +kernel,
     by decide +kernel⟩,
   ⟨3, .stoker, {}, _, rfl, by decide +kernel, by decide +kernel, { fabric := { tests := [(3, { busy := true })] } }, _, (List.replicate
     32 (BitVec.allOnes 68)), by decide +kernel, by decide +kernel, rfl⟩⟩

theorem witness_HostsComeReturnAndAreLost :
    (∃ (h : HostLinkNo) (speed : BitVec 3) (width : BitVec 5) (flit cxl on : Bool) (s u v : State) (l : HostLink), l = s.host h ∧
      speed.toNat ≤ 5 ∧ l.dlup = false ∧ mayTrain s h speed.toNat = true ∧ widthOk s h width.toNat = true ∧ (on = true ↔ cxl = true) ∧ h =
      0 ∧ (s.port 0).cxl = true ∧ speed = 5 ∧ flit = true ∧ u = s.setHost h
      { l with dlup := true, speed := speed, width := width, flit := flit, cxlup := on, lost := false, seen := true } ∧ v = (if on = true
      ∧ s.coh.walking.getLsbD 13 = false then { u with coh := { u.coh with dead := u.coh.dead &&& ~~~(bitMask 13) } } else u)) ∧
    (∃ (h : HostLinkNo) (s u : State) (l : HostLink), l = s.host h ∧ l.genReading = true ∧ u = s.setHost h { l with genReading := false }
      ∧ l.suspended = false) ∧
    (∃ (h : HostLinkNo) (s u : State) (l : HostLink), l = s.host h ∧ l.genReading = true ∧ u = s.setHost h { l with genReading := false }
      ∧ l.suspended = true) ∧
    (∃ (h : HostLinkNo) (s : State), ∃ stream, (s.host h).dlup = true ∧ (s.host h).stream stream = .secure) ∧
    (∃ (h : HostLinkNo) (s : State), (h.val % 2 = 0 ∨ (s.port (h.val / 2)).bifur = true)) ∧
    (∃ (h : HostLinkNo) (s : State), h.val % 2 = 1 ∧ (s.port (h.val / 2)).bifur = false) ∧
    (∃ (h : HostLinkNo) (s : State), (s.host h).perst = true) ∧
    (∃ (line : BitVec 45) (s : State) (e : Nat × Nat), (s.host 0).snoops.find? (fun e => decide (e.1 = line.toNat)) = some e ∧ 225000 <
      s.elapsed - e.2) ∧
    (∃ (id : Nat) (s u : State) (r : OutReq) (n : Nat), reqOf s id = some r ∧ r.toHost = true ∧ heldAt s r.target id = false ∧ 225000 ≤
      s.elapsed - r.since ∧ n = (s.host r.target).timeouts + 1 ∧ u = giveErr (s.setHost r.target { s.host r.target with timeouts := n }) r
      .hostLost false) ∧
    (∃ (h : HostLinkNo) (s t u : State) (cause : Nat), (s.host h).dlup = true ∧ cause < 8 ∧ (s.host h).downcnt.toNat < 255 ∧ t = s.setHost
      h
      { s.host h with
        dlup := false, speed := 0, width := 0, flit := false, cxlup := false, ide := .none, ideSel := .none, ideCxl := .none,
        lost := true, suspended := true, cause := BitVec.ofNat 3 cause, downcnt := (s.host h).downcnt + 1, timeouts := 0,
        genReading := false, heldTlps := [], snoops := [] }
      ∧ u = failHostReads (failHostJobs (holdRings (partnerEvent (setReady (dropSessions t h) (28 + h.val) false) .hlk 2 h cause) h) h) h) :=
  ⟨⟨0, 5, 8, true, true, true, { wReady with ports := [(0, { linken := true, cxl := true })] }, _, _, _, rfl, by decide +kernel,
     by decide +kernel, by decide +kernel, by decide +kernel, by decide +kernel, by decide +kernel, by decide +kernel, by decide +kernel,
     by decide +kernel, rfl, rfl⟩,
   ⟨3, { hosts := [(3, { genReading := true })] }, _, _, rfl, by decide +kernel, rfl, by decide +kernel⟩,
   ⟨3, { hosts := [(3, { genReading := true, suspended := true })] }, _, _, rfl, by decide +kernel, rfl, by decide +kernel⟩,
   ⟨0, (wHost { ide := .secure }), .link, by decide +kernel, by decide +kernel⟩,
   ⟨0, (wHost {}), by decide +kernel⟩,
   ⟨1, {}, by decide +kernel, by decide +kernel⟩,
   ⟨3, { hosts := [(3, { perst := true })] }, by decide +kernel⟩,
   ⟨5, { wHost { snoops := [(5, 0)] } with elapsed := 225001 }, (5, 0), by decide +kernel, by decide +kernel⟩,
   ⟨9, { reqs := [{ wReq .read with target := 3, toHost := true }], elapsed := 225000 }, _,
     { wReq .read with target := 3, toHost := true }, _, by decide +kernel, by decide +kernel, by decide +kernel, by decide +kernel, rfl,
     rfl⟩,
   ⟨0, (wHost { downcnt := 254 }), _, _, 7, by decide +kernel, by decide +kernel, by decide +kernel, rfl, rfl⟩⟩

theorem witness_HostAccessesCompletionsAndVectors :
    (∃ (h : HostLinkNo) (s : State) (l : HostLink), l = s.host h ∧ l.dlup = true ∧ l.cxlup = true) ∧
    (∃ (id : Nat) (s : State) (r : OutReq), reqOf s id = some r ∧ r.toHost = true ∧ heldAt s r.target id = false ∧ ∃ (data : List Byte),
      data.length = r.len ∧ r.len ≠ 0) ∧
    (∃ (id : Nat) (s : State) (r : OutReq), reqOf s id = some r ∧ r.toHost = true ∧ heldAt s r.target id = false ∧ ∃ v, v = s.setHost
      r.target { s.host r.target with timeouts := 0 } ∧ r.len = 0 ∧ ∃ k j, agentJob r.agent = some k ∧ v.job k = some j) ∧
    (∃ (id : Nat) (s : State) (r : OutReq), reqOf s id = some r ∧ r.toHost = true ∧ heldAt s r.target id = false ∧ ∃ v, v = s.setHost
      r.target { s.host r.target with timeouts := 0 } ∧ r.len = 0 ∧ (agentJob r.agent).bind v.job = none) ∧
    (∃ (h : HostLinkNo) (s : State) (l : HostLink), l = s.host h ∧ l.dlup = true ∧ ∃ (off : BitVec 16), off.toNat % 8 = 0 ∧ ideHeld s h =
      true) ∧
    (∃ (h : HostLinkNo) (s : State) (l : HostLink), l = s.host h ∧ l.dlup = true ∧ ∃ (off : BitVec 16), off.toNat % 8 = 0 ∧ ideHeld s h =
      false ∧ 0x8000 ≤ off.toNat) ∧
    (∃ (h : HostLinkNo) (s : State) (l : HostLink), l = s.host h ∧ l.dlup = true ∧ ∃ (off : BitVec 16) (x : MsixVec), ideHeld s h = false
      ∧ off.toNat < 0x8000 ∧ x = Tab.get {} l.msix (off.toNat / 16) ∧ off.toNat % 16 = 0) ∧
    (∃ (h : HostLinkNo) (s : State) (l : HostLink), l = s.host h ∧ l.dlup = true ∧ ∃ (off : BitVec 16) (v : W64) (x : MsixVec), ideHeld s
      h = false ∧ off.toNat < 0x8000 ∧ x = Tab.get {} l.msix (off.toNat / 16) ∧ ∃ (y : MsixVec), y =
      { x with data := BitVec.ofNat 32 v.toNat, masked := bitAt v.toNat 32 } ∧ off.toNat % 16 = 8) ∧
    (∃ (h : HostLinkNo) (off : BitVec 38) (ide : Bool) (s u : State) (pa ctx : Nat), (s.host h).dlup = true ∧ ∃ (data : List Byte), 0 <
      data.length ∧ data.length ≤ 512 ∧ off.toNat % 4096 + data.length ≤ 4096 ∧ barAdmit s h off.toNat data.length (·.wr) ide = some (pa,
      ctx) ∧ physWrite s (.hostLink h) ctx pa data = (.ok, u)) ∧
    (∃ (h : HostLinkNo) (off : BitVec 38) (ide : Bool) (s : State), (s.host h).dlup = true ∧ ∃ (data : List Byte), 0 < data.length ∧
      data.length ≤ 512 ∧ off.toNat % 4096 + data.length ≤ 4096 ∧ barAdmit s h off.toNat data.length (·.wr) ide = none) ∧
    (∃ (h : HostLinkNo) (off : BitVec 38) (ide : Bool) (s u : State) (pa ctx : Nat), (s.host h).dlup = true ∧ ∃ (len : BitVec 13) (bs :
      List Byte), 0 < len.toNat ∧ len.toNat ≤ 4096 ∧ off.toNat % 4096 + len.toNat ≤ 4096 ∧ barAdmit s h off.toNat len.toNat (·.rd) ide =
      some (pa, ctx) ∧ physRead s (.hostLink h) ctx pa len.toNat = (.ok, bs, u)) ∧
    (∃ (h : HostLinkNo) (off : BitVec 38) (ide : Bool) (s : State), (s.host h).dlup = true ∧ ∃ (len : BitVec 13), 0 < len.toNat ∧
      len.toNat ≤ 4096 ∧ off.toNat % 4096 + len.toNat ≤ 4096 ∧ barAdmit s h off.toNat len.toNat (·.rd) ide = none) ∧
    (∃ (h : HostLinkNo) (off : BitVec 38) (ide : Bool) (s u : State) (pa ctx : Nat), (s.host h).dlup = true ∧ ∃ (op : HostOp) (lg : BitVec
      3) (v c : W64) (old n : Nat), (lg = 2 ∨ lg = 3) ∧ n = 2 ^ lg.toNat ∧ off.toNat % n = 0 ∧ barAdmit s h off.toNat n (·.at_) ide = some
      (pa, ctx) ∧ physAtomic s (.hostLink h) ctx pa n (hostAop op) v.toNat c.toNat = (.ok, old, u)) ∧
    (∃ (h : HostLinkNo) (off : BitVec 38) (ide : Bool) (s : State), (s.host h).dlup = true ∧ ∃ (lg : BitVec 3) (n : Nat), (lg = 2 ∨ lg =
      3) ∧ n = 2 ^ lg.toNat ∧ off.toNat % n = 0 ∧ barAdmit s h off.toNat n (·.at_) ide = none) ∧
    (∃ (h : HostLinkNo) (off : BitVec 38) (s : State), (s.host h).dlup = true ∧ off.toNat % 16 = 0) :=
  ⟨⟨0, (wHost { cxlup := true }), _, rfl, by decide +kernel, by decide +kernel⟩,
   ⟨9, { reqs := [{ wReq .read with target := 3, toHost := true }] }, { wReq .read with target := 3, toHost := true }, by decide +kernel,
     by decide +kernel, by decide +kernel, (List.replicate 8 1), by decide +kernel, by decide +kernel⟩,
   ⟨9,
     { wJob { ring := 2, desc := wD 1 0 } with
       reqs := [{
         id := 9, agent := .copyIn 0 0, kind := .read, ctx := 7, va := 0, target := 3, toHost := true, addr := 0, len := 0, since := 0 }] },
     { id := 9, agent := .copyIn 0 0, kind := .read, ctx := 7, va := 0, target := 3, toHost := true, addr := 0, len := 0, since := 0 },
     by decide +kernel, by decide +kernel, by decide +kernel, _, rfl, by decide +kernel, 0, { ring := 2, desc := wD 1 0 },
     by decide +kernel, by decide +kernel⟩,
   ⟨9,
     {
       reqs := [{
         id := 9, agent := .core 0, kind := .read, ctx := 7, va := 0, target := 3, toHost := true, addr := 0, len := 0, since := 0 }] },
     { id := 9, agent := .core 0, kind := .read, ctx := 7, va := 0, target := 3, toHost := true, addr := 0, len := 0, since := 0 },
     by decide +kernel, by decide +kernel, by decide +kernel, _, rfl, by decide +kernel, by decide +kernel⟩,
   ⟨0, { wHost {} with ports := [(0, { reqide := true })] }, _, rfl, by decide +kernel, 0, by decide +kernel, by decide +kernel⟩,
   ⟨0, (wHost {}), _, rfl, by decide +kernel, 0x8000, by decide +kernel, by decide +kernel, by decide +kernel⟩,
   ⟨0, (wHost {}), _, rfl, by decide +kernel, 0x7FF0, _, by decide +kernel, by decide +kernel, rfl, by decide +kernel⟩,
   ⟨0, (wHost {}), _, rfl, by decide +kernel, 0x7FF8, 1, _, by decide +kernel, by decide +kernel, rfl, _, rfl, by decide +kernel⟩,
   ⟨0, 0xFFFF, false, (wHost { inwin := [(0, { v := true, wr := true, ctx := 7 })] }), _, 0xFFFF, 7, by decide +kernel, [1],
     by decide +kernel, by decide +kernel, by decide +kernel, by decide +kernel, pairOf (by decide +kernel)⟩,
   ⟨0, 0x10000, false, (wHost { inwin := [(0, { v := true, wr := true, ctx := 7 })] }), by decide +kernel, [1], by decide +kernel,
     by decide +kernel, by decide +kernel, by decide +kernel⟩,
   ⟨0, 0xF000, false, (wHost { inwin := [(0, { v := true, rd := true, ctx := 7 })] }), _, _, _, by decide +kernel, 4096, _,
     by decide +kernel, by decide +kernel, by decide +kernel, rfl, tripOf (by decide +kernel)⟩,
   ⟨0, 0xF000, false, (wHost {}), by decide +kernel, 1, by decide +kernel, by decide +kernel, by decide +kernel, by decide +kernel⟩,
   ⟨0, 0xFFF8, false, (wHost { inwin := [(0, { v := true, at_ := true, ctx := 7 })] }), _, _, _, by decide +kernel, .cas, 3, 1, 0, _, 8,
     by decide +kernel, by decide +kernel, by decide +kernel, rfl, tripOf (by decide +kernel)⟩,
   ⟨0, 0xF000, false, (wHost {}), by decide +kernel, 3, 8, by decide +kernel, by decide +kernel, by decide +kernel, by decide +kernel⟩,
   ⟨0, 0, (wHost {}), by decide +kernel, by decide +kernel⟩⟩

theorem witness_CxlAccessesActForTheHost :
    (∃ (off : BitVec 40) (s : State), (s.host 0).cxlup = true ∧ hdmLine s off.toNat = none) ∧
    (∃ (off : BitVec 40) (s : State) (line ctx : Nat) (a : ALine), (s.host 0).cxlup = true ∧ hdmLine s off.toNat = some (line, ctx) ∧ a =
      s.al line 13 ∧ ∃ bs u, physRead s (.hostLink 0) ctx (line * 128) 128 = (.ok, bs, u)) ∧
    (∃ (off : BitVec 40) (s : State) (line ctx : Nat) (a : ALine), (s.host 0).cxlup = true ∧ hdmLine s off.toNat = some (line, ctx) ∧ a =
      s.al line 13 ∧ s.coh.dead.getLsbD 13 = false ∧ requestOpen s line 13 = false ∧ entriesOf s (lineDie line) 13 < entriesFor 13 ∧ (a.st
      = .i ∨ a.st = .imd ∨ a.st = .s)) ∧
    (∃ (off : BitVec 40) (s : State) (line ctx : Nat) (a : ALine), (s.host 0).cxlup = true ∧ hdmLine s off.toNat = some (line, ctx) ∧ a =
      s.al line 13 ∧ s.coh.dead.getLsbD 13 = false ∧ requestOpen s line 13 = false ∧ entriesOf s (lineDie line) 13 < entriesFor 13 ∧ (a.st
      = .i ∨ a.st = .isd ∨ a.st = .s)) ∧
    (∃ (off : BitVec 40) (s : State) (line ctx : Nat) (a : ALine), (s.host 0).cxlup = true ∧ hdmLine s off.toNat = some (line, ctx) ∧ a =
      s.al line 13 ∧ s.coh.dead.getLsbD 13 = false ∧ requestOpen s line 13 = false ∧ entriesOf s (lineDie line) 13 < entriesFor 13 ∧ a.st
      = .isdi) ∧
    (∃ (off : BitVec 40) (s : State) (line ctx : Nat) (a : ALine), (s.host 0).cxlup = true ∧ hdmLine s off.toNat = some (line, ctx) ∧ a =
      s.al line 13 ∧ s.coh.dead.getLsbD 13 = false ∧ requestOpen s line 13 = false ∧ entriesOf s (lineDie line) 13 < entriesFor 13 ∧
      biOpen s line = false ∧ (a.st = .m ∨ a.st = .e ∨ a.st = .s ∨ a.st = .i)) ∧
    (∃ (off : BitVec 40) (s : State) (line ctx : Nat) (a : ALine), (s.host 0).cxlup = true ∧ hdmLine s off.toNat = some (line, ctx) ∧ a =
      s.al line 13 ∧ biOpen s line = true ∧ ∃ d u v, u = dropStale (putLine s line d) line ∧ v = u.setDir line
      { u.dirE line with dirty := true }) ∧
    (∃ (line : BitVec 45) (s u : State), biOpen s line.toNat = true ∧ u = s.setHost 0
      { s.host 0 with snoops := (s.host 0).snoops.filter (fun e => decide (e.1 ≠ line.toNat)) } ∧ ∃ t sn, s.txn line.toNat = some t ∧
      t.owed.getLsbD 13 = true ∧ t.asked = some sn ∧ sn = .snpS) ∧
    (∃ (line : BitVec 45) (s u : State), biOpen s line.toNat = true ∧ u = s.setHost 0
      { s.host 0 with snoops := (s.host 0).snoops.filter (fun e => decide (e.1 ≠ line.toNat)) } ∧ (s.txn line.toNat = none ∨ (∃ t, s.txn
      line.toNat = some t ∧ (t.owed.getLsbD 13 = false ∨ t.asked = none)))) :=
  ⟨⟨0xFFFFFFFF80, (wHost { cxlup := true }), by decide +kernel, by decide +kernel⟩,
   ⟨0x280, { wHost { cxlup := true, hdmV := true, hdmCtx := 7 } with coh := { agents := [(93, { st := .e })] } }, 5, 7, _,
     by decide +kernel, by decide +kernel, rfl, _, _, tripOf (by decide +kernel)⟩,
   ⟨0x280, { wHost { cxlup := true, hdmV := true, hdmCtx := 7 } with coh := { } }, 5, 7, _, by decide +kernel, by decide +kernel, rfl,
     by decide +kernel, by decide +kernel, by decide +kernel, by decide +kernel⟩,
   ⟨0x280, { wHost { cxlup := true, hdmV := true, hdmCtx := 7 } with coh := { } }, 5, 7, _, by decide +kernel, by decide +kernel, rfl,
     by decide +kernel, by decide +kernel, by decide +kernel, by decide +kernel⟩,
   ⟨0x280, { wHost { cxlup := true, hdmV := true, hdmCtx := 7 } with coh := { agents := [(80 + 13, { st := .isdi })] } }, 5, 7, _,
     by decide +kernel, by decide +kernel, rfl, by decide +kernel, by decide +kernel, by decide +kernel, by decide +kernel⟩,
   ⟨0xFF80, { wHost { cxlup := true, hdmV := true, hdmCtx := 7 } with coh := { agents := [(8189, { st := .m })] } }, 511, 7, _,
     by decide +kernel, by decide +kernel, rfl, by decide +kernel, by decide +kernel, by decide +kernel, by decide +kernel,
     by decide +kernel⟩,
   ⟨0x280, { wHost { cxlup := true, hdmV := true, hdmCtx := 7, snoops := [(5, 0)] } with coh := { agents := [(93, { st := .m })] } }, 5,
     7, _, by decide +kernel, by decide +kernel, rfl, by decide +kernel, 1, _, _, rfl, rfl⟩,
   ⟨5, { wHost { snoops := [(5, 0)] } with coh := { txns := [(5, some { wTxn with owed := 0x2000, asked := some .snpS })] } }, _,
     by decide +kernel, rfl, { wTxn with owed := 0x2000, asked := some .snpS }, .snpS, by decide +kernel, by decide +kernel,
     by decide +kernel, by decide +kernel⟩,
   ⟨5, { wHost { snoops := [(5, 0)] } with coh := { txns := [(5, some wTxn)] } }, _, by decide +kernel, rfl, (Or.inr ⟨wTxn,
     by decide +kernel, by decide +kernel⟩)⟩⟩

theorem witness_DamperEstimatesSharesAndProtects :
    (∃ (w : WindowIn) (s : State), w.powers.length = 5 ∧ s.power.pkgPower = true) ∧
    (∃ (s : State), s.power.counted = 0x7F) ∧
    (∃ (s : State), s.power.counted = 0) ∧
    (∃ (p : PowerSt) (e : Nat), e ≤ p.cap.toNat ∧ p.cap.toNat ≤ e + 64) ∧
    (∃ (v : W64), 1800 ≤ field v.toNat 0 12 ∧ field v.toNat 0 12 ≤ 3200 ∧ ranksClash v.toNat = false) ∧
    (∃ (v : W64), (field v.toNat 0 12 < 1800 ∨ 3200 < field v.toNat 0 12 ∨ ranksClash v.toNat = true)) ∧
    (∃ (v : W64), 2 ≤ field v.toNat 0 4 ∧ field v.toNat 0 4 ≤ 8 ∧ 8 ≤ field v.toNat 4 6) ∧
    (∃ (v : W64), (field v.toNat 0 4 < 2 ∨ 8 < field v.toNat 0 4 ∨ field v.toNat 4 6 < 8)) ∧
    (∃ (s : State), readyStk s = true ∧ s.power.pkgPower = true) ∧
    (∃ (g : GrateNo) (s : State), readyHth s (g.val / 24) = true) ∧
    (∃ (u : GovUnit) (demand : BitVec 7) (slack : Bool) (s : State) (k old aim new : Nat), demand.toNat ≤ 64 ∧ k = govUnit u ∧ old =
      Tab.get 0 s.power.governed k ∧ aim = min demand.toNat (unitLevel s.power u) ∧ (slack = false ∨ aim = old → new = old) ∧ (slack =
      true → old < aim → new = old + 1) ∧ (slack = true → aim < old → new + 1 = old)) ∧
    (∃ (x : Supply) (s : State), s.power.feedOn = true ∧ (x = .feed ∨ s.power.pkgPower = true) ∧ supplyCode x ∉ s.power.dipping) ∧
    (∃ (x : Supply) (s : State) (rest : List Nat), supplyCode x ∈ s.power.dipping ∧ rest = s.power.dipping.filter (fun k => decide (k ≠
      supplyCode x))) ∧
    (∃ (s : State), s.power.hold = true ∧ 22500 ≤ s.elapsed - s.power.holdFrom) ∧
    (∃ (die : Fin 5) (hot : BitVec 16) (s : State) (n new : Nat), s.power.pkgPower = true ∧ n = ceilSteps die ∧ (hot.toInt < 92 * 16 → new
      = min n (ceiling s.power die + 1)) ∧ (92 * 16 ≤ hot.toInt → hot.toInt < 95 * 16 → new = ceiling s.power die) ∧ (95 * 16 ≤ hot.toInt
      → hot.toInt < 105 * 16 → new = max (if die.val = 4 then 4 else 2) (ceiling s.power die - 1)) ∧ (105 * 16 ≤ hot.toInt → new = n / 4)) ∧
    (∃ (die : Fin 5) (s u : State), s.power.pkgPower = true ∧ u = removePower (s.logTag .dmp die 486 0)) :=
  ⟨⟨{ others := 5, leakage := 1, powers := [1, 2, 3, 4, 5] }, { power := { pkgPower := true } }, by decide +kernel, by decide +kernel⟩,
   ⟨{ power := { counted := 0x7F } }, by decide +kernel⟩,
   ⟨{ power := { counted := 0 } }, by decide +kernel⟩,
   ⟨{}, 3000, by decide +kernel, by decide +kernel⟩,
   ⟨0xE40C80, by decide +kernel, by decide +kernel, by decide +kernel⟩,
   ⟨0xE40C81, by decide +kernel⟩,
   ⟨0x88, by decide +kernel, by decide +kernel, by decide +kernel⟩,
   ⟨0xE40C81, by decide +kernel⟩,
   ⟨{ wReady with power := { pkgPower := true } }, by decide +kernel, by decide +kernel⟩,
   ⟨0, wReady, by decide +kernel⟩,
   ⟨(.die 3), 64, false, {}, _, _, _, _, by decide +kernel, rfl, rfl, rfl, fun _ => rfl, (fun h => nomatch h), (fun h => nomatch h)⟩,
   ⟨(.lpddr 3), { power := { feedOn := true, pkgPower := true, dipping := [0] } }, by decide +kernel, by decide +kernel,
     by decide +kernel⟩,
   ⟨.feed, { power := { dipping := [supplyCode .feed] } }, _, by decide +kernel, rfl⟩,
   ⟨{ power := { hold := true }, elapsed := 22500 }, by decide +kernel, by decide +kernel⟩,
   ⟨3, (95 * 16), { power := { pkgPower := true } }, _, (max 2 (ceiling { pkgPower := true } 3 - 1)), by decide +kernel, rfl,
     by decide +kernel, by decide +kernel, by decide +kernel, by decide +kernel⟩,
   ⟨3, { power := { pkgPower := true } }, _, by decide +kernel, rfl⟩⟩

theorem witness_ClocksAndTheFeedAreFollowed :
    (∃ (mv : W32) (s u : State), s.power.feedOn = false ∧ 39000 < mv.toNat ∧ u =
      { s with
        power := { s.power with feedOn := true, sense := true, softStart := true, pkgPower := true, lossSeen := false },
        kindle := { s.kindle with lastKind := 0 } }) ∧
    (∃ (s : State), s.power.feedOn = true ∧ s.power.softStart = true) ∧
    (∃ (s : State), s.power.feedOn = true ∧ s.power.softStart = false ∧ s.power.clk.rlock = false) ∧
    (∃ (d : DieNo) (s : State), s.power.clk.slock.getLsbD d.val = true) ∧
    (∃ (s u v : State), s.power.clk.refok = true ∧ u =
      { s with power := { s.power with clk := { s.power.clk with refok := false, reflost := true, hold := true } } } ∧ v = (List.range
      4).foldl (fun s h => hostLost s h 1) u) ∧
    (∃ (s : State), s.power.clk.hold = true ∧ s.power.clk.refok = false) ∧
    (∃ (s : State), s.power.feedOn = true ∧ s.power.sense = true) ∧
    (∃ (s : State), s.power.feedOn = true ∧ s.power.pkgPower = true) ∧
    (∃ (why : BitVec 3) (s : State), 1 ≤ why.toNat ∧ why.toNat ≤ 4 ∧ s.power.pkgPower = true ∧ s.stoker.downFor = why.toNat ∧ drained s =
      true ∧ writtenBack s = true) ∧
    (∃ (why : BitVec 3) (s : State), 1 ≤ why.toNat ∧ why.toNat ≤ 4 ∧ s.power.pkgPower = true ∧ s.stoker.downFor = why.toNat ∧ drained s =
      true ∧ writtenBack s = false) ∧
    (∃ (why : BitVec 3) (s : State), 1 ≤ why.toNat ∧ why.toNat ≤ 4 ∧ s.power.pkgPower = true ∧ s.stoker.downFor = why.toNat ∧ drained s =
      false) :=
  ⟨⟨39001, {}, _, by decide +kernel, by decide +kernel, rfl⟩,
   ⟨{ power := { feedOn := true, softStart := true } }, by decide +kernel, by decide +kernel⟩,
   ⟨{ power := { feedOn := true } }, by decide +kernel, by decide +kernel, by decide +kernel⟩,
   ⟨3, { power := { clk := { slock := 8 } } }, by decide +kernel⟩,
   ⟨{ power := { clk := { refok := true } } }, _, _, by decide +kernel, rfl, rfl⟩,
   ⟨{ power := { clk := { hold := true } } }, by decide +kernel, by decide +kernel⟩,
   ⟨{ power := { feedOn := true, sense := true } }, by decide +kernel, by decide +kernel⟩,
   ⟨{ power := { feedOn := true, pkgPower := true } }, by decide +kernel, by decide +kernel⟩,
   ⟨4, { power := { pkgPower := true }, stoker := { downFor := 4 } }, by decide +kernel, by decide +kernel, by decide +kernel,
     by decide +kernel, by decide +kernel, by decide +kernel⟩,
   ⟨1, { power := { pkgPower := true }, stoker := { downFor := 1 }, coh := { evict := [5] } }, by decide +kernel, by decide +kernel,
     by decide +kernel, by decide +kernel, by decide +kernel, by decide +kernel⟩,
   ⟨1, { power := { pkgPower := true }, stoker := { downFor := 1 }, harts := [(0, { sb := [wStore] })] }, by decide +kernel,
     by decide +kernel, by decide +kernel, by decide +kernel, by decide +kernel⟩⟩

theorem witness_KindlingGoesThroughItsStages :
    (∃ (s u : State), inStage s 0 = true ∧ s.power.clk.rlock = true ∧ s.power.softStart = false ∧ s.kindle.rstLow = false ∧ readyThn s =
      false ∧ u = measure (setReady s 0 true) [1, 2, 9, 10]) ∧
    (∃ (ok : Bool) (s u v : State) (p used : Nat), inStage s 1 = true ∧ readyThn s = true ∧ u =
      { s with trust := { s.trust with certOk := ok } } ∧ v = writeSel u (trialStep s.kindle.sel 0) ∧ p = boolNat
      (v.kindle.sel.pref.getLsbD 0) ∧ used = boolNat (s.kindle.slots.getLsbD 0) ∧ readyStk s = true) ∧
    (∃ (ok : Bool) (s u v : State) (p used : Nat), inStage s 1 = true ∧ readyThn s = true ∧ u =
      { s with trust := { s.trust with certOk := ok } } ∧ v = writeSel u (trialStep s.kindle.sel 0) ∧ p = boolNat
      (v.kindle.sel.pref.getLsbD 0) ∧ used = boolNat (s.kindle.slots.getLsbD 0) ∧ readyStk s = false ∧ s.kindle.altTried = true) ∧
    (∃ (ok : Bool) (s u v : State) (p used : Nat), inStage s 1 = true ∧ readyThn s = true ∧ u =
      { s with trust := { s.trust with certOk := ok } } ∧ v = writeSel u (trialStep s.kindle.sel 0) ∧ p = boolNat
      (v.kindle.sel.pref.getLsbD 0) ∧ used = boolNat (s.kindle.slots.getLsbD 0) ∧ readyStk s = false ∧ s.kindle.altTried = false) ∧
    (∃ (s u : State), inStage s 2 = true ∧ readyStk s = true ∧ s.kindle.combo = false ∧ u = writeSel s ([1, 2, 3].foldl trialStep
      s.kindle.sel) ∧ manSlot u = none) ∧
    (∃ (s u : State) (m : Nat), inStage s 2 = true ∧ readyStk s = true ∧ s.kindle.combo = false ∧ u = writeSel s ([1, 2, 3].foldl
      trialStep s.kindle.sel) ∧ manSlot u = some m ∧ (hstep u 1 ≠ hstep u 0 ∨ hstep u 2 ≠ hstep u 0 ∨ hstep u 3 ≠ hstep u 0)) ∧
    (∃ (s u : State) (m : Nat), inStage s 2 = true ∧ readyStk s = true ∧ s.kindle.combo = false ∧ u = writeSel s ([1, 2, 3].foldl
      trialStep s.kindle.sel) ∧ manSlot u = some m ∧ hstep u 1 = hstep u 0 ∧ hstep u 2 = hstep u 0 ∧ hstep u 3 = hstep u 0 ∧ selectPairing
      u (Tab.get {} u.kindle.manifests m) (imgOf u 0 (boolNat (u.kindle.slots.getLsbD 0))).ver = none) ∧
    (∃ (s u v : State) (m : Nat), inStage s 2 = true ∧ readyStk s = true ∧ s.kindle.combo = false ∧ u = writeSel s ([1, 2, 3].foldl
      trialStep s.kindle.sel) ∧ manSlot u = some m ∧ hstep u 1 = hstep u 0 ∧ hstep u 2 = hstep u 0 ∧ hstep u 3 = hstep u 0 ∧ ∃ (sl : List
      Nat) (gpv : BitVec 16) (slots : BitVec 4), selectPairing u (Tab.get {} u.kindle.manifests m) (imgOf u 0 (boolNat
      (u.kindle.slots.getLsbD 0))).ver = some (sl, gpv) ∧ slots = (List.range 3).foldl (fun v i => setBit4 v (i + 1) (decide (nth 0 sl i =
      1))) u.kindle.slots ∧ v = { u with kindle := { u.kindle with combo := true, manUsed := some m, gpv := gpv, slots := slots } }) ∧
    (∃ (s : State), s.kindle.sel.pend = 0) ∧
    (∃ (d : DieNo) (s u : State), s.kindle.combo = true ∧ Tab.get false s.kindle.loaded d.val = false ∧ reachable s 4 d = true ∧
      s.power.pkgPower = true ∧ u =
      { s with
        kindle := { s.kindle with
          loaded := Tab.put false s.kindle.loaded d.val true, dieWait := Tab.put false s.kindle.dieWait d.val false },
        power := { s.power with clk := { s.power.clk with slock := s.power.clk.slock ||| BitVec.ofNat 4 (2 ^ d.val) } } }) ∧
    (∃ (d : DieNo) (trained : W32) (s u : State), readyHth s d = true ∧ u = refreshHth ((List.range 32).foldl (fun v c => tryChannel v (32
      * d.val + c) (trained.getLsbD c)) s) d) ∧
    (∃ (s : State) (ch : Nat), (readyCh s ch = true ∨ 3 ≤ Tab.get 0 s.kindle.chTries ch)) ∧
    (∃ (s u : State) (ch : Nat), readyCh s ch = false ∧ Tab.get 0 s.kindle.chTries ch < 3 ∧ u = tryChannel s ch false) ∧
    (∃ (image : List Byte) (s u w : State) (n : Nat), (List.range 4).find? (dieWhole s) = some n ∧ (s.kindle.rtSet = true → u = s) ∧
      (s.kindle.rtSet = false → u = [4, 5, 6, 7, 8, 9, 10, 11, 12, 13, 14, 15].foldl entered ((installRuntime
      { s with kindle := { s.kindle with rtSet := true, rtdie := BitVec.ofNat 2 n } } n).putBytes (n * dieSize) (image.take 0x3FFF000))) ∧
      ∃ (passed : BitVec 12), passed ≠ 0 ∧ w = (List.range 12).foldl (fun v c => if passed.getLsbD c && !(readyClu v c) then setReady
      { v with
        kindle := { v.kindle with cluWait := Tab.put false v.kindle.cluWait c false },
        coh := { v.coh with dead := v.coh.dead &&& ~~~(bitMask c) } }
      (4 + c) true else v) u ∧ u.stoker.armed = false ∧ (∀ c : Fin 12, readyClu u c.val = false)) ∧
    (∃ (image : List Byte) (s u w : State) (n : Nat), (List.range 4).find? (dieWhole s) = some n ∧ (s.kindle.rtSet = true → u = s) ∧
      (s.kindle.rtSet = false → u = [4, 5, 6, 7, 8, 9, 10, 11, 12, 13, 14, 15].foldl entered ((installRuntime
      { s with kindle := { s.kindle with rtSet := true, rtdie := BitVec.ofNat 2 n } } n).putBytes (n * dieSize) (image.take 0x3FFF000))) ∧
      ∃ (passed : BitVec 12), passed ≠ 0 ∧ w = (List.range 12).foldl (fun v c => if passed.getLsbD c && !(readyClu v c) then setReady
      { v with
        kindle := { v.kindle with cluWait := Tab.put false v.kindle.cluWait c false },
        coh := { v.coh with dead := v.coh.dead &&& ~~~(bitMask c) } }
      (4 + c) true else v) u ∧ (u.stoker.armed = true ∨ (∃ c : Fin 12, readyClu u c.val = true))) ∧
    (∃ (image : List Byte) (s u : State) (n : Nat), (List.range 4).find? (dieWhole s) = some n ∧ s.kindle.rtSet = false ∧ u =
      (installRuntime { s with kindle := { s.kindle with rtSet := true, rtdie := BitVec.ofNat 2 n } } n).putBytes (n * dieSize)
      (image.take 0x3FFF000) ∧ ∃ (passed : BitVec 12), passed ≠ 0 ∧ (∀ c : Fin 12, readyClu s c.val = false) ∧ fringOf u 0 = none) ∧
    (∃ (s : State), s.kindle.stage = 6 ∧ s.kindle.opened = false ∧ ∃ (f : Fin 18), s.stoker.cfg.fluen.getLsbD f.val = true) ∧
    (∃ (s : State), inStage s 0 = true ∧ s.power.clk.rlock = true ∧ readyThn s = false ∧ overdue s 200 1125000 = true) ∧
    (∃ (s : State), inStage s 1 = true ∧ overdue s 201 45000000 = true) ∧
    (∃ (s : State), inStage s 2 = true ∧ s.kindle.combo = false ∧ overdue s 202 450000000 = true) ∧
    (∃ (s : State), ∃ (d : DieNo), s.kindle.combo = true ∧ Tab.get false s.kindle.loaded d.val = false ∧ overdue s (16 + d.val) 11250000 =
      true ∧ Tab.get false s.kindle.dieRetry d.val = false) ∧
    (∃ (s : State), ∃ (d : DieNo), s.kindle.combo = true ∧ Tab.get false s.kindle.loaded d.val = false ∧ overdue s (16 + d.val) 11250000 =
      true ∧ Tab.get false s.kindle.dieRetry d.val = true) ∧
    (∃ (s : State), ∃ (ch : Fin 128), ∃ u, readyHth s (ch.val / 32) = true ∧ readyCh s ch.val = false ∧ overdue s (20 + ch.val / 32)
      112500000 = true ∧ u = s.logTag .chm (64 + ch.val) 489 0) ∧
    (∃ (s : State), ∃ (c : Fin 12), s.kindle.rtSet = true ∧ readyClu s c.val = false ∧ overdue s (4 + c.val) 22500000 = true) :=
  ⟨⟨{ power := { feedOn := true, pkgPower := true, clk := { rlock := true } } }, _, by decide +kernel, by decide +kernel,
     by decide +kernel, by decide +kernel, by decide +kernel, rfl⟩,
   ⟨true, (wStage 1 { ready0 := 3 }), _, _, _, _, by decide +kernel, by decide +kernel, rfl, rfl, rfl, rfl, by decide +kernel⟩,
   ⟨true, (wStage 1 { ready0 := 1, altTried := true }), _, _, _, _, by decide +kernel, by decide +kernel, rfl, rfl, rfl, rfl,
     by decide +kernel, by decide +kernel⟩,
   ⟨true, (wStage 1 { ready0 := 1 }), _, _, _, _, by decide +kernel, by decide +kernel, rfl, rfl, rfl, rfl, by decide +kernel,
     by decide +kernel⟩,
   ⟨(wStage 2 { ready0 := 3 }), _, by decide +kernel, by decide +kernel, by decide +kernel, rfl, by decide +kernel⟩,
   ⟨{ wStage 2 { ready0 := 3, manifests := [(1, { valid := true })] } with trust := { hsteps := [(1, 0xC0)] } }, _, 1, by decide +kernel,
     by decide +kernel, by decide +kernel, rfl, by decide +kernel, by decide +kernel⟩,
   ⟨(wStage 2 { ready0 := 3, manifests := [(1, { valid := true })] }), _, 1, by decide +kernel, by decide +kernel, by decide +kernel, rfl,
     by decide +kernel, by decide +kernel, by decide +kernel, by decide +kernel, by decide +kernel⟩,
   ⟨(wStage 2
     {
       ready0 := 3, images := [(2, { valid := true, ver := 1 }), (4, { valid := true, ver := 1 }), (6, { valid := true, ver := 1 })],
       manifests := [(1, {
         valid := true, entries := [{ stk := 0, rt := 1, ucode := 1, train := 1, cstep := 0xB0, hstep := 0xB0, gpv := 9 }] })] }),
     _, _, 1, by decide +kernel, by decide +kernel, by decide +kernel, rfl, by decide +kernel, by decide +kernel, by decide +kernel,
     by decide +kernel, [0, 0, 0], 9, _, by decide +kernel, rfl, rfl⟩,
   ⟨{}, by decide +kernel⟩,
   ⟨3, { wStage 3 { combo := true } with fabric := wReady.fabric }, _, by decide +kernel, by decide +kernel, by decide +kernel,
     by decide +kernel, rfl⟩,
   ⟨3, 0xFFFFFFFF, wReady, _, by decide +kernel, rfl⟩,
   ⟨{ kindle := { chTries := [(0, 3)] } }, 0, Or.inr (by decide +kernel)⟩,
   ⟨{}, _, 0, by decide +kernel, by decide +kernel, rfl⟩,
   ⟨[], { kindle := { rtSet := true, ready0 := 0xF000F, ready1 := BitVec.allOnes 64, ready2 := BitVec.allOnes 64 } }, _, _, 0,
     by decide +kernel, fun _ => rfl, (fun h => nomatch h), 1, by decide +kernel, rfl, by decide +kernel, by decide +kernel⟩,
   ⟨[],
     {
       kindle := { rtSet := true, ready0 := 0xF000F, ready1 := BitVec.allOnes 64, ready2 := BitVec.allOnes 64 },
       stoker := { armed := true } },
     _, _, 0, by decide +kernel, fun _ => rfl, (fun h => nomatch h), 1, by decide +kernel, rfl, Or.inl rfl⟩,
   ⟨[], { kindle := { ready0 := 0xF000F, ready1 := BitVec.allOnes 64, ready2 := BitVec.allOnes 64 } }, _, 0, by decide +kernel,
     by decide +kernel, rfl, (1 : BitVec 12), by decide +kernel, by decide +kernel, by decide +kernel⟩,
   ⟨{ wStage 6 {} with stoker := { cfg := { fluen := 1 } } }, by decide +kernel, by decide +kernel, 0, by decide +kernel⟩,
   ⟨{ wStage 0 {} with elapsed := 1125000, power := { feedOn := true, pkgPower := true, clk := { rlock := true } } }, by decide +kernel,
     by decide +kernel, by decide +kernel, by decide +kernel⟩,
   ⟨{ wStage 1 {} with elapsed := 45000000 }, by decide +kernel, by decide +kernel⟩,
   ⟨{ wStage 2 {} with elapsed := 450000000 }, by decide +kernel, by decide +kernel, by decide +kernel⟩,
   ⟨{ kindle := { combo := true }, elapsed := 11250000 }, 3, by decide +kernel, by decide +kernel, by decide +kernel, by decide +kernel⟩,
   ⟨{ kindle := { combo := true, dieRetry := [(3, true)] }, elapsed := 11250000 }, 3, by decide +kernel, by decide +kernel,
     by decide +kernel, by decide +kernel⟩,
   ⟨{ kindle := { ready0 := BitVec.allOnes 64 }, elapsed := 112500000 }, 127, _, by decide +kernel, by decide +kernel, by decide +kernel,
     rfl⟩,
   ⟨{ kindle := { rtSet := true }, elapsed := 22500000 }, (11 : Fin 12), by decide +kernel, by decide +kernel, by decide +kernel⟩⟩

theorem witness_ResetsAreTakenByTheirCause :
    (∃ (who : HartNo) (s err : State), hartReady s who = true ∧ (s.ht who).sb = [] ∧ err =
      { s with kindle := { s.kindle with resetErr := true } } ∧ ∃ (m : BitVec 12), m.getLsbD (clusterOf who) = false) ∧
    (∃ (who : HartNo) (s err : State), hartReady s who = true ∧ (s.ht who).sb = [] ∧ err =
      { s with kindle := { s.kindle with resetErr := true } } ∧ ∃ (m : BitVec 4), (s.kindle.rtSet && m.getLsbD s.kindle.rtdie.toNat) =
      false) ∧
    (∃ (who : HartNo) (s err : State), hartReady s who = true ∧ (s.ht who).sb = [] ∧ err =
      { s with kindle := { s.kindle with resetErr := true } } ∧ ∃ (m : BitVec 4), s.kindle.rtSet = true ∧ m.getLsbD s.kindle.rtdie.toNat =
      true) ∧
    (∃ (who : HartNo) (s err : State), hartReady s who = true ∧ (s.ht who).sb = [] ∧ err =
      { s with kindle := { s.kindle with resetErr := true } } ∧ ∃ (m : BitVec 12) (key : Byte), (key ≠ 0xA5 ∨ m.getLsbD (clusterOf who) =
      true)) ∧
    (∃ (who : HartNo) (s err : State), hartReady s who = true ∧ (s.ht who).sb = [] ∧ err =
      { s with kindle := { s.kindle with resetErr := true } } ∧ ∃ (key : Byte), key ≠ 0xA5) ∧
    (∃ (cause : BitVec 5) (s : State), 3 ≤ cause.toNat ∧ cause.toNat ≤ 5 ∧ s.power.feedOn = true) ∧
    (∃ (cause : BitVec 5) (s : State), 6 ≤ cause.toNat ∧ cause.toNat ≤ 10 ∧ cause ≠ 7 ∧ s.power.feedOn = true ∧ s.kindle.stage ≠ 0 ∧
      s.power.tripped = none) ∧
    (∃ (s : State) (t : Nat), s.power.feedOn = true ∧ s.power.tripped = some t ∧ 2250000000 ≤ s.elapsed - t ∧ coolantOk s = true ∧
      s.stoker.downFor ≠ 1) ∧
    (∃ (d : DieNo) (cause : BitVec 5) (s : State), 0x0B ≤ cause.toNat ∧ cause.toNat ≤ 0x0E ∧ s.power.pkgPower = true ∧ s.kindle.rtSet =
      true ∧ s.kindle.rtdie.toNat = d.val) ∧
    (∃ (d : DieNo) (cause : BitVec 5) (s : State), 0x0B ≤ cause.toNat ∧ cause.toNat ≤ 0x0E ∧ s.power.pkgPower = true ∧ ¬ (s.kindle.rtSet =
      true ∧ s.kindle.rtdie.toNat = d.val) ∧ tapered s d = true) ∧
    (∃ (d : DieNo) (cause : BitVec 5) (s : State), 0x0B ≤ cause.toNat ∧ cause.toNat ≤ 0x0E ∧ s.power.pkgPower = true ∧ ¬ (s.kindle.rtSet =
      true ∧ s.kindle.rtdie.toNat = d.val) ∧ tapered s d = false) ∧
    (∃ (s u : State), u = { s with kindle := { s.kindle with rstLow := true } } ∧ s.power.feedOn = true ∧ s.power.softStart = false) ∧
    (∃ (s u : State), u = { s with kindle := { s.kindle with rstLow := true } } ∧ (s.power.feedOn = false ∨ s.power.softStart = true)) :=
  ⟨⟨95, wReady, _, by decide +kernel, by decide +kernel, rfl, 0x7FF, by decide +kernel⟩,
   ⟨95, { wReady with kindle := { wReady.kindle with rtSet := true, rtdie := 3 } }, _, by decide +kernel, by decide +kernel, rfl, 7,
     by decide +kernel⟩,
   ⟨95, { wReady with kindle := { wReady.kindle with rtSet := true, rtdie := 3 } }, _, by decide +kernel, by decide +kernel, rfl, 8,
     by decide +kernel, by decide +kernel⟩,
   ⟨95, wReady, _, by decide +kernel, by decide +kernel, rfl, 0x800, 0xA5, by decide +kernel⟩,
   ⟨95, wReady, _, by decide +kernel, by decide +kernel, rfl, 0xA4, by decide +kernel⟩,
   ⟨5, { power := { feedOn := true } }, by decide +kernel, by decide +kernel, by decide +kernel⟩,
   ⟨10, (wStage 1 {}), by decide +kernel, by decide +kernel, by decide +kernel, by decide +kernel, by decide +kernel, by decide +kernel⟩,
   
     ⟨{
       power := { feedOn := true, tripped := some 0 }, elapsed := 2250000000,
       stoker := { sensors := [(215, { stat := 0 }), (216, { stat := 0 }), (217, { stat := 0 }), (218, { value := 4000, stat := 0 })] } },
     0, by decide +kernel, by decide +kernel, by decide +kernel, by decide +kernel, by decide +kernel⟩,
   ⟨3, 0x0E, { kindle := { rtSet := true, rtdie := 3 }, power := { pkgPower := true } }, by decide +kernel, by decide +kernel,
     by decide +kernel, by decide +kernel, by decide +kernel⟩,
   ⟨3, 0x0E, { power := { pkgPower := true } }, by decide +kernel, by decide +kernel, by decide +kernel, by decide +kernel,
     by decide +kernel⟩,
   ⟨3, 0x0E, { power := { pkgPower := true, governed := [(govUnit (.die 3), 1)] } }, by decide +kernel, by decide +kernel,
     by decide +kernel, by decide +kernel, by decide +kernel⟩,
   ⟨{ power := { feedOn := true } }, _, rfl, by decide +kernel, by decide +kernel⟩,
   ⟨{}, _, rfl, by decide +kernel⟩⟩

theorem witness_PackageResetKeepsTheManagementDomain :
    ∃ (s t : State) (cause : BitVec 5), exec (.packageReset cause) s = .next t :=
  ⟨(wStage 6 { ready0 := BitVec.allOnes 64 }), _, 8, nextOf (by decide +kernel)⟩

theorem witness_ThirunCountersKeysAndAttestation :
    (∃ (idx : BitVec 6) (val : BitVec 16) (s u : State), s.trust.arbBusy = false ∧ u =
      { s with trust := { s.trust with arbIdx := idx, arbVal := val } } ∧ raiseBad s idx.toNat val.toNat = false) ∧
    (∃ (idx : BitVec 6) (val : BitVec 16) (s u : State), s.trust.arbBusy = false ∧ u =
      { s with trust := { s.trust with arbIdx := idx, arbVal := val } } ∧ raiseBad s idx.toNat val.toNat = true) ∧
    (∃ (idx : BitVec 6) (val : BitVec 16) (s u : State), s.trust.arbBusy = true ∧ (idx = s.trust.arbIdx ∧ val = s.trust.arbVal → u = s) ∧
      (¬ (idx = s.trust.arbIdx ∧ val = s.trust.arbVal) → u = s.logTag .thn 0 581 idx.toNat)) ∧
    (∃ (read : BitVec 24) (s : State) (k : Nat), s.trust.arbBusy = true ∧ read &&& ~~~(arbIntended s.trust.arbVal) = 0 ∧ arbFree s.trust
      s.trust.arbIdx.toNat = some k) ∧
    (∃ (ctx : Ctx) (s u : State), s.trust.keyBusy = false ∧ u = { s with trust := { s.trust with keyCtx := ctx, keyOp := 1 } } ∧ keyBad s
      ctx.toNat 1 = false) ∧
    (∃ (ctx : Ctx) (s u : State), s.trust.keyBusy = false ∧ u = { s with trust := { s.trust with keyCtx := ctx, keyOp := 1 } } ∧ keyBad s
      ctx.toNat 1 = true) ∧
    (∃ (ctx : Ctx) (s u : State), s.trust.keyBusy = true ∧ (ctx = s.trust.keyCtx ∧ s.trust.keyOp = 1 → u = s) ∧ (¬ (ctx = s.trust.keyCtx ∧
      s.trust.keyOp = 1) → u = s.logTag .thn 0 581 ctx.toNat)) ∧
    (∃ (c : Fin 32) (s : State), Tab.get false s.trust.tableWait c.val = true) ∧
    (∃ (path : SpdmPath) (nonce : BitVec 256) (s u : State) (salt : BitVec 512) (n : Nat) (fields : List Nat), pathOpen s path = true ∧ n
      = Tab.get 0 s.trust.sessions (pathKey path) ∧ s.trust.certOk = true ∧ takeFree 512 s = (salt, u) ∧ fields = nonce.toNat ::
      ((List.range 11).filter (fun i => s.trust.measured.getLsbD i)).flatMap (fun i => [i, (measurement s i).toNat])) ∧
    (∃ (path : SpdmPath) (s v : State) (salt : BitVec 512) (n : Nat), pathOpen s path = true ∧ n = Tab.get 0 s.trust.sessions (pathKey
      path) ∧ s.trust.certOk = true ∧ n < pathLimit path ∧ takeFree 512
      { s with trust := { s.trust with sessions := Tab.put 0 s.trust.sessions (pathKey path) (n + 1) } } = (salt, v)) ∧
    (∃ (path : SpdmPath) (s : State) (n : Nat), pathOpen s path = true ∧ n = Tab.get 0 s.trust.sessions (pathKey path) ∧ (s.trust.certOk =
      false ∨ pathLimit path ≤ n)) ∧
    (∃ (path : SpdmPath) (s : State) (n : Nat), pathOpen s path = true ∧ n = Tab.get 0 s.trust.sessions (pathKey path) ∧ s.trust.certOk =
      false) ∧
    (∃ (body : BitVec 1024) (cert sig : Bool) (s : State), readyStk s = true ∧ readyThn s = true ∧ tokenOk s.trust body cert sig = true ∧
      field body.toNat 16 2 = 1) ∧
    (∃ (body : BitVec 1024) (cert sig : Bool) (s : State), readyStk s = true ∧ readyThn s = true ∧ tokenOk s.trust body cert sig = true ∧
      field body.toNat 16 2 = 2) ∧
    (∃ (body : BitVec 1024) (cert sig : Bool) (s : State), readyStk s = true ∧ readyThn s = true ∧ tokenOk s.trust body cert sig = false) :=
  ⟨⟨63, 0xFFFF, {}, _, by decide +kernel, rfl, by decide +kernel⟩,
   ⟨63, 0, {}, _, by decide +kernel, rfl, by decide +kernel⟩,
   ⟨5, 7, { trust := { arbBusy := true, arbIdx := 5, arbVal := 7 } }, _, by decide +kernel, fun _ => rfl, fun h => absurd ⟨rfl, rfl⟩ h⟩,
   ⟨0, { trust := { arbBusy := true, arbIdx := 63, arbVal := 1 } }, 0, by decide +kernel, by decide +kernel, by decide +kernel⟩,
   ⟨7, {}, _, by decide +kernel, rfl, by decide +kernel⟩,
   ⟨7, wMem, _, by decide +kernel, rfl, by decide +kernel⟩,
   ⟨5, { trust := { keyBusy := true, keyCtx := 5, keyOp := 1 } }, _, by decide +kernel, fun _ => rfl, fun h => absurd ⟨rfl, rfl⟩ h⟩,
   ⟨31, { trust := { tableWait := [(31, true)] } }, by decide +kernel⟩,
   ⟨.mctp, 5, { wReady with trust := { certOk := true } }, _, _, _, _, by decide +kernel, rfl, by decide +kernel, rfl, rfl⟩,
   ⟨.mctp, { wReady with trust := { certOk := true } }, _, _, _, by decide +kernel, rfl, by decide +kernel, by decide +kernel, rfl⟩,
   ⟨.mctp, wReady, _, by decide +kernel, rfl, by decide +kernel⟩,
   ⟨.mctp, wReady, _, by decide +kernel, rfl, by decide +kernel⟩,
   ⟨(wToken 1), true, true, wReady, by decide +kernel, by decide +kernel, wToken_ok 1 (Or.inl rfl), wToken_level 1 (by decide)⟩,
   ⟨(wToken 2), true, true, wReady, by decide +kernel, by decide +kernel, wToken_ok 2 (.inr rfl), wToken_level 2 (by omega)⟩,
   ⟨0, true, true, wReady, by decide +kernel, by decide +kernel, by decide +kernel⟩⟩

theorem witness_PatrolScrubCountsWhatItFinds :
    (∃ (line : BitVec 45) (s : State) (c : Nat) (m : MemCtl), line.toNat * 128 < mainSize ∧ channelReady s (line.toNat * 128) = true ∧ c =
      controllerOf (line.toNat * 128) ∧ m = s.mctl c ∧ ∃ u, u = s.setMctl c { m with corr := satAdd m.corr 1 } ∧ tagMatches s line.toNat =
      true) ∧
    (∃ (line : BitVec 45) (s : State) (c : Nat) (m : MemCtl), line.toNat * 128 < mainSize ∧ channelReady s (line.toNat * 128) = true ∧ c =
      controllerOf (line.toNat * 128) ∧ m = s.mctl c ∧ ∃ u, u = s.setMctl c { m with corr := satAdd m.corr 1 } ∧ tagMatches u line.toNat =
      true) ∧
    (∃ (line : BitVec 45) (s : State) (c : Nat) (m : MemCtl), line.toNat * 128 < mainSize ∧ channelReady s (line.toNat * 128) = true ∧ c =
      controllerOf (line.toNat * 128) ∧ m = s.mctl c ∧ ∃ u, u = s.setMctl c { m with corr := satAdd m.corr 1 } ∧ tagMatches s line.toNat =
      false) ∧
    (∃ (line : BitVec 45) (s : State) (c : Nat) (m : MemCtl), line.toNat * 128 < mainSize ∧ channelReady s (line.toNat * 128) = true ∧ c =
      controllerOf (line.toNat * 128) ∧ m = s.mctl c ∧ ∃ u, u = s.setMctl c { m with corr := satAdd m.corr 1 } ∧ tagMatches u line.toNat =
      false) ∧
    (∃ (line : BitVec 45) (s : State) (c : Nat) (m : MemCtl), line.toNat * 128 < mainSize ∧ channelReady s (line.toNat * 128) = true ∧ c =
      controllerOf (line.toNat * 128) ∧ m = s.mctl c ∧ ∃ cipher tag u, u = alterLine s line.toNat cipher tag ∧ tagMatches u line.toNat =
      true) ∧
    (∃ (line : BitVec 45) (s : State) (c : Nat) (m : MemCtl), line.toNat * 128 < mainSize ∧ channelReady s (line.toNat * 128) = true ∧ c =
      controllerOf (line.toNat * 128) ∧ m = s.mctl c ∧ ∃ cipher tag u, u = alterLine s line.toNat cipher tag ∧ tagMatches u line.toNat =
      false) ∧
    (∃ (line : BitVec 45) (s : State) (c : Nat) (m : MemCtl), line.toNat * 128 < mainSize ∧ channelReady s (line.toNat * 128) = true ∧ c =
      controllerOf (line.toNat * 128) ∧ m = s.mctl c ∧ fromMemory s line.toNat = true) ∧
    (∃ (line : BitVec 45) (s : State) (c : Nat) (m : MemCtl), line.toNat * 128 < mainSize ∧ channelReady s (line.toNat * 128) = true ∧ c =
      controllerOf (line.toNat * 128) ∧ m = s.mctl c ∧ fromMemory s line.toNat = false) :=
  ⟨⟨0x2FFFFFFFF, wReady, _, _, by decide +kernel, by decide +kernel, rfl, rfl, _, rfl, by decide +kernel⟩,
   ⟨0x2FFFFFFFF, wReady, _, _, by decide +kernel, by decide +kernel, rfl, rfl, _, rfl, by decide +kernel⟩,
   ⟨0x2FFFFFFFF, wStored, _, _, by decide +kernel, by decide +kernel, rfl, rfl, _, rfl, wStored_tag⟩,
   ⟨0x2FFFFFFFF, wStored, _, _, by decide +kernel, by decide +kernel, rfl, rfl, _, rfl, (tagMatches_corr ..).trans wStored_tag⟩,
   ⟨0x2FFFFFFFF, wReady, _, _, by decide +kernel, by decide +kernel, rfl, rfl, 0, (lineTag (lineKeys wReady 0x2FFFFFFFF) 0x2FFFFFFFF 0),
     _, rfl, (tagMatches_alterLine ..).trans (decide_eq_true rfl)⟩,
   ⟨0x2FFFFFFFF, wReady, _, _, by decide +kernel, by decide +kernel, rfl, rfl, 0, (lineTag (lineKeys wReady 0x2FFFFFFFF) 0x2FFFFFFFF 0 +
     1), _, rfl, (tagMatches_alterLine ..).trans (tag_ne _)⟩,
   ⟨0x2FFFFFFFF, wReady, _, _, by decide +kernel, by decide +kernel, rfl, rfl, by decide +kernel⟩,
   ⟨0x2FFFFFFFF, { wReady with coh := { dir := [(0x2FFFFFFFF, { dirty := true })] } }, _, _, by decide +kernel, by decide +kernel, rfl,
     rfl, by decide +kernel⟩⟩

theorem witness_StokerSensorsAndMessages :
    (∃ (i : Fin 220) (s : State), readyStk s = true ∧ sensorUp s i = false) ∧
    (∃ (i : Fin 220) (v : W32) (s u : State) (st : BitVec 2), readyStk s = true ∧ sensorUp s i = true ∧ st = sensorStat i v.toInt ∧ u =
      crossing { s with stoker := { s.stoker with sensors := Tab.put {} s.stoker.sensors i.val { value := v, stat := st } } } i (sensorOf
      s i).stat st v ∧ i.val ≠ 219 ∧ (coolantBeyond i v.toInt = false ∨ u.power.pkgPower = false)) ∧
    (∃ (i : Fin 220) (v : W32) (s u : State) (st : BitVec 2), readyStk s = true ∧ sensorUp s i = true ∧ st = sensorStat i v.toInt ∧ u =
      crossing { s with stoker := { s.stoker with sensors := Tab.put {} s.stoker.sensors i.val { value := v, stat := st } } } i (sensorOf
      s i).stat st v ∧ i.val ≠ 219 ∧ coolantBeyond i v.toInt = true ∧ u.power.pkgPower = true) ∧
    (∃ (i : Fin 220) (v : W32) (s u : State) (st : BitVec 2), readyStk s = true ∧ sensorUp s i = true ∧ st = sensorStat i v.toInt ∧ u =
      crossing { s with stoker := { s.stoker with sensors := Tab.put {} s.stoker.sensors i.val { value := v, stat := st } } } i (sensorOf
      s i).stat st v ∧ i.val = 219 ∧ v = 0) ∧
    (∃ (i : Fin 220) (v : W32) (s u : State) (st : BitVec 2), readyStk s = true ∧ sensorUp s i = true ∧ st = sensorStat i v.toInt ∧ u =
      crossing { s with stoker := { s.stoker with sensors := Tab.put {} s.stoker.sensors i.val { value := v, stat := st } } } i (sensorOf
      s i).stat st v ∧ i.val = 219 ∧ v = 1) ∧
    (∃ (s : State), s.power.feedOn = true) ∧
    (∃ (i : Nat), i < 144) ∧
    (∃ (s : State), s.stoker.armed = true ∧ s.stoker.period.toNat * 225000 ≤ s.elapsed - s.stoker.kicked) ∧
    (∃ (h : HartNo) (s : State), hartReady s h = true ∧ (s.ht h).sb = [] ∧ ∃ (ms : BitVec 16), 100 ≤ ms.toNat ∧ ms.toNat ≤ 60000) ∧
    (∃ (h : HartNo) (s : State), hartReady s h = true ∧ (s.ht h).sb = [] ∧ ∃ (ms : BitVec 16), (ms.toNat < 100 ∨ 60000 < ms.toNat)) ∧
    (∃ (s : State), readyStk s = true ∧ ∃ (via : Mctp), (via = .i3c ∨ (∃ h : HostLinkNo, (s.host h).dlup = true)) ∧ ∃ (n : BitVec 16),
      n.toNat ≤ 64) ∧
    (∃ (s : State), readyStk s = true ∧ ∃ (via : Mctp), (via = .i3c ∨ (∃ h : HostLinkNo, (s.host h).dlup = true)) ∧ ∃ (n : BitVec 16), 64
      < n.toNat) ∧
    (∃ (s : State), readyStk s = true ∧ newerA s.stoker = true) ∧
    (∃ (s : State), readyStk s = true ∧ newerA s.stoker = false) ∧
    (∃ (s : State), readyStk s = true ∧ s.power.pkgPower = true) ∧
    (∃ (s : State), readyStk s = true ∧ s.power.pkgPower = false) ∧
    (∃ (s : State), readyStk s = true ∧ ∃ (h : HostLinkNo), (s.host h).dlup = true) :=
  ⟨⟨211, wReady, by decide +kernel, by decide +kernel⟩,
   ⟨215, 0, { wReady with power := { pkgPower := true } }, _, _, by decide +kernel, by decide +kernel, rfl, rfl, by decide +kernel,
     by decide +kernel⟩,
   ⟨215, 801, { wReady with power := { pkgPower := true } }, _, _, by decide +kernel, by decide +kernel, rfl, rfl, by decide +kernel,
     by decide +kernel, by decide +kernel⟩,
   ⟨219, 0, wReady, _, _, by decide +kernel, by decide +kernel, rfl, rfl, by decide +kernel, by decide +kernel⟩,
   ⟨219, 1, wReady, _, _, by decide +kernel, by decide +kernel, rfl, rfl, by decide +kernel, by decide +kernel⟩,
   ⟨{ power := { feedOn := true } }, by decide +kernel⟩,
   ⟨143, by decide +kernel⟩,
   ⟨{ stoker := { armed := true, period := 100 }, elapsed := 22500000 }, by decide +kernel, by decide +kernel⟩,
   ⟨95, wReady, by decide +kernel, by decide +kernel, 60000, by decide +kernel, by decide +kernel⟩,
   ⟨95, wReady, by decide +kernel, by decide +kernel, 60001, by decide +kernel⟩,
   ⟨wReady, by decide +kernel, .i3c, Or.inl rfl, 64, by decide +kernel⟩,
   ⟨wReady, by decide +kernel, .i3c, Or.inl rfl, 65, by decide +kernel⟩,
   ⟨{ wReady with stoker := { cfgA := { ok := true } } }, by decide +kernel, by decide +kernel⟩,
   ⟨wReady, by decide +kernel, by decide +kernel⟩,
   ⟨{ wReady with power := { pkgPower := true } }, by decide +kernel, by decide +kernel⟩,
   ⟨wReady, by decide +kernel, by decide +kernel⟩,
   ⟨{ wReady with hosts := [(3, { dlup := true })] }, by decide +kernel, 3, by decide +kernel⟩⟩

theorem witness_FirmwareIsWrittenVerifiedAndApplied :
    (∃ (im : Image) (ver : W32) (arb : BitVec 6) (ents : List ManEnt) (good : Bool) (s u : State) (w : Writing), readyStk s = true ∧ (im =
      .manifest ∨ ver.toNat < 65536 ∧ ents = []) ∧ w =
      { im := imageNo im, slot := unusedSlot s (imageNo im), ver := ver, arb := arb, entries := ents, good := good } ∧ s.kindle.writing =
      none ∧ u = putSlot s w false) ∧
    (∃ (im : Image) (ver : W32) (arb : BitVec 6) (ents : List ManEnt) (good : Bool) (s : State) (w : Writing), readyStk s = true ∧ (im =
      .manifest ∨ ver.toNat < 65536 ∧ ents = []) ∧ w =
      { im := imageNo im, slot := unusedSlot s (imageNo im), ver := ver, arb := arb, entries := ents, good := good } ∧ s.kindle.writing ≠
      none) ∧
    (∃ (im : Image) (ver : W32) (arb : BitVec 6) (ents : List ManEnt) (good : Bool) (s : State) (w : Writing), readyStk s = true ∧ (im =
      .manifest ∨ ver.toNat < 65536 ∧ ents = []) ∧ w =
      { im := imageNo im, slot := unusedSlot s (imageNo im), ver := ver, arb := arb, entries := ents, good := good } ∧ ∃ (h : HostLinkNo)
      (code : Byte) (v : State), (s.host h).dlup = true ∧ takeFree 8 s = (code, v)) ∧
    (∃ (im : Image) (s u : State) (w : Writing), s.kindle.writing = some w ∧ w.im = imageNo im ∧ readyThn s = true ∧ readyStk s = true ∧ u
      = (putSlot s w w.good).logStk 8 (imageKind w.im + 0x10000 * w.slot)) ∧
    (∃ (im : Image) (s u : State) (n v : Nat), n = imageNo im ∧ v = Tab.get 0 s.kindle.verified n ∧ v ≠ 0 ∧ readyStk s = true ∧ u =
      { s with kindle := { s.kindle with verified := Tab.put 0 s.kindle.verified n 0 } }) :=
  ⟨⟨.training, 65535, 63, [], true, wReady, _, _, by decide +kernel, by decide +kernel, rfl, by decide +kernel, rfl⟩,
   ⟨.manifest, 65536, 63, [], true, { wReady with kindle := { wReady.kindle with writing := some { im := 0, slot := 1 } } }, _,
     by decide +kernel, by decide +kernel, rfl, by decide +kernel⟩,
   ⟨.runtime, 1, 63, [], true, { wReady with hosts := [(3, { dlup := true })] }, _, by decide +kernel, by decide +kernel, rfl, 3, _, _,
     by decide +kernel, rfl⟩,
   ⟨.manifest, { wReady with kindle := { wReady.kindle with writing := some { im := 4, slot := 1 } } }, _, { im := 4, slot := 1 },
     by decide +kernel, by decide +kernel, by decide +kernel, by decide +kernel, rfl⟩,
   ⟨.manifest, { wReady with kindle := { wReady.kindle with verified := [(4, 2)] } }, _, _, _, rfl, rfl, by decide +kernel,
     by decide +kernel, rfl⟩⟩

theorem witness_CheckpointsAndRestores :
    (∃ (pos : Position) (c : CkptIn) (s u : State) (t : TrainSt), c.members.getLsbD pos.val = true ∧ 1 ≤ c.dies ∧ c.dies ≤ 4 ∧
      s.train.stopped = false ∧ s.train.restoreStep = none ∧ keepsTraining s = true ∧ u = recordSteps (countMembers s) c.steps ∧ t =
      { u.train with members := c.members, lbound := c.lbound.toNat, bytes := c.bytes, dies := c.dies, accum := c.accum } ∧ t.slots = [] ∧
      t.lbound < 3 + buddySteps t) ∧
    (∃ (pos : Position) (c : CkptIn) (s u : State) (t t2 : TrainSt) (x : Ckpt), c.members.getLsbD pos.val = true ∧ 1 ≤ c.dies ∧ c.dies ≤ 4
      ∧ s.train.stopped = false ∧ s.train.restoreStep = none ∧ keepsTraining s = true ∧ u = recordSteps (countMembers s) c.steps ∧ t =
      { u.train with members := c.members, lbound := c.lbound.toNat, bytes := c.bytes, dies := c.dies, accum := c.accum } ∧ (t.slots ≠ []
      ∨ 3 + buddySteps t ≤ t.lbound) ∧ (t.slots.any (fun (e : Nat × Ckpt) => e.2.onBoard && decide (e.2.step = c.step)) = true → t2 =
      { t with pauses := t.pauses.drop (t.pauses.length - 8), nfail := t.nfail + c.reruns, due := false }) ∧ (t.slots.any (fun (e : Nat ×
      Ckpt) => e.2.onBoard && decide (e.2.step = c.step)) = false → t2 =
      { t with
        pauses := (t.pauses ++ [c.pauseUs.toNat]).drop (t.pauses.length + 1 - 8), nfail := t.nfail + c.reruns, due := false, losses := [],
        widths := [] })
      ∧ x =
      {
        step := c.step, onBoard := true, widths := u.train.widths, idh := c.idh, vers := c.vers,
        tmod := BitVec.ofNat 64 (memberSeconds t2), nfail := BitVec.ofNat 32 t2.nfail, lbound := c.lbound,
        dsec := BitVec.ofNat 32 (defaultMtbf u), clog := t2.pauses, dir := c.dir }) ∧
    (∃ (pos : Position) (steps : List StepIn) (s u : State) (i : Nat), u = recordSteps (countMembers s) steps ∧ newestSlot u.train pos
      (fun c => !c.buddy) = some i ∧ u.train.stopped = false ∧ positionDead u (buddyOf u.train pos) = false) ∧
    (∃ (pos : Position) (steps : List StepIn) (s u : State) (i : Nat), u = recordSteps (countMembers s) steps ∧ newestSlot u.train pos
      (fun c => !c.staged && held u.train c.step) = some i ∧ u.train.stopped = false) ∧
    (∃ (pos : Position) (spare vers : W64) (s u v : State) (point : Option W64), keepsTraining s = true ∧ s.train.stopped = false ∧
      (s.memb pos.val).st ≠ 1 ∧ s.train.members.getLsbD pos.val = true ∧ u = countMembers s ∧ point = restorePoint u pos ∧ v = recompute
      { u with train := { dropUnsealed u.train with nfail := u.train.nfail + 1 } } ∧ ∃ step i p, point = some step ∧ slotOf u.train pos
      step = some i ∧ (ckpt u.train pos i).vers = vers ∧ p ∈ u.group.peers ∧ p.idh = spare ∧ p.spare = true) ∧
    (∃ (pos : Position) (spare : W64) (s u v : State) (point : Option W64), keepsTraining s = true ∧ s.train.stopped = false ∧ (s.memb
      pos.val).st ≠ 1 ∧ s.train.members.getLsbD pos.val = true ∧ u = countMembers s ∧ point = restorePoint u pos ∧ v = recompute
      { u with train := { dropUnsealed u.train with nfail := u.train.nfail + 1 } } ∧ (point = none ∨ (∀ p ∈ u.group.peers, p.idh = spare →
      p.spare = false))) ∧
    (∃ (r : ReplayIn) (same : Bool) (s v u : State) (step : W64) (c : Ckpt), s.train.stopped = false ∧ keepsTraining s = true ∧
      (s.train.restoreStep ≠ none → v = countMembers s) ∧ (s.train.restoreStep = none → v =
      { countMembers s with
        train := { (countMembers s).train with
          restoreStep := latest (heldSteps (countMembers s).train), source := 0, nfail := s.train.nfail + 1 } })
      ∧ v.train.restoreStep = some step ∧ ckptAt v.train step = some c ∧ u = recompute v ∧ replayValid u.train c r same = false) ∧
    (∃ (r : ReplayIn) (same : Bool) (s v u : State) (step : W64) (c : Ckpt), s.train.stopped = false ∧ keepsTraining s = true ∧
      (s.train.restoreStep ≠ none → v = countMembers s) ∧ (s.train.restoreStep = none → v =
      { countMembers s with
        train := { (countMembers s).train with
          restoreStep := latest (heldSteps (countMembers s).train), source := 0, nfail := s.train.nfail + 1 } })
      ∧ v.train.restoreStep = some step ∧ ckptAt v.train step = some c ∧ u = recompute v ∧ replayValid u.train c r same = true ∧ c.loss1 =
      some r.loss1 ∧ c.loss2 = some r.loss2) ∧
    (∃ (r : ReplayIn) (same : Bool) (s v u : State) (step : W64) (c : Ckpt), s.train.stopped = false ∧ keepsTraining s = true ∧
      (s.train.restoreStep ≠ none → v = countMembers s) ∧ (s.train.restoreStep = none → v =
      { countMembers s with
        train := { (countMembers s).train with
          restoreStep := latest (heldSteps (countMembers s).train), source := 0, nfail := s.train.nfail + 1 } })
      ∧ v.train.restoreStep = some step ∧ ckptAt v.train step = some c ∧ u = recompute v ∧ replayValid u.train c r same = true ∧ ¬
      (c.loss1 = some r.loss1 ∧ c.loss2 = some r.loss2) ∧ ∃ src x, nextSource u.train step = some (src, x)) ∧
    (∃ (r : ReplayIn) (same : Bool) (s v u : State) (step : W64) (c : Ckpt), s.train.stopped = false ∧ keepsTraining s = true ∧
      (s.train.restoreStep ≠ none → v = countMembers s) ∧ (s.train.restoreStep = none → v =
      { countMembers s with
        train := { (countMembers s).train with
          restoreStep := latest (heldSteps (countMembers s).train), source := 0, nfail := s.train.nfail + 1 } })
      ∧ v.train.restoreStep = some step ∧ ckptAt v.train step = some c ∧ u = recompute v ∧ replayValid u.train c r same = true ∧ ¬
      (c.loss1 = some r.loss1 ∧ c.loss2 = some r.loss2) ∧ nextSource u.train step = none) :=
  ⟨⟨1, (wCkptIn 3), {}, _, _, by decide +kernel, by decide +kernel, by decide +kernel, by decide +kernel, by decide +kernel,
     by decide +kernel, rfl, rfl, by decide +kernel, by decide +kernel⟩,
   ⟨1, (wCkptIn 4), (wTrain {}), _, _, _, _, by decide +kernel, by decide +kernel, by decide +kernel, by decide +kernel,
     by decide +kernel, by decide +kernel, rfl, rfl, Or.inl (by decide +kernel), fun _ => rfl, fun h => absurd h (by decide +kernel), rfl⟩,
   ⟨1, [], { wTrain {} with train := { members := 3, slots := [(2, { wCkpt with buddy := false })] } }, _, 0, rfl, by decide +kernel,
     by decide +kernel, by decide +kernel⟩,
   ⟨1, [], { wTrain {} with train := { members := 3, slots := [(0, wCkpt), (2, { wCkpt with staged := false })] } }, _, 0, rfl,
     by decide +kernel, by decide +kernel⟩,
   ⟨1, 5, 0, { wTrain {} with group := { gst := .member, peers := [{ idh := 5, pv := false, pos := 0, spare := true, last := 0 }] } }, _,
     _, _, by decide +kernel, by decide +kernel, by decide +kernel, by decide +kernel, rfl, rfl, rfl, 8, 0,
     { idh := 5, pv := false, pos := 0, spare := true, last := 0 }, by decide +kernel, by decide +kernel, by decide +kernel,
     by decide +kernel, by decide +kernel, by decide +kernel⟩,
   ⟨1, 5, { train := { members := 3 } }, _, _, _, by decide +kernel, by decide +kernel, by decide +kernel, by decide +kernel, rfl, rfl,
     rfl, by decide +kernel⟩,
   ⟨{ loss1 := 1, loss2 := 2, widths1 := [], widths2 := [] }, false, (wTrain { restoreStep := some 8, source := 0, accum := .bf16 }), _,
     _, 8, _, by decide +kernel, by decide +kernel, fun _ => rfl, (fun h => nomatch h), rfl, someOf (by decide +kernel), rfl,
     by decide +kernel⟩,
   ⟨{ loss1 := 1, loss2 := 2, widths1 := [], widths2 := [] }, false, (wTrain { restoreStep := some 8, source := 0, accum := .exact }), _,
     _, 8, _, by decide +kernel, by decide +kernel, fun _ => rfl, (fun h => nomatch h), rfl, someOf (by decide +kernel), rfl,
     by decide +kernel, by decide +kernel, by decide +kernel⟩,
   ⟨{ loss1 := 3, loss2 := 2, widths1 := [], widths2 := [] }, true, (wTrain { restoreStep := some 8, source := 0, accum := .exact }), _,
     _, 8, _, by decide +kernel, by decide +kernel, fun _ => rfl, (fun h => nomatch h), rfl, someOf (by decide +kernel), rfl,
     by decide +kernel, by decide +kernel, _, _, rfl⟩,
   ⟨{ loss1 := 3, loss2 := 2, widths1 := [], widths2 := [] }, true, (wTrain { restoreStep := some 8, source := 3, accum := .exact }), _,
     _, 8, _, by decide +kernel, by decide +kernel, fun _ => rfl, (fun h => nomatch h), rfl, someOf (by decide +kernel), rfl,
     by decide +kernel, by decide +kernel, rfl⟩⟩

theorem witness_RegistersAreWrittenAndReadByTheirOffset :
    (∃ (who : DevAgent) (v : W64) (pa : BitVec 52) (lg : BitVec 2) (write sg : Bool) (s run t : State) (off n : Nat), devReady s who =
      true ∧ devDrained s who = true ∧ n = 2 ^ lg.toNat ∧ (∀ h user, who = .core h user → t = deliverLost run h) ∧ (∀ p, who = .tile p →
      (s.gr p.g).lost = [] ∧ t = settleAll run) ∧ (who = .stoker ∨ who = .thirun → t = settleAll run) ∧ placeOf pa.toNat = .regs off ∧ ∃
      r, regAt (off / 8 * 8) = some r ∧ (∀ d, regDie r = some d → readyHth s d = true) ∧ regRight who r write = true ∧ (n = 4 ∨ n = 8) ∧
      off % n = 0 ∧ (write = true → run = regWrite s who r (writeWord s r (decide (off % 8 = 4)) (decide (n = 8)) v.toNat)) ∧ (write =
      false → run = deliverReg s who off n sg (regWord s r))) ∧
    (∃ (who : DevAgent) (va : W64) (pa : BitVec 52) (lg : BitVec 2) (write : Bool) (s run t : State) (off n : Nat), devReady s who = true
      ∧ devDrained s who = true ∧ n = 2 ^ lg.toNat ∧ (∀ h user, who = .core h user → t = deliverLost run h) ∧ (∀ p, who = .tile p → (s.gr
      p.g).lost = [] ∧ t = settleAll run) ∧ (who = .stoker ∨ who = .thirun → t = settleAll run) ∧ placeOf pa.toNat = .regs off ∧ ((n ≠ 4 ∧
      n ≠ 8) ∨ off % n ≠ 0) ∧ run = devFail s who va (regBase + off) write 3) ∧
    (∃ (who : DevAgent) (va : W64) (pa : BitVec 52) (lg : BitVec 2) (write : Bool) (s run t : State) (off n : Nat), devReady s who = true
      ∧ devDrained s who = true ∧ n = 2 ^ lg.toNat ∧ (∀ h user, who = .core h user → t = deliverLost run h) ∧ (∀ p, who = .tile p → (s.gr
      p.g).lost = [] ∧ t = settleAll run) ∧ (who = .stoker ∨ who = .thirun → t = settleAll run) ∧ placeOf pa.toNat = .regs off ∧ (n = 4 ∨
      n = 8) ∧ off % n = 0 ∧ regAt (off / 8 * 8) = none ∧ run = devFail s who va (regBase + off) write 1) ∧
    (∃ (who : DevAgent) (va : W64) (pa : BitVec 52) (lg : BitVec 2) (write : Bool) (s run t : State) (off n : Nat), devReady s who = true
      ∧ devDrained s who = true ∧ n = 2 ^ lg.toNat ∧ (∀ h user, who = .core h user → t = deliverLost run h) ∧ (∀ p, who = .tile p → (s.gr
      p.g).lost = [] ∧ t = settleAll run) ∧ (who = .stoker ∨ who = .thirun → t = settleAll run) ∧ placeOf pa.toNat = .regs off ∧ (n = 4 ∨
      n = 8) ∧ off % n = 0 ∧ ∃ r, regAt (off / 8 * 8) = some r ∧ ∃ d, regDie r = some d ∧ readyHth s d = false ∧ run = devFail s who va
      (regBase + off) write 1) ∧
    (∃ (who : DevAgent) (va : W64) (pa : BitVec 52) (lg : BitVec 2) (write : Bool) (s run t : State) (off n : Nat), devReady s who = true
      ∧ devDrained s who = true ∧ n = 2 ^ lg.toNat ∧ (∀ h user, who = .core h user → t = deliverLost run h) ∧ (∀ p, who = .tile p → (s.gr
      p.g).lost = [] ∧ t = settleAll run) ∧ (who = .stoker ∨ who = .thirun → t = settleAll run) ∧ placeOf pa.toNat = .regs off ∧ (n = 4 ∨
      n = 8) ∧ off % n = 0 ∧ ∃ r, regAt (off / 8 * 8) = some r ∧ (∀ d, regDie r = some d → readyHth s d = true) ∧ regRight who r write =
      false ∧ run = devFail s who va (regBase + off) write 2) ∧
    (∃ (who : DevAgent) (v : W64) (pa : BitVec 52) (lg : BitVec 2) (write : Bool) (s run t : State) (off n : Nat), devReady s who = true ∧
      devDrained s who = true ∧ n = 2 ^ lg.toNat ∧ (∀ h user, who = .core h user → t = deliverLost run h) ∧ (∀ p, who = .tile p → (s.gr
      p.g).lost = [] ∧ t = settleAll run) ∧ (who = .stoker ∨ who = .thirun → t = settleAll run) ∧ placeOf pa.toNat = .bell off ∧ write =
      true ∧ n = 8 ∧ off % 8 = 0 ∧ ∃ h user, who = .core h user ∧ run = bellWrite s (.core h) (off / 8) v) ∧
    (∃ (who : DevAgent) (v : W64) (pa : BitVec 52) (lg : BitVec 2) (write : Bool) (s run t : State) (off n : Nat), devReady s who = true ∧
      devDrained s who = true ∧ n = 2 ^ lg.toNat ∧ (∀ h user, who = .core h user → t = deliverLost run h) ∧ (∀ p, who = .tile p → (s.gr
      p.g).lost = [] ∧ t = settleAll run) ∧ (who = .stoker ∨ who = .thirun → t = settleAll run) ∧ placeOf pa.toNat = .bell off ∧ write =
      true ∧ n = 8 ∧ off % 8 = 0 ∧ ∃ p, who = .tile p ∧ run = (bellWrite s (.tile p) (off / 8) v).modGr p.g (fun x =>
      { x with pc := nextPc p })) ∧
    (∃ (who : DevAgent) (va : W64) (pa : BitVec 52) (lg : BitVec 2) (write : Bool) (s run t : State) (off n : Nat), devReady s who = true
      ∧ devDrained s who = true ∧ n = 2 ^ lg.toNat ∧ (∀ h user, who = .core h user → t = deliverLost run h) ∧ (∀ p, who = .tile p → (s.gr
      p.g).lost = [] ∧ t = settleAll run) ∧ (who = .stoker ∨ who = .thirun → t = settleAll run) ∧ placeOf pa.toNat = .bell off ∧ ¬ (write
      = true ∧ n = 8 ∧ off % 8 = 0) ∧ ((∃ h user, who = .core h user) ∨ (∃ p, who = .tile p)) ∧ run = devFail s who va (bellBase + off)
      write 3) ∧
    (∃ (who : DevAgent) (va : W64) (pa : BitVec 52) (lg : BitVec 2) (write : Bool) (s run t : State) (off n : Nat), devReady s who = true
      ∧ devDrained s who = true ∧ n = 2 ^ lg.toNat ∧ (∀ h user, who = .core h user → t = deliverLost run h) ∧ (∀ p, who = .tile p → (s.gr
      p.g).lost = [] ∧ t = settleAll run) ∧ (who = .stoker ∨ who = .thirun → t = settleAll run) ∧ placeOf pa.toNat = .bell off ∧ (who =
      .stoker ∨ who = .thirun) ∧ run = devFail s who va (bellBase + off) write 2) ∧
    (∃ (who : DevAgent) (off : BitVec 28) (wide : Bool) (v : W64) (s t run : State) (r : Reg) (n : Nat), devReady s who = true ∧
      devDrained s who = true ∧ n = (if wide then 8 else 4) ∧ (∀ h user, who = .core h user → t = deliverLost run h) ∧ (who = .stoker ∨
      who = .thirun → t = settleAll run) ∧ regAt (off.toNat / 8 * 8) = some r ∧ (∀ d, regDie r = some d → readyHth s d = true) ∧ regRight
      who r true = true ∧ off.toNat % n = 0 ∧ run = regWrite s who r (writeWord s r (decide (off.toNat % 8 = 4)) wide v.toNat)) ∧
    (∃ (who : DevAgent) (off : BitVec 28) (wide : Bool) (va : W64) (s u run t : State) (n code : Nat), takeFree 64 s = (va, u) ∧ devReady
      u who = true ∧ devDrained u who = true ∧ n = (if wide then 8 else 4) ∧ (∀ h user, who = .core h user → t = deliverLost run h) ∧ (∀
      p, who = .tile p → (u.gr p.g).lost = [] ∧ t = settleAll run) ∧ (who = .stoker ∨ who = .thirun → t = settleAll run) ∧ run = devFail u
      who va (regBase + off.toNat) true code ∧ ((off.toNat % n ≠ 0 ∧ code = 3) ∨ (off.toNat % n = 0 ∧ regAt (off.toNat / 8 * 8) = none ∧
      code = 1) ∨ (off.toNat % n = 0 ∧ ∃ r, regAt (off.toNat / 8 * 8) = some r ∧ ((∃ d, regDie r = some d ∧ readyHth s d = false ∧ code =
      1) ∨ ((∀ d, regDie r = some d → readyHth s d = true) ∧ regRight who r true = false ∧ code = 2))))) :=
  ⟨⟨.stoker, 0, 0xF00000000000, 3, false, false, wReady, _, _, 0, _, by decide +kernel, by decide +kernel, rfl, (fun _ _ h => nomatch h),
     (fun _ h => nomatch h), (fun _ => rfl), by decide +kernel, .rootclk, rfl, (fun d h => nomatch h), by decide +kernel,
     by decide +kernel, by decide +kernel, (fun h => nomatch h), (fun _ => rfl)⟩,
   ⟨(.core 0 false), 5, 0xF00000000000, 1, true, wReady, _, _, 0, _, by decide +kernel, by decide +kernel, rfl, coreTurn rfl, (fun _ h =>
     nomatch h), (fun h => h.elim (fun h => nomatch h) (fun h => nomatch h)), by decide +kernel, by decide +kernel, rfl⟩,
   ⟨(.core 95 false), 5, 0xF0000FFFFFF8, 3, true, wReady, _, _, 0xFFFFFF8, _, by decide +kernel, by decide +kernel, rfl, coreTurn rfl,
     (fun _ h => nomatch h), (fun h => h.elim (fun h => nomatch h) (fun h => nomatch h)), by decide +kernel, by decide +kernel,
     by decide +kernel, by decide +kernel, rfl⟩,
   ⟨(.core 95 false), 5, 0xF00001C00000, 3, true, { kindle := { ready0 := 0xFFF0 } }, _, _, 0x1C00000, _, by decide +kernel,
     by decide +kernel, rfl, coreTurn rfl, (fun _ h => nomatch h), (fun h => h.elim (fun h => nomatch h) (fun h => nomatch h)),
     by decide +kernel, by decide +kernel, by decide +kernel, _, someOf (by decide +kernel), 3, by decide +kernel, by decide +kernel, rfl⟩,
   ⟨(.core 95 true), 5, 0xF00000000000, 3, true, wReady, _, _, 0, _, by decide +kernel, by decide +kernel, rfl, coreTurn rfl, (fun _ h =>
     nomatch h), (fun h => h.elim (fun h => nomatch h) (fun h => nomatch h)), by decide +kernel, by decide +kernel, by decide +kernel,
     .rootclk, rfl, (fun d h => nomatch h), by decide +kernel, rfl⟩,
   ⟨(.core 0 false), 16, 0xF10000000010, 3, true, wReady, _, _, 0x10, _, by decide +kernel, by decide +kernel, rfl, coreTurn rfl, (fun _ h
     => nomatch h), (fun h => h.elim (fun h => nomatch h) (fun h => nomatch h)), by decide +kernel, by decide +kernel, rfl,
     by decide +kernel, 0, false, by decide +kernel, rfl⟩,
   ⟨(.tile wP), 16, 0xF10000000010, 3, true, (wG {}), _, _, 0x10, _, by decide +kernel, by decide +kernel, rfl, (fun _ _ h => nomatch h),
     tileTurn ⟨by decide +kernel, rfl⟩, (fun h => h.elim (fun h => nomatch h) (fun h => nomatch h)), by decide +kernel, by decide +kernel,
     rfl, by decide +kernel, wP, by decide +kernel, rfl⟩,
   ⟨(.core 95 false), 16, 0xF10000000010, 2, true, wReady, _, _, 0x10, _, by decide +kernel, by decide +kernel, rfl, coreTurn rfl, (fun _
     h => nomatch h), (fun h => h.elim (fun h => nomatch h) (fun h => nomatch h)), by decide +kernel, by decide +kernel, Or.inl ⟨95,
     false, rfl⟩, rfl⟩,
   ⟨.stoker, 16, 0xF10000000010, 3, true, wReady, _, _, 0x10, _, by decide +kernel, by decide +kernel, rfl, (fun _ _ h => nomatch h), (fun
     _ h => nomatch h), (fun _ => rfl), by decide +kernel, Or.inl rfl, rfl⟩,
   ⟨(.core 95 false), 0, true, 5, wReady, _, _, .rootclk, _, by decide +kernel, by decide +kernel, rfl, coreTurn rfl, (fun h => h.elim
     (fun h => nomatch h) (fun h => nomatch h)), rfl, (fun d h => nomatch h), by decide +kernel, by decide +kernel, rfl⟩,
   ⟨(.core 95 false), 0xFFFFFF8, true, _, wReady, _, _, _, _, 1, rfl, by decide +kernel, by decide +kernel, rfl, coreTurn rfl, (fun _ h =>
     nomatch h), (fun h => h.elim (fun h => nomatch h) (fun h => nomatch h)), rfl, Or.inr (Or.inl (by decide +kernel))⟩⟩

end

end Sys2Proof
end

section
/-! What every command keeps, assembled from what each meaning keeps, and what a step keeps of the memory. -/

namespace Sys2Proof

open Sys2Proof.Machine

/-- The mask of a list of parts: bit i is set where the i-th part of the state is in the list. -/
def partsMask (l : List Part) : Nat := l.foldr (fun p n => 2 ^ p.ctorIdx ||| n) 0

/-- A bit of the mask is set for the parts of the list and for no other. -/
theorem testBit_partsMask (l : List Part) (i : Nat) : (partsMask l).testBit i = true ↔ ∃ p ∈ l, p.ctorIdx = i := by
  induction l with
  | nil => simp [partsMask]
  | cons q l ih =>
    have hq : (partsMask (q :: l)).testBit i = (decide (q.ctorIdx = i) || (partsMask l).testBit i) := by
      simp [partsMask, Nat.testBit_or, Nat.testBit_two_pow]
    simp [hq, ih]

/-- Every command keeps what it may not write, under any mask that covers the parts of Instr.mayWrite: each arm of exec is one meaning,
whose own lemma names a mask within those parts. -/
theorem kept_exec {m : Nat} {r s : State} (c : Instr) (hm : Sub (partsMask c.mayWrite) m) (hk : Kept m r s) :
    ResKept m r (exec c s) := by
  cases c <;> dsimp only [exec]
  case' matrixMac => apply kept_execMatrixMac (hk := hk)
  case' matrixDrainComplete => apply kept_execMatrixDrainComplete (hk := hk)
  case' weightLoad => apply kept_execWeightLoad (hk := hk)
  case' weightLoadComplete => apply kept_execWeightLoadComplete (hk := hk)
  case' vecLoad => apply kept_execVecLoad (hk := hk)
  case' vecStore => apply kept_execVecStore (hk := hk)
  case' vecOp => apply kept_execVecOp (hk := hk)
  case' slotSet => apply kept_execSlotSet (hk := hk)
  case' slotGet => apply kept_execSlotGet (hk := hk)
  case' slotClear => apply kept_execSlotClear (hk := hk)
  case' slotPublish => apply kept_execSlotPublish (hk := hk)
  case' slotRetire => apply kept_execSlotRetire (hk := hk)
  case' unitWait => apply kept_execUnitWait (hk := hk)
  case' unitWaitMet => apply kept_execUnitWaitMet (hk := hk)
  case' eventSignal => apply kept_execEventSignal (hk := hk)
  case' eventSignalEffect => apply kept_execEventSignalEffect (hk := hk)
  case' eventWait => apply kept_execEventWait (hk := hk)
  case' eventWaitMet => apply kept_execEventWaitMet (hk := hk)
  case' tallyWait => apply kept_execTallyWait (hk := hk)
  case' tallyWaitMet => apply kept_execTallyWaitMet (hk := hk)
  case' waitTimeout => apply kept_execWaitTimeout (hk := hk)
  case' eventRead => apply kept_execEventRead (hk := hk)
  case' schedBoundary => apply kept_execSchedBoundary (hk := hk)
  case' boundaryReached => apply kept_execBoundaryReached (hk := hk)
  case' ecall => apply kept_execEcall (hk := hk)
  case' ecallStop => apply kept_execEcallStop (hk := hk)
  case' ebreak => apply kept_execEbreak (hk := hk)
  case' tcLoad => apply kept_execTcLoad (hk := hk)
  case' tcStore => apply kept_execTcStore (hk := hk)
  case' tcAmo => apply kept_execTcAmo (hk := hk)
  case' coreLoad => apply kept_execCoreLoad (hk := hk)
  case' coreStore => apply kept_execCoreStore (hk := hk)
  case' coreAmo => apply kept_execCoreAmo (hk := hk)
  case' cboZero => apply kept_execCboZero (hk := hk)
  case' fence => apply kept_execFence (hk := hk)
  case' deviceSpaceAccess => apply kept_execDeviceSpaceAccess (hk := hk)
  case' storePerformed => apply kept_execStorePerformed (hk := hk)
  case' storeErrorResponse => apply kept_execStoreErrorResponse (hk := hk)
  case' storeResponseTimeout => apply kept_execStoreResponseTimeout (hk := hk)
  case' walkReadReturn => apply kept_execWalkReadReturn (hk := hk)
  case' externalScratchpadAccess => apply kept_execExternalScratchpadAccess (hk := hk)
  case' remoteWindowBusyClear => apply kept_execRemoteWindowBusyClear (hk := hk)
  case' stopreq => apply kept_execStopreq (hk := hk)
  case' grateResume => apply kept_execGrateResume (hk := hk)
  case' toidle => apply kept_execToidle (hk := hk)
  case' idleClearDone => apply kept_execIdleClearDone (hk := hk)
  case' guardModeWrite => apply kept_execGuardModeWrite (hk := hk)
  case' rds => apply kept_execRds (hk := hk)
  case' rdx => apply kept_execRdx (hk := hk)
  case' upg => apply kept_execUpg (hk := hk)
  case' wbm => apply kept_execWbm (hk := hk)
  case' eve => apply kept_execEve (hk := hk)
  case' readonce => apply kept_execReadonce (hk := hk)
  case' writefull => apply kept_execWritefull (hk := hk)
  case' writepart => apply kept_execWritepart (hk := hk)
  case' cohAtomic => apply kept_execCohAtomic (hk := hk)
  case' snps => apply kept_execSnps (hk := hk)
  case' snpx => apply kept_execSnpx (hk := hk)
  case' snpxi => apply kept_execSnpxi (hk := hk)
  case' snpinv => apply kept_execSnpinv (hk := hk)
  case' cohData => apply kept_execCohData (hk := hk)
  case' acku => apply kept_execAcku (hk := hk)
  case' snoopResponse => apply kept_execSnoopResponse (hk := hk)
  case' retry => apply kept_execRetry (hk := hk)
  case' grant => apply kept_execGrant (hk := hk)
  case' cmp => apply kept_execCmp (hk := hk)
  case' done => apply kept_execDone (hk := hk)
  case' evictionWriteback => apply kept_execEvictionWriteback (hk := hk)
  case' snoopTimeout => apply kept_execSnoopTimeout (hk := hk)
  case' reclaimWalkDone => apply kept_execReclaimWalkDone (hk := hk)
  case' clean => apply kept_execClean (hk := hk)
  case' flush => apply kept_execFlush (hk := hk)
  case' ashclr => apply kept_execAshclr (hk := hk)
  case' lock => apply kept_execLock (hk := hk)
  case' maintComplete => apply kept_execMaintComplete (hk := hk)
  case' ashClr => apply kept_execAshClr (hk := hk)
  case' ashOvfClear => apply kept_execAshOvfClear (hk := hk)
  case' poolModeEnter => apply kept_execPoolModeEnter (hk := hk)
  case' poolModeLeave => apply kept_execPoolModeLeave (hk := hk)
  case' poolLeaveDone => apply kept_execPoolLeaveDone (hk := hk)
  case' poolAgeSweep => apply kept_execPoolAgeSweep (hk := hk)
  case' xlatReplyReplay => apply kept_execXlatReplyReplay (hk := hk)
  case' xlatReplyRefuse => apply kept_execXlatReplyRefuse (hk := hk)
  case' xlatInvRange => apply kept_execXlatInvRange (hk := hk)
  case' xlatInvContext => apply kept_execXlatInvContext (hk := hk)
  case' xlatInvAll => apply kept_execXlatInvAll (hk := hk)
  case' xlatInvDone => apply kept_execXlatInvDone (hk := hk)
  case' rotChange => apply kept_execRotChange (hk := hk)
  case' rotChangeDone => apply kept_execRotChangeDone (hk := hk)
  case' ringCfgWrite => apply kept_execRingCfgWrite (hk := hk)
  case' ringEnable => apply kept_execRingEnable (hk := hk)
  case' ringPause => apply kept_execRingPause (hk := hk)
  case' ringResume => apply kept_execRingResume (hk := hk)
  case' ringDisable => apply kept_execRingDisable (hk := hk)
  case' doorbell => apply kept_execDoorbell (hk := hk)
  case' recordDoorbell => apply kept_execRecordDoorbell (hk := hk)
  case' descriptorFetchReturn => apply kept_execDescriptorFetchReturn (hk := hk)
  case' descriptorRefetch => apply kept_execDescriptorRefetch (hk := hk)
  case' descriptorWaitMet => apply kept_execDescriptorWaitMet (hk := hk)
  case' nop => apply kept_execNop (hk := hk)
  case' copy => apply kept_execCopy (hk := hk)
  case' inlineOp => apply kept_execInlineOp (hk := hk)
  case' reduce => apply kept_execReduce (hk := hk)
  case' tilemove => apply kept_execTilemove (hk := hk)
  case' atomic => apply kept_execAtomic (hk := hk)
  case' launch => apply kept_execLaunch (hk := hk)
  case' fuller => apply kept_execFuller (hk := hk)
  case' engineCompletion => apply kept_execEngineCompletion (hk := hk)
  case' hostFlushReadReturn => apply kept_execHostFlushReadReturn (hk := hk)
  case' streamWrite => apply kept_execStreamWrite (hk := hk)
  case' streamRead => apply kept_execStreamRead (hk := hk)
  case' streamAppend => apply kept_execStreamAppend (hk := hk)
  case' streamCommit => apply kept_execStreamCommit (hk := hk)
  case' streamDeadline => apply kept_execStreamDeadline (hk := hk)
  case' streamPause => apply kept_execStreamPause (hk := hk)
  case' streamResume => apply kept_execStreamResume (hk := hk)
  case' streamClose => apply kept_execStreamClose (hk := hk)
  case' streamExtend => apply kept_execStreamExtend (hk := hk)
  case' deadlineMiss => apply kept_execDeadlineMiss (hk := hk)
  case' tideSwitch => apply kept_execTideSwitch (hk := hk)
  case' flueWrite => apply kept_execFlueWrite (hk := hk)
  case' flueMerge => apply kept_execFlueMerge (hk := hk)
  case' flueAtomic => apply kept_execFlueAtomic (hk := hk)
  case' flueRead => apply kept_execFlueRead (hk := hk)
  case' flueAck => apply kept_execFlueAck (hk := hk)
  case' flueData => apply kept_execFlueData (hk := hk)
  case' flueErr => apply kept_execFlueErr (hk := hk)
  case' flueForward => apply kept_execFlueForward (hk := hk)
  case' flueReadTimeout => apply kept_execFlueReadTimeout (hk := hk)
  case' flueFlitReceive => apply kept_execFlueFlitReceive (hk := hk)
  case' flueReplayFail => apply kept_execFlueReplayFail (hk := hk)
  case' flueErrrate => apply kept_execFlueErrrate (hk := hk)
  case' flueLos => apply kept_execFlueLos (hk := hk)
  case' flueLockLost => apply kept_execFlueLockLost (hk := hk)
  case' flueRemoteDown => apply kept_execFlueRemoteDown (hk := hk)
  case' flueRetrainTimer => apply kept_execFlueRetrainTimer (hk := hk)
  case' flueTrainingDone => apply kept_execFlueTrainingDone (hk := hk)
  case' flueTrainingTimeout => apply kept_execFlueTrainingTimeout (hk := hk)
  case' flueAttestDone => apply kept_execFlueAttestDone (hk := hk)
  case' probationEnd => apply kept_execProbationEnd (hk := hk)
  case' flueLinkUp => apply kept_execFlueLinkUp (hk := hk)
  case' flueKeyUpdate => apply kept_execFlueKeyUpdate (hk := hk)
  case' key => apply kept_execKey (hk := hk)
  case' fluLinkEn => apply kept_execFluLinkEn (hk := hk)
  case' fluLinkRetrain => apply kept_execFluLinkRetrain (hk := hk)
  case' fluLinkHoldctl => apply kept_execFluLinkHoldctl (hk := hk)
  case' fluLinkLoop => apply kept_execFluLinkLoop (hk := hk)
  case' helloSend => apply kept_execHelloSend (hk := hk)
  case' hello => apply kept_execHello (hk := hk)
  case' peerWatchdogExpiry => apply kept_execPeerWatchdogExpiry (hk := hk)
  case' syncSend => apply kept_execSyncSend (hk := hk)
  case' sync => apply kept_execSync (hk := hk)
  case' formOffer => apply kept_execFormOffer (hk := hk)
  case' offerWindowEnd => apply kept_execOfferWindowEnd (hk := hk)
  case' table => apply kept_execTable (hk := hk)
  case' ack => apply kept_execAck (hk := hk)
  case' ackWindowEnd => apply kept_execAckWindowEnd (hk := hk)
  case' joinReq => apply kept_execJoinReq (hk := hk)
  case' group => apply kept_execGroup (hk := hk)
  case' dead => apply kept_execDead (hk := hk)
  case' membSetEmpty => apply kept_execMembSetEmpty (hk := hk)
  case' membAdmit => apply kept_execMembAdmit (hk := hk)
  case' timebaseTick => apply kept_execTimebaseTick (hk := hk)
  case' bundleBringUp => apply kept_execBundleBringUp (hk := hk)
  case' keptMapBringUp => apply kept_execKeptMapBringUp (hk := hk)
  case' bringUpDone => apply kept_execBringUpDone (hk := hk)
  case' sidebandTimeout => apply kept_execSidebandTimeout (hk := hk)
  case' bundleCrcError => apply kept_execBundleCrcError (hk := hk)
  case' bundleReplayThreshold => apply kept_execBundleReplayThreshold (hk := hk)
  case' bundleRetrain => apply kept_execBundleRetrain (hk := hk)
  case' bundleOff => apply kept_execBundleOff (hk := hk)
  case' routeDrainMarker => apply kept_execRouteDrainMarker (hk := hk)
  case' dietestEn => apply kept_execDietestEn (hk := hk)
  case' dietestGo => apply kept_execDietestGo (hk := hk)
  case' dietestDone => apply kept_execDietestDone (hk := hk)
  case' hostLinkUp => apply kept_execHostLinkUp (hk := hk)
  case' hostLinkDown => apply kept_execHostLinkDown (hk := hk)
  case' genWordReadDone => apply kept_execGenWordReadDone (hk := hk)
  case' hostRequestTimeout => apply kept_execHostRequestTimeout (hk := hk)
  case' hostSnoopTimeout => apply kept_execHostSnoopTimeout (hk := hk)
  case' hostLinkForce => apply kept_execHostLinkForce (hk := hk)
  case' ideInsecure => apply kept_execIdeInsecure (hk := hk)
  case' hostInboundWrite => apply kept_execHostInboundWrite (hk := hk)
  case' hostInboundRead => apply kept_execHostInboundRead (hk := hk)
  case' hostAtomicop => apply kept_execHostAtomicop (hk := hk)
  case' hostBar0Read => apply kept_execHostBar0Read (hk := hk)
  case' cxlMemrd => apply kept_execCxlMemrd (hk := hk)
  case' cxlMemwr => apply kept_execCxlMemwr (hk := hk)
  case' cxlBirsp => apply kept_execCxlBirsp (hk := hk)
  case' perstAssert => apply kept_execPerstAssert (hk := hk)
  case' damperWindow => apply kept_execDamperWindow (hk := hk)
  case' slewGovernorStep => apply kept_execSlewGovernorStep (hk := hk)
  case' correctionUpdate => apply kept_execCorrectionUpdate (hk := hk)
  case' droopDetect => apply kept_execDroopDetect (hk := hk)
  case' dipDetect => apply kept_execDipDetect (hk := hk)
  case' dipRecover => apply kept_execDipRecover (hk := hk)
  case' dipHoldEnd => apply kept_execDipHoldEnd (hk := hk)
  case' supplyResetLevel => apply kept_execSupplyResetLevel (hk := hk)
  case' thermalStep => apply kept_execThermalStep (hk := hk)
  case' thermalTrip => apply kept_execThermalTrip (hk := hk)
  case' rootPllLock => apply kept_execRootPllLock (hk := hk)
  case' slavePllLockLost => apply kept_execSlavePllLockLost (hk := hk)
  case' refclkLost => apply kept_execRefclkLost (hk := hk)
  case' dmpCapCfgWrite => apply kept_execDmpCapCfgWrite (hk := hk)
  case' dmpDroopCfgWrite => apply kept_execDmpDroopCfgWrite (hk := hk)
  case' dmpCorrWrite => apply kept_execDmpCorrWrite (hk := hk)
  case' feedApplied => apply kept_execFeedApplied (hk := hk)
  case' softStartDone => apply kept_execSoftStartDone (hk := hk)
  case' senseOpen => apply kept_execSenseOpen (hk := hk)
  case' supplyLoss => apply kept_execSupplyLoss (hk := hk)
  case' kindleK0 => apply kept_execKindleK0 (hk := hk)
  case' kindleK1 => apply kept_execKindleK1 (hk := hk)
  case' kindleK2 => apply kept_execKindleK2 (hk := hk)
  case' kindleK3 => apply kept_execKindleK3 (hk := hk)
  case' kindleK4 => apply kept_execKindleK4 (hk := hk)
  case' kindleK5 => apply kept_execKindleK5 (hk := hk)
  case' kindleK6 => apply kept_execKindleK6 (hk := hk)
  case' kindleStageTimeout => apply kept_execKindleStageTimeout (hk := hk)
  case' confirm => apply kept_execConfirm (hk := hk)
  case' resetCluster => apply kept_execResetCluster (hk := hk)
  case' resetHearth => apply kept_execResetHearth (hk := hk)
  case' resetPackage => apply kept_execResetPackage (hk := hk)
  case' moduleReset => apply kept_execModuleReset (hk := hk)
  case' packageReset => apply kept_execPackageReset (hk := hk)
  case' hearthDieReset => apply kept_execHearthDieReset (hk := hk)
  case' clusterReset => apply kept_execClusterReset (hk := hk)
  case' arbRaise => apply kept_execArbRaise (hk := hk)
  case' arbRaiseDone => apply kept_execArbRaiseDone (hk := hk)
  case' keyGenerate => apply kept_execKeyGenerate (hk := hk)
  case' keyGenerateDone => apply kept_execKeyGenerateDone (hk := hk)
  case' getMeasurements => apply kept_execGetMeasurements (hk := hk)
  case' challenge => apply kept_execChallenge (hk := hk)
  case' keyExchange => apply kept_execKeyExchange (hk := hk)
  case' debugToken => apply kept_execDebugToken (hk := hk)
  case' patrolScrub => apply kept_execPatrolScrub (hk := hk)
  case' sensorSample => apply kept_execSensorSample (hk := hk)
  case' leakDetected => apply kept_execLeakDetected (hk := hk)
  case' orderlyPowerDown => apply kept_execOrderlyPowerDown (hk := hk)
  case' logMirror => apply kept_execLogMirror (hk := hk)
  case' heartbeatKick => apply kept_execHeartbeatKick (hk := hk)
  case' heartbeatPeriod => apply kept_execHeartbeatPeriod (hk := hk)
  case' heartbeatExpired => apply kept_execHeartbeatExpired (hk := hk)
  case' logRead => apply kept_execLogRead (hk := hk)
  case' configWrite => apply kept_execConfigWrite (hk := hk)
  case' moduleResetMessage => apply kept_execModuleResetMessage (hk := hk)
  case' powerDown => apply kept_execPowerDown (hk := hk)
  case' getSensorReading => apply kept_execGetSensorReading (hk := hk)
  case' pldmComponentWrite => apply kept_execPldmComponentWrite (hk := hk)
  case' pldmVerify => apply kept_execPldmVerify (hk := hk)
  case' pldmApply => apply kept_execPldmApply (hk := hk)
  case' rstAssert => apply kept_execRstAssert (hk := hk)
  case' rstRelease => apply kept_execRstRelease (hk := hk)
  case' checkpoint => apply kept_execCheckpoint (hk := hk)
  case' buddyCopyDone => apply kept_execBuddyCopyDone (hk := hk)
  case' stagingDone => apply kept_execStagingDone (hk := hk)
  case' recovery => apply kept_execRecovery (hk := hk)
  case' restoreReplay => apply kept_execRestoreReplay (hk := hk)
  case' registerWrite => apply kept_execRegisterWrite (hk := hk)
  case' matrixLastStepRead => apply kept_execMatrixLastStepRead (hk := hk)
  case' tileControllerCsrWrite => apply kept_execTileControllerCsrWrite (hk := hk)
  case' deviceContextWrite => apply kept_execDeviceContextWrite (hk := hk)
  case' perstRelease => apply kept_execPerstRelease (hk := hk)
  case' refclkReturn => apply kept_execRefclkReturn (hk := hk)
  case' hostCompletion => apply kept_execHostCompletion (hk := hk)
  case' ideKm => apply kept_execIdeKm (hk := hk)
  case' msiXTableWrite => apply kept_execMsiXTableWrite (hk := hk)
  case' keyTableReinstallDone => apply kept_execKeyTableReinstallDone (hk := hk)
  all_goals exact hm.of (by dsimp only [Instr.mayWrite]; decide)

/-- A command that answers a next state has kept the memory's canonical form. -/
theorem exec_keeps_memWf : ExecKeeps (fun s => Mem.wf s.mem = true) := fun c s t hwf h =>
  (kept_exec c ⟨Nat.and_self _⟩ (Kept.start s) t h).mem hwf

/-- Settles O4 (the canonical form is the model's own, log 14): an idle step changes nothing, and any other step leaves the memory to the
command at the front of the queue, which keeps the form. -/
theorem stepKeepsMemoryCanonical : Obligations.StepKeepsMemoryCanonical := by
  intro s t hwf h
  unfold step at h
  split at h
  next => cases h; exact hwf
  next c rest _ => exact exec_keeps_memWf c { s with pending := rest } t hwf h

end Sys2Proof
end

section
/-! Where addresses lead: the fields of an interleaved address (R22), the register and doorbell ranges (R30, R32), the doorbells' own
addresses. -/

namespace Sys2Proof

open Sys2Proof.Machine

/-- A field of a number by division (R10). -/
theorem field_eq_div_mod (v lo width : Nat) : field v lo width = v / 2 ^ lo % 2 ^ width := by
  rw [field, Nat.shiftRight_eq_div_pow]

/-- R22 in numbers: die A[13:12], block A[40:14] within the die, byte A[11:0]. -/
theorem aliasToDirect_eq (a : Nat) :
    aliasToDirect a = a / 2 ^ 12 % 4 * dieSize + (a / 2 ^ 14 % 2 ^ 27 * 0x1000 + a % 2 ^ 12) := by
  calc aliasToDirect a = a / 2 ^ 12 % 2 ^ 2 * dieSize + a / 2 ^ 14 % 2 ^ 27 * 0x1000 + a % 0x1000 := by
        rw [aliasToDirect, field_eq_div_mod, field_eq_div_mod]
    _ = _ := Nat.add_assoc _ _ _

/-- The part of a direct address below the die lies within the die, for every interleaved offset. -/
theorem aliasLocal_lt {a : Nat} (h : a < mainSize) : a / 2 ^ 14 % 2 ^ 27 * 0x1000 + a % 2 ^ 12 < dieSize := by
  have hblock : a / 2 ^ 14 < 0x6000000 := Nat.div_lt_of_lt_mul h
  have hbyte : a % 2 ^ 12 < 0x1000 := Nat.mod_lt _ (by decide)
  rw [Nat.mod_eq_of_lt (Nat.lt_trans hblock (by decide))]
  unfold dieSize
  omega

/-- The die of a direct address is the one that A[13:12] names. -/
theorem aliasToDirect_die {a : Nat} (h : a < mainSize) : aliasToDirect a / dieSize = a / 2 ^ 12 % 4 := by
  have hl := aliasLocal_lt h
  rw [aliasToDirect_eq, Nat.add_comm, Nat.add_mul_div_right _ _ (by decide), Nat.div_eq_of_lt hl, Nat.zero_add]

theorem aliasToDirect_lt {a : Nat} (h : a < mainSize) : aliasToDirect a < mainSize := by
  have hl := aliasLocal_lt h
  have hn : a / 2 ^ 12 % 4 < 4 := Nat.mod_lt _ (by decide)
  calc aliasToDirect a < a / 2 ^ 12 % 4 * dieSize + dieSize := by rw [aliasToDirect_eq]; exact Nat.add_lt_add_left hl _
    _ = (a / 2 ^ 12 % 4 + 1) * dieSize := (Nat.succ_mul _ _).symm
    _ ≤ mainSize := Nat.mul_le_mul_right dieSize hn

/-- A direct address of main memory. -/
theorem placeOf_direct {d : Nat} (h : d < mainSize) : placeOf d = .main (d / dieSize) d := if_pos h

/-- An interleaved address (R22). -/
theorem placeOf_alias {a : Nat} (h : a < mainSize) :
    placeOf (aliasBase + a) = .main (aliasToDirect a / dieSize) (aliasToDirect a) := by
  have hmain : ¬ aliasBase + a < mainSize := by unfold aliasBase mainSize; omega
  have halias : aliasBase ≤ aliasBase + a ∧ aliasBase + a < aliasBase + mainSize := ⟨by omega, by omega⟩
  rw [placeOf, if_neg hmain, if_pos halias, Nat.add_sub_cancel_left]

/-- A byte of main memory is held under its direct address. -/
theorem keyOf_main {pa n d : Nat} (h : placeOf pa = .main n d) : keyOf pa = some d := by
  rw [keyOf, h]

/-- A doorbell lies above every other range (Table 1.3). -/
theorem placeOf_bell {off : Nat} (h : off < 0x80000) : placeOf (bellBase + off) = .bell off := by
  have hplace : placeOf (bellBase + off) = .bell (bellBase + off - bellBase) := by
    unfold placeOf mainSize aliasBase nearBase spadBase remoteBase hostBase regBase bellBase
    repeat rw [if_neg (by omega)]
    rw [if_pos (by omega)]
  rw [hplace, Nat.add_sub_cancel_left]

/-- The operand check of device addresses finds what the address map calls device space (R30, R31): no earlier range of the map reaches
into those two. -/
theorem deviceAddr_eq_isDevice (pa : BitVec 52) : deviceAddr pa = isDevice pa.toNat := by
  unfold isDevice placeOf deviceAddr mainSize aliasBase nearBase spadBase remoteBase hostBase regBase bellBase
  grind

/-- Settles O8. -/
theorem aliasNamesItsDirectAddress : Obligations.AliasNamesItsDirectAddress := by
  intro p a n l d hlo hhi ha hn hl hd
  have ham : a < mainSize := by unfold mainSize; omega
  have hp : p = aliasBase + a := by unfold aliasBase; omega
  have hda : d = aliasToDirect a := by rw [aliasToDirect_eq, hd, hn, hl, dieSize]
  have hdie : aliasToDirect a / dieSize = n := (aliasToDirect_die ham).trans hn.symm
  have hplace : placeOf p = .main n d := by rw [hp, placeOf_alias ham, hdie, hda]
  have hdirect : placeOf d = .main n d := by rw [hda, placeOf_direct (aliasToDirect_lt ham), hdie]
  exact ⟨hplace, hdirect, (keyOf_main hplace).trans (keyOf_main hdirect).symm⟩

/-- Settles O9: ring numbers end where the doorbell range ends. -/
theorem doorbellsLieAtTheirAddresses : Obligations.DoorbellsLieAtTheirAddresses := fun _ hr =>
  placeOf_bell (by omega)

end Sys2Proof
end

section
/-! Commands that carry operands that they cannot carry: each meaning asks for them before anything else, or refuses the command before
it asks (logs 110, 111). -/

namespace Sys2Proof

open Sys2Proof.Machine

/-- A meaning whose check of the operands stands first leaves no state where the check finds them ill formed. -/
theorem illFormed_ne_next {p : Prop} [Decidable p] (hp : p) (run : Res) (t : State) :
    (if p then .fault .illFormed else run : Res) ≠ .next t := by
  rw [if_pos hp]
  nofun

/-- The same of a meaning that asks whether the operands are well formed. -/
theorem wellFormed_ne_next {p : Prop} [Decidable p] (hp : ¬ p) (run : Res) (t : State) :
    (if p then run else .fault .illFormed : Res) ≠ .next t := by
  rw [if_neg hp]
  nofun

/-- A meaning that first refuses an agent which is not ready completes only where the rest of it does. -/
theorem refused_or_ne_next {p : Prop} [Decidable p] {why : Refusal} {run : Res} {t : State} (h : run ≠ .next t) :
    (if p then .refused why else run : Res) ≠ .next t := by
  split
  · nofun
  · exact h

/-- A packet that does not fit a line never arrives (R420). -/
theorem pktRun_ne_next {p : Pkt} {len : Nat} (h : p.fits len = false) (s t : State) (run : Res) : pktRun p len s run ≠ .next t := by
  have hbad : len = 0 ∨ 128 < p.off.toNat % 128 + len := by
    simp only [Pkt.fits, Bool.and_eq_false_iff, decide_eq_false_iff_not] at h
    omega
  exact illFormed_ne_next hbad _ _

/-- A request of a host that breaks its limits never arrives (R371). -/
theorem tlpRun_ne_next {off len most : Nat} (h : tlpFits off len most = false) (s t : State) (link : Nat) (run : Res) :
    tlpRun s link off len most run ≠ .next t := by
  have hbad : len = 0 ∨ most < len ∨ 4096 < off % 4096 + len := by
    simp only [tlpFits, Bool.and_eq_false_iff, decide_eq_false_iff_not] at h
    omega
  exact illFormed_ne_next hbad _ _

/-- Whole groups are asked for before the packet's own limits (R437). -/
theorem execFlueMerge_ne_next {p : Pkt} {norm : Bool} {data : List Byte} (h : mergeFits p norm data.length = false) (s t : State) :
    execFlueMerge p norm data s ≠ .next t := by
  by_cases hg : data.length % 32 ≠ 0 ∨ p.off.toNat % 32 ≠ 0 ∨ (norm ∧ data.length ≠ 128)
  · exact illFormed_ne_next hg _ _
  · have hfits : p.fits data.length = false := by
      simp only [not_or, Classical.not_not, not_and] at hg
      obtain ⟨hlen, hoff, hnorm⟩ := hg
      cases norm <;> simp_all [mergeFits]
    rw [execFlueMerge, if_neg hg]
    exact pktRun_ne_next hfits _ _ _

/-- An access to device space at an address outside it. -/
theorem execDeviceSpaceAccess_ne_next {pa : BitVec 52} (h : deviceAddr pa = false) (who : DevAgent) (va v : W64) (lg : BitVec 2)
    (write sg : Bool) (s t : State) : execDeviceSpaceAccess who va pa lg write sg v s ≠ .next t := by
  rw [deviceAddr_eq_isDevice, isDevice] at h
  unfold execDeviceSpaceAccess
  cases hp : placeOf pa.toNat <;> simp_all

/-- A write between the words of the MSI-X table. -/
theorem execMsiXTableWrite_ne_next {w : MsixWrite} {h : HostLinkNo} (hwf : (Instr.msiXTableWrite h w).wf = false) (s t : State) :
    execMsiXTableWrite h w s ≠ .next t := by
  cases w with
  | functionMask on => cases hwf
  | table off value =>
    have hoff : off.toNat % 8 ≠ 0 := by simpa [Instr.wf] using hwf
    exact refused_or_ne_next (illFormed_ne_next hoff _ _)

/-- Cache bit 12 is the one that the check of RdX and Upg leaves out. -/
theorem hostBit_of_not_wf {bit : CacheBit} (h : decide (bit.val ≠ 12) = false) : bit = 12 :=
  Fin.ext (Decidable.of_not_not (of_decide_eq_false h))

/-- The check of a bundle's number in the meanings is the one of the operands (Table 13.1). -/
theorem not_sideOk {x : Side} (h : x.wf = false) : (!sideOk x) = true := by
  rw [show sideOk x = false from h, Bool.not_false]

/-- Settles O7 (the outcome illFormed is the model's choice, log 111; cores and tiles have no compare-and-swap, log 110): one case for each
command that can be ill formed. -/
theorem illFormedCommandsNeverComplete : Obligations.IllFormedCommandsNeverComplete := by
  intro c s t hwf
  cases c
  case coreLoad | coreStore => exact illFormed_ne_next ((deviceAddr_eq_isDevice _).symm.trans (by simpa [Instr.wf] using hwf)) _ _
  case tcAmo | coreAmo => exact illFormed_ne_next (by simpa [Instr.wf, amoFits] using hwf) _ _
  case deviceSpaceAccess => exact execDeviceSpaceAccess_ne_next hwf _ _ _ _ _ _ _ _
  case rdx | upg => exact illFormed_ne_next (hostBit_of_not_wf hwf) _ _
  case flueWrite | flueRead => exact pktRun_ne_next hwf _ _ _
  case flueMerge => exact execFlueMerge_ne_next hwf _ _
  case bundleBringUp | keptMapBringUp | bringUpDone | sidebandTimeout | bundleCrcError | bundleReplayThreshold =>
    exact illFormed_ne_next (not_sideOk hwf) _ _
  case bundleRetrain | bundleOff => exact wellFormed_ne_next (Bool.eq_false_iff.mp hwf) _ _
  case dietestDone => exact illFormed_ne_next (by simpa [Instr.wf, bundlesOf, Fin.ext_iff] using hwf) _ _
  case hostInboundWrite | hostInboundRead => exact tlpRun_ne_next hwf _ _ _ _
  case cohAtomic | flueAtomic | table | hostLinkUp | damperWindow | slewGovernorStep | clusterReset =>
    exact illFormed_ne_next (by simpa [Instr.wf] using hwf) _ _
  case patrolScrub => exact illFormed_ne_next (by simpa [Instr.wf, mainSize] using hwf) _ _
  case moduleReset | packageReset | hearthDieReset | orderlyPowerDown | hostAtomicop | checkpoint =>
    exact illFormed_ne_next (by grind [Instr.wf]) _ _
  case pldmComponentWrite im _ _ _ _ => exact illFormed_ne_next (by cases im <;> grind [Instr.wf, imageNo]) _ _
  case sensorSample => exact refused_or_ne_next (illFormed_ne_next (by simpa [Instr.wf] using hwf) _ _)
  case msiXTableWrite => exact execMsiXTableWrite_ne_next hwf _ _
  all_goals cases hwf

end Sys2Proof
end

section
/-! Accesses to a scratchpad from outside its grate (R26, R116), and the end of a window's BUSY (R139, R435). -/

namespace Sys2Proof

open Sys2Proof.Machine

/-- What an access brings under a finding that it can go on with: it reads nothing, or what it reads can be corrected. -/
theorem spadFound_of_access {s u : State} {a : Agent} {ctx pa : Nat} {acc : SpadAcc} {find : EccFind} {bs : List Byte}
    (hacc : spadAccess s a ctx pa acc = (.ok, bs, u)) (hfind : spadReads acc = none ∨ find ≠ .uncorrectable) (g : Nat) :
    spadFound s a ctx g pa acc find = (.ok, bs, countFind u g find) := by
  cases hreads : spadReads acc with
  | none => simp [spadFound, hreads, hacc]
  | some n =>
    have hne : find ≠ .uncorrectable := hfind.resolve_left (by simp [hreads])
    cases find with
    | uncorrectable => exact absurd rfl hne
    | clean | corrected => simp [spadFound, hreads, hacc]

/-- Settles O24: the checks have passed, so the command is the access, the count of what was found, and the delivery. -/
theorem windowAccessesComplete : Obligations.WindowAccessesComplete := by
  refine ⟨?read, ?write, ?atomic, ?spadWindow, ?inboundWindow⟩
  case read =>
    intro who ctx g off n find s u bs hfind hread
    have hfound := spadFound_of_access (acc := .read n) hread (.inr hfind) g
    cases who <;> simp only [exec, execExternalScratchpadAccess, hfound]
  case write =>
    intro who ctx g off bs find s u hwrite
    have hacc : spadAccess s (extAgent who) ctx.toNat (spadKey g off.toNat) (.write bs) = (.ok, [], u) := by
      simp only [spadAccess, hwrite]
    have hfound := spadFound_of_access (find := find) hacc (.inl rfl) g
    cases who <;> simp only [exec, execExternalScratchpadAccess, hfound]
  case atomic =>
    rintro who ctx g off op wide v c find s u n old hfind rfl hatomic
    have hacc : spadAccess s (extAgent who) ctx.toNat (spadKey g off.toNat) (.atomic op wide v c) =
        (.ok, toBytes (if wide then 8 else 4) old, u) := by
      simp only [spadAccess, hatomic]
    have hfound := spadFound_of_access hacc (.inr hfind) g
    cases who <;> simp only [exec, execExternalScratchpadAccess, hfound]
  case spadWindow =>
    rintro i s x rfl hbusy hflight
    exact if_pos (Bool.and_eq_true_iff.mpr ⟨hbusy, decide_eq_true hflight⟩)
  case inboundWindow =>
    intro i s hbusy
    exact if_pos hbusy

end Sys2Proof
end

section
/-! Accesses to device space: what one at a register's offset does (R31, R33, R577 to R579), what one to the doorbell range does (R32),
and how a device access ends for its agent (R241, R264). -/

namespace Sys2Proof

open Sys2Proof.Machine

/-! ### The agent's side -/

/-- A device access of an agent that is ready and whose earlier stores have left: a core is then given what it has lost, a tile
controller that has lost nothing goes on, and so do Stoker and Thirun. -/
theorem devCommand_next {s run t : State} {who : DevAgent} (hready : devReady s who = true) (hdrained : devDrained s who = true)
    (hcore : ∀ h user, who = .core h user → t = deliverLost run h)
    (htile : ∀ p, who = .tile p → (s.gr p.g).lost = [] ∧ t = settleAll run)
    (hfirm : who = .stoker ∨ who = .thirun → t = settleAll run) : devCommand who s run = .next t := by
  unfold devCommand
  rw [if_neg (by simp [hready]), if_neg (by simp [hdrained])]
  cases who with
  | core h user => rw [hcore h user rfl]
  | tile p =>
    obtain ⟨hlost, ht⟩ := htile p rfl
    simp [hlost, ht]
  | stoker => rw [hfirm (.inl rfl)]
  | thirun => rw [hfirm (.inr rfl)]

/-! ### The register range -/

/-- An access that has a register to act on: 4 or 8 aligned bytes of a register of a ready die, by an agent with the right to it. -/
structure RegOpen (s : State) (who : DevAgent) (off n : Nat) (write : Bool) (r : Reg) : Prop where
  width : n = 4 ∨ n = 8
  aligned : off % n = 0
  names : regAt (off / 8 * 8) = some r
  ready : ∀ d, regDie r = some d → readyHth s d = true
  right : regRight who r write = true

/-- Why an access to the register range fails, with its decode code (R31, R577, R578, R583; the codes and their order are log 107). -/
inductive RegFails (s : State) (who : DevAgent) (off n : Nat) (write : Bool) : Nat → Prop
  | shape (h : (n ≠ 4 ∧ n ≠ 8) ∨ off % n ≠ 0) : RegFails s who off n write 3
  | unassigned (hw : n = 4 ∨ n = 8) (ha : off % n = 0) (hr : regAt (off / 8 * 8) = none) : RegFails s who off n write 1
  | unready (hw : n = 4 ∨ n = 8) (ha : off % n = 0) {r : Reg} (hr : regAt (off / 8 * 8) = some r) {d : Nat} (hdie : regDie r = some d)
      (hd : readyHth s d = false) : RegFails s who off n write 1
  | noRight (hw : n = 4 ∨ n = 8) (ha : off % n = 0) {r : Reg} (hr : regAt (off / 8 * 8) = some r)
      (hd : ∀ d, regDie r = some d → readyHth s d = true) (hright : regRight who r write = false) : RegFails s who off n write 2

/-- Whether an access fails, and why, depends on no more of the state than which dies are ready. -/
theorem RegFails.of_ready {s u : State} {who : DevAgent} {off n code : Nat} {write : Bool} (h : RegFails s who off n write code)
    (hready : ∀ d, readyHth u d = readyHth s d) : RegFails u who off n write code := by
  cases h with
  | shape h => exact .shape h
  | unassigned hw ha hr => exact .unassigned hw ha hr
  | unready hw ha hr hdie hd => exact .unready hw ha hr hdie ((hready _).trans hd)
  | noRight hw ha hr hd hright => exact .noRight hw ha hr (fun d hdie => (hready d).trans (hd d hdie)) hright

/-- Of 4 or 8 aligned bytes, no complaint about the shape. -/
theorem regShape_ok {off n : Nat} (hw : n = 4 ∨ n = 8) (ha : off % n = 0) : ¬ ((n ≠ 4 ∧ n ≠ 8) ∨ off % n ≠ 0) := by omega

/-- An open access writes the register's fields, or delivers its word or the half that the offset names. -/
theorem regAccess_open {s : State} {who : DevAgent} {off n : Nat} {write : Bool} {r : Reg} (h : RegOpen s who off n write r) (va : W64)
    (sg : Bool) (v : Nat) : regAccess s who va off n write sg v =
      if write then regWrite s who r (writeWord s r (decide (off % 8 = 4)) (decide (n = 8)) v)
      else deliverReg s who off n sg (regWord s r) := by
  obtain ⟨hw, ha, hr, hd, hright⟩ := h
  rw [regAccess, if_neg (regShape_ok hw ha)]
  cases hdie : regDie r with
  | none => simp [hr, hdie, hright]
  | some d => simp [hr, hdie, hright, hd d hdie]

/-- An access that fails does nothing but report its decode error. -/
theorem regAccess_fails {s : State} {who : DevAgent} {off n code : Nat} {write : Bool} (h : RegFails s who off n write code) (va : W64)
    (sg : Bool) (v : Nat) : regAccess s who va off n write sg v = devFail s who va (regBase + off) write code := by
  cases h with
  | shape h => rw [regAccess, if_pos h]
  | unassigned hw ha hr =>
    rw [regAccess, if_neg (regShape_ok hw ha)]
    simp [hr]
  | unready hw ha hr hdie hd =>
    rw [regAccess, if_neg (regShape_ok hw ha)]
    simp [hr, hdie, hd]
  | @noRight hw ha r hr hd hright =>
    rw [regAccess, if_neg (regShape_ok hw ha)]
    cases hdie : regDie r with
    | none => simp [hr, hdie, hright]
    | some d => simp [hr, hdie, hright, hd d hdie]

/-! ### The doorbell range -/

/-- A core's aligned 8-byte write rings the doorbell. -/
theorem bellAccess_core {off : Nat} (hoff : off % 8 = 0) (s : State) (h : HartNo) (user : Bool) (va v : W64) :
    bellAccess s (.core h user) va off 8 true v = bellWrite s (.core h) (off / 8) v := by
  simp [bellAccess, bellAgent, hoff]

/-- So does a tile controller's, which goes on to its next instruction. -/
theorem bellAccess_tile {off : Nat} (hoff : off % 8 = 0) (s : State) (p : Site) (va v : W64) :
    bellAccess s (.tile p) va off 8 true v = (bellWrite s (.tile p) (off / 8) v).modGr p.g (fun x => { x with pc := nextPc p }) := by
  simp [bellAccess, bellAgent, hoff]

/-- Every other access of theirs to the doorbell range fails. -/
theorem bellAccess_fails {who : DevAgent} {off n : Nat} {write : Bool} (hshape : ¬ (write = true ∧ n = 8 ∧ off % 8 = 0))
    (hwho : (∃ h user, who = .core h user) ∨ ∃ p, who = .tile p) (s : State) (va v : W64) :
    bellAccess s who va off n write v = devFail s who va (bellBase + off) write 3 := by
  have hshape : (write && decide (n = 8) && decide (off % 8 = 0)) = false := by
    rw [← Bool.not_eq_true]
    simpa [and_assoc] using hshape
  obtain ⟨h, user, rfl⟩ | ⟨p, rfl⟩ := hwho <;> simp [bellAccess, bellAgent, hshape]

/-- Stoker and Thirun ring no doorbells. -/
theorem bellAccess_firmware {who : DevAgent} (hwho : who = .stoker ∨ who = .thirun) (s : State) (va v : W64) (off n : Nat)
    (write : Bool) : bellAccess s who va off n write v = devFail s who va (bellBase + off) write 2 := by
  obtain rfl | rfl := hwho <;> rfl

/-! ### The two commands -/

/-- DEVICE_SPACE_ACCESS in the register range. -/
theorem exec_deviceRegs {pa : BitVec 52} {off : Nat} (hp : placeOf pa.toNat = .regs off) (who : DevAgent) (va v : W64) (lg : BitVec 2)
    (write sg : Bool) (s : State) : exec (.deviceSpaceAccess who va pa lg write sg v) s =
      devCommand who s (regAccess s who va off (2 ^ lg.toNat) write sg v.toNat) := by
  simp only [exec, execDeviceSpaceAccess, hp]

/-- DEVICE_SPACE_ACCESS in the doorbell range. -/
theorem exec_deviceBells {pa : BitVec 52} {off : Nat} (hp : placeOf pa.toNat = .bell off) (who : DevAgent) (va v : W64) (lg : BitVec 2)
    (write sg : Bool) (s : State) : exec (.deviceSpaceAccess who va pa lg write sg v) s =
      devCommand who s (bellAccess s who va off (2 ^ lg.toNat) write v) := by
  simp only [exec, execDeviceSpaceAccess, hp]

/-- A REGISTER_WRITE that is open takes no free value. -/
theorem exec_registerWrite {s : State} {who : DevAgent} {off : BitVec 28} {wide : Bool} {r : Reg}
    (h : RegOpen s who off.toNat (if wide then 8 else 4) true r) (v : W64) : exec (.registerWrite who off wide v) s =
      devCommand who s (regWrite s who r (writeWord s r (decide (off.toNat % 8 = 4)) wide v.toNat)) := by
  have hwide : decide ((if wide then 8 else 4) = 8) = wide := by cases wide <;> rfl
  have hrun := regAccess_open h (takeFree 64 s).1 false v.toNat
  obtain ⟨-, ha, hr, hd, hright⟩ := h
  rw [if_pos rfl, hwide] at hrun
  cases hdie : regDie r with
  | none => simp [exec, execRegisterWrite, ha, hr, hright, hdie, hrun]
  | some d => simp [exec, execRegisterWrite, ha, hr, hright, hdie, hd d hdie, hrun]

/-- A REGISTER_WRITE that fails takes the virtual address it reports from the free values. -/
theorem exec_registerWrite_fails {s : State} {who : DevAgent} {off : BitVec 28} {wide : Bool} {code : Nat}
    (h : RegFails s who off.toNat (if wide then 8 else 4) true code) (v : W64) : exec (.registerWrite who off wide v) s =
      devCommand who (takeFree 64 s).2 (devFail (takeFree 64 s).2 who (takeFree 64 s).1 (regBase + off.toNat) true code) := by
  have hfree : RegFails (takeFree 64 s).2 who off.toNat (if wide then 8 else 4) true code := h.of_ready (fun _ => rfl)
  have hrun := regAccess_fails hfree (takeFree 64 s).1 false v.toNat
  rw [← hrun]
  cases h with
  | shape h =>
    have ha : off.toNat % (if wide then 8 else 4) ≠ 0 := h.resolve_left (by cases wide <;> decide)
    simp [exec, execRegisterWrite, ha]
  | unassigned hw ha hr => simp [exec, execRegisterWrite, hr]
  | unready hw ha hr hdie hd => simp [exec, execRegisterWrite, hr, hdie, hd]
  | noRight hw ha hr hd hright => simp [exec, execRegisterWrite, hr, hright]

/-- Settles O57. -/
theorem registersAreWrittenAndReadByTheirOffset : Obligations.RegistersAreWrittenAndReadByTheirOffset := by
  refine ⟨?access, ?write, ?refused⟩
  case access =>
    rintro who va v pa lg write sg s run t off n hready hdrained rfl hcore htile hfirm
    have hend : devCommand who s run = .next t := devCommand_next hready hdrained hcore htile hfirm
    refine ⟨fun hp => ?registers, fun hp => ?doorbells⟩
    case registers =>
      rw [exec_deviceRegs hp]
      refine ⟨?acts, ?shape, fun hw ha => ⟨?unassigned, fun r hr => ⟨?unready, ?noRight⟩⟩⟩
      case acts =>
        intro r hr hd hright hw ha hwrite hread
        rw [regAccess_open ⟨hw, ha, hr, hd, hright⟩]
        cases write with
        | true => rw [if_pos rfl, ← hwrite rfl, hend]
        | false => rw [if_neg Bool.false_ne_true, ← hread rfl, hend]
      case shape =>
        intro hshape hrun
        rw [regAccess_fails (.shape hshape), ← hrun, hend]
      case unassigned =>
        intro hr hrun
        rw [regAccess_fails (.unassigned hw ha hr), ← hrun, hend]
      case unready =>
        intro d hdie hd hrun
        rw [regAccess_fails (.unready hw ha hr hdie hd), ← hrun, hend]
      case noRight =>
        intro hd hright hrun
        rw [regAccess_fails (.noRight hw ha hr hd hright), ← hrun, hend]
    case doorbells =>
      rw [exec_deviceBells hp]
      refine ⟨fun hwrite hn ha => ⟨?core, ?tile⟩, ?otherShape, ?firmware⟩
      case core =>
        rintro h user rfl hrun
        rw [hwrite, hn, bellAccess_core ha, ← hrun, hend]
      case tile =>
        rintro p rfl hrun
        rw [hwrite, hn, bellAccess_tile ha, ← hrun, hend]
      case otherShape =>
        intro hshape hwho hrun
        rw [bellAccess_fails hshape hwho, ← hrun, hend]
      case firmware =>
        intro hwho hrun
        rw [bellAccess_firmware hwho, ← hrun, hend]
  case write =>
    rintro who off wide v s t run r n hready hdrained rfl hcore hfirm hr hd hright ha hrun
    have htile : ∀ p, who = .tile p → (s.gr p.g).lost = [] ∧ t = settleAll run := by
      rintro p rfl
      cases hright
    rw [exec_registerWrite ⟨by cases wide <;> simp, ha, hr, hd, hright⟩, ← hrun]
    exact devCommand_next hready hdrained hcore htile hfirm
  case refused =>
    rintro who off wide v va s u run t n code hfree hready hdrained rfl hcore htile hfirm hrun hwhy
    have hw : (if wide then 8 else 4) = 4 ∨ (if wide then 8 else 4) = 8 := by cases wide <;> simp
    have hfails : RegFails s who off.toNat (if wide then 8 else 4) true code := by
      obtain ⟨ha, rfl⟩ | ⟨ha, hr, rfl⟩ | ⟨ha, r, hr, ⟨d, hdie, hd, rfl⟩ | ⟨hd, hright, rfl⟩⟩ := hwhy
      · exact .shape (.inr ha)
      · exact .unassigned hw ha hr
      · exact .unready hw ha hr hdie hd
      · exact .noRight hw ha hr hd hright
    rw [exec_registerWrite_fails hfails, hfree, ← hrun]
    exact devCommand_next hready hdrained hcore htile hfirm

end Sys2Proof
end

section
/-! Vector and CSR instructions of a tile program (R62, R96, R97, R104, R108, R113): their issue, the oldest of the vector queue carried
out, and the CSRs of Table 4.5. -/

namespace Sys2Proof

open Sys2Proof.Machine

/-! ### Issue of vector instructions -/

/-- The queue of 16 has room (R104). -/
theorem vecFull_eq_false {x : Grate} (h : x.vecQ.length < 16) : vecFull x = false :=
  decide_eq_false (Nat.not_le.mpr h)

/-- An access within its slot that slot-guard mode allows passes the checks at issue. -/
theorem vecSpan_ok {s : State} {p : Site} {rs1 : W64} {role off : Nat} {write : Bool}
    (hspan : slotSpan (s.gr p.g) (vecSlot rs1) (vecOff rs1) 2048 = some off)
    (hrole : roleCheck (s.gr p.g) (vecSlot rs1) role write = .ok) : vecSpan s p rs1 role write = .ok off := by
  simp only [vecSpan, hspan, hrole]

/-- VEC.LOAD that passes its checks and finds room. -/
theorem exec_vecLoad_queued {p : Site} {rs1 : W64} {role : BitVec 2} {s : State} {off : Nat} (hissue : canIssue (s.gr p.g) = true)
    (hroom : (s.gr p.g).vecQ.length < 16) (hspan : vecSpan s p rs1 role.toNat false = .ok off) (rd : Fin 32) (find : EccFind) :
    exec (.vecLoad p rd rs1 role find) s = .next (vecQueue s p (.load rd off (vecSlot rs1) role.toNat) find) := by
  simp [exec, execVecLoad, hissue, vecFull_eq_false hroom, hspan]

/-- VEC.STORE that passes its checks and finds room. -/
theorem exec_vecStore_queued {p : Site} {rs1 : W64} {role : BitVec 2} {s : State} {off : Nat} (hissue : canIssue (s.gr p.g) = true)
    (hroom : (s.gr p.g).vecQ.length < 16) (hspan : vecSpan s p rs1 role.toNat true = .ok off) (rs2 : Fin 32) (find : EccFind) :
    exec (.vecStore p rs2 rs1 role find) s = .next (vecQueue s p (.store rs2 off (vecSlot rs1) role.toNat) find) := by
  simp [exec, execVecStore, hissue, vecFull_eq_false hroom, hspan]

/-- A legal VEC.OP that finds room. -/
theorem exec_vecOp_queued {p : Site} {i : VecInsn} {s : State} {m : RMode} (hissue : canIssue (s.gr p.g) = true)
    (hroom : (s.gr p.g).vecQ.length < 16) (hformat : vecFormatOk i.op = true) (hmode : vecMode i.op i.rm (s.gr p.g).status = some m)
    (find : EccFind) : exec (.vecOp p i find) s = .next (vecQueue s p (.op i.op m) find) := by
  simp [exec, execVecOp, hissue, vecFull_eq_false hroom, hformat, hmode]

/-! ### The oldest of the vector queue carried out

No word it reads is uncorrectable and its slot still allows it; what remains is its work, on the state without it in which what the code
found is counted. -/

section

variable {s : State} {g : Nat} {v : VecInstr} {rest : List VecInstr} (hq : (s.gr g).vecQ = v :: rest) (hfind : v.find ≠ .uncorrectable)
  (hbad : vecBad (s.gr g) v.work = false) (hbroken : vecBroken (s.gr g) v.work = none)

include hq hfind hbad hbroken

theorem vecStep_op {t : State} (ht : t = countFind (s.setGr g { s.gr g with vecQ := rest }) g v.find) {op : VecOp} {m : RMode} {y : Grate}
    {fl : FlagSet} (hwork : v.work = .op op m) (heval : vecEval (t.gr g) op m v.key = .done y fl) :
    vecStep s g = t.setGr g (forgetPast { y with status := raiseFlags y.status fl }) := by
  subst ht
  rw [hwork] at hbad hbroken
  simp [vecStep, hq, hfind, hwork, hbad, hbroken, heval]

theorem vecStep_load {t u : State} (ht : t = countFind (s.setGr g { s.gr g with vecQ := rest }) g v.find) {rd : Fin 32}
    {off slot role : Nat} {a : Mem} (hwork : v.work = .load rd off slot role) (hview : unitView t g v.seq = (a, u)) :
    vecStep s g = bankConflicts (u.setGr g (forgetPast (roleDone
      (vput (u.gr g) rd ((chunks 4 512 (Mem.read a (spadKey g off) 2048)).map ofBytes)) slot role false))) g 3 := by
  subst ht
  rw [hwork] at hbad hbroken
  simp [vecStep, hq, hfind, hwork, hbad, hbroken, hview]

theorem vecStep_store {t : State} (ht : t = countFind (s.setGr g { s.gr g with vecQ := rest }) g v.find) {rs2 : Fin 32}
    {off slot role : Nat} (hwork : v.work = .store rs2 off slot role) :
    vecStep s g = bankConflicts ((spadWrite t g off (vbytes (t.gr g) rs2)).modGr g
      (fun x => forgetPast (roleDone x slot role true))) g 3 := by
  subst ht
  rw [hwork] at hbad hbroken
  simp [vecStep, hq, hfind, hwork, hbad, hbroken]

end

/-! ### CSR instructions -/

/-- A write of a custom CSR does not see the scalar registers. -/
theorem csrWrite_setX (x : Grate) (rd csr : Nat) (old v : W64) :
    csrWrite (setX x rd old) csr v = (csrWrite x csr v).map (setX · rd old) := by
  unfold setX
  split
  · exact Option.map_id'.symm
  · unfold csrWrite
    split
    case h_6 => cases v.getLsbD 0 <;> rfl
    all_goals rfl

/-- A set or clear without a source register only reads its CSR. -/
theorem exec_csr_read {p : Site} {op : CsrOp} {csr : BitVec 12} {s : State} {old : W64} (hissue : canIssue (s.gr p.g) = true)
    (hread : csrRead (s.gr p.g) p.g csr.toNat = some old) (hop : op ≠ .swap) (rd : Fin 32) (value : W64) :
    exec (.tileControllerCsrWrite p ⟨op, csr, false, rd⟩ value) s = .next (s.setGr p.g { setX (s.gr p.g) rd old with pc := nextPc p }) := by
  simp [exec, execTileControllerCsrWrite, hissue, hread, hop]

/-- Every other CSR instruction also writes it; that the old value is in its register before the write shows nowhere. -/
theorem exec_csr_write {p : Site} {op : CsrOp} {csr : BitVec 12} {writes : Bool} {s : State} {old value : W64} {rd : Fin 32} {y : Grate}
    (hissue : canIssue (s.gr p.g) = true) (hread : csrRead (s.gr p.g) p.g csr.toNat = some old) (hwrites : op = .swap ∨ writes = true)
    (hwrite : csrWrite (setX (s.gr p.g) rd old) csr.toNat (csrNew op old value) = some y) :
    exec (.tileControllerCsrWrite p ⟨op, csr, writes, rd⟩ value) s = .next (s.setGr p.g { y with pc := nextPc p }) := by
  obtain ⟨x, hx, rfl⟩ := Option.map_eq_some_iff.mp ((csrWrite_setX _ _ _ _ _).symm.trans hwrite)
  have hnot : ¬ (writes = false ∧ op ≠ .swap) := by
    rintro ⟨rfl, hop⟩
    exact hwrites.elim hop Bool.false_ne_true
  simp [exec, execTileControllerCsrWrite, hissue, hread, hnot, hx]

/-- CSR 0x805 clears the conflict counters where bit 0 of the value is set. -/
theorem csrWrite_conflicts (x : Grate) (v : W64) :
    csrWrite x 0x805 v = some { x with conflicts := if v.getLsbD 0 then [] else x.conflicts } := by
  unfold csrWrite
  cases v.getLsbD 0 <;> rfl

/-- A scalar register write leaves the conflict counters. -/
theorem setX_conflicts (x : Grate) (rd : Nat) (v : W64) : (setX x rd v).conflicts = x.conflicts := by
  unfold setX
  split <;> rfl

/-- Settles O19. The CSRs written are those of Table 4.5; the operation of a VEC.OP and the role of a load or store are carried by their
commands (log 17), and the queue is worked off where the model says (log 15). -/
theorem vectorInstructionsAndCsrWritesComplete : Obligations.VectorInstructionsAndCsrWritesComplete := by
  refine ⟨?load, ?store, ?op, ?oldest, ?csr⟩
  case load =>
    rintro p rd rs1 role find s x off rfl hissue hroom hspan hrole
    exact exec_vecLoad_queued hissue hroom (vecSpan_ok hspan hrole) rd find
  case store =>
    rintro p rs2 rs1 role find s x off rfl hissue hroom hspan hrole
    exact exec_vecStore_queued hissue hroom (vecSpan_ok hspan hrole) rs2 find
  case op =>
    rintro p rm op find s x m rfl hissue hroom hformat hmode
    exact exec_vecOp_queued hissue hroom hformat hmode find
  case oldest =>
    intro g s t v rest hq hfind hbad hbroken ht
    refine ⟨fun op m y fl => ?_, fun rd off slot role a u => ?_, fun rs2 off slot role => ?_⟩
    · exact vecStep_op hq hfind hbad hbroken ht
    · exact vecStep_load hq hfind hbad hbroken ht
    · exact vecStep_store hq hfind hbad hbroken ht
  case csr =>
    rintro p op csr value writes rd s x old v rfl hissue hread hv
    obtain rfl : v = csrNew op old value := hv
    refine ⟨?readOnly, fun hwrites => ⟨?status, ?keyLo, ?keyHi, ?srBase, ?waitLimit, ?conflicts⟩⟩
    case readOnly =>
      rintro hop rfl
      exact exec_csr_read hissue hread hop rd value
    case status | keyLo | keyHi | srBase | waitLimit =>
      rintro rfl
      exact exec_csr_write hissue hread hwrites rfl
    case conflicts =>
      rintro rfl
      rw [← setX_conflicts (s.gr p.g) rd old]
      exact exec_csr_write hissue hread hwrites (csrWrite_conflicts _ _)

end Sys2Proof
end

section
/-! Matrix instructions and weight loads (R82 to R91, R104, R109 to R111): their issue, and the commands at which their units end their
work. -/

namespace Sys2Proof

open Sys2Proof.Machine

/-- The checks of R88, R109, R119 and R131 find nothing illegal in a matrix instruction: it is well formed, continues what its arrays
hold, and has its accesses within its slots under roles that allow them. -/
theorem macIllegal_eq_false {x : Grate} {c mode a d : Nat} {aspan dspan : Option Nat} (hform : mcMalformed c = false)
    (hheld : mcBegin c = 0 → heldMatches x c mode = true) (ha : aspan = some a) (hd : dspan = some d) (hroles : mcRoles x c = .ok) :
    (mcMalformed c || (decide (mcBegin c = 0) && !(heldMatches x c mode)) || aspan.isNone || dspan.isNone ||
      decide (mcRoles x c = .illegal)) = false := by
  have hcontinues : (decide (mcBegin c = 0) && !(heldMatches x c mode)) = false := by simpa using hheld
  simp [hform, hcontinues, ha, hd, hroles]

/-- The checks of R111, R119 and R131 find nothing illegal in a weight load: SOFF and every array's part lie within the slot. -/
theorem wlIllegal_eq_false {c off size : Nat} {spans : List (Option Nat)} {role : RoleCheck} (hform : wlMalformed c = false)
    (hspans : ∀ r ∈ spans, r.isSome = true) (hoff : off ≤ size) (hrole : role = .ok) :
    (wlMalformed c || spans.any (·.isNone) || decide (size < off) || decide (role = .illegal)) = false := by
  have hwithin : spans.any (·.isNone) = false := by simpa [Option.isSome_iff_ne_none] using hspans
  simp [hform, hwithin, Nat.not_lt.mpr hoff, hrole]

/-- Settles O18: every check that a command makes before its work has passed, one after the other, and what remains is the work. Past
words and a drain under way may show in what a unit reads (unitView, log 15), and with a read-out DROLE is the write's (log 16). -/
theorem matrixInstructionsAreQueuedAndEnd : Obligations.MatrixInstructionsAreQueuedAndEnd := by
  refine ⟨⟨?mac, ?load⟩, ?loadEnds, ?lastStep, ?drainEnds⟩
  case mac =>
    rintro p rs1 rs2 s x c fa ro a d rfl hc hissue hroom hfmt hro hform hheld ha hd hroles
    have hlegal := macIllegal_eq_false hform hheld ha hd hroles
    simp only [exec, execMatrixMac, ← hc, hfmt, hro]
    rw [if_neg (by simp [hissue]), if_neg (Nat.not_le.mpr hroom), if_neg (Bool.eq_false_iff.mp hlegal), if_neg (by simp [hroles]), ha, hd,
      Option.getD_some, Option.getD_some]
  case load =>
    rintro p rs1 rs2 s x c f base rfl rfl hissue hroom hfmt hform hbase hoff hparts hrole
    have hlegal := wlIllegal_eq_false hform (List.forall_mem_map.mpr hparts) hoff hrole
    simp only [exec, execWeightLoad, hfmt, hbase]
    rw [if_neg (by simp [hissue]), if_neg (Nat.not_le.mpr hroom), if_neg (Bool.eq_false_iff.mp hlegal), if_neg (by simp [hrole])]
  case loadEnds =>
    rintro g find s x op rest f rfl hq hblocked hfind hbad hbroken hfmt v u hview
    simp only [exec, execWeightLoadComplete, hq, hfmt, hview]
    rw [if_neg (by simp [hblocked]), if_neg (by simp [hfind, hbad]), if_neg (by simp [hbroken])]
  case lastStep =>
    rintro g find s u v x y op rest fa fb t wn cells rfl hq hready hspad hweights hbad hbroken hfa hfb hview hrun rfl rfl
    simp only [exec, execMatrixLastStepRead, hq, hbroken, hfa, hfb, hview, hrun]
    rw [if_neg (by simp [hready]), if_neg (by simp [hspad, hbad]), if_neg hweights]
    -- the arrays are cleared, and the drain register filled, by a read-out alone (R89, R90)
    cases op.ro with
    | none => simp
    | some ro => simp
  case drainEnds =>
    intro g find s u d fl hd hfind hbroken herr hwrite
    simp only [exec, execMatrixDrainComplete, hd, herr, hwrite]
    rw [if_neg hfind, if_neg (by simp [hbroken])]

end Sys2Proof
end

section
/-! The state after reset (R118, R140, R326, R416, R489, R494, R582). -/

namespace Sys2Proof

open Sys2Proof.Machine

/-- Settles O3. After reset every table is empty, memory among them (log 14), so that each entry reads as its type's default, which is
the value that the spec or the model's log 2 gives it at reset. -/
theorem resetLeavesNothingSetUp : Obligations.ResetLeavesNothingSetUp :=
  have hring (n : Nat) : State.reset.ring n = {} := Tab.get_nil _ n
  have hgrate (g : Nat) : State.reset.gr g = {} := Tab.get_nil _ g
  have hlink (f : Nat) : State.reset.fl f = {} := Tab.get_nil _ f
  ⟨⟨rfl, rfl, rfl, fun n => hring n ▸ ⟨rfl, rfl⟩, fun _ => rfl, fun _ => rfl, fun _ => rfl, fun _ => rfl, fun _ => rfl,
      fun g => hgrate g ▸ ⟨rfl, rfl⟩, rfl, fun _ _ => rfl, fun f => hlink f ▸ ⟨rfl, rfl⟩, rfl, fun _ => rfl, fun _ => rfl, rfl⟩,
    rfl⟩

end Sys2Proof
end

section
/-! The slot instructions, EVENT.READ and EBREAK of a tile program (R118, R119, R129, R132, R135, R142, R541). -/

namespace Sys2Proof

open Sys2Proof.Machine

/-! ### Issue, and the start of taking an exception -/

/-- A grate that issues is never refused as not ready. -/
theorem issues_not_refused {x : Grate} (h : canIssue x = true) : ¬ (!canIssue x) = true := by simp [h]

/-- A grate that issues is RUNNING. -/
theorem running_of_canIssue {x : Grate} (h : canIssue x = true) : x.st = .running := by
  simp only [canIssue, Bool.and_eq_true, decide_eq_true_eq] at h
  obtain ⟨⟨⟨hrunning, -⟩, -⟩, -⟩ := h
  exact hrunning

/-- An exception of a RUNNING grate that nothing stalls stops its issue. -/
theorem beginHalt_running {s : State} {g : Nat} (hrunning : (s.gr g).st = .running) (hstall : (s.gr g).stall = .none) (h : HaltInfo) :
    beginHalt s g h = s.setGr g { s.gr g with stall := .halting h } := by
  simp only [beginHalt, hstall]
  rw [if_pos (.inl hrunning)]

/-- A grate whose earlier work has not ended does not enter HALTED yet (R142). -/
theorem settleHalt_pending {s : State} {g : Nat} (h : allDone (s.gr g) = false) : settleHalt s g = s := by
  simp only [settleHalt]
  split
  · exact if_neg (by simp [h])
  · rfl

/-- An exception found at issue while earlier work goes on: the program counter is the instruction's, and issue stops (R142). -/
theorem haltOn_pending {s : State} {g : Nat} (hrunning : (s.gr g).st = .running) (hpending : allDone (s.gr g) = false) (pc : W64)
    (insn : W32) (cause : Nat) (extra : List (Nat × Nat × Nat)) (m : Option Slot) :
    haltOn s g pc insn cause extra m = s.setGr g { s.gr g with
      pc := pc, stall := .halting { cause := cause, pc := pc, insn := insn, extra := extra, matching := m } } := by
  have hbegun := beginHalt_running (s := s.modGr g (fun x => { x with pc := pc, stall := .none })) (g := g)
    (by simpa [State.modGr] using hrunning) (by simp [State.modGr])
    { cause := cause, pc := pc, insn := insn, extra := extra, matching := m }
  have hwaits : allDone ((s.setGr g { s.gr g with
      pc := pc, stall := .halting { cause := cause, pc := pc, insn := insn, extra := extra, matching := m } }).gr g) = false := by
    rw [State.setGr_same]
    exact hpending
  simp only [State.modGr, State.setGr_same, State.setGr_setGr] at hbegun
  simp only [haltOn, State.modGr]
  rw [hbegun, settleHalt_pending hwaits]

/-- Settles O16. That SLOT.GET asks for no V and that SLOT.CLEAR acts as a produce-part write are log 18; the wrap of REMAIN is
log 129. -/
theorem slotReadAndBreakInstructionsComplete : Obligations.SlotReadAndBreakInstructionsComplete := by
  refine ⟨⟨?set, ?get, ?clear, ?publish, ?retire⟩, ?eventRead, ?debugHalt, ?halt, ?stops⟩
  case set =>
    intro p rs1 rs2 s hissue hsettable
    simp only [exec, execSlotSet]
    rw [if_neg (issues_not_refused hissue), if_pos hsettable]
  case get =>
    intro p rd rs1 s hissue
    exact if_neg (issues_not_refused hissue)
  case clear =>
    rintro p rs1 s e rfl hissue hvalid hrole
    simp only [exec, execSlotClear]
    rw [if_neg (issues_not_refused hissue), if_neg (by simp [hvalid]), if_neg hrole]
    rfl
  case publish =>
    rintro p rs1 s e rfl hissue hvalid hmode hguard hempty
    simp only [exec, execSlotPublish]
    rw [if_neg (issues_not_refused hissue), if_neg (by simp [hvalid]), if_neg (by simp [hmode, hguard]), if_neg (by simp [hempty])]
    rfl
  case retire =>
    rintro p rs1 s e rfl hissue hvalid hmode hguard hfull
    simp only [exec, execSlotRetire]
    rw [if_neg (issues_not_refused hissue), if_neg (by simp [hvalid]), if_neg (by simp [hmode, hguard]), if_neg (by simp [hfull])]
    rfl
  case eventRead =>
    intro p rd rs1 s hissue
    exact if_neg (issues_not_refused hissue)
  case debugHalt =>
    intro p s hissue hlevel
    simp only [exec, execEbreak]
    rw [if_neg (issues_not_refused hissue), if_pos hlevel]
  case halt =>
    intro p s hissue hlevel
    simp only [exec, execEbreak]
    rw [if_neg (issues_not_refused hissue), if_neg hlevel]
  case stops =>
    intro p s hissue hlevel hpending
    simp only [exec, execEbreak]
    rw [if_neg (issues_not_refused hissue), if_neg hlevel, haltAt, haltOn_pending (running_of_canIssue hissue) hpending]

end Sys2Proof
end

section
/-! The waits of a tile program: the stall of issue, and what ends it (R123, R125 to R128, R249, R357, R605). -/

namespace Sys2Proof

open Sys2Proof.Machine

/-! ### The end of a wait -/

/-- A grate whose work is complete has nothing in its vector queue. -/
theorem vecQ_of_allDone {x : Grate} (h : allDone x = true) : x.vecQ = [] := by
  simp only [allDone, unitsEmpty, Bool.and_eq_true] at h
  obtain ⟨⟨⟨-, hvec⟩, -⟩, -⟩ := h
  exact List.isEmpty_iff.mp hvec

/-- The vector unit of a grate with an empty queue does nothing. -/
theorem vecRun_empty {s : State} {g : Nat} (h : (s.gr g).vecQ = []) : vecRun s g = s :=
  if_pos (List.isEmpty_iff.mpr h)

/-- A wait for every unit ends at once where their work is complete. -/
theorem afterUnits_done {s : State} {g : Nat} (h : allDone (s.gr g) = true) (k : State → Res) : afterUnits s g k = k s := by
  simp only [afterUnits, vecRun_empty (vecQ_of_allDone h)]
  rw [if_neg (by simp), if_pos h]

/-- The end of a wait that drained the store buffer and lost no store. -/
theorem afterDrain_kept {s : State} {g : Nat} (h : (s.gr g).lost = []) (pc : W64) (insn : W32) (k : State) :
    afterDrain s g pc insn k = k :=
  if_pos (List.isEmpty_iff.mpr h)

/-- A wait longer than a limit that is set (R127). -/
theorem waitedOut_of_limit {s : State} {x : Grate} {since : Nat} (hlimit : x.waitLimit ≠ 0)
    (hlong : x.waitLimit.toNat < s.elapsed - since) : waitedOut s x since = true :=
  Bool.and_eq_true_iff.mpr ⟨decide_eq_true hlimit, decide_eq_true hlong⟩

/-- The units that a UNIT.WAIT names are complete once the vector queue has been carried out without an exception; where it waited for the
stores, none is lost. -/
theorem exec_unitWaitMet {g : GrateNo} {s t : State} {m : BitVec 5} {pc : W64} {insn : W32} (hstall : (s.gr g).stall = .unitWait m pc insn)
    (ht : t = if m.getLsbD 2 || m.getLsbD 3 then vecRun s g else s) (hkept : (t.gr g).stall = .unitWait m pc insn)
    (hdone : unitsDone (t.gr g) m = true) (hlost : m.getLsbD 4 = true → (t.gr g).lost = []) :
    exec (.unitWaitMet g) s = .next (resumeIssue t g) := by
  simp only [exec, execUnitWaitMet, hstall, ← ht, hkept]
  rw [if_neg (by simp), if_pos hdone]
  split
  case isTrue hstores => rw [afterDrain_kept (hlost hstores)]
  case isFalse => rfl

/-- Settles O17. UNIT.WAIT carries the vector queue out at its end (log 15); the program counter of an ECALL is past it (log 130). -/
theorem waitsStallAndEndByTheirConditions : Obligations.WaitsStallAndEndByTheirConditions := by
  refine ⟨?stalls, ?unitWait, ?signal, ?eventWait, ?tallyWait, ?eventTimeout, ?tallyTimeout, ?boundary, ?ecall⟩
  case stalls =>
    intro p rs1 rs2 s hissue
    have hready := issues_not_refused hissue
    exact ⟨if_neg hready, if_neg hready, if_neg hready, if_neg hready, if_neg hready, if_neg hready⟩
  case unitWait =>
    intro g s t m pc insn hstall ht hkept hdone hlost
    exact exec_unitWaitMet hstall ht hkept hdone hlost
  case signal =>
    intro g s n ctr inc pc insn hstall hdone hlost hok
    simp only [exec, execEventSignalEffect, hstall]
    rw [afterUnits_done hdone, afterDrain_kept hlost, if_pos hok]
    rfl
  case eventWait =>
    intro g s ctr since target pc insn hstall hreached
    simp only [exec, execEventWaitMet, hstall]
    rw [if_pos hreached]
  case tallyWait =>
    intro g s ctr since pkts target pc insn hstall hreached
    simp only [exec, execTallyWaitMet, hstall]
    rw [if_pos hreached]
  case eventTimeout | tallyTimeout =>
    intros
    rename_i hstall hlimit hlong
    simp only [exec, execWaitTimeout, hstall]
    rw [if_pos (waitedOut_of_limit hlimit hlong)]
  case boundary =>
    intro g s pc insn hstall hdone hlost
    simp only [exec, execBoundaryReached, hstall]
    rw [afterUnits_done hdone, afterDrain_kept hlost, apply_ite (s.setGr g)]
    rfl
  case ecall =>
    intro g s pc insn hstall hdone hlost
    simp only [exec, execEcallStop, hstall]
    rw [afterUnits_done hdone, afterDrain_kept hlost]
    rfl

end Sys2Proof
end

section
/-! The control of a grate by the runtime, and the steps of a tide switch (R140, R141, R201 to R203, R586, Table 6.9). -/

namespace Sys2Proof

open Sys2Proof.Machine

/-! ### Register commands of a ready die, and the clear -/

/-- A register command of a ready die takes effect. -/
theorem dieReg_ready {s : State} {d : Nat} (h : readyHth s d = true) (k : State) : dieReg s d k = .next k :=
  congrArg Host.Outcome.next (if_pos h)

/-- Where no LAUNCH is pending none ends (R357). -/
theorem endLaunch_none {s : State} {g : Nat} (h : (s.gr g).launch = none) (status detail : Nat) : endLaunch s g status detail = s := by
  simp only [endLaunch, h]

/-- A clear that finds no LAUNCH pending only begins. -/
theorem beginClear_noLaunch {s : State} {g : Nat} (h : (s.gr g).launch = none) :
    beginClear s g = s.setGr g { s.gr g with clearing := true } := by
  rw [beginClear, endLaunch_none h, State.modGr]

/-- The requests and translations of an agent go; no grate and no byte of memory is touched. -/
theorem dropAgent_keeps (s : State) (a : Agent) : (∀ k, (dropAgent s a).gr k = s.gr k) ∧ (dropAgent s a).mem = s.mem :=
  ⟨fun _ => rfl, rfl⟩

/-- A cleared grate holds what IDLE has; its corrected-error count, control error and cube steps stay (R118, R141, R586). -/
theorem clearGrate_same (s : State) (g : Nat) : (clearGrate s g).gr g =
    { errCount := (s.gr g).errCount, ctlErr := (s.gr g).ctlErr, cubeSteps := (s.gr g).cubeSteps } :=
  State.setGr_same s g _

/-- The clear of a grate leaves the others. -/
theorem clearGrate_other (s : State) {g k : Nat} (h : k ≠ g) : (clearGrate s g).gr k = s.gr k :=
  State.setGr_other s g _ h

/-- The clear of a grate zeroes its scratchpad and no other byte (R141). -/
theorem clearGrate_mem (s : State) (g a : Nat) : Tab.get 0 (clearGrate s g).mem a =
    if spadKey g 0 ≤ a ∧ a < spadKey g 0 + 0x600000 then 0 else Tab.get 0 s.mem a :=
  Tab.get_eraseRange 0 s.mem (spadKey g 0) 0x600000 a

/-- Where no window of a grate is open or busy, none is open and none is busy. -/
theorem windowsOf_none {s : State} {g : Nat} (h : windowsOf s g (fun w => w.v || w.busy) = false) :
    windowsOf s g (fun w => w.v) = false ∧ windowsOf s g (fun w => w.busy) = false := by
  simp only [windowsOf, List.any_eq_false, Bool.and_eq_true, Bool.or_eq_true, not_and, not_or] at h ⊢
  exact ⟨fun e he hg => (h e he hg).1, fun e he hg => (h e he hg).2⟩

/-- The step that a tide switch takes for a STOPPED grate (Table 6.9). -/
theorem exec_tideSwitch_stopped {g : GrateNo} {s : State} (hclear : (s.gr g).clearing = false) (hst : (s.gr g).st = .stopped) (ctx : Ctx) :
    exec (.tideSwitch g ctx) s = .next (if windowsOf s g (fun w => w.v) then closeWindows s g
      else if windowsOf s g (fun w => w.busy) || tideBusy s g then s else if (s.gr g).ctx = ctx then s else beginClear s g) := by
  simp only [exec, execTideSwitch, hst]
  rw [if_neg (by simp [hclear])]
  split
  · rfl
  · split
    · rfl
    · split <;> rfl

/-- Settles O23. The steps of a tide switch are those of Table 6.9, one for each TIDE_SWITCH (log 79). -/
theorem gratesAreControlledAndSwitched : Obligations.GratesAreControlledAndSwitched := by
  refine ⟨?control, ?refusals, ?switch⟩
  case control =>
    intro g s hready
    refine ⟨fun set => dieReg_ready hready _, ?resume, ?toidle, ?clearDone, ?guardMode⟩
    case resume =>
      intro hst hclear
      simp only [exec, execGrateResume]
      rw [dieReg_ready hready, if_pos ⟨hst, hclear⟩]
    case toidle =>
      intro hst hclear hlaunch
      simp only [exec, execToidle]
      rw [dieReg_ready hready, if_pos ⟨hst, hclear⟩, beginClear_noLaunch hlaunch]
    case clearDone =>
      intro hclear
      obtain ⟨hgrates, hmem⟩ := dropAgent_keeps s (.tile g)
      refine ⟨clearGrate (dropAgent s (.tile g)) g, if_pos hclear, ?idle, fun k hk => ?others, fun a => ?bytes⟩
      case idle => rw [clearGrate_same, hgrates]
      case others => rw [clearGrate_other _ hk, hgrates]
      case bytes => rw [clearGrate_mem, hmem]
    case guardMode =>
      intro en hst hclear
      simp only [exec, execGuardModeWrite]
      rw [dieReg_ready hready, if_pos ⟨hst, hclear⟩]
  case refusals =>
    intro g s hready
    refine ⟨fun hst => ?resume, fun hst => ?toidle⟩
    case resume =>
      have hrefused : ¬ ((s.gr g).st = .stopped ∧ (s.gr g).clearing = false) := by
        rintro ⟨hstopped, hclear⟩
        exact hst.elim (· hstopped) (by simp [hclear])
      simp only [exec, execGrateResume]
      rw [dieReg_ready hready, if_neg hrefused]
      rfl
    case toidle =>
      have hrefused : ¬ (((s.gr g).st = .stopped ∨ (s.gr g).st = .halted) ∧ (s.gr g).clearing = false) := by
        rintro ⟨hstopped | hstopped, hclear⟩ <;> simp [hstopped, hclear] at hst
      simp only [exec, execToidle]
      rw [dieReg_ready hready, if_neg hrefused]
      rfl
  case switch =>
    intro g ctx s hclear
    refine ⟨fun hst hreq => ?stop, fun hst hopen => ?close, fun hst hwindows hbusy hlaunch => ?clear⟩
    case stop =>
      simp only [exec, execTideSwitch, hst]
      rw [if_neg (by simp [hclear]), if_neg (by simp [hreq])]
    case close =>
      have hwindows : windowsOf s g (fun w => w.v) = true := hopen
      rw [exec_tideSwitch_stopped hclear hst, if_pos hwindows, closeWindows]
    case clear =>
      obtain ⟨hshut, hidle⟩ := windowsOf_none hwindows
      rw [exec_tideSwitch_stopped hclear hst, if_neg (by simp [hshut]), if_neg (by simp [hidle, hbusy]), beginClear_noLaunch hlaunch]

end Sys2Proof
end

section
/-! LAUNCH and the end of an engine's work (R113, R141, R173, R357, R358, R360, R361, R365, R382, R586). -/

namespace Sys2Proof

open Sys2Proof.Machine

/-! ### A LAUNCH meets its grate -/

/-- A LAUNCH that is well formed and whose record has come forgets its read; a bad record ends it with invalid status, a good one meets
its grate (R358). -/
theorem exec_launch_got {n : RingNo} {s u : State} {d : Desc} {bs : List Byte} (hstart : startable s n.toNat 7 = some d)
    (hdesc : descBad (s.ring n.toNat) d.head = false) (hbody : launchBad d.head = false)
    (hread : launchRead s n.toNat (s.ring n.toNat).die.toNat (laAddr d.head) = .got bs u) :
    exec (.launch n) s = .next (if recordBad u (ofBytes bs) then endAtStart (forgetRec u n.toNat) n.toNat d 3
      else launchMeet (forgetRec u n.toNat) n.toNat d (ofBytes bs)) := by
  simp only [exec, execLaunch, hstart, hread]
  rw [if_neg (by simp [hdesc, hbody])]
  split <;> rfl

section

variable {v : State} {rn : Nat} {d : Desc} {w : Nat}

/-- A clear under way makes a LAUNCH wait. -/
theorem launchMeet_clearing (hclear : (v.gr (laGrate d.head)).clearing = true) : launchMeet v rn d w = v :=
  if_pos hclear

variable (hclear : (v.gr (laGrate d.head)).clearing = false)

include hclear

/-- An IDLE grate starts. -/
theorem launchMeet_idle (hst : (v.gr (laGrate d.head)).st = .idle) : launchMeet v rn d w = launchStart v rn d w := by
  simp only [launchMeet, hst]
  rw [if_neg (by simp [hclear])]

/-- A grate that runs or has halted refuses the LAUNCH with busy status. -/
theorem launchMeet_busy (hst : (v.gr (laGrate d.head)).st = .running ∨ (v.gr (laGrate d.head)).st = .halted) :
    launchMeet v rn d w = endAtStart v rn d 4 := by
  obtain hst | hst := hst
  all_goals
    simp only [launchMeet, hst]
    rw [if_neg (by simp [hclear])]

/-- A STOPPED grate gives its pending LAUNCH up; it starts in its own context and begins a clear in another. -/
theorem launchMeet_stopped (hst : (v.gr (laGrate d.head)).st = .stopped) : launchMeet v rn d w =
    if (v.gr (laGrate d.head)).ctx.toNat = field w 320 12 then launchStart (endLaunch v (laGrate d.head) 0x17 0) rn d w
    else (endLaunch v (laGrate d.head) 0x17 0).modGr (laGrate d.head) (fun x => { x with clearing := true }) := by
  simp only [launchMeet, hst]
  rw [if_neg (by simp [hclear])]

end

/-- Settles O35. -/
theorem launchesStartAndEnginesEnd : Obligations.LaunchesStartAndEnginesEnd := by
  refine ⟨?launch, ?completion, ?flush⟩
  case launch =>
    rintro n s u v d bs w k g hstart hdesc hbody hread rfl hv rfl rfl
    have hforget : forgetRec u n.toNat = v := hv.symm
    have hexec := exec_launch_got hstart hdesc hbody hread
    rw [hforget] at hexec
    refine ⟨fun hbad => ?bad, fun hgood hclear => ?waits, fun hgood hclear => ?meets⟩
    case bad =>
      rw [hexec, if_pos hbad]
      rfl
    case waits => rw [hexec, if_neg (by simp [hgood]), launchMeet_clearing hclear]
    case meets =>
      rw [if_neg (by simp [hgood])] at hexec
      refine ⟨?starts, fun hst => ?busy, fun hst hctx => ?clears⟩
      case starts =>
        rintro t (⟨hst, rfl⟩ | ⟨hst, hctx, rfl⟩)
        · rw [hexec, launchMeet_idle hclear hst]
          rfl
        · rw [hexec, launchMeet_stopped hclear hst, if_pos hctx]
          rfl
      case busy =>
        rw [hexec, launchMeet_busy hclear hst]
        rfl
      case clears => rw [hexec, launchMeet_stopped hclear hst, if_neg hctx]
  case completion =>
    intro n idx s k j hjob
    refine ⟨fun hgoes => ?goesOn, ?ends⟩
    case goesOn => simp only [exec, execEngineCompletion, hjob, hgoes]
    case ends =>
      rintro e u v hends rfl rfl
      refine ⟨fun htakes => ?posts, fun hdue hfull => ?held⟩
      case posts =>
        have hfree : ¬ (recordDue j.desc e && !cringTakes s j.ring) = true := by
          obtain hnone | htakes := htakes
          · simp [hnone]
          · simp [htakes]
        simp only [exec, execEngineCompletion, hjob, hends]
        rw [if_neg hfree, finishJob]
      case held =>
        simp only [exec, execEngineCompletion, hjob, hends]
        rw [if_pos (by simp [hdue, hfull])]
  case flush =>
    rintro h n idx s k j q m hjob hreq hfree rfl
    simp only [exec, execHostFlushReadReturn, hjob, hreq]
    rw [if_neg (by simp [hfree])]
    simp only [flushReturned, decide_eq_true_eq]

end Sys2Proof
end

section
/-! Packets from other modules, answers to this module's requests, and packets that pass through (R137, R253, R256, R257, R263, R420,
R422, R434 to R438). -/

namespace Sys2Proof

open Sys2Proof.Machine

/-! ### Packets that arrive -/

/-- A packet within one line on an UP link is taken. -/
theorem pktRun_up {p : Pkt} {len : Nat} {s : State} (hup : linkUp s p.f = true) (hlen : 0 < len) (hline : p.off.toNat % 128 + len ≤ 128)
    (run : Res) : pktRun p len s run = run := by
  rw [pktRun, if_neg (by omega), if_neg (by simp [hup])]

/-- Groups of whole words pass the form of a merge, a norm merge with a whole line (R437). -/
theorem merge_wellFormed {p : Pkt} {norm : Bool} {n : Nat} (hwords : n % 32 = 0) (hoff : p.off.toNat % 32 = 0)
    (hnorm : norm = true → n = 128) : ¬ (n % 32 ≠ 0 ∨ p.off.toNat % 32 ≠ 0 ∨ (norm = true ∧ n ≠ 128)) := by
  rintro (h | h | ⟨hn, h⟩)
  · exact h hwords
  · exact h hoff
  · exact h (hnorm hn)

/-- An aligned word of 4 or 8 bytes lies within one line. -/
theorem aligned_within_line {wide : Bool} {off n : Nat} (hn : n = if wide then 8 else 4) (halign : off % n = 0) :
    0 < n ∧ off % 128 + n ≤ 128 := by
  obtain rfl | rfl : n = 8 ∨ n = 4 := by cases wide <;> simp [hn]
  all_goals omega

section

variable {p : Pkt} {s : State} (hup : linkUp s p.f = true)

include hup

/-- A write that no window lets in is refused with cause 0 (R137). -/
theorem exec_flueWrite_refused {data : List Byte} (hlen : 0 < data.length) (hline : p.off.toNat % 128 + data.length ≤ 128)
    (hnone : pktAdmit s p data.length .write = none) (en : BitVec 128) : exec (.flueWrite p en data) s = .next (refusePkt s p 0) := by
  simp only [exec, execFlueWrite, pktRun_up hup hlen hline, hnone]

variable {u : State} {a : Admit}

/-- A write with every byte enabled. -/
theorem exec_flueWrite_full {data : List Byte} {en : BitVec 128} (hlen : 0 < data.length) (hline : p.off.toNat % 128 + data.length ≤ 128)
    (hadmit : pktAdmit s p data.length .write = some a)
    (hfull : ((List.range data.length).filter (fun i => en.getLsbD (p.off.toNat % 128 + i))).length = data.length)
    (hcheck : checkExtent s (.flueLink p.f) a.ctx .write a.pa data.length = (.ok, u)) :
    exec (.flueWrite p en data) s = .next (settleAll (answerPkt (countTally (rawWrite u a.pa data) a.tally data.length) p (.ack p.id))) := by
  simp [exec, execFlueWrite, pktRun_up hup hlen hline, hadmit, hfull, hcheck, pktDone]

/-- A masked write: checked as an atomic but in a scratchpad, and only the enabled bytes change (R420). -/
theorem exec_flueWrite_masked {data : List Byte} {en : BitVec 128} {n : Nat} {acc : Acc3} (hlen : 0 < data.length)
    (hline : p.off.toNat % 128 + data.length ≤ 128) (hadmit : pktAdmit s p data.length .write = some a)
    (hn : n = ((List.range data.length).filter (fun i => en.getLsbD (p.off.toNat % 128 + i))).length) (hpart : n < data.length)
    (hspad : (∃ g off, placeOf a.pa = .spad g off) → acc = .write) (hmem : (∀ g off, placeOf a.pa ≠ .spad g off) → acc = .atomic)
    (hcheck : checkExtent s (.flueLink p.f) a.ctx acc a.pa data.length = (.ok, u)) :
    exec (.flueWrite p en data) s = .next (settleAll (answerPkt (countTally
      (rawWrite u a.pa (mergeMask (rawRead u a.pa data.length) data en (p.off.toNat % 128))) a.tally n) p (.ack p.id))) := by
  have hne : ¬ n = data.length := Nat.ne_of_lt hpart
  cases hplace : placeOf a.pa with
  | spad g off =>
    obtain rfl := hspad ⟨g, off, hplace⟩
    simp [exec, execFlueWrite, pktRun_up hup hlen hline, hadmit, ← hn, hne, hplace, hcheck, pktDone]
  | main | near | remote | host | regs | bell | nowhere =>
    obtain rfl := hmem (by simp [hplace])
    simp [exec, execFlueWrite, pktRun_up hup hlen hline, hadmit, ← hn, hne, hplace, hcheck, pktDone]

end

/-! ### Answers -/

/-- The answer to a request that was given up is discarded (R438). -/
theorem lateAnswer_known {s : State} {id : Nat} (h : id < s.nextReq) : lateAnswer s id = .next s := if_pos h

/-- Settles O37. A mask's bits count from the first byte of the line (log 75); a window lets in only the packets of its mode (log 74). -/
theorem packetsAndAnswersAreCarriedOut : Obligations.PacketsAndAnswersAreCarriedOut := by
  refine ⟨?performed, ?refused, ?answered, ?late, ?forwarded⟩
  case performed =>
    rintro p s u a answer hup rfl
    refine ⟨?write, ?merge, ?atomic, ?read⟩
    case write =>
      rintro data en n hn hlen hline hadmit
      refine ⟨fun hfull hcheck => ?full, fun acc hpart hspad hmem hcheck => ?masked⟩
      case full => exact exec_flueWrite_full hup hlen hline hadmit (hn.symm.trans hfull) hcheck
      case masked => exact exec_flueWrite_masked hup hlen hline hadmit hn hpart hspad hmem hcheck
    case merge =>
      intro norm data bs hlen hline hwords hoff hnorm hadmit hcheck hmerge
      simp only [exec, execFlueMerge, pktRun_up hup hlen hline, hadmit, hcheck, hmerge]
      rw [if_neg (merge_wellFormed hwords hoff hnorm)]
      rfl
    case atomic =>
      rintro op wide v c n old hn halign hadmit hatomic
      obtain ⟨hlen, hline⟩ := aligned_within_line hn halign
      simp only [exec, execFlueAtomic, ← hn, pktRun_up hup hlen hline, hadmit, hatomic]
      rw [if_neg (by simp [halign])]
      rfl
    case read =>
      intro len hlen hline hadmit bs hread
      simp only [exec, execFlueRead, pktRun_up hup hlen hline, hadmit, hread]
      rfl
  case refused =>
    rintro p s t hup rfl
    refine ⟨?write, ?merge, ?atomic, ?read⟩
    case write =>
      intro data en hlen hline hnone
      exact exec_flueWrite_refused hup hlen hline hnone en
    case merge =>
      intro norm data hlen hline hwords hoff hnorm hnone
      simp only [exec, execFlueMerge, pktRun_up hup hlen hline, hnone]
      rw [if_neg (merge_wellFormed hwords hoff hnorm)]
      rfl
    case atomic =>
      intro op wide v c n hn halign hnone
      obtain ⟨hlen, hline⟩ := aligned_within_line hn halign
      simp only [exec, execFlueAtomic, ← hn, pktRun_up hup hlen hline, hnone]
      rw [if_neg (by simp [halign])]
      rfl
    case read =>
      intro len hlen hline hnone
      simp only [exec, execFlueRead, pktRun_up hup hlen hline, hnone]
      rfl
  case answered =>
    intro id s r hreq hflue
    refine ⟨fun hwrite => ?ack, fun data hreads hlen => ?data, ?noRoute, ?refusal, ?residue, fun hlate => ?timeout⟩
    case ack => simp [exec, execFlueAck, hreq, hflue, hwrite]
    case data => simp [exec, execFlueData, hreq, hflue, hreads, hlen]
    case noRoute | refusal | residue => simp [exec, execFlueErr, hreq, hflue]
    case timeout => simp [exec, execFlueReadTimeout, hreq, hflue, Nat.not_lt.mpr hlate]
  case late =>
    intro id s data why hnone hknown
    have hlate := lateAnswer_known hknown
    refine ⟨?_, ?_, ?_⟩
    · simp only [exec, execFlueAck, hnone, hlate]
    · simp only [exec, execFlueData, hnone, hlate]
    · simp only [exec, execFlueErr, hnone, hlate]
  case forwarded =>
    intro f src dest hop addr len id s hother hup
    refine ⟨?on, fun hend => ?discarded⟩
    case on =>
      rintro out key hroute hhop rfl
      simp only [exec, execFlueForward, hroute]
      rw [if_neg hother, if_neg (by simp [hup]), if_neg (Nat.not_le.mpr hhop)]
    case discarded =>
      simp only [exec, execFlueForward]
      rw [if_neg hother, if_neg (by simp [hup])]
      cases hroute : pickLink s dest addr.toNat with
      | none => rfl
      | some out => exact if_pos (hend.resolve_left (by simp [hroute]))

end Sys2Proof
end

section
/-! Records packed from fields in ascending order, and the image of a stream entry (Table 6.1). -/

namespace Sys2Proof

open Sys2Proof.Machine

/-! ### Fields of a packed record -/

/-- The fields of a record, as (lowest bit, width, value), stand in ascending order without overlap. -/
def FieldsAscend (fs : List (Nat × Nat × Nat)) : Prop := fs.Pairwise (fun f g => f.1 + f.2.1 ≤ g.1)

theorem field_of_dvd {x lo w : Nat} (h : 2 ^ (lo + w) ∣ x) : field x lo w = 0 := by
  obtain ⟨k, rfl⟩ := h
  rw [field_eq_div_mod, Nat.pow_add, Nat.mul_assoc, Nat.mul_div_cancel_left _ (Nat.two_pow_pos lo), Nat.mul_mod_right]

theorem place_lt (lo w v : Nat) : place lo w v < 2 ^ (lo + w) := by
  rw [place, Nat.shiftLeft_eq, Nat.mul_comm, Nat.pow_add]
  exact Nat.mul_lt_mul_of_pos_left (Nat.mod_lt _ (Nat.two_pow_pos w)) (Nat.two_pow_pos lo)

theorem field_place_add_same {lo w v r : Nat} (hr : 2 ^ (lo + w) ∣ r) : field (place lo w v + r) lo w = v % 2 ^ w := by
  obtain ⟨k, rfl⟩ := hr
  rw [field_eq_div_mod, place, Nat.shiftLeft_eq, Nat.pow_add, Nat.mul_assoc, Nat.add_mul_div_left _ _ (Nat.two_pow_pos lo),
    Nat.mul_div_cancel _ (Nat.two_pow_pos lo), Nat.add_mul_mod_self_left, Nat.mod_mod]

theorem field_place_add_above {l u v r lo : Nat} (hlo : l + u ≤ lo) (hr : 2 ^ (l + u) ∣ r) (w : Nat) :
    field (place l u v + r) lo w = field r lo w := by
  obtain ⟨k, rfl⟩ := hr
  obtain ⟨d, rfl⟩ := Nat.exists_eq_add_of_le hlo
  have hhigh : (place l u v + 2 ^ (l + u) * k) / 2 ^ (l + u) = k := by
    rw [Nat.add_mul_div_left _ _ (Nat.two_pow_pos _), Nat.div_eq_of_lt (place_lt l u v), Nat.zero_add]
  rw [field_eq_div_mod, field_eq_div_mod, Nat.pow_add 2 (l + u) d, ← Nat.div_div_eq_div_mul, ← Nat.div_div_eq_div_mul, hhigh,
    Nat.mul_div_cancel_left _ (Nat.two_pow_pos _)]

theorem dvd_packFields {b : Nat} : ∀ {fs : List (Nat × Nat × Nat)}, (∀ f ∈ fs, b ≤ f.1) → 2 ^ b ∣ packFields fs
  | [], _ => Nat.dvd_zero _
  | (lo, w, v) :: rest, h => by
    obtain ⟨hlo, hrest⟩ := List.forall_mem_cons.mp h
    have hplace : 2 ^ b ∣ place lo w v := by
      rw [place, Nat.shiftLeft_eq]
      exact Nat.dvd_mul_left_of_dvd (Nat.pow_dvd_pow 2 hlo) _
    exact Nat.dvd_add hplace (dvd_packFields hrest)

/-- A field of a packed record reads the low bits of the value placed there. -/
theorem field_packFields_of_mem {lo w v : Nat} {fs : List (Nat × Nat × Nat)} (hasc : FieldsAscend fs) (hmem : (lo, w, v) ∈ fs) :
    field (packFields fs) lo w = v % 2 ^ w := by
  induction hasc with
  | nil => nomatch hmem
  | @cons f rest habove _ ih =>
    have hrest := dvd_packFields habove
    rcases List.mem_cons.mp hmem with rfl | hmem
    · exact field_place_add_same hrest
    · exact (field_place_add_above (habove _ hmem) hrest w).trans (ih hmem)

/-- Bits that no field of a packed record covers read zero. -/
theorem field_packFields_of_disjoint {lo w : Nat} {fs : List (Nat × Nat × Nat)} (hasc : FieldsAscend fs)
    (hfree : ∀ f ∈ fs, f.1 + f.2.1 ≤ lo ∨ lo + w ≤ f.1) : field (packFields fs) lo w = 0 := by
  induction hasc with
  | nil => exact field_of_dvd (Nat.dvd_zero _)
  | @cons f rest habove _ ih =>
    obtain ⟨hf, hfree⟩ := List.forall_mem_cons.mp hfree
    rcases hf with hbelow | hover
    · exact (field_place_add_above hbelow (dvd_packFields habove) w).trans (ih hfree)
    · refine field_of_dvd (dvd_packFields (List.forall_mem_cons.mpr ⟨hover, fun g hg => ?_⟩))
      exact Nat.le_trans hover (Nat.le_trans (Nat.le_add_right _ _) (habove g hg))

theorem ofNat_field_packFields {lo w : Nat} {x : BitVec w} {fs : List (Nat × Nat × Nat)} (hasc : FieldsAscend fs)
    (hmem : (lo, w, x.toNat) ∈ fs) : BitVec.ofNat w (field (packFields fs) lo w) = x := by
  rw [field_packFields_of_mem hasc hmem, Nat.mod_eq_of_lt x.isLt, BitVec.ofNat_toNat, BitVec.setWidth_eq]

theorem bitAt_packFields {i : Nat} {b : Bool} {fs : List (Nat × Nat × Nat)} (hasc : FieldsAscend fs) (hmem : (i, 1, boolNat b) ∈ fs) :
    bitAt (packFields fs) i = b := by
  have hfield : packFields fs / 2 ^ i % 2 = boolNat b % 2 := (field_eq_div_mod _ i 1).symm.trans (field_packFields_of_mem hasc hmem)
  rw [bitAt, Nat.testBit_eq_decide_div_mod_eq, hfield]
  cases b <;> rfl

/-! ### The image of a stream entry -/

/-- The fields of Table 6.1 with an entry's values. -/
def streamFields (e : Stream) : List (Nat × Nat × Nat) :=
  [(0, 1, boolNat e.v), (1, 3, e.st.toNat), (4, 12, e.ctx.toNat), (16, 16, e.ring.toNat), (32, 8, e.misses.toNat),
    (40, 8, e.misslim.toNat), (48, 1, boolNat e.late), (49, 1, boolNat e.rqmiss), (50, 1, boolNat e.tok), (64, 22, e.len.toNat),
    (86, 4, e.tpbl.toNat), (90, 12, e.bps.toNat), (128, 52, e.first.toNat), (192, 52, e.last.toNat), (256, 24, e.nblk.toNat),
    (320, 64, e.ndl.toNat), (384, 64, e.rqd.toNat), (448, 32, e.tdi.toNat), (512, 64, e.lastc.toNat), (576, 64, e.rctr.toNat),
    (640, 128, e.rkey.toNat), (768, 64, e.tag.toNat)]

theorem streamImage_eq (e : Stream) : streamImage e = packFields (streamFields e) := rfl

theorem streamFields_ascend (e : Stream) : FieldsAscend (streamFields e) := by
  simp [FieldsAscend, streamFields]

/-- WRITE takes every field but V from where READ put it; V it sets (Table 6.4). -/
theorem streamOfImage_streamImage (e : Stream) : streamOfImage (streamImage e) = { e with v := true, arm := none } := by
  have word {lo w x} := @ofNat_field_packFields lo w x _ (streamFields_ascend e)
  have bit {i b} := @bitAt_packFields i b _ (streamFields_ascend e)
  rw [streamImage_eq]
  simp only [streamOfImage, Stream.mk.injEq]
  refine ⟨trivial, word ?st, word ?ctx, word ?ring, word ?misses, word ?misslim, bit ?late, bit ?rqmiss, bit ?tok, word ?len, word ?tpbl,
    word ?bps, word ?first, word ?last, word ?nblk, word ?ndl, word ?rqd, word ?tdi, word ?lastc, word ?rctr, word ?rkey, word ?tag,
    trivial⟩
  all_goals simp [streamFields]

/-- The reserved fields of Table 6.1 lie between the fields that an image holds. -/
theorem imageReserved_streamImage (e : Stream) : imageReserved (streamImage e) = true := by
  rw [streamImage_eq, imageReserved, List.all_eq_true]
  intro r hr
  refine decide_eq_true (field_packFields_of_disjoint (streamFields_ascend e) ?_)
  revert r
  simp [streamFields]

/-- Settles O15. An image has no place for `arm`, the model's own field, so WRITE leaves it unset. -/
theorem streamImagesKeepEveryField : Obligations.StreamImagesKeepEveryField := by
  intro e hv
  refine ⟨?_, imageReserved_streamImage e⟩
  rw [streamOfImage_streamImage, ← hv]

end Sys2Proof
end

section
/-! Scalar accesses of a tile controller: where a translated access goes, what a read of a line brings, and the AMO, LR and SC of main
memory (R106, R115, R239, R240, R242, R245 to R247, R249, R252). -/

namespace Sys2Proof

open Sys2Proof.Machine

/-- Two changes of one grate are one change. -/
theorem modGr_modGr (s : State) (g : Nat) (f k : Grate → Grate) : (s.modGr g f).modGr g k = s.modGr g (fun x => k (f x)) := by
  simp only [State.modGr, State.setGr_same, State.setGr_setGr]

/-! ### Addresses of main memory -/

section

variable {pa n d : Nat} (hp : placeOf pa = .main n d)

include hp

theorem isDevice_main : isDevice pa = false := by simp only [isDevice, hp]

theorem isRemote_main : isRemote pa = false := by simp only [isRemote, hp]

theorem amoTier_main (op : AmoOp) : amoTier pa op = true := by simp only [amoTier, hp]

theorem ownSpad_main (g : Nat) : ownSpad g pa = false := by simp only [ownSpad, hp]

end

/-! ### From the command to the access -/

/-- A grate that issues may send any access. -/
theorem accReady_of_canIssue {s : State} {g : Nat} (hissue : canIssue (s.gr g) = true) (a : TcAccess) : accReady s g a = true :=
  Bool.or_eq_true_iff.mpr (.inl hissue)

/-- An aligned access that no invalidation under way holds and that its context's tables translate goes to its physical address. -/
theorem tileTry_translated {s u : State} {g pa : Nat} {a : TcAccess} (halign : a.va.toNat % tcSize a.kind = 0)
    (hscope : inScope s (s.gr g).ctx.toNat a.va.toNat = false)
    (hxlate : xlate s (.tile g) (s.gr g).ctx.toNat a.va.toNat (tcAcc a.kind) = (.ok pa, u)) : tileTry s g a = tileAt u g a pa := by
  simp only [tileTry, hxlate]
  rw [if_neg (by simp [halign]), if_neg (by simp [hscope])]

section

variable {p : Site} {va : W64} {lg : BitVec 2} {s u : State} {pa : Nat} (hissue : canIssue (s.gr p.g) = true)
  (hscope : inScope s (s.gr p.g).ctx.toNat va.toNat = false)

include hissue hscope

theorem exec_tcLoad_translated (halign : va.toNat % 2 ^ lg.toNat = 0)
    (hxlate : xlate s (.tile p.g) (s.gr p.g).ctx.toNat va.toNat .read = (.ok pa, u)) (signed : Bool) (rd : Fin 32) (find : EccFind) :
    exec (.tcLoad p va lg signed rd false find) s =
      .next (settleAll (tileRead u p.g ⟨p.pc, p.insn, va, .load (2 ^ lg.toNat) signed rd, find⟩ pa)) := by
  simp only [exec, execTcLoad]
  rw [if_neg (by simp [accReady_of_canIssue hissue]), if_neg (by simp), tileTry_translated halign hscope hxlate, tileAt]

theorem exec_tcFetch_translated (hxlate : xlate s (.tile p.g) (s.gr p.g).ctx.toNat va.toNat .fetch = (.ok pa, u)) (signed : Bool)
    (rd : Fin 32) (find : EccFind) :
    exec (.tcLoad p va lg signed rd true find) s = .next (settleAll (tileRead u p.g ⟨p.pc, p.insn, va, .fetch, find⟩ pa)) := by
  simp only [exec, execTcLoad]
  rw [if_neg (by simp [accReady_of_canIssue hissue]), if_pos trivial, tileTry_translated (Nat.mod_one _) hscope hxlate, tileAt]

theorem exec_tcStore_translated (halign : va.toNat % 2 ^ lg.toNat = 0)
    (hxlate : xlate s (.tile p.g) (s.gr p.g).ctx.toNat va.toNat .write = (.ok pa, u)) (value : W64) :
    exec (.tcStore p va lg value) s =
      .next (settleAll (tileAt u p.g { pc := p.pc, insn := p.insn, va := va, kind := .store (2 ^ lg.toNat) value } pa)) := by
  simp only [exec, execTcStore]
  rw [if_neg (by simp [accReady_of_canIssue hissue]), tileTry_translated halign hscope hxlate]

end

/-- An AMO, LR or SC whose rl bit has no buffered store to wait for is tried, with aq after the read buffer has been emptied. -/
theorem exec_tcAmo_tried {p : Site} {op : AmoOp} {aq rl : Bool} {s : State} (hop : op ≠ .amo .cas) (hissue : canIssue (s.gr p.g) = true)
    (hrl : rl = true → (s.gr p.g).sb = []) (va : W64) (wide : Bool) (value : W64) (rd : Fin 32) (find : EccFind) :
    exec (.tcAmo p va wide op value rd ⟨aq, rl⟩ find) s = .next (settleAll (tileTry
      (if aq then s.modGr p.g (fun x => { x with readBuf := [] }) else s) p.g ⟨p.pc, p.insn, va, tcAmoKind wide op value rd, find⟩)) := by
  have hdrained : (rl && !(s.gr p.g).sb.isEmpty) = false := by
    cases rl
    · rfl
    · simp [hrl rfl]
  simp only [exec, execTcAmo]
  rw [if_neg hop, if_neg (by simp [accReady_of_canIssue hissue]), if_neg (by simp [hdrained])]

/-! An AMO, LR or SC has one size, asks for one right, and goes on after itself; at its address it is what its operation says. -/

theorem tcSize_tcAmoKind (wide : Bool) (op : AmoOp) (value : W64) (rd : Nat) :
    tcSize (tcAmoKind wide op value rd) = if wide then 8 else 4 := by
  cases op <;> rfl

theorem tcAcc_tcAmoKind (wide : Bool) (op : AmoOp) (value : W64) (rd : Nat) : tcAcc (tcAmoKind wide op value rd) = .atomic := by
  cases op <;> rfl

theorem accNext_tcAmoKind (p : Site) (va : W64) (wide : Bool) (op : AmoOp) (value : W64) (rd : Nat) (find : EccFind) :
    accNext ⟨p.pc, p.insn, va, tcAmoKind wide op value rd, find⟩ = nextPc p := by
  cases op <;> rfl

theorem tileAt_tcAmoKind {a : TcAccess} {wide : Bool} {op : AmoOp} {value : W64} {rd : Nat} (hkind : a.kind = tcAmoKind wide op value rd)
    (s : State) (g pa : Nat) :
    tileAt s g a pa = tileAmo s g a pa (if wide then 8 else 4) op rd (if op = .lr then 0 else value) := by
  unfold tileAt
  rw [hkind]
  cases op <;> rfl

/-! ### Reads of a line -/

section

variable {s w : State} {g pa : Nat} {a : TcAccess} {line : List Byte}

/-! A load looks for its line in the read buffer, a fetch in the instruction cache (R106, R249). -/

theorem heldLine_of_find_some {x : Grate} {k : Nat} (hfind : (if a.kind = .fetch then x.icache else x.readBuf).find?
    (fun e => decide (e.1 = rbKey pa)) = some (k, line)) : heldLine x a pa = some line :=
  congrArg (Option.map Prod.snd) hfind

theorem heldLine_of_find_none {x : Grate} (hfind : (if a.kind = .fetch then x.icache else x.readBuf).find?
    (fun e => decide (e.1 = rbKey pa)) = none) : heldLine x a pa = none :=
  congrArg (Option.map Prod.snd) hfind

/-- A line that is held is not read. -/
theorem tileRead_held (hheld : heldLine (s.gr g) a pa = some line) : tileRead s g a pa = tileGot s g a pa line := by
  simp only [tileRead, hheld]

/-- A line of main memory that is not held comes from memory, a load's into the read buffer. -/
theorem tileRead_main {d : Nat} (hheld : heldLine (s.gr g) a pa = none) (hp : placeOf pa = .main d pa)
    (hread : physRead s (.tile g) (s.gr g).ctx.toNat (pa / 128 * 128) 128 = (.ok, line, w)) :
    tileRead s g a pa = tileGot (if a.kind = .fetch then w else rbAdd w g pa line) g a pa line := by
  simp [tileRead, hheld, hp, ownSpad_main hp, hread]

/-- A line of the grate's own scratchpad has the bytes that an access issued now reads, and no read buffer takes it (R115). -/
theorem tileRead_ownSpad {off : Nat} {u : State} {m : Mem} (hheld : heldLine (s.gr g) a pa = none) (hp : placeOf pa = .spad g off)
    (hecc : a.find ≠ .uncorrectable) (hview : unitView (countFind s g a.find) g (s.gr g).issued = (m, u))
    (hread : physRead u (.tile g) (s.gr g).ctx.toNat (pa / 128 * 128) 128 = (.ok, line, w)) :
    tileRead s g a pa = tileGot w g a pa (Mem.read m (pa / 128 * 128) 128) := by
  have hown : ownSpad g pa = true := by simp only [ownSpad, hp, decide_true]
  simp [tileRead, hheld, hp, hown, hecc, hview, hread]

/-- A fetched line enters the instruction cache and gives its instruction, where Table 4.1 lists that (R106, R108). -/
theorem tileGot_fetch (hkind : a.kind = .fetch) {word : Nat} (hword : word = ofBytes ((line.drop (pa % 128)).take 4))
    (hlisted : unlisted word = false) : tileGot s g a pa line =
      (icAdd s g pa line).modGr g (fun x => { x with pc := a.pc, stall := .none, ir := BitVec.ofNat 32 word }) := by
  subst hword
  simp only [tileGot, hkind, fetchDone, tileDone, accNext]
  rw [if_neg (by simp [hlisted]), modGr_modGr]
  rfl

end

/-! ### Stores, AMO, LR and SC -/

/-- A store that finds room enters the store buffer (R240). -/
theorem tileAt_store_queued {s : State} {g : GrateNo} {a : TcAccess} {pa n : Nat} {v : W64} (hkind : a.kind = .store n v)
    (hdevice : isDevice pa = false) (hroom : (s.gr g).sb.length < 8) :
    tileAt s g a pa = pumpSb (s.setGr g { s.gr g with
      sb := (s.gr g).sb ++ [{ seq := (s.gr g).issued, pc := a.pc, insn := a.insn, va := a.va, pa := pa, size := n, value := v,
                              ctx := (s.gr g).ctx.toNat }]
      pc := accNext a, stall := .none }) (.tile g) := by
  simp only [tileAt, hkind]
  rw [if_neg (by simp [hdevice]), if_neg (Nat.not_le.mpr hroom), dif_pos g.isLt]

/-- An AMO, LR or SC of main memory that no buffered store touches delivers what memory held, and the read buffer drops its line. -/
theorem tileAmo_main {s w : State} {g pa n d old : Nat} {op : AmoOp} {v : W64} (hp : placeOf pa = .main d pa)
    (htouch : sbTouches (s.gr g).sb pa n = false)
    (hdo : amoDo s (.tile g) (s.gr g).ctx.toNat pa n op v.toNat = (.ok, old, w)) (a : TcAccess) (rd : Nat) :
    tileAmo s g a pa n op rd v = tileDone (rbDrop w g pa) g a rd (extend (decide (op ≠ .sc)) (toBytes n old)) := by
  simp [tileAmo, amoTier_main hp, htouch, ownSpad_main hp, hp, hdo]

/-- Settles O20. An rl bit waits for the store buffer and an aq bit empties the read buffer (log 67), the grate's own AMO drops the line
from it (log 21); a 4-byte result is sign-extended (log 119); the instruction cache and the unlisted words are log 136. -/
theorem tileAccessesToMemoryComplete : Obligations.TileAccessesToMemoryComplete := by
  refine ⟨⟨?loadMain, ?loadHeld, ?loadSpad⟩, ⟨?fetchMain, ?fetchHeld⟩, ?store, ?amo⟩
  case loadMain =>
    intro p va lg signed rd find s u pa d w line hissue halign hscope hxlate hp hfind hread
    rw [exec_tcLoad_translated hissue hscope halign hxlate, tileRead_main (heldLine_of_find_none hfind) hp hread]
    rfl
  case loadHeld =>
    intro p va lg signed rd find s u pa k line hissue halign hscope hxlate hfind
    rw [exec_tcLoad_translated hissue hscope halign hxlate, tileRead_held (heldLine_of_find_some hfind)]
    rfl
  case loadSpad =>
    intro p va lg signed rd find s u v w pa off m bs hecc hissue halign hscope hxlate hp hfind hview hread
    rw [exec_tcLoad_translated hissue hscope halign hxlate, tileRead_ownSpad (heldLine_of_find_none hfind) hp hecc hview hread]
    rfl
  case fetchMain =>
    intro p va lg rd find s u pa d word w line hissue hscope hxlate hp hfind hread hword hlisted
    rw [exec_tcFetch_translated hissue hscope hxlate, tileRead_main (heldLine_of_find_none hfind) hp hread, if_pos rfl,
      tileGot_fetch rfl hword hlisted]
  case fetchHeld =>
    intro p va lg rd find s u pa k word line hissue hscope hxlate hfind hword hlisted
    rw [exec_tcFetch_translated hissue hscope hxlate, tileRead_held (heldLine_of_find_some hfind), tileGot_fetch rfl hword hlisted]
  case store =>
    rintro p va lg value s u pa e hissue halign hscope hxlate hdevice hroom rfl
    rw [exec_tcStore_translated hissue hscope halign hxlate, tileAt_store_queued rfl hdevice hroom]
    rfl
  case amo =>
    rintro p va wide op value rd aq rl find s r u pa n d old w hop hissue hrl rfl halign hr hscope hxlate hp htouch hdo
    rw [exec_tcAmo_tried hop hissue hrl, ← hr, tileTry_translated ((tcSize_tcAmoKind wide op value rd).symm ▸ halign) hscope
      ((tcAcc_tcAmoKind wide op value rd).symm ▸ hxlate), tileAt_tcAmoKind rfl, tileAmo_main hp htouch (by rwa [apply_ite BitVec.toNat]),
      tileDone, accNext_tcAmoKind]
    rfl

end Sys2Proof
end

section
/-! Accesses of a core to package memory, and its device-context CSR (R238 to R240, R245 to R247, R250, R292, R300). -/

namespace Sys2Proof

open Sys2Proof.Machine

/-- A hart with no lost store takes no lost-store exception. -/
theorem deliverLost_none {s : State} {h : Nat} (hlost : (s.ht h).lost = []) : deliverLost s h = s :=
  if_pos (List.isEmpty_iff.mpr hlost)

/-- An aq bit that finds its access answered holds nothing back. -/
theorem acquireWait_answered {s : State} {h : Nat} {aq : Bool} (hloads : aq = true → hartLoads s h = []) : acquireWait s h aq = s := by
  cases aq with
  | false => rfl
  | true => exact if_neg (by simp [hloads rfl])

/-- A load of main memory that hits in every line delivers its bytes under the hart's store buffer (R239). -/
theorem coreLoadAt_hit {s : State} {h pa n d : Nat} (hp : placeOf pa = .main d pa) (hovf : ovfMeets s (s.ht h).dctx.toNat pa n = false)
    (hhit : loadMiss s (clusterOf h) (chunksOf pa n) = none) (va : W64) (signed : Bool) :
    coreLoadAt s h va pa n signed = deliverLoad s h pa signed (coreBytes s (clusterOf h) pa n) := by
  simp only [coreLoadAt, hp, loadCached, hhit]
  exact if_neg (by simp [hovf])

/-- An aligned AMO, LR or SC of main memory delivers what memory held. -/
theorem coreAmoAt_main {s w : State} {h : HartNo} {pa n d v old : Nat} {op : AmoOp} (hp : placeOf pa = .main d pa) (halign : pa % n = 0)
    (hdo : amoDo s (.core h) (s.ht h).dctx.toNat pa n op v = (.ok, old, w)) (va : W64) :
    coreAmoAt s h va pa n op v = (w.setHt h { w.ht h with loaded := extend (decide (op ≠ .sc)) (toBytes n old) }).emit
      (.coreData h (extend (decide (op ≠ .sc)) (toBytes n old))) := by
  simp [coreAmoAt, isDevice_main hp, halign, amoTier_main hp, hp, hdo]

/-- An AMO, LR or SC of main memory that waits neither for a buffered store nor for an earlier load is made at once. -/
theorem exec_coreAmo_made {s : State} {h : HartNo} {pa : BitVec 52} {wide rl : Bool} {op : AmoOp} {d : Nat}
    (hop : op ≠ .amo .cas) (hp : placeOf pa.toNat = .main d pa.toNat) (hready : hartReady s h = true)
    (htouch : sbTouches (s.ht h).sb pa.toNat (if wide then 8 else 4) = false)
    (hbehind : behindLoad s h pa.toNat (if wide then 8 else 4) = false)
    (hrl : rl = true → (s.ht h).sb = [] ∧ hartLoads s h = []) (va value : W64) (aq : Bool) :
    exec (.coreAmo h va pa wide op value aq rl) s =
      let t := acquireWait (coreAmoAt s h va pa.toNat (if wide then 8 else 4) op value.toNat) h aq
      .next (settleAll (wakeHomes (if rl then deliverLost t h else t))) := by
  have hstores : ((rl || isDevice pa.toNat) && !(s.ht h).sb.isEmpty) = false := by
    cases rl with
    | false => simp [isDevice_main hp]
    | true => simp [hrl rfl]
  have hloads : (rl && !(hartLoads s h).isEmpty) = false := by
    cases rl with
    | false => rfl
    | true => simp [hrl rfl]
  simp only [exec, execCoreAmo]
  rw [if_neg hop, if_neg (by simp [hready]), if_neg (by simp [hstores]), if_neg (by simp [hloads]), if_neg (by simp [htouch, hbehind]),
    isDevice_main hp, Bool.or_false]

/-- Settles O21. A load waits behind an earlier one of its line (log 135); a 4-byte result is sign-extended (logs 56 and 119). -/
theorem coreAccessesToMemoryComplete : Obligations.CoreAccessesToMemoryComplete := by
  refine ⟨?load, ?store, ?amo, ?zero, ?context⟩
  case load =>
    rintro h va pa lg signed s d hp hready hbehind hovf hhit v rfl
    simp only [exec, execCoreLoad]
    rw [if_neg (by simp [isDevice_main hp]), if_neg (by simp [hready]), if_neg (by simp [hbehind]), coreLoadAt_hit hp hovf hhit]
    rfl
  case store =>
    intro h va pa lg value s hdevice hready hroom hbehind
    simp only [exec, execCoreStore]
    rw [if_neg (by simp [hdevice]), if_neg (by simp [hready]), if_neg (by simp [hroom, hbehind])]
  case amo =>
    rintro h va pa wide op value aq rl s n d old w u v hop rfl hp hready htouch hbehind halign hrl hdo rfl hu haq hlost
    have hdrained (hset : rl = true) : (s.ht h).sb = [] ∧ hartLoads s h = [] := by
      obtain ⟨hstores, hloads, -⟩ := hrl hset
      exact ⟨hstores, hloads⟩
    rw [exec_coreAmo_made hop hp hready htouch hbehind hdrained, coreAmoAt_main hp halign hdo, ← hu, acquireWait_answered haq]
    cases rl with
    | false => rfl
    | true => simp only [if_true, deliverLost_none (hlost rfl)]
  case zero =>
    intro h va pa s u hready hdevice htouch hbehind hwrite
    simp only [exec, execCboZero, hwrite]
    rw [if_neg (by simp [hready]), if_neg (by simp [htouch, hbehind]), if_neg (by simp [hdevice])]
  case context =>
    intro h ctx s hready
    exact if_neg (by simp [hready])

end Sys2Proof
end

section
/-! FENCE, and the ways in which the oldest store leaves its buffer (R238, R240, R250, R252, R253, R263, R264). -/

namespace Sys2Proof

open Sys2Proof.Machine

/-! ### Barriers of a core -/

/-- A condition that only counts where a flag is set. -/
theorem notOr_of_imp {a c : Bool} (himp : a = true → c = true) : (!a || c) = true := by
  cases a with
  | false => rfl
  | true => exact himp rfl

/-- A hart that issues is entering no trap. -/
theorem waitTrap_of_hartReady {s : State} {h : Nat} (hready : hartReady s h = true) : (s.ht h).waitTrap = none := by
  simp only [hartReady, Bool.and_eq_true] at hready
  obtain ⟨-, htrap⟩ := hready
  exact Option.isNone_iff_eq_none.mp htrap

section

variable {s : State} {h : Nat} {b : Barrier} (htrap : (s.ht h).waitTrap = none) (hfence : (s.ht h).fence = some b)

include htrap hfence

/-- A barrier is done once no store and no load that it waits for is outstanding; where it waited for stores, none is lost. -/
theorem hartDrained_done (hstores : b.stores = true → (s.ht h).sb = [] ∧ (s.ht h).lost = [])
    (hloads : b.loads = true → hartLoads s h = []) : hartDrained s h = s.setHt h { s.ht h with fence := none } := by
  have hempty (hset : b.stores = true) : (s.ht h).sb = [] := (hstores hset).left
  have hmet : ((!b.stores || (s.ht h).sb.isEmpty) && (!b.loads || (hartLoads s h).isEmpty)) = true := by
    refine Bool.and_eq_true_iff.mpr ⟨notOr_of_imp fun hset => ?_, notOr_of_imp fun hset => ?_⟩
    · exact List.isEmpty_iff.mpr (hempty hset)
    · exact List.isEmpty_iff.mpr (hloads hset)
  simp only [hartDrained, htrap, hfence]
  rw [if_pos hmet]
  split
  case isTrue hset => exact deliverLost_none (by simpa using (hstores hset).right)
  case isFalse => rfl

/-- A barrier waits while a store or a load that it waits for is outstanding. -/
theorem hartDrained_waits (hopen : (b.stores = true ∧ (s.ht h).sb ≠ []) ∨ (b.loads = true ∧ hartLoads s h ≠ [])) :
    hartDrained s h = s := by
  simp only [hartDrained, htrap, hfence]
  refine if_neg ?_
  rcases hopen with ⟨hset, hsb⟩ | ⟨hset, hload⟩
  · simp [hset, hsb]
  · simp [hset, hload]

end

/-- The outstanding loads of a hart stand outside its own state. -/
@[simp] theorem hartLoads_setHt (s : State) (k : Nat) (x : Hart) (h : Nat) : hartLoads (s.setHt k x) h = hartLoads s h := rfl

/-! ### FENCE of a tile controller -/

theorem fenceDone_setGr (s : State) (g : Nat) (x : Grate) (read : Bool) :
    fenceDone (s.setGr g x) g read = s.setGr g { x with stall := .none, readBuf := if read then [] else x.readBuf } := by
  simp only [fenceDone, State.modGr, State.setGr_same, State.setGr_setGr]

/-- A FENCE without W in its predecessor set is done at once; one with W once the store buffer is empty, for which it stalls. -/
theorem exec_tileFence {s : State} {p : Site} (hissue : canIssue (s.gr p.g) = true) (hlost : (s.gr p.g).lost = []) (pred succ : BitVec 4) :
    exec (.fence (.tile p) pred succ) s = .next (s.setGr p.g (if pred.getLsbD 0 ∧ (s.gr p.g).sb ≠ [] then
      { s.gr p.g with stall := .fence (succ.getLsbD 1) p.pc p.insn, pc := nextPc p }
      else { s.gr p.g with
        stall := .none, pc := nextPc p, readBuf := if succ.getLsbD 1 then [] else (s.gr p.g).readBuf })) := by
  simp only [exec, execFence]
  rw [if_neg (by simp [hissue])]
  cases hw : pred.getLsbD 0 with
  | false => simp [fenceDone_setGr]
  | true =>
    by_cases hsb : (s.gr p.g).sb = []
    · simp [hsb, stallAt, afterDrain_kept, hlost, fenceDone_setGr]
    · simp [hsb, stallAt]

/-! ### A store performed at its place -/

theorem exec_storePerformed_core {s : State} {h : HartNo} {e : SbEnt} {rest : List SbEnt} (hsb : (s.ht h).sb = e :: rest)
    (hlocal : isRemote e.pa = false) : exec (.storePerformed (.core h)) s = .next (settleAll (coreStoreTry s h)) := by
  simp [exec, execStorePerformed, holderSb, hsb, hlocal]

theorem exec_storePerformed_tile {s : State} {g : GrateNo} {e : SbEnt} {rest : List SbEnt} (hsb : (s.gr g).sb = e :: rest)
    (hlocal : isRemote e.pa = false) : exec (.storePerformed (.tile g)) s = .next (settleAll (tileStoreTry s g)) := by
  simp [exec, execStorePerformed, holderSb, hsb, hlocal]

/-- Settles O22: at issue and at the oldest store's end the checks pass, and what remains is the command's work. -/
theorem fencesAndStoresLeaveInOrder : Obligations.FencesAndStoresLeaveInOrder := by
  refine ⟨⟨?coreDone, ?coreWaits, ?tile⟩, ?corePerformed, ?tilePerformed, ?acknowledged, ?refused, ?timedOut⟩
  case coreDone =>
    intro h pred succ s hready hlost hstores hloads
    simp only [exec, execFence]
    rw [if_neg (by simp [hready]), hartDrained_done (b := ⟨pred.getLsbD 0, pred.getLsbD 1⟩)]
    · simp
    · simpa using waitTrap_of_hartReady hready
    · simp
    · simpa using fun hset => ⟨hstores hset, hlost hset⟩
    · simpa using hloads
  case coreWaits =>
    intro h pred succ s hready hopen
    simp only [exec, execFence]
    rw [if_neg (by simp [hready]), hartDrained_waits (b := ⟨pred.getLsbD 0, pred.getLsbD 1⟩)]
    · simpa using waitTrap_of_hartReady hready
    · simp
    · simpa using hopen
  case tile =>
    intro p pred succ s hissue hlost
    exact exec_tileFence hissue hlost pred succ
  case corePerformed =>
    intro h s u e rest d hsb hp hovf hlines
    rw [exec_storePerformed_core hsb (isRemote_main hp)]
    simp only [coreStoreTry, hsb, hp, hlines]
    rw [if_neg (by simp [hovf])]
    rfl
  case tilePerformed =>
    intro g s u e rest d hsb hp hwrite
    rw [exec_storePerformed_tile hsb (isRemote_main hp)]
    simp only [tileStoreTry, hsb, hp, hwrite]
  case acknowledged =>
    intro who s e rest t id p off hsb hsent hp
    have hremote : isRemote e.pa = true := by simp only [isRemote, hp]
    simp only [exec, execStorePerformed, hsb, hsent, hremote]
  case refused =>
    intro who s t id hrefusable
    simp only [exec, execStoreErrorResponse, hrefusable]
  case timedOut =>
    intro who s t id hsent hlong
    simp only [exec, execStoreResponseTimeout, hsent]
    rw [if_pos hlong]

end Sys2Proof
end

section
/-! Requests of caching agents and of agents that do not cache, on their way to the home of their line or to the CXL host (R269, R276, R278
to R280, R283 to R285, R287, R300). -/

namespace Sys2Proof

open Sys2Proof.Machine

/-! ### A request sent -/

/-- The bytes of a number are as many as were asked for. -/
theorem length_toBytes (n v : Nat) : (toBytes n v).length = n := by
  induction n generalizing v with
  | zero => rfl
  | succ n ih => simp [toBytes, ih]

/-- A request that its live agent can send enters the request's transient state and reaches the home (R276, R278). -/
theorem requestArrives_sent {s : State} {b l : Nat} {froms : List CSt} {st : CSt} (hlive : s.coh.dead.getLsbD b = false)
    (hopen : requestOpen s l b = false) (hroom : entriesOf s (lineDie l) b < entriesFor b) (hfrom : (s.al l b).st ∈ froms)
    (hst : st ≠ .i) (ctx : Nat) (req : HomeReq) (p : Payload) :
    requestArrives s b l ctx req froms st p = .next (settleAll (homeRequest (s.setAl l b { s.al l b with st := st }) l req b ctx p)) := by
  simp only [requestArrives]
  rw [if_neg (by simp [hlive]), if_neg (by simp [hopen, hfrom]), if_neg (Nat.not_le.mpr hroom), if_neg hst]

/-- The state in which an agent's read of a line is sent: a line in I needs a place first (R273, log 140). -/
def Placed (s : State) (b l : Nat) (u : State) : Prop := (s.al l b).st ≠ .i ∧ u = s ∨ (s.al l b).st = .i ∧ agentPlace s b l = some u

/-- A read request whose context is its cluster's is sent once its line has a place. -/
theorem readArrives_placed {s u : State} {b l ctx : Nat} (hctx : requestCtx s l b ctx = true) (hplace : Placed s b l u) (req : HomeReq)
    (froms : List CSt) (st : CSt) : readArrives s b l ctx req froms st = requestArrives u b l ctx req froms st {} := by
  simp only [readArrives]
  rw [if_neg (by simp [hctx])]
  rcases hplace with ⟨hheld, rfl⟩ | ⟨hinvalid, hfound⟩
  · rw [if_neg hheld]
  · rw [if_pos hinvalid, hfound]

/-- A cluster's request for a line of the CXL host is sent to it once the line has a place (R287). -/
theorem d2hArrives_sent {s u : State} {b l ctx : Nat} {froms : List CSt} (hcluster : b < 12) (hlive : s.coh.dead.getLsbD b = false)
    (hnew : ∀ r ∈ s.reqs, r.agent = .cluster b → r.addr ≠ l * 128) (hincoming : (s.al l b).incoming = none)
    (hack : (s.al l b).ackDue = false) (hctx : requestCtx s l b ctx = true) (hplace : Placed s b l u)
    (hfrom : (s.al l b).st ∈ froms) (what : Nat) (st : CSt) :
    d2hArrives s b l ctx what froms st = .next (d2hRequest u b l ctx what st) := by
  have hasked : s.reqs.any (fun r => decide (r.agent = .cluster b) && decide (r.addr = l * 128)) = false := by
    simpa using hnew
  simp only [d2hArrives]
  rw [if_neg (Nat.not_le.mpr hcluster), if_neg (by simp [hlive]), if_neg (by simp [hasked, hincoming, hack, hfrom, hctx])]
  rcases hplace with ⟨hheld, rfl⟩ | ⟨hinvalid, hfound⟩
  · rw [if_neg hheld]
  · rw [if_pos hinvalid, hfound]

/-- A cluster that gives a line of the CXL host up sends the line's data with it (R287). -/
theorem d2hGiveUp_written {s : State} {b l : Nat} {st : CSt} (hst : (s.al l b).st = st) (d : LineData) :
    d2hGiveUp s b l st (some d) = .next (cxlSend (countHost (setHosted (s.setAl l b { s.al l b with st := .xia }) l b 0) 0 0 128) 10
      (l * 128) (toBytes 128 d.toNat)) := by
  simp only [d2hGiveUp, length_toBytes]
  exact if_neg (by simp [hst])

/-- A cluster that gives a clean line of the CXL host up sends no data (R287). -/
theorem d2hGiveUp_clean {s : State} {b l : Nat} {st : CSt} (hst : (s.al l b).st = st) :
    d2hGiveUp s b l st none = .next (cxlSend (countHost (setHosted (s.setAl l b { s.al l b with st := .xia }) l b 0) 0 0 0) 11
      (l * 128) []) := by
  simp only [d2hGiveUp]
  exact if_neg (by simp [hst])

/-- A retry agent's request that is not under way already reaches the home (R279). -/
theorem retryArrives_sent {s : State} {who : RetryAgent} {l : Nat} (hnew : retryBusy s l (.retry (retryAgent who)) = false) (ctx : Nat)
    (req : HomeReq) (p : Payload) : retryArrives s who l ctx req p =
      .next (settleAll (retryRequest s l req (.retry (retryAgent who)) ctx p)) := by
  simp only [retryArrives]
  exact if_neg (by simp [hnew])

/-! ### The commands -/

section

variable {b : CacheBit} {ctx : Ctx} {line : BitVec 45} {s u : State}

/-- RDS for a line of the CXL host goes there (R287). -/
theorem exec_rds_hosted (hhosted : isHosted s (line.toNat * 128) = true) : exec (.rds b ctx line .clean) s =
    d2hArrives s b line.toNat ctx.toNat 7 [.i, .s, .isd, .isdi] (if (s.al line.toNat b).st = .isdi then .isdi else .isd) := by
  simp only [exec, execRds, ite_self]
  exact if_pos hhosted

/-- RDS of the last-level cache comes under the retry protocol (Table 9.1). -/
theorem exec_rds_lastLevel (hhosted : isHosted s (line.toNat * 128) = false) (hnew : retryBusy s line.toNat (.caching 12) = false)
    (hincoming : (s.al line.toNat 12).incoming = none) (hplace : agentPlace s 12 line.toNat = some u) :
    exec (.rds 12 ctx line .clean) s = .next (settleAll (retryRequest u line.toNat .rdS (.caching 12) ctx.toNat {})) := by
  have hbit : ((12 : CacheBit) : Nat) = 12 := rfl
  simp only [exec, execRds, ite_self, if_true, hbit, hnew, hincoming, Option.isSome_none, Bool.or_self]
  rw [if_neg (by simp [hhosted]), if_neg Bool.false_ne_true]
  simp only [hplace]

section

variable (hb : b ≠ 12) (hhosted : isHosted s (line.toNat * 128) = false) (hctx : requestCtx s line.toNat b ctx.toNat = true)

include hb hhosted hctx

/-- RDS of an agent whose line has its place is sent; a line invalidated on its way stays so marked (R283). -/
theorem exec_rds_placed (hplace : Placed s b line.toNat u) : exec (.rds b ctx line .clean) s =
    requestArrives u b line.toNat ctx.toNat .rdS [.i, .s, .isd, .isdi] (if (s.al line.toNat b).st = .isdi then .isdi else .isd) {} := by
  simp only [exec, execRds, ite_self]
  rw [if_neg (by simp [hhosted]), if_neg hb, readArrives_placed hctx hplace]

/-- RDX of an agent whose line has its place is sent. -/
theorem exec_rdx_placed (hplace : Placed s b line.toNat u) :
    exec (.rdx b ctx line) s = requestArrives u b line.toNat ctx.toNat .rdX [.i, .s, .imd] .imd {} := by
  simp only [exec, execRdx]
  rw [if_neg hb, if_neg (by simp [hhosted]), readArrives_placed hctx hplace]

/-- UPG is sent from S, and from IM_D where an invalidation has overtaken it (R284). -/
theorem exec_upg_main : exec (.upg b ctx line) s = requestArrives s b line.toNat ctx.toNat .upg [.s, .sma, .imd]
    (if (s.al line.toNat b).st = .imd then .imd else .sma) {} := by
  simp only [exec, execUpg]
  rw [if_neg hb, if_neg (by simp [hhosted]), if_neg (by simp [hctx])]

end

end

/-- A line in which no uncorrectable error is found is read as it is. -/
theorem exec_readonce_clean (who : RetryAgent) (ctx : Ctx) (line : BitVec 45) (s : State) : exec (.readonce who ctx line .clean) s =
    retryArrives s who line.toNat ctx.toNat .readOnce {} := by
  have hfound : eccFound s line.toNat .clean = s := by simp [eccFound]
  simp only [exec, execReadonce, hfound, ite_self]

/-- Settles O27. A read from S, as of a copy dropped without notice, and the place that a read from I needs are log 140; the numbers of
the messages to the CXL host are log 141. -/
theorem requestsReachTheirHome : Obligations.RequestsReachTheirHome := by
  refine ⟨?reads, ?others, ?hosted, ?lastLevel, ?retry, ?reservation⟩
  case reads =>
    rintro b ctx line s u a l rfl rfl hhosted hplace hlive hopen hroom hb hctx
    refine ⟨?rds, ?rdsInvalidated, ?rdx⟩
    case rds =>
      intro hst
      have hnot : (s.al line.toNat b).st ≠ .isdi := by
        rcases hplace with ⟨-, rfl⟩ | ⟨hinvalid, -⟩
        · rcases hst with hst | hst | hst <;> simp [hst]
        · simp [hinvalid]
      rw [exec_rds_placed hb hhosted hctx hplace, if_neg hnot]
      exact requestArrives_sent hlive hopen hroom (by grind) (by decide) ..
    case rdsInvalidated =>
      rintro hst rfl
      rw [exec_rds_placed hb hhosted hctx hplace, if_pos hst]
      exact requestArrives_sent hlive hopen hroom (by simp [hst]) (by decide) ..
    case rdx =>
      intro hst
      rw [exec_rdx_placed hb hhosted hctx hplace]
      exact requestArrives_sent hlive hopen hroom (by grind) (by decide) ..
  case others =>
    rintro b ctx line s a l rfl rfl hhosted hlive hopen hroom
    refine ⟨fun hb hctx => ⟨?upg, ?upgOvertaken⟩, ?wbm, ?eve⟩
    case upg =>
      intro hst
      have hnot : (s.al line.toNat b).st ≠ .imd := by rcases hst with hst | hst <;> simp [hst]
      rw [exec_upg_main hb hhosted hctx, if_neg hnot]
      exact requestArrives_sent hlive hopen hroom (by grind) (by decide) ..
    case upgOvertaken =>
      intro hst
      rw [exec_upg_main hb hhosted hctx, if_pos hst]
      exact requestArrives_sent hlive hopen hroom (by simp [hst]) (by decide) ..
    case wbm =>
      intro data hst
      simp only [exec, execWbm]
      rw [if_neg (by simp [hhosted])]
      exact requestArrives_sent hlive hopen hroom (by grind) (by decide) ..
    case eve =>
      intro hst
      simp only [exec, execEve]
      rw [if_neg (by simp [hhosted])]
      exact requestArrives_sent hlive hopen hroom (by simp [hst]) (by decide) ..
  case hosted =>
    rintro b ctx line s u l rfl hhosted hb hlive hnew hincoming hack hctx hplace
    have hb12 : b ≠ 12 := by rintro rfl; exact absurd hb (by decide)
    have hsend {froms : List CSt} := d2hArrives_sent (froms := froms) hb hlive hnew hincoming hack hctx hplace
    refine ⟨?rds, ?rdx, ?rdsInvalidated, ?upg, ?upgOvertaken, ?wbm, ?eve⟩
    case rds =>
      intro hst
      have hnot : (s.al line.toNat b).st ≠ .isdi := by rcases hst with hst | hst | hst <;> simp [hst]
      rw [exec_rds_hosted hhosted, if_neg hnot, hsend (by grind)]
    case rdx =>
      intro hst
      simp only [exec, execRdx]
      rw [if_neg hb12, if_pos hhosted, hsend (by grind)]
    case rdsInvalidated =>
      intro hst
      rw [exec_rds_hosted hhosted, if_pos hst, hsend (by simp [hst])]
    case upg =>
      intro hst
      have hnot : (s.al line.toNat b).st ≠ .imd := by rcases hst with hst | hst <;> simp [hst]
      simp only [exec, execUpg]
      rw [if_neg hb12, if_pos hhosted, if_neg hnot, hsend (by grind)]
    case upgOvertaken =>
      intro hst
      simp only [exec, execUpg]
      rw [if_neg hb12, if_pos hhosted, if_pos hst, hsend (by simp [hst])]
    case wbm =>
      rintro data w hst rfl
      simp only [exec, execWbm]
      rw [if_pos hhosted]
      exact d2hGiveUp_written hst data
    case eve =>
      rintro w hst rfl
      simp only [exec, execEve]
      rw [if_pos hhosted, d2hGiveUp_clean hst]
  case lastLevel =>
    rintro ctx line s u l w rfl hhosted hnew hincoming hplace rfl
    rw [exec_rds_lastLevel hhosted hnew hincoming hplace]
    rfl
  case retry =>
    rintro who ctx line s l c ⟨_, _, _, _, _, _, _⟩ rfl hnew rfl rfl rfl rfl rfl hcommand
    have hsend (req : HomeReq) (p : Payload) := retryArrives_sent hnew ctx.toNat req p
    rcases hcommand with ⟨rfl, rfl, rfl⟩ | ⟨data, rfl, rfl, rfl⟩ | ⟨mask, data, rfl, rfl, rfl⟩ |
      ⟨off, op, wide, v, x, halign, rfl, rfl, rfl⟩
    · rw [exec_readonce_clean]
      exact hsend ..
    · exact hsend ..
    · exact hsend ..
    · simp only [exec, execCohAtomic]
      rw [if_neg (by simp [halign])]
      exact hsend ..
  case reservation =>
    intro who line s w hreserved
    refine ⟨?retry, ?grant⟩
    case retry =>
      intro u htold htake
      simp only [exec, execRetry, hreserved, htake, htold]
      rfl
    case grant =>
      intro hready holdest hroom hretry
      simp only [exec, execGrant, hreserved]
      rw [if_pos (by simpa [hready, hroom, hretry] using holdest)]

end Sys2Proof
end

section
/-! Snoops at the caching agents and their responses at the home, grants and completions at the requesters, and Done (R281 to R283, R286,
R287, R407). -/

namespace Sys2Proof

open Sys2Proof.Machine

/-! ### Snoops -/

/-- What a home's snoop does at an agent, the CXL.cache agent's host among them, where Table 9.4 allows it. -/
def snoopedAt (s : State) (l b : Nat) (sn : Snoop) : Option State :=
  if b = 13 then snoopHost (snoopArrived s l b) l sn else snoopAt (snoopArrived s l b) l b sn

/-- A snoop that the home has sent and that the fabric lets arrive is carried out at its agent (R282, R283). -/
theorem snoopCommand_home {s u v w : State} {l b : Nat} {sn : Snoop} (hhosted : isHosted s (l * 128) = false)
    (hdue : snoopDue s l b sn = true) (htake : fabTake s .snoop 4 l b = some u) (hallowed : snoopedAt s l b sn = some v)
    (hdone : snoopedAt u l b sn = some w) : snoopCommand s b l sn = .next (serveRoom w b) := by
  simp only [snoopedAt] at hallowed hdone
  simp only [snoopCommand]
  rw [if_neg (by simp [hhosted]), hallowed, if_pos hdue, htake]
  simp only [hdone]

/-- A snoop of the CXL host for a line of its own is carried out at its cluster (R287). -/
theorem snoopCommand_hosted {s w : State} {l b : Nat} {sn : Snoop} (hhosted : isHosted s (l * 128) = true) (hcluster : b < 12)
    (hdone : hostedSnoop s l b sn = some w) : snoopCommand s b l sn = .next (serveRoom w b) := by
  simp only [snoopCommand, hdone]
  rw [if_pos hhosted, if_pos hcluster]

/-- The four snoops of Table 9.3 are one command. -/
theorem exec_snoop {c : Instr} {b : CacheBit} {line : BitVec 45} {sn : Snoop} (hc : c = Instr.snps b line ∧ sn = .snpS ∨
    c = .snpx b line ∧ sn = .snpX ∨ c = .snpxi b line ∧ sn = .snpXI ∨ c = .snpinv b line ∧ sn = .snpInv) (s : State) :
    exec c s = snoopCommand s b line.toNat sn := by
  rcases hc with ⟨rfl, rfl⟩ | ⟨rfl, rfl⟩ | ⟨rfl, rfl⟩ | ⟨rfl, rfl⟩
  · rfl
  · rfl
  · rfl
  · rfl

/-! ### Done -/

/-- A transaction whose line was not ready for a unit's write leaves the home's copy as it is. -/
theorem closeTxn_kept {t : Txn} (hready : t.ready = false) (s : State) (l : Nat) :
    closeTxn s l t = settleAll (ringsGo (wakeHomes (s.setTxn l none))) := by
  simp [closeTxn, hready]

section

variable {s : State} {who : Retrier} {line : BitVec 45} {t : Txn} (htxn : s.txn line.toNat = some t)
  (hmine : (retrierAs who).contains t.who = true)

include htxn hmine

/-- Done of an agent whose line is ready for its access, or of a unit that has made its access, closes the transaction (R281). -/
theorem exec_done_closed (hend : t.ready = true ∨ t.awaitDone = true ∧ ∃ a, t.who = .unit a) :
    exec (.done who line) s = .next (closeTxn s line.toNat t) := by
  simp only [exec, execDone, htxn, hmine, if_true]
  refine if_pos ?_
  rcases hend with hready | ⟨hdone, a, hwho⟩
  · simp [hready]
  · simp [hdone, hwho]

/-- Done of an agent that has had its answer closes the transaction (R281). -/
theorem exec_done_answered {u : State} (hready : t.ready = false) (hdone : t.awaitDone = true) (hunit : ∀ a, t.who ≠ .unit a)
    (hanswered : takeAnswer s line.toNat who = some u) : exec (.done who line) s = .next (closeTxn u line.toNat t) := by
  simp only [exec, execDone, htxn, hmine, if_true, hready, hdone, hanswered]
  refine if_neg ?_
  cases hwho : t.who with
  | unit a => exact absurd hwho (hunit a)
  | caching | retry | home => simp

end

/-- Settles O28. That a message arrives behind every older one of its flow (R407) is what fabTake asks, and stands here as a premise. -/
theorem snoopsGrantsAndCompletionsAreTakenUp : Obligations.SnoopsGrantsAndCompletionsAreTakenUp := by
  refine ⟨?snoops, ?grants, ?done⟩
  case snoops =>
    rintro b line s l rfl
    refine ⟨fun sn c hc => ?_, fun t rsp u htxn hsent htake => ?_⟩
    · have hbit : b = 13 ↔ b.val = 13 := Fin.ext_iff
      have hagent (u : State) : (if b = 13 then snoopHost (snoopArrived u line.toNat b) line.toNat sn
          else snoopAt (snoopArrived u line.toNat b) line.toNat b sn) = snoopedAt u line.toNat b sn := by
        simp only [snoopedAt, hbit]
      rw [exec_snoop hc]
      refine ⟨fun u v w hhosted hdue htake hallowed hdone => ?_, fun w hhosted hcluster hdone => ?_⟩
      · rw [hagent] at hallowed hdone
        exact snoopCommand_home hhosted hdue htake hallowed hdone
      · exact snoopCommand_hosted hhosted hcluster hdone
    · simp only [exec, execSnoopResponse, htxn, htake]
      rw [if_pos (List.contains_iff_mem.mpr hsent)]
  case grants =>
    rintro b line s u a l rfl rfl
    refine ⟨fun hhosted htake => ⟨?shared, ?invalidated, ?owned, ?lastLevel⟩, ?upgraded, ?given⟩
    case shared =>
      intro g d hincoming hb hst
      simp only [exec, execCohData, hincoming, hst, htake, hhosted]
      rw [if_neg hb]
      cases g with
      | s | e | m => simp
    case invalidated =>
      intro g d hincoming hb hst
      simp only [exec, execCohData, hincoming, hst, htake, hhosted]
      rw [if_neg hb]
      simp
    case owned =>
      intro d hincoming hb hst
      simp only [exec, execCohData, hincoming, hst, htake, hhosted]
      rw [if_neg hb]
      simp
    case lastLevel =>
      intro g d hincoming hb
      simp only [exec, execCohData, hincoming, htake, hhosted]
      rw [if_pos hb]
      simp
    case upgraded =>
      intro htake hst hack
      simp only [exec, execAcku, hst, hack, htake]
      rfl
    case given =>
      intro htake hst hopen
      have hbit : b = 13 ↔ b.val = 13 := Fin.ext_iff
      simp only [exec, execCmp, hopen, htake, hbit]
      rw [if_pos hst]
      rfl
  case done =>
    rintro who line s l t rfl htxn hmine
    refine ⟨?ready, ?unit, ?agent, ?lastLevel⟩
    case ready =>
      intro hready
      rw [exec_done_closed htxn hmine (.inl hready), closeTxn, hready]
      simp only [Bool.true_and, decide_eq_true_eq]
    case unit =>
      intro a hready hdone hwho
      rw [exec_done_closed htxn hmine (.inr ⟨hdone, a, hwho⟩), closeTxn_kept hready]
    case agent =>
      rintro a x hready hdone rfl hwho hanswer
      have hanswered : takeAnswer s line.toNat (.agent a) = some { s with coh := { s.coh with answers := s.coh.answers.erase x } } := by
        simp only [takeAnswer, hanswer, Option.map_some]
      rw [exec_done_answered htxn hmine hready hdone (by simp [hwho]) hanswered, closeTxn_kept hready]
    case lastLevel =>
      rintro hready hdone rfl hincoming
      have hanswered : takeAnswer s line.toNat .lastLevel = some s := by simp [takeAnswer, hincoming]
      have hwho : t.who = .caching 12 := by simpa [retrierAs] using hmine
      rw [exec_done_answered htxn hmine hready hdone (by simp [hwho]) hanswered, closeTxn_kept hready]

end Sys2Proof
end

section
/-! The eviction buffer's write-backs and the end of dead agents (R155, R288, R289, R298, R299, R510). -/

namespace Sys2Proof

open Sys2Proof.Machine

/-- The state of the homes stands apart from that of the host links. -/
theorem host_withCoh (s : State) (c : CohSt) (h : Nat) : ({ s with coh := c } : State).host h = s.host h := rfl

/-- Settles O29. The tags of a dead agent are reclaimed as it is declared, so that the walk's end only ends it (log 23); the fields of its
record are free (log 24), and the CXL.cache agent acts again where its link is up (log 38). -/
theorem evictionsAndDeadAgentsAreDealtWith : Obligations.EvictionsAndDeadAgentsAreDealtWith := by
  refine ⟨?evicted, ?timedOut, ?walked⟩
  case evicted =>
    rintro d s u l o holdest rfl rfl
    simp only [exec, execEvictionWriteback, holdest]
  case timedOut =>
    intro b line s t hcluster htxn howed hlong
    simp only [exec, execSnoopTimeout, htxn]
    rw [if_pos ⟨hcluster, howed, hlong⟩]
  case walked =>
    rintro b s u v rec hwalk rfl hfree
    simp only [exec, execReclaimWalkDone]
    rw [if_neg (by simp [hwalk])]
    cases hring : fringOf v 0 with
    | none | some rn =>
      by_cases hback : b.val = 13 ∧ (s.host 0).cxlup = true
      · rw [if_pos hback] at hfree
        rw [if_pos (by simpa [host_withCoh] using hback)]
        simp only [hfree, hring]
      · rw [if_neg hback] at hfree
        rw [if_neg (by simpa [host_withCoh] using hback)]
        simp only [hfree, hring]

end Sys2Proof
end

section
/-! The maintenance engine and way locking (R293, R295 to R299, R583). -/

namespace Sys2Proof

open Sys2Proof.Machine

/-! ### The start -/

/-- A register command of a die that is not ready changes nothing (R583). -/
theorem dieReg_notReady {s : State} {d : Nat} (h : readyHth s d = false) (k : State) : dieReg s d k = .next s :=
  congrArg Host.Outcome.next (if_neg (by simp [h]))

/-- A range operation starts where the engine is free and its range stays in the die's memory (R295, R296). -/
theorem maintStart_started {s : State} {d op : Nat} {m : Maint} (hm : m = maintTake (s.maint d)) (hidle : (s.maint d).busy = false)
    (hrange : rangeOfDie d (maintBase m) (maintBytes m) = true) : maintStart s d op =
      s.setMaint d { m with op := BitVec.ofNat 3 op, busy := true, todo := if op = 3 then [] else rangeLines s d m } := by
  subst hm
  simp only [maintStart]
  exact if_neg (by simp [hidle, hrange])

/-- Any other start of a range operation sets ERR (R296). -/
theorem maintStart_refused {s : State} {d : Nat}
    (hbad : (s.maint d).busy = true ∨ rangeOfDie d (maintBase (maintTake (s.maint d))) (maintBytes (maintTake (s.maint d))) = false)
    (op : Nat) : maintStart s d op = s.setMaint d { s.maint d with err := true } := by
  simp only [maintStart]
  exact if_pos (by simpa using hbad)

/-- Whether LOCK may start: at most eight ways, no pool mode, no running operation, and a range to preload where one is needed (R297). -/
def lockable (s : State) (d ways : Nat) (fill : Bool) : Bool :=
  let m := maintTake (s.maint d)
  !m.busy && decide (ways ≤ 8) && !(s.pool d).mode &&
    (fill || decide (ways ≤ m.locked.toNat) || rangeOfDie d (maintBase m) ((ways - m.locked.toNat) * nearWayBytes))

/-- LOCK's own check asks for the opposite. -/
theorem lockable_eq (s : State) (d ways : Nat) (fill : Bool) : lockable s d ways fill =
    let m := maintTake (s.maint d)
    !(m.busy || decide (8 < ways) || (s.pool d).mode ||
      (!fill && decide (m.locked.toNat < ways) && !(rangeOfDie d (maintBase m) ((ways - m.locked.toNat) * nearWayBytes)))) := by
  simp only [lockable, Bool.not_or, Bool.not_and, Bool.not_not, ← decide_not, Nat.not_lt]

section

variable {s : State} {d ways : Nat} {fill : Bool} {m : Maint}

/-- A start of LOCK that is not allowed sets ERR (R297). -/
theorem lockStart_refused (hbad : lockable s d ways fill = false) :
    lockStart s d ways fill = s.setMaint d { s.maint d with err := true } := by
  rw [lockable_eq, Bool.not_eq_false'] at hbad
  exact if_pos hbad

variable (hgood : lockable s d ways fill = true)
  (hm : m = { maintTake (s.maint d) with op := 4, busy := true, ways := BitVec.ofNat 4 ways, fill := fill })

include hgood hm

/-- LOCK to fewer ways unbacks the removed ways at once, and their contents are gone (R148, R297). -/
theorem lockStart_fewer (hfewer : ways < (s.maint d).locked.toNat) : lockStart s d ways fill =
    (s.setMaint d { m with locked := BitVec.ofNat 4 ways }).zeroBytes (nearKey d (ways * nearWayBytes))
      (((s.maint d).locked.toNat - ways) * nearWayBytes) := by
  rw [lockable_eq, Bool.not_eq_true', Bool.eq_false_iff] at hgood
  subst hm
  simp only [lockStart]
  rw [if_neg hgood]
  exact if_pos hfewer

/-- LOCK to as many or more ways waits for their fill (R297). -/
theorem lockStart_more (hmore : (s.maint d).locked.toNat ≤ ways) : lockStart s d ways fill = s.setMaint d m := by
  rw [lockable_eq, Bool.not_eq_true', Bool.eq_false_iff] at hgood
  subst hm
  simp only [lockStart]
  rw [if_neg hgood]
  exact if_neg (Nat.not_lt.mpr hmore)

end

/-! ### The running operation -/

/-- MAINT_COMPLETE takes the running operation on (R296). -/
theorem exec_maintComplete_busy {s : State} {d : DieNo} (hbusy : (s.maint d).busy = true) :
    exec (.maintComplete d) s = .next (settleAll (ringsGo (maintFinish s d))) := if_pos hbusy

/-- The two operations on cached lines are CLEAN and FLUSH, which also invalidates (Table 9.10). -/
theorem maintFinish_lines {s : State} {d : Nat} {inv : Bool} (hop : (s.maint d).op = if inv then 2 else 1) :
    maintFinish s d = wakeHomes (cleanGo s d inv) := by
  cases inv with
  | true => simp [maintFinish, hop]
  | false => simp [maintFinish, hop]

/-- ASHCLR has no line to wait for (R293). -/
theorem maintFinish_ash {s : State} {d : Nat} (hop : (s.maint d).op = 3) : maintFinish s d = ashGo s d := by
  rw [maintFinish, hop]
  rfl

/-- LOCK leaves places behind that requests may have waited for (R297, R299). -/
theorem maintFinish_lock {s : State} {d : Nat} (hop : (s.maint d).op = 4) : maintFinish s d = wakeHomes (lockGo s d) := by
  rw [maintFinish, hop]
  rfl

/-- LOCK that needs no fill ends once no set is crowded (R297). -/
theorem lockGo_done {s : State} {d : Nat} (hways : (s.maint d).ways.toNat ≤ (s.maint d).locked.toNat) (hroom : crowded s d = []) :
    lockGo s d = s.setMaint d { s.maint d with busy := false, locked := (s.maint d).ways } := by
  simp only [lockGo, hroom, List.foldl_nil, List.isEmpty_nil, if_true]
  rw [if_pos hways]

/-- CLEAN or FLUSH with no line left to do clears BUSY; the lines that FLUSH had taken leave the pool (R295, R296). -/
theorem cleanGo_done {s u : State} {d : Nat} {inv : Bool} (hu : u = (s.maint d).todo.foldl (fun s l => cleanLine s inv l) s)
    (hdone : ∀ l ∈ (u.maint d).todo, cleanDue u inv l = false) : cleanGo s d inv =
      (if inv then u.setPool d { u.pool d with
        lines := (u.pool d).lines.filter (fun e => !((u.maint d).todo.contains e.1)) } else u).setMaint d
          { u.maint d with todo := [], busy := false } := by
  have hdue : (u.maint d).todo.filter (cleanDue u inv) = [] := List.filter_eq_nil_iff.mpr (fun l hl => by simp [hdone l hl])
  simp only [cleanGo, ← hu, hdue]
  have hkept (p : Pool) : (u.setPool d p).maint d = u.maint d := rfl
  cases inv with
  | true => simp [hkept]
  | false => simp

/-- Settles O30. -/
theorem maintenanceStartsAndEnds : Obligations.MaintenanceStartsAndEnds := by
  refine ⟨?ranges, ?lock, ?ashclr, ?cleaned, ?locked⟩
  case ranges =>
    rintro d s c op m hc rfl
    obtain ⟨n, rfl, hash, hexec⟩ : ∃ n, op = BitVec.ofNat 3 n ∧ (op = 3 ↔ n = 3) ∧
        exec c s = dieReg s d (maintStart s d n) := by
      rcases hc with ⟨rfl, rfl⟩ | ⟨rfl, rfl⟩ | ⟨rfl, rfl⟩
      · exact ⟨1, rfl, by decide, rfl⟩
      · exact ⟨2, rfl, by decide, rfl⟩
      · exact ⟨3, rfl, by decide, rfl⟩
    rw [hexec]
    refine ⟨?started, ?refused, fun hready => dieReg_notReady hready _⟩
    case started =>
      intro hready hidle hrange
      rw [dieReg_ready hready, maintStart_started rfl hidle hrange]
      simp only [hash]
      rfl
    case refused =>
      intro hready hbad
      rw [dieReg_ready hready, maintStart_refused hbad]
  case lock =>
    rintro d ways fill s m now n good rfl rfl rfl rfl
    have hexec : exec (.lock d ways fill) s = dieReg s d (lockStart s d ways.toNat fill) := rfl
    rw [hexec]
    refine ⟨?fewer, ?more, ?refused, fun hready => dieReg_notReady hready _⟩
    case fewer =>
      intro hready hgood hfewer
      rw [dieReg_ready hready, lockStart_fewer hgood rfl hfewer, BitVec.ofNat_toNat]
      rfl
    case more =>
      intro hready hgood hmore
      rw [dieReg_ready hready, lockStart_more hgood rfl hmore, BitVec.ofNat_toNat]
      rfl
    case refused =>
      intro hready hbad
      rw [dieReg_ready hready, lockStart_refused hbad]
  case ashclr =>
    rintro d s u keep hbusy hop rfl rfl
    rw [exec_maintComplete_busy hbusy, maintFinish_ash hop]
    rfl
  case cleaned =>
    intro d s u inv hbusy hop hu hdone
    rw [exec_maintComplete_busy hbusy, maintFinish_lines hop, cleanGo_done hu hdone]
  case locked =>
    intro d s hbusy hop hways hroom
    rw [exec_maintComplete_busy hbusy, maintFinish_lock hop, lockGo_done hways hroom]

end Sys2Proof
end

section
/-! The ash list's registers and pool mode (R156, R158, R294, R584, R585). -/

namespace Sys2Proof

open Sys2Proof.Machine

/-! ### The ash list's registers -/

/-- Bits cleared one after another: a bit that any of the writes names reads 0, every other as before. -/
theorem get_foldl_clear (named : Nat → Bool) (key : Nat → Nat) (l : List Nat) (t : Tab Bool) (k : Nat) :
    Tab.get false (l.foldl (fun t j => if named j then Tab.put false t (key j) false else t) t) k =
      (Tab.get false t k && !(l.any (fun j => named j && decide (k = key j)))) := by
  induction l generalizing t with
  | nil => simp
  | cons j l ih =>
    rw [List.foldl_cons, ih]
    cases hj : named j with
    | false => simp [hj]
    | true => by_cases hk : k = key j <;> simp [hj, hk, Tab.get_put]

/-- The bits that a write to word i of a die's ASH_OVF names, by their numbers. -/
theorem any_ashOvf_bit (d i : Nat) (mask : W64) (k : Nat) :
    (List.range 64).any (fun j => mask.getLsbD j && decide (k = d * 4096 + 64 * i + j)) =
      (decide (k / 64 = d * 64 + i) && mask.getLsbD (k % 64)) := by
  rw [Bool.eq_iff_iff]
  simp only [List.any_eq_true, List.mem_range, Bool.and_eq_true, decide_eq_true_eq]
  constructor
  · rintro ⟨j, hj, hset, rfl⟩
    have hword : (d * 4096 + 64 * i + j) / 64 = d * 64 + i := by omega
    have hbit : (d * 4096 + 64 * i + j) % 64 = j := by omega
    exact ⟨hword, hbit.symm ▸ hset⟩
  · rintro ⟨hword, hset⟩
    exact ⟨k % 64, by omega, hset, by omega⟩

/-- Ones written to ASH_OVF clear the bits that they name (R294). -/
theorem get_ashOvfW1c (s : State) (d i : Nat) (mask : W64) (k : Nat) : Tab.get false (ashOvfW1c s d i mask).coh.ashOvf k =
    (Tab.get false s.coh.ashOvf k && !(decide (k / 64 = d * 64 + i) && mask.getLsbD (k % 64))) := by
  rw [← any_ashOvf_bit]
  exact get_foldl_clear ..

/-! ### Pool mode -/

/-- A clean line leaves its place without a write-back (R298). -/
theorem evictLine_clean {s : State} {l : Nat} (hclean : (s.dirE l).dirty = false) : evictLine s l = s := by
  simp only [evictLine]
  exact if_neg (by simp [hclean])

/-- Where every pool line is clean, leaving pool mode has nothing to write back. -/
theorem foldl_evictLine_clean {s : State} (d : Nat) (ls : List Nat) (hclean : ∀ l ∈ ls, (s.dirE l).dirty = false) :
    ls.foldl (fun s l => if evictFull s d then s else evictLine s l) s = s := by
  induction ls with
  | nil => rfl
  | cons l ls ih =>
    obtain ⟨hl, hls⟩ := List.forall_mem_cons.mp hclean
    rw [List.foldl_cons, evictLine_clean hl, ite_self]
    exact ih hls

/-- A die's pool with every line one step older (R158). -/
def agedPool (p : Pool) : Pool := { p with lines := p.lines.map (fun e => (e.1, poolOlder e.2)) }

/-- The sweep at one die. -/
def agePool (s : State) (d : Nat) : State := s.setPool d (agedPool (s.pool d))

/-- The sweep ages the pool of each die that it visits once. -/
theorem pool_foldl_agePool {ds : List Nat} (hds : ds.Nodup) (s : State) (d : Nat) :
    (ds.foldl agePool s).pool d = if d ∈ ds then agedPool (s.pool d) else s.pool d := by
  induction ds generalizing s with
  | nil => rfl
  | cons n ds ih =>
    obtain ⟨hn, hds⟩ := List.nodup_cons.mp hds
    rw [List.foldl_cons, ih hds]
    by_cases hd : d = n
    · subst hd
      rw [if_neg hn, if_pos List.mem_cons_self]
      exact State.setPool_same ..
    · have hkept : (agePool s n).pool d = s.pool d := State.setPool_other _ _ _ hd
      simp only [hkept, List.mem_cons, hd, false_or]

/-- The sweep leaves its own mark alone. -/
theorem swept_foldl_agePool (ds : List Nat) (s : State) : (ds.foldl agePool s).coh.swept = s.coh.swept := by
  induction ds generalizing s with
  | nil => rfl
  | cons n ds ih => rw [List.foldl_cons, ih]; rfl

/-- Settles O31. The phase of the sweeps is log 25. -/
theorem ashListAndPoolModeCommandsComplete : Obligations.AshListAndPoolModeCommandsComplete := by
  refine ⟨?ashList, ?enter, ?leave, ?left, ?writingBack, ?sweep⟩
  case ashList =>
    intro d s hready
    refine ⟨?own, ?other, ?overflow⟩
    case own =>
      intro value hdie
      exact (dieReg_ready hready _).trans (congrArg Host.Outcome.next (if_pos hdie))
    case other =>
      intro value hdie
      exact (dieReg_ready hready _).trans (congrArg Host.Outcome.next (if_neg hdie))
    case overflow =>
      intro i mask
      exact ⟨_, dieReg_ready hready _, rfl, rfl, get_ashOvfW1c s d i mask⟩
  case enter =>
    intro d pways rv s hready hmode hbusy
    have hentered : exec (.poolModeEnter d pways rv) s = .next (poolEnter s d pways rv) := dieReg_ready hready _
    have hfree : ¬ ((s.pool d).mode || (s.pool d).busy) = true := by simp [hmode, hbusy]
    rw [hentered, poolEnter, if_neg hfree]
    refine ⟨fun hallowed => ?_, fun hrefused => ?_⟩
    · rw [if_neg (by simp [hallowed])]
    · rw [if_pos hrefused]
  case leave =>
    intro d s hready hmode hbusy
    exact (dieReg_ready hready _).trans (congrArg Host.Outcome.next (if_pos (by simp [hmode, hbusy])))
  case left =>
    intro d s hbusy hclean
    have hdirty : ∀ l ∈ (s.pool d).lines.map (·.1), (s.dirE l).dirty = false := by
      simpa using fun l v hl => (hclean (l, v) hl).1
    simp only [exec, execPoolLeaveDone, foldl_evictLine_clean d.val _ hdirty]
    rw [if_pos hbusy, if_neg (by simpa using fun l v hl => hclean (l, v) hl)]
  case writingBack =>
    rintro d s u hbusy rfl hleft
    simp only [exec, execPoolLeaveDone]
    rw [if_pos hbusy, if_pos (by simpa using hleft)]
  case sweep =>
    intro s hdue
    refine ⟨_, if_neg (Nat.not_le.mpr hdue), swept_foldl_agePool _ _, fun d => ?_⟩
    exact (pool_foldl_agePool List.nodup_range _ _).trans (if_pos (List.mem_range.mpr d.isLt))

end Sys2Proof
end

section
/-! CXL.mem requests of the host on link 0 and its answers to back-invalidation snoops (R286, R287, R373, Table 9.6). -/

namespace Sys2Proof

open Sys2Proof.Machine

/-! ### Addresses in and out of the host-managed range -/

section

variable {s : State} {off : BitVec 40} (hup : (s.host 0).cxlup = true)

include hup

/-- An access outside the host-managed range is answered as unsupported (R373). -/
theorem exec_cxlMem_outside (hline : hdmLine s off.toNat = none) (mv : CxlMeta) (data : Option LineData) :
    exec (.cxlMemrd off mv) s = .next (cxlSend s 4 off.toNat []) ∧ exec (.cxlMemwr off data) s = .next (cxlSend s 4 off.toNat []) := by
  simp only [exec, execCxlMemrd, execCxlMemwr, hline]
  exact ⟨if_neg (by simp [hup]), if_neg (by simp [hup])⟩

variable {line ctx : Nat} (hline : hdmLine s off.toNat = some (line, ctx))

include hline

/-- A read that lets the host own its line is RdX of the CXL.cache agent (Table 9.6). -/
theorem exec_cxlMemrd_any : exec (.cxlMemrd off .any) s = requestArrives s 13 line ctx .rdX [.i, .imd, .s] .imd {} := by
  simp only [exec, execCxlMemrd, hline]
  exact if_neg (by simp [hup])

/-- A read that lets the host share its line is RdS of the CXL.cache agent (Table 9.6). -/
theorem exec_cxlMemrd_shared : exec (.cxlMemrd off .shared) s = requestArrives s 13 line ctx .rdS [.i, .isd, .isdi, .s]
    (if (s.al line 13).st = .isdi then .isdi else .isd) {} := by
  simp only [exec, execCxlMemrd, hline]
  exact if_neg (by simp [hup])

/-- A read that leaves the host no copy returns the bytes of the line (Table 9.6). -/
theorem exec_cxlMemrd_invalid {bs : List Byte} {u : State} (hread : physRead s (.hostLink 0) ctx (line * 128) 128 = (.ok, bs, u)) :
    exec (.cxlMemrd off .invalid) s = .next (settleAll (cxlSend u 3 (line * 128) bs)) := by
  simp only [exec, execCxlMemrd, hline, hread]
  exact if_neg (by simp [hup])

section

variable (hsnoop : biOpen s line = false)

include hsnoop

/-- A write with data is the write-back of the host's copy (Table 9.6). -/
theorem exec_cxlMemwr_data (d : LineData) :
    exec (.cxlMemwr off (some d)) s = requestArrives s 13 line 0 .wbM [.m, .e, .s, .i] .xia { data := d } := by
  simp only [exec, execCxlMemwr, hline, hsnoop]
  exact if_neg (by simp [hup])

/-- A write without data gives the host's copy up (Table 9.6). -/
theorem exec_cxlMemwr_none : exec (.cxlMemwr off none) s = requestArrives s 13 line 0 .evE [.m, .e, .s, .i] .xia {} := by
  simp only [exec, execCxlMemwr, hline, hsnoop]
  exact if_neg (by simp [hup])

end

end

/-- Settles O46. -/
theorem cxlAccessesActForTheHost : Obligations.CxlAccessesActForTheHost := by
  refine ⟨?outside, ?inside, ?answers⟩
  case outside =>
    intro off s hup hline
    exact ⟨fun mv => (exec_cxlMem_outside hup hline mv none).left, fun data => (exec_cxlMem_outside hup hline .any data).right⟩
  case inside =>
    rintro off s line ctx a hup hline rfl
    refine ⟨fun bs u hread => exec_cxlMemrd_invalid hup hline hread,
      fun hlive hopen hroom => ⟨?any, ?shared, ?invalidated, ?writes⟩, ?snooped⟩
    case any =>
      intro hst
      rw [exec_cxlMemrd_any hup hline]
      exact requestArrives_sent hlive hopen hroom (by grind) (by decide) ..
    case shared =>
      intro hst
      have hnot : (s.al line 13).st ≠ .isdi := by rcases hst with hst | hst | hst <;> simp [hst]
      rw [exec_cxlMemrd_shared hup hline, if_neg hnot]
      exact requestArrives_sent hlive hopen hroom (by grind) (by decide) ..
    case invalidated =>
      intro hst
      rw [exec_cxlMemrd_shared hup hline, if_pos hst]
      exact requestArrives_sent hlive hopen hroom (by simp [hst]) (by decide) ..
    case writes =>
      intro hsnoop hst
      refine ⟨fun d => ?_, ?_⟩
      · rw [exec_cxlMemwr_data hup hline hsnoop]
        exact requestArrives_sent hlive hopen hroom (by grind) (by decide) ..
      · rw [exec_cxlMemwr_none hup hline hsnoop]
        exact requestArrives_sent hlive hopen hroom (by grind) (by decide) ..
    case snooped =>
      intro hsnoop
      refine ⟨?answered, ?written⟩
      case answered =>
        simp only [exec, execCxlMemwr, hline, hsnoop]
        exact if_neg (by simp [hup])
      case written =>
        rintro d u v rfl rfl
        simp only [exec, execCxlMemwr, hline, hsnoop]
        exact if_neg (by simp [hup])
  case answers =>
    rintro line s u hsnoop rfl
    refine ⟨fun t sn htxn howed hasked => ⟨?givesUp, ?keeps⟩, ?notAsked⟩
    case givesUp =>
      simp only [exec, execCxlBirsp, htxn, howed, hasked]
      rw [if_neg (by simp [hsnoop])]
      rfl
    case keeps =>
      rintro rfl
      simp only [exec, execCxlBirsp, htxn, howed, hasked]
      rw [if_neg (by simp [hsnoop])]
      rfl
    case notAsked =>
      intro hnone keepS
      simp only [exec, execCxlBirsp]
      rw [if_neg (by simp [hsnoop])]
      rcases hnone with htxn | ⟨t, htxn, howed | hasked⟩
      · rw [htxn]
      · simp only [htxn, howed, Bool.false_eq_true, if_false]
      · simp only [htxn, hasked, ite_self]

end Sys2Proof
end

section
/-! The checks of an access: what an extent that passes them says of where it lies (R326, R327, R330), and that the checks themselves change
no byte of memory (R328). -/

namespace Sys2Proof

open Sys2Proof.Machine

/-! ### Lines of an extent and of the address map -/

/-- With enough fuel, the pieces of an extent begin on every line that the extent touches. -/
theorem exists_lineChunk {f a n i : Nat} (hfuel : a % 128 + n ≤ 128 * f) (hi : i < n) :
    ∃ c ∈ lineChunks f a n, lineOf c.1 = lineOf (a + i) := by
  induction f generalizing a n i with
  | zero => omega
  | succ f ih =>
    obtain ⟨k, hk⟩ : ∃ k, k = min n (128 - a % 128) := ⟨_, rfl⟩
    have hcut : lineChunks (f + 1) a n = (a, k) :: lineChunks f (a + k) (n - k) := by
      rw [hk, lineChunks]
      exact if_neg (by omega)
    rw [hcut]
    by_cases hhere : i < k
    · exact ⟨(a, k), List.mem_cons_self, by simp only [lineOf]; omega⟩
    · obtain ⟨c, hc, hline⟩ := ih (a := a + k) (n := n - k) (i := i - k) (by omega) (by omega)
      exact ⟨c, List.mem_cons_of_mem _ hc, by rw [hline]; congr 1; omega⟩

/-- The pieces of an extent begin on every line that it touches. -/
theorem exists_chunk {pa n i : Nat} (hi : i < n) : ∃ c ∈ chunksOf pa n, lineOf c.1 = lineOf (pa + i) :=
  exists_lineChunk (by omega) hi

/-- The interleaving keeps lines together (R22). -/
theorem lineOf_aliasToDirect {a b : Nat} (h : lineOf a = lineOf b) : lineOf (aliasToDirect a) = lineOf (aliasToDirect b) := by
  simp only [lineOf] at h ⊢
  have hdie : a / 2 ^ 12 = b / 2 ^ 12 := by omega
  have hblock : a / 2 ^ 14 = b / 2 ^ 14 := by omega
  rw [aliasToDirect_eq, aliasToDirect_eq, hdie, hblock]
  unfold dieSize
  omega

/-- An address on the line of a byte of main memory leads to the same line of main memory. -/
theorem placeOf_main_sameLine {a b k d : Nat} (h : lineOf a = lineOf b) (hb : placeOf b = .main k d) :
    ∃ k' d', placeOf a = .main k' d' ∧ lineOf d' = lineOf d := by
  have hdiv : a / 128 = b / 128 := h
  by_cases hdirect : b < mainSize
  · have ha : a < mainSize := by unfold mainSize at *; omega
    obtain ⟨rfl, rfl⟩ : b / dieSize = k ∧ b = d := by simpa [placeOf_direct hdirect] using hb
    exact ⟨_, _, placeOf_direct ha, h⟩
  · by_cases halias : aliasBase ≤ b ∧ b < aliasBase + mainSize
    · obtain ⟨y, rfl⟩ : ∃ y, b = aliasBase + y := ⟨b - aliasBase, by omega⟩
      obtain ⟨x, rfl⟩ : ∃ x, a = aliasBase + x := ⟨a - aliasBase, by unfold aliasBase at *; omega⟩
      have hx : x < mainSize := by unfold aliasBase mainSize at *; omega
      rw [placeOf_alias (by omega)] at hb
      obtain ⟨-, rfl⟩ := Place.main.inj hb
      exact ⟨_, _, placeOf_alias hx, lineOf_aliasToDirect (by unfold lineOf aliasBase at *; omega)⟩
    · simp only [placeOf, if_neg hdirect, if_neg halias] at hb
      repeat' split at hb
      all_goals cases hb

/-- An address on the line of a byte of a scratchpad leads to the same scratchpad. -/
theorem placeOf_spad_sameLine {a b g off : Nat} (h : lineOf a = lineOf b) (hb : placeOf b = .spad g off) :
    ∃ off', placeOf a = .spad g off' := by
  have hdiv : a / 128 = b / 128 := h
  have hwindow : (spadBase ≤ b ∧ b < spadBase + 96 * 0x800000) ∧ (b - spadBase) / 0x800000 = g := by
    unfold placeOf at hb
    repeat' split at hb
    all_goals cases hb
    exact ⟨‹_›, rfl⟩
  obtain ⟨hrange, rfl⟩ := hwindow
  have hsame : (a - spadBase) / 0x800000 = (b - spadBase) / 0x800000 := by unfold spadBase at *; omega
  refine ⟨(a - spadBase) % 0x800000, ?_⟩
  unfold placeOf mainSize aliasBase nearBase
  unfold spadBase at hrange hsame ⊢
  rw [if_neg (by omega), if_neg (by omega), if_neg (by omega), if_pos (by omega), hsame]

/-- The region-owner check is one for all bytes of a line. -/
theorem mainAllows_sameLine {s : State} {d e ctx : Nat} (h : lineOf d = lineOf e) : mainAllows s d ctx = mainAllows s e ctx := by
  simp only [lineOf] at h
  have hregion : regionOf d = regionOf e := by unfold regionOf; omega
  have htable : inOwnerTable d = inOwnerTable e := by
    unfold inOwnerTable dieSize
    rw [decide_eq_decide]
    omega
  rw [mainAllows, mainAllows, hregion, htable]

/-! ### What the checks ask of an address -/

/-- The states of a grate in which its scratchpad is open to a context from outside (R330). -/
def SpadOpen (s : State) (g ctx : Nat) : Prop :=
  (s.gr g).clearing = false ∧
    (if ctx = 0 then (s.gr g).st = .idle else ((s.gr g).st = .running ∨ (s.gr g).st = .stopped) ∧ (s.gr g).ctx.toNat = ctx)

/-- Where an access of an agent in a context may lead (R326, R327, R330): in main memory where the region-owner table lets the context
through, in the scratchpad of another grate where that is open to it. -/
def MayReach (s : State) (agent : Agent) (ctx pa : Nat) : Prop :=
  (∀ k d, placeOf pa = .main k d → mainAllows s d ctx = true) ∧
  (∀ g off, placeOf pa = .spad g off → agent ≠ .tile g → SpadOpen s g ctx)

section

variable {s t u : State} {agent : Agent} {ctx : Nat}

/-- Only the table of owners and the grates decide. -/
theorem MayReach.congr {pa : Nat} (howners : t.owners = s.owners) (hgrates : t.grates = s.grates) (h : MayReach t agent ctx pa) :
    MayReach s agent ctx pa := by
  simpa only [MayReach, SpadOpen, mainAllows, State.gr, howners, hgrates] using h

/-- What holds of one byte of a line holds of every byte of it. -/
theorem MayReach.sameLine {a b : Nat} (hline : lineOf a = lineOf b) (h : MayReach s agent ctx a) : MayReach s agent ctx b := by
  obtain ⟨hmain, hspad⟩ := h
  refine ⟨fun k d hb => ?_, fun g off hb => ?_⟩
  · obtain ⟨k', d', ha, hd⟩ := placeOf_main_sameLine hline hb
    exact mainAllows_sameLine hd ▸ hmain k' d' ha
  · obtain ⟨off', ha⟩ := placeOf_spad_sameLine hline hb
    exact hspad g off' ha

/-! ### What the checks answer -/

/-- A line that cannot be reached is never answered with ok. -/
theorem lineReach_ne_ok (s : State) (agent : Agent) (d : Nat) : lineReach s agent d ≠ some .ok := by
  intro h
  simp only [lineReach] at h
  split at h
  · cases h
  split at h
  all_goals cases h

/-- A request to main memory is let through only where the region's owner entry allows its context (R327). -/
theorem mainAllows_of_mainCheck_ok {k : LineReq} {d : Nat} (h : mainCheck s agent ctx k d = (.ok, u)) : mainAllows s d ctx = true := by
  simp only [mainCheck] at h
  split at h
  · cases h
  split at h
  next hreach =>
    cases h
    exact absurd hreach (lineReach_ne_ok _ _ _)
  next =>
    cases hallows : mainAllows s d ctx with
    | true => rfl
    | false =>
      rw [hallows] at h
      cases h

/-- An access from outside a grate is let into its scratchpad only in the states of R330. -/
theorem spadOpen_of_spadCheck_ok {acc : Acc3} {g off len : Nat} (h : spadCheck s agent ctx acc g off len = (.ok, u))
    (hother : agent ≠ .tile g) : SpadOpen s g ctx := by
  simp only [spadCheck] at h
  rw [if_neg hother] at h
  split at h
  · cases h
  split at h
  · cases h
  split at h
  · cases h
  unfold SpadOpen
  by_cases hctx : ctx = 0
  all_goals
    simp only [hctx, if_true, if_false] at h ⊢
    split at h
  next => cases h
  next hopen =>
    simp only [Bool.or_eq_true, Bool.not_eq_true', decide_eq_false_iff_not, not_or, Bool.not_eq_true, Decidable.not_not] at hopen
    exact hopen
  next => cases h
  next hopen =>
    simp only [Bool.or_eq_true, Bool.not_eq_true', not_or, Bool.not_eq_true, Bool.not_eq_false, Bool.and_eq_true,
      decide_eq_true_eq] at hopen
    exact hopen

/-- A piece is let through only where its context may go. -/
theorem mayReach_of_chunkCheck_ok {acc : Acc3} {pa len : Nat} (h : chunkCheck s agent ctx acc pa len = (.ok, u)) :
    MayReach s agent ctx pa := by
  refine ⟨fun k d hplace => ?_, fun g off hplace => ?_⟩
  all_goals simp only [chunkCheck, hplace] at h
  · exact mainAllows_of_mainCheck_ok h
  · exact spadOpen_of_spadCheck_ok h

/-! ### What the checks leave unchanged -/

/-- A scratchpad access that is let through has changed nothing yet. -/
theorem spadCheck_ok_state {acc : Acc3} {g off len : Nat} (h : spadCheck s agent ctx acc g off len = (.ok, u)) : u = s := by
  simp only [spadCheck] at h
  repeat' split at h
  all_goals cases h
  all_goals rfl

/-- The checks of a piece change no owner entry. -/
theorem chunkCheck_owners (s : State) (agent : Agent) (ctx : Nat) (acc : Acc3) (pa len : Nat) :
    (chunkCheck s agent ctx acc pa len).2.owners = s.owners :=
  (kept_chunkCheck s agent ctx acc pa len ⟨Nat.and_self _⟩ (Kept.start s)).frame .owners (by decide)

/-- A piece that is let through has changed no grate: only a refused access halts one (R132). -/
theorem chunkCheck_ok_grates {acc : Acc3} {pa len : Nat} (h : chunkCheck s agent ctx acc pa len = (.ok, u)) : u.grates = s.grates := by
  simp only [chunkCheck] at h
  split at h
  case h_1 d _ =>
    have hkept := kept_mainCheck s agent ctx (lineReq acc len) d ⟨Nat.and_self _⟩ (Kept.start s)
    rw [h] at hkept
    exact hkept.frame .grates (by decide)
  case h_2 die off _ =>
    have hkept := kept_nearCheck s agent ctx (lineReq acc len) die off ⟨Nat.and_self _⟩ (Kept.start s)
    rw [h] at hkept
    exact hkept.frame .grates (by decide)
  case h_3 => rw [spadCheck_ok_state h]
  all_goals cases h

/-- Pieces that are let through one after another all lie where their context may go as the first check found it. -/
theorem mayReach_of_checkChunks_ok {acc : Acc3} {cs : List (Nat × Nat)} (h : checkChunks s agent ctx acc cs = (.ok, u)) :
    ∀ c ∈ cs, MayReach s agent ctx c.1 := by
  induction cs generalizing s with
  | nil => simp
  | cons c cs ih =>
    rcases hc : chunkCheck s agent ctx acc c.1 c.2 with ⟨r, v⟩
    simp only [checkChunks, hc] at h
    cases r with
    | ok =>
      have howners : v.owners = s.owners := by rw [← chunkCheck_owners s agent ctx acc c.1 c.2, hc]
      refine List.forall_mem_cons.mpr ⟨mayReach_of_chunkCheck_ok hc, fun e he => ?_⟩
      exact (ih h e he).congr howners (chunkCheck_ok_grates hc)
    | _ => cases h

/-- An extent passes its checks only where all its pieces do. -/
theorem checkChunks_of_checkExtent_ok {acc : Acc3} {pa n : Nat} (h : checkExtent s agent ctx acc pa n = (.ok, u)) :
    ∃ v, checkChunks s agent ctx acc (chunksOf pa n) = (.ok, v) := by
  rcases hc : checkChunks s agent ctx acc (chunksOf pa n) with ⟨r, v⟩
  simp only [checkExtent, hc] at h
  cases r with
  | ok => exact ⟨v, rfl⟩
  | _ => cases h

/-- Checking an extent, and noting at its homes that it is performed, writes no byte of memory. -/
theorem checkExtent_mem (s : State) (agent : Agent) (ctx : Nat) (acc : Acc3) (pa n : Nat) :
    (checkExtent s agent ctx acc pa n).2.mem = s.mem :=
  (kept_checkExtent s agent ctx acc pa n ⟨Nat.and_self _⟩ (Kept.start s)).frame .mem (by decide)

/-! ### Accesses that their checks refuse -/

section

variable {pa n : Nat} {bs : List Byte} {r : Resp} (hr : r ≠ .ok)

include hr

/-- A read that is refused, or waits, is its checks alone (R328). -/
theorem checkExtent_of_physRead_refused (h : physRead s agent ctx pa n = (r, bs, u)) : checkExtent s agent ctx .read pa n = (r, u) := by
  rcases hc : checkExtent s agent ctx .read pa n with ⟨q, v⟩
  simp only [physRead, hc] at h
  cases q with
  | ok => exact absurd (Prod.mk.inj h).1.symm hr
  | _ => cases h; rfl

/-- A write that is refused, or waits, is its checks alone (R328). -/
theorem checkExtent_of_physWrite_refused (h : physWrite s agent ctx pa bs = (r, u)) :
    checkExtent s agent ctx .write pa bs.length = (r, u) := by
  rcases hc : checkExtent s agent ctx .write pa bs.length with ⟨q, v⟩
  simp only [physWrite, hc] at h
  cases q with
  | ok => exact absurd (Prod.mk.inj h).1.symm hr
  | _ => exact h

/-- An atomic that is refused, or waits, is its checks alone (R328). -/
theorem checkExtent_of_physAtomic_refused {op : AOp} {v c old : Nat} (h : physAtomic s agent ctx pa n op v c = (r, old, u)) :
    checkExtent s agent ctx .atomic pa n = (r, u) := by
  rcases hc : checkExtent s agent ctx .atomic pa n with ⟨q, w⟩
  simp only [physAtomic, hc] at h
  cases q with
  | ok => exact absurd (Prod.mk.inj h).1.symm hr
  | _ => cases h; rfl

end

end

/-- Settles O10: each byte lies on the line of a piece, and a piece that passes lies where its context may go. -/
theorem passedAccessesLieInTheirContext : Obligations.PassedAccessesLieInTheirContext := by
  intro s u agent ctx pa n acc hpass i hi
  obtain ⟨v, hchunks⟩ := checkChunks_of_checkExtent_ok hpass
  obtain ⟨c, hc, hline⟩ := exists_chunk (pa := pa) hi
  exact (mayReach_of_checkChunks_ok hchunks c hc).sameLine hline

/-- Settles O11: the checks, which are all that such an access does, write no byte. -/
theorem refusedAccessesChangeNoMemory : Obligations.RefusedAccessesChangeNoMemory := by
  intro s u agent ctx pa r hr
  have kept {acc : Acc3} {n : Nat} (h : checkExtent s agent ctx acc pa n = (r, u)) : u.mem = s.mem := by
    rw [← checkExtent_mem s agent ctx acc pa n, h]
  exact ⟨fun n bs h => kept (checkExtent_of_physRead_refused hr h), fun bs h => kept (checkExtent_of_physWrite_refused hr h),
    fun n op v c old h => kept (checkExtent_of_physAtomic_refused hr h)⟩

end Sys2Proof
end

section
/-! Walk reads and the runtime's replies to translation faults (R303, R310, R316, R317). -/

namespace Sys2Proof

open Sys2Proof.Machine

/-! ### The read of a walk -/

section

variable {s u : State} {w : Walk} {bs : List Byte} {e : Nat}
  (hread : physRead s w.agent 0 (w.node + 8 * levelIndex w.level w.va) 8 = (.ok, bs, u)) (he : e = ofBytes bs)
  (hvalid : pteV e = true) (hformed : pteMalformed e w.level = false)

include hread he hvalid hformed

/-- A leaf that allows the access ends the walk and is put into the buffers (R310). -/
theorem walkStep_leaf {l : Leaf} {n : Nat} (hleaf : pteLeaf e = true) (hn : n = levelBits w.level)
    (hl : l = { ctx := w.ctx, vbase := w.va / 2 ^ n * 2 ^ n, bits := n, pbase := ptePa e, rd := bitAt e 2, wr := bitAt e 3,
                at_ := bitAt e 4, level := w.level, entry := e })
    (hallows : leafAllows l w.acc = true) :
    walkStep s w = (true, fillMicro (fillL2 ((if w.keeps then w.seen else []).foldl
      (fun s p => fillPtr s (agentDie w.agent) p) (endWalk u w.agent)) (agentDie w.agent) l) w.agent l) := by
  subst he hn hl
  simp [walkStep, hread, hvalid, hformed, hleaf, hallows]

/-- A pointer takes the walk down a level (R303). -/
theorem walkStep_pointer {w' : Walk} (hptr : pteLeaf e = false)
    (hw : w' = { w with
      level := w.level + 1, node := ptePa e, lastEntry := e
      seen := w.seen ++ [{ ctx := w.ctx, level := w.level + 1, vbase := w.va / 2 ^ levelBits w.level * 2 ^ levelBits w.level,
                           node := ptePa e }] }) :
    walkStep s w = (false, { u with xlat := { u.xlat with
      walks := u.xlat.walks.map (fun v => if v.agent = w.agent then w' else v) } }) := by
  subst he hw
  simp [walkStep, hread, hvalid, hformed, hptr]

end

/-! ### The commands -/

/-- The read of a walk that holds a walker is its next step; its agent goes on once a leaf is found. -/
theorem exec_walkReadReturn {x : XAgent} {s v : State} {w : Walk} {found : Bool} (hwalk : walkOf s (xagent x) = some w)
    (hwalker : walkHasWalker s w = true) (hstep : walkStep s w = (found, v)) :
    exec (.walkReadReturn x) s = .next (if found then settleAll (resumeAgent v (xagent x)) else v) := by
  simp only [exec, execWalkReadReturn, hwalk, hwalker, hstep]
  cases found <;> rfl

/-- A reply ends the stalled fault that its TOKEN names (R316, R317). -/
theorem exec_xlatReply_known {token : BitVec 16} {s : State} {f : XFault} (hfault : faultByToken s token.toNat = some f) :
    exec (.xlatReplyReplay token) s =
      .next (settleAll (resumeAgent (forgetLeaf (dropFault s f.token) f.agent f.ctx f.va) f.agent)) ∧
    exec (.xlatReplyRefuse token) s = .next (settleAll (refuseAgent (dropFault s f.token) f.agent)) := by
  simp only [exec, execXlatReplyReplay, execXlatReplyRefuse, hfault, and_self]

/-- A reply whose TOKEN names no stalled fault is only logged (R316). -/
theorem exec_xlatReply_unknown {token : BitVec 16} {s : State} (hnone : faultByToken s token.toNat = none) :
    exec (.xlatReplyReplay token) s = .next (s.logTag .chm 0 316 token.toNat) ∧
    exec (.xlatReplyRefuse token) s = .next (s.logTag .chm 0 316 token.toNat) := by
  simp only [exec, execXlatReplyReplay, execXlatReplyRefuse, hnone, and_self]

/-- Settles O25. -/
theorem walksAndRepliesMoveTheirAgentOn : Obligations.WalksAndRepliesMoveTheirAgentOn := by
  refine ⟨?leaf, ?pointer, fun token s f hfault => exec_xlatReply_known hfault, fun token s hnone => exec_xlatReply_unknown hnone⟩
  case leaf =>
    intro x s u w l bs e n hwalk hwalker hread he hvalid hformed hleaf hn hl hallows
    exact exec_walkReadReturn hwalk hwalker (walkStep_leaf hread he hvalid hformed hleaf hn hl hallows)
  case pointer =>
    intro x s u w w' bs e hwalk hwalker hread he hvalid hformed hptr hw
    exact exec_walkReadReturn hwalk hwalker (walkStep_pointer hread he hvalid hformed hptr hw)

end Sys2Proof
end

section
/-! Invalidations (R319 to R323, R581) and changes of region owners (R332, R333, R581). -/

namespace Sys2Proof

open Sys2Proof.Machine

/-! ### The start of an invalidation -/

section

variable {s : State} {x : XInv}

/-- A start while BUSY only sets ERR. -/
theorem invStart_busy (hbusy : s.xlat.inv.busy = true) (x : XInv) :
    invStart s x = { s with xlat := { s.xlat with inv := { s.xlat.inv with err := true } } } := by
  simp only [invStart, hbusy, if_true]

/-- A range that runs past the top of the space is refused; its operands stand in the register (R581, log 95). -/
theorem invStart_overflow (hidle : s.xlat.inv.busy = false) (hscope : x.scope = 0) (hover : 2 ^ 39 < x.page.toNat + x.npg.toNat + 1) :
    invStart s x = { s with xlat := { s.xlat with inv := { x with err := true } } } := by
  simp only [invStart]
  rw [if_neg (by simp [hidle]), if_pos (.inr ⟨hscope, hover⟩)]

/-- A start that is taken latches its scope and drops what is buffered or walked to in it. -/
theorem invStart_started {y : XInv} (hidle : s.xlat.inv.busy = false) (hscope : x.scope ≠ 3)
    (hfits : x.scope = 0 → x.page.toNat + x.npg.toNat + 1 ≤ 2 ^ 39)
    (hy : y = { x with busy := true, va := x.page, dropped := droppedPages s { x with busy := true, va := x.page } }) :
    invStart s x = dropWalks (dropScope { s with xlat := { s.xlat with inv := y } } y) := by
  have htaken : ¬ (x.scope = 3 ∨ (x.scope = 0 ∧ 2 ^ 39 < x.page.toNat + x.npg.toNat + 1)) := by
    rintro (hreserved | ⟨hrange, hover⟩)
    · exact hscope hreserved
    · exact absurd (hfits hrange) (Nat.not_le.mpr hover)
  simp only [invStart]
  rw [if_neg (by simp [hidle]), if_neg htaken, hy]

end

/-- An invalidation ends once no access uses a translation in its scope (R321). -/
theorem exec_xlatInvDone {s : State} (hbusy : s.xlat.inv.busy = true) (hfinished : invPending s = false) :
    exec .xlatInvDone s =
      .next (settleAll (resumeHeld { s with xlat := { s.xlat with inv := { s.xlat.inv with busy := false, dropped := [] } } })) := by
  simp only [exec, execXlatInvDone]
  exact if_neg (by simp [hbusy, hfinished])

/-! ### Region-owner changes -/

section

variable {d : DieNo} {s : State}

/-- A range that lies in its die below the table's own area is taken while no change runs (R332). -/
theorem rotBad_eq_false {x : RotReg} {d n : Nat} (hidle : x.busy = false) (hfrom : d * 0x600000 ≤ x.page.toNat)
    (hto : x.page.toNat + n ≤ (d + 1) * 0x600000 - 0xC0) : rotBad d x n = false := by
  have hregions : dieRegions = 0x600000 := rfl
  simp only [rotBad, hidle, hregions, Bool.false_or, Bool.or_eq_false_iff, decide_eq_false_iff_not]
  omega

/-- No change starts while one runs (R332). -/
theorem rotBad_busy {x : RotReg} (hbusy : x.busy = true) (d n : Nat) : rotBad d x n = true := by
  simp only [rotBad, hbusy, Bool.true_or]

/-- A change that is taken latches its operands, lets the moved regions refuse, and snoops the copies of their lines (R333). -/
theorem exec_rotChange_started {owner : Ctx} {v rt : Bool} {nreg : BitVec 23} {old x : RotReg} (hold : old = Tab.get {} s.rot d.val)
    (hready : readyHth s d = true) (hgood : rotBad d old (nreg.toNat + 1) = false)
    (hx : x = { old with addr := old.page, owner := owner, v := v, rt := rt, nreg := nreg, busy := true }) :
    exec (.rotChange d owner v rt nreg) s = .next (rotSnoop { s with
      rot := Tab.put {} s.rot d.val x
      owners := mapOwners s.owners old.page.toNat (nreg.toNat + 1) (fun _ (o : Owner) =>
        if o.owner = owner ∧ o.v = v then { o with rt := rt } else { moving := true }) } x) := by
  subst hold hx
  simp only [exec, execRotChange]
  rw [if_neg (by simp [hready]), if_neg (by rw [hgood]; decide)]

/-- A second start only sets ERR (R332). -/
theorem exec_rotChange_busy (hready : readyHth s d = true) (hbusy : (Tab.get {} s.rot d.val : RotReg).busy = true)
    (owner : Ctx) (v rt : Bool) (nreg : BitVec 23) : exec (.rotChange d owner v rt nreg) s =
      .next { s with rot := Tab.put {} s.rot d.val { Tab.get {} s.rot d.val with err := true } } := by
  simp only [exec, execRotChange]
  rw [if_neg (by simp [hready]), if_pos (rotBad_busy hbusy _ _), if_pos hbusy]

/-- A running change snoops the copies of its lines; it ends where none of the lines is in use (R333). -/
theorem exec_rotChangeDone {t : State} {x : RotReg} (hx : x = Tab.get {} s.rot d.val) (hbusy : x.busy = true) (ht : t = rotSnoop s x) :
    exec (.rotChangeDone d) s = .next (if rotBusyLines t x then t else
      { (movingRegions t x).foldl (rotRegion (rotTarget x)) t with
        rot := Tab.put {} ((movingRegions t x).foldl (rotRegion (rotTarget x)) t).rot d.val { x with busy := false } }) := by
  subst hx ht
  simp only [exec, execRotChangeDone, hbusy, if_true]
  rw [if_neg (by decide)]
  split <;> rfl

end

/-- Settles O26. The operands that a refused range leaves in CHM_XLAT_INV_CTL are log 95. -/
theorem invalidationsAndOwnerChangesRunToTheirEnd : Obligations.InvalidationsAndOwnerChangesRunToTheirEnd := by
  refine ⟨⟨?range, ?context, ?all, ?overflow, ?busy, fun s hbusy hfinished => exec_xlatInvDone hbusy hfinished⟩,
    ⟨?change, ?changeBusy, ?installed, ?snooping⟩⟩
  case range =>
    rintro ctx npg s x hidle hfits rfl y rfl
    have hscope : (0 : BitVec 2) ≠ 3 := by decide
    exact congrArg Host.Outcome.next (invStart_started hidle hscope (fun _ => hfits) rfl)
  case context =>
    rintro ctx s x hidle rfl y rfl
    have hscope : (1 : BitVec 2) ≠ 3 ∧ (1 : BitVec 2) ≠ 0 := by decide
    exact congrArg Host.Outcome.next (invStart_started hidle hscope.1 (fun h => absurd h hscope.2) rfl)
  case all =>
    rintro s x hidle rfl y rfl
    have hscope : (2 : BitVec 2) ≠ 3 ∧ (2 : BitVec 2) ≠ 0 := by decide
    exact congrArg Host.Outcome.next (invStart_started hidle hscope.1 (fun h => absurd h hscope.2) rfl)
  case overflow =>
    intro ctx npg s hidle hover
    exact congrArg Host.Outcome.next (invStart_overflow hidle rfl hover)
  case busy =>
    rintro ctx npg s t hbusy rfl
    refine ⟨?_, ?_, ?_⟩ <;> exact congrArg Host.Outcome.next (invStart_busy hbusy _)
  case change =>
    intro d owner v rt nreg s old x hold hready hidle hfrom hto hx
    exact exec_rotChange_started hold hready (rotBad_eq_false hidle hfrom hto) hx
  case changeBusy =>
    intro d owner v rt nreg s hready hbusy
    exact exec_rotChange_busy hready hbusy owner v rt nreg
  case installed =>
    rintro d s t u x hx hbusy ht hfree rfl
    rw [exec_rotChangeDone hx hbusy ht, hfree]
    rfl
  case snooping =>
    intro d s t x hx hbusy ht hused
    rw [exec_rotChangeDone hx hbusy ht, hused]
    rfl

end Sys2Proof
end

section
/-! Ring set-up, ring commands and doorbells (R241, R252, R335 to R341). -/

namespace Sys2Proof

open Sys2Proof.Machine

section

variable {s : State} {rn : Nat}

/-! ### The words of an entry -/

/-- An entry that is OFF takes its first word. -/
theorem writeRingWord_zero_off (hst : (s.ring rn).st = .off) (v : Nat) :
    writeRingWord s rn 0 v = s.setRing rn (setRingWord0 (s.ring rn) v) := if_pos hst

theorem writeRingWord_one_off (hst : (s.ring rn).st = .off) (v : Nat) : writeRingWord s rn 1 v =
    s.setRing rn { s.ring rn with ivec := BitVec.ofNat 16 (field v 0 16), base := BitVec.ofNat 40 (field v 24 40) } := if_pos hst

/-- The words that only the device writes stay as they are. -/
theorem writeRingWord_readOnly_off (hst : (s.ring rn).st = .off) (w v : Nat) : writeRingWord s rn (w + 2) v = s := if_pos hst

/-- An entry in use takes only the POLICY of a record ring. -/
theorem writeRingWord_inUse (hst : (s.ring rn).st ≠ .off) (w v : Nat) : writeRingWord s rn w v =
    if w = 0 ∧ (s.ring rn).kind = true then s.setRing rn { s.ring rn with policy := BitVec.ofNat 2 (field v 11 2) }
    else s.logTag .chm 0 335 rn := if_neg hst

/-! ### Ring commands -/

/-- ENABLE of a permitted entry empties its ring and makes it ACTIVE (R337). -/
theorem ringEnableOp_permitted (hst : (s.ring rn).st = .off) (hgood : enableBad s (s.ring rn) = false) : ringEnableOp s rn =
    (s.setRing rn { s.ring rn with head := 0, tail := 0, st := .active }).setRq rn { s.rq rn with
      fetched := [], waitMet := false, stale := false, refetches := 0, returns := 0, written := [], launchRec := none
      launchReq := none } := if_neg (by simp [hst, hgood])

theorem ringEnableOp_refused (hbad : (s.ring rn).st ≠ .off ∨ enableBad s (s.ring rn) = true) : ringEnableOp s rn = ringCmdErr s :=
  if_pos hbad

theorem ringPauseOp_active (hst : (s.ring rn).st = .active) :
    ringPauseOp s rn = s.setRing rn { s.ring rn with st := .paused } := if_pos hst

theorem ringPauseOp_refused (hst : (s.ring rn).st ≠ .active) : ringPauseOp s rn = ringCmdErr s := if_neg hst

theorem ringResumeOp_paused (hst : (s.ring rn).st = .paused) : ringResumeOp s rn =
    flushRing ((s.setRing rn { s.ring rn with st := .active }).setRq rn { s.rq rn with stale := false, refetches := 0, returns := 0 })
      rn := if_pos hst

theorem ringResumeOp_refused (hst : (s.ring rn).st ≠ .paused) : ringResumeOp s rn = ringCmdErr s := if_neg hst

/-- DISABLE gives the fetched descriptors up and has the waiting records of a record ring dropped. -/
theorem ringDisableOp_on {u : State} (hst : (s.ring rn).st ≠ .off)
    (hu : u = (s.setRing rn { s.ring rn with st := .off }).setRq rn { s.rq rn with
      fetched := [], waitMet := false, stale := false, refetches := 0, returns := 0, stalled := false, faulting := false
      launchRec := none, launchReq := none }) :
    ringDisableOp s rn = (s.rq rn).fetched.foldl (fun s d => completeDesc s rn d { status := 0x17 })
      (if (s.ring rn).kind then flushRing u rn else u) := by
  subst hu
  exact if_neg hst

theorem ringDisableOp_refused (hst : (s.ring rn).st = .off) : ringDisableOp s rn = ringCmdErr s := if_pos hst

/-! ### What a doorbell writes -/

variable {who : BellAgent} {v : W64}

/-- The upper half of the value must be zero (R339). -/
theorem bellWrite_upperSet (hupper : 2 ^ 32 ≤ v.toNat) : bellWrite s who rn v = s.logTag .chm (bellSource who) 339 rn :=
  if_pos (by omega)

/-- A count from one who is not the ring's submitter is logged (R341). -/
theorem bellWrite_stranger (hcount : v.toNat < 2 ^ 32) (hsub : isSubmitter s (s.ring rn) who = false) :
    bellWrite s who rn v = s.logTag .chm (bellSource who) 341 rn := by
  unfold bellWrite
  rw [if_neg (by omega), if_pos (by simp [hsub])]

/-- A submitter's count meets the ring as it is: one that is OFF ignores it, one in ERROR logs it, any other takes it by its kind. -/
theorem bellWrite_off (hcount : v.toNat < 2 ^ 32) (hsub : isSubmitter s (s.ring rn) who = true) (hst : (s.ring rn).st = .off) :
    bellWrite s who rn v = s := by
  simp only [bellWrite, hst]
  rw [if_neg (by omega), if_neg (by simp [hsub])]

theorem bellWrite_error (hcount : v.toNat < 2 ^ 32) (hsub : isSubmitter s (s.ring rn) who = true) (hst : (s.ring rn).st = .error) :
    bellWrite s who rn v = s.logTag .chm (bellSource who) 341 rn := by
  simp only [bellWrite, hst]
  rw [if_neg (by omega), if_neg (by simp [hsub])]

theorem bellWrite_open (hcount : v.toNat < 2 ^ 32) (hsub : isSubmitter s (s.ring rn) who = true) (hoff : (s.ring rn).st ≠ .off)
    (herror : (s.ring rn).st ≠ .error) : bellWrite s who rn v =
      if (s.ring rn).kind then returnBell s rn (s.ring rn) (BitVec.ofNat 32 v.toNat)
      else submitBell s rn (s.ring rn) (BitVec.ofNat 32 v.toNat) := by
  unfold bellWrite
  rw [if_neg (by omega), if_neg (by simp [hsub])]
  cases hst : (s.ring rn).st with
  | off => exact absurd hst hoff
  | error => exact absurd hst herror
  | active | paused | hosthold => rfl

variable {r : Ring} {t : W32}

/-- A count behind TAIL is ignored (R340). -/
theorem submitBell_behind (hback : 2 ^ 31 ≤ (t - r.tail).toNat) : submitBell s rn r t = s := if_pos hback

theorem submitBell_ahead (hahead : (t - r.tail).toNat < 2 ^ 31) (hroom : (t - r.head).toNat ≤ ringSize r) :
    submitBell s rn r t = s.setRing rn { r with tail := t } := by
  rw [submitBell, if_neg (Nat.not_le.mpr hahead), if_neg (Nat.not_lt.mpr hroom)]

/-- A count that would overfill the ring puts it into ERROR; its event carries TAIL (log 63). -/
theorem submitBell_overrun (hahead : (t - r.tail).toNat < 2 ^ 31) (hover : ringSize r < (t - r.head).toNat) :
    submitBell s rn r t = ringEvent (s.setRing rn { r with st := .error }) rn 2 r.tail.toNat := by
  rw [submitBell, if_neg (Nat.not_le.mpr hahead), if_pos hover]

theorem returnBell_returned (hfits : (t - r.head).toNat ≤ (r.tail - r.head).toNat) : returnBell s rn r t =
    flushRing ((s.setRing rn { r with head := t }).setRq rn
      { s.rq rn with written := (s.rq rn).written.drop (t - r.head).toNat }) rn := if_neg (Nat.not_lt.mpr hfits)

/-- More slots returned than were written are logged. -/
theorem returnBell_excess (hover : (r.tail - r.head).toNat < (t - r.head).toNat) : returnBell s rn r t = s.logTag .chm 0 340 rn :=
  if_pos hover

/-! ### When a doorbell leaves -/

/-- A core's doorbell leaves once its store buffer is empty (R241, R252). -/
theorem bellCommand_core {h : HartNo} {u : State} (hready : hartReady s h = true) (hsb : (s.ht h).sb = [])
    (hu : bellWrite s (.core h) rn v = u) (hlost : (u.ht h).lost = []) : bellCommand s (.core h) rn v = .next u := by
  simp only [bellCommand]
  rw [if_neg (by simp [hready]), if_pos (by simp [hsb]), hu, deliverLost_none hlost]

theorem bellCommand_core_waits {h : HartNo} (hready : hartReady s h = true) (hsb : (s.ht h).sb ≠ []) :
    bellCommand s (.core h) rn v = .next s := by
  simp only [bellCommand]
  rw [if_neg (by simp [hready]), if_neg (by simp [hsb])]

/-- So does a tile controller's, which then goes on to its next instruction. -/
theorem bellCommand_tile {p : Site} {u : State} (hissue : canIssue (s.gr p.g) = true) (hsb : (s.gr p.g).sb = [])
    (hu : bellWrite s (.tile p) rn v = u) (hlost : (u.gr p.g).lost = []) :
    bellCommand s (.tile p) rn v = .next (u.modGr p.g (fun x => { x with pc := nextPc p })) := by
  simp only [bellCommand]
  rw [if_neg (by simp [hissue]), if_pos (by simp [hsb]), hu, tileDevice, if_pos (by simp [hlost])]

theorem bellCommand_tile_waits {p : Site} (hissue : canIssue (s.gr p.g) = true) (hsb : (s.gr p.g).sb ≠ []) :
    bellCommand s (.tile p) rn v = .next s := by
  simp only [bellCommand]
  rw [if_neg (by simp [hissue]), if_neg (by simp [hsb])]

/-- A host's doorbell acts where its link is up and nothing is held. -/
theorem bellCommand_host {h : HostLinkNo} (hup : (s.host h).dlup = true) (hfree : ideHeld s h = false) :
    bellCommand s (.host h) rn v = .next (bellWrite s (.host h) rn v) := by
  simp only [bellCommand]
  rw [if_neg (by simp [hup]), if_neg (by simp [hfree])]

end

/-- Settles O32: each command acts on the entry as it stands, which noting the command in CHM_RING_CMD leaves alone.
That the event of an overrun carries TAIL is log 63. -/
theorem ringCommandsAndDoorbellsComplete : Obligations.RingCommandsAndDoorbellsComplete := by
  refine ⟨?commands, ?bells⟩
  case commands =>
    rintro n s r q rfl rfl
    refine ⟨fun v hst => ⟨?word0, ?word1, ?word2, ?word3⟩, fun w v hst => ?inUse, fun hst hgood => ?enable, fun hbad => ?enableRefused,
      fun hst => ?pause, fun hst => ?resume, fun hst => ?pauseRefused, fun hst => ?resumeRefused, fun u hu hst => ?disable,
      fun hst => ?disableRefused⟩
    case word0 => exact congrArg Host.Outcome.next (writeRingWord_zero_off hst _)
    case word1 => exact congrArg Host.Outcome.next (writeRingWord_one_off hst _)
    case word2 => exact congrArg Host.Outcome.next (writeRingWord_readOnly_off hst 0 _)
    case word3 => exact congrArg Host.Outcome.next (writeRingWord_readOnly_off hst 1 _)
    case inUse => simp only [exec, execRingCfgWrite, writeRingWord_inUse hst, Fin.val_eq_zero_iff]
    case enable => exact congrArg Host.Outcome.next (ringEnableOp_permitted hst hgood)
    case enableRefused => exact congrArg Host.Outcome.next (ringEnableOp_refused hbad)
    case pause => exact congrArg Host.Outcome.next (ringPauseOp_active hst)
    case resume => exact congrArg Host.Outcome.next (ringResumeOp_paused hst)
    case pauseRefused => exact congrArg Host.Outcome.next (ringPauseOp_refused hst)
    case resumeRefused => exact congrArg Host.Outcome.next (ringResumeOp_refused hst)
    case disable => exact congrArg Host.Outcome.next (ringDisableOp_on hst hu)
    case disableRefused => exact congrArg Host.Outcome.next (ringDisableOp_refused hst)
  case bells =>
    rintro who n v s u r t rfl rfl hcases c hc
    have hexec : exec c s = bellCommand s who n.toNat v := by
      obtain rfl | rfl := hc <;> rfl
    have hbell : bellWrite s who n.toNat v = u := by
      obtain ⟨hupper, rfl⟩ | ⟨hcount, hsub, rfl⟩ | ⟨hcount, hsub, hst, rfl⟩ | ⟨hcount, hsub, hst, rfl⟩ |
        ⟨hcount, hsub, hoff, herror, htaken⟩ := hcases
      · exact bellWrite_upperSet hupper
      · exact bellWrite_stranger hcount hsub
      · exact bellWrite_off hcount hsub hst
      · exact bellWrite_error hcount hsub hst
      · rw [bellWrite_open hcount hsub hoff herror]
        obtain ⟨hkind, hback, rfl⟩ | ⟨hkind, hahead, hroom, rfl⟩ | ⟨hkind, hahead, hover, rfl⟩ | ⟨hkind, hfits, rfl⟩ |
          ⟨hkind, hover, rfl⟩ := htaken
        · rw [if_neg (by simp [hkind]), submitBell_behind hback]
        · rw [if_neg (by simp [hkind]), submitBell_ahead hahead hroom]
        · rw [if_neg (by simp [hkind]), submitBell_overrun hahead hover]
        · rw [if_pos hkind, returnBell_returned hfits]
        · rw [if_pos hkind, returnBell_excess hover]
    rw [hexec]
    refine ⟨?core, ?coreWaits, ?tile, ?tileWaits, ?host⟩
    case core =>
      rintro h rfl hready hsb hlost
      exact bellCommand_core hready hsb hbell hlost
    case coreWaits =>
      rintro h rfl hready hsb
      exact bellCommand_core_waits hready hsb
    case tile =>
      rintro p rfl hissue hsb hlost
      exact bellCommand_tile hissue hsb hbell hlost
    case tileWaits =>
      rintro p rfl hissue hsb
      exact bellCommand_tile_waits hissue hsb
    case host =>
      rintro h rfl hup hfree
      rw [bellCommand_host hup hfree, hbell]

end Sys2Proof
end

section
/-! Descriptors are fetched, fetched again, waited for and ended at the fetch unit (R343, R346, R348). -/

namespace Sys2Proof

open Sys2Proof.Machine

section

variable {s : State} {rn : Nat} {host : List Slot} {d : Slot} {u : State}

/-- A head slot with the lap that HEAD expects is taken with its continuation slots, and the fetch goes on behind them (R343). -/
theorem fetchSlots_taken {v : State} {cs : List Slot} {i fuel : Nat} (hleft : contSlots d < ((s.ring rn).tail - (s.ring rn).head).toNat)
    (hi : i < 16) (hroom : (s.rq rn).fetched.length < 16)
    (hread : readSlot s (s.ring rn) (s.ring rn).head.toNat host i = (.data d, u))
    (hlap : hdLap d = lapOf (s.ring rn) (s.ring rn).head.toNat)
    (hcont : readCont (contSlots d) u (s.ring rn) ((s.ring rn).head.toNat + 1) host (i + 1) = (.ok cs, v)) :
    fetchSlots (fuel + 1) s rn host i = fetchSlots fuel
      ((v.setRing rn { s.ring rn with head := (s.ring rn).head + BitVec.ofNat 32 (contSlots d + 1) }).setRq rn { s.rq rn with
        fetched := (s.rq rn).fetched ++ [{ idx := (s.ring rn).head, head := d, cont := cs, serial := (s.rq rn).count }]
        count := (s.rq rn).count + 1, stale := false, refetches := 0, returns := 0 }) rn host (i + 1 + contSlots d) := by
  rw [fetchSlots, if_neg (by omega)]
  simp only [hread, hcont]
  rw [if_neg (by simp [hlap]), if_neg (by omega)]

/-- A head slot with another lap is left to its re-fetches. -/
theorem fetchSlots_stale {i fuel : Nat} (hleft : 0 < ((s.ring rn).tail - (s.ring rn).head).toNat) (hi : i < 16)
    (hroom : (s.rq rn).fetched.length < 16) (hread : readSlot s (s.ring rn) (s.ring rn).head.toNat host i = (.data d, u))
    (hlap : hdLap d ≠ lapOf (s.ring rn) (s.ring rn).head.toNat) :
    fetchSlots (fuel + 1) s rn host i = u.setRq rn { s.rq rn with stale := true, refetches := 0, returns := 0 } := by
  rw [fetchSlots, if_neg (by omega)]
  simp only [hread]
  rw [if_pos hlap]

/-- A re-fetch that still finds another lap is counted; the 64th pauses the ring (R343). -/
theorem refetchReturn_stale (hread : readSlot s (s.ring rn) (s.ring rn).head.toNat host 0 = (.data d, u))
    (hlap : hdLap d ≠ lapOf (s.ring rn) (s.ring rn).head.toNat) : refetchReturn s rn host =
      if (s.rq rn).returns + 1 < 64 then u.setRq rn { s.rq rn with returns := (s.rq rn).returns + 1 }
      else ringEvent ((u.setRq rn { s.rq rn with stale := false, refetches := 0, returns := 0 }).setRing rn
        { s.ring rn with st := .paused }) rn 1 (s.ring rn).head.toNat := by
  simp only [refetchReturn, hread]
  rw [if_neg hlap]

/-- A ring from which descriptors are fetched is not empty. -/
theorem fetchable_left {r : Ring} (h : fetchable r = true) : 0 < (r.tail - r.head).toNat := by
  have hne : r.tail ≠ r.head := of_decide_eq_true (Bool.and_eq_true_iff.mp h).2
  bv_omega

end

section

variable {s : State} {n : RingNo}

/-- A fetch returns from a ring whose head slot is not stale. -/
theorem exec_descriptorFetchReturn_fresh (hfetch : fetchable (s.ring n.toNat) = true) (hstale : (s.rq n.toNat).stale = false)
    (host : List Slot) : exec (.descriptorFetchReturn n host) s = .next (fetchSlots 16 s n.toNat host 0) := by
  simp only [exec, execDescriptorFetchReturn, hstale]
  rw [if_neg (by simp [hfetch]), if_neg (by decide)]

/-- A re-fetch that is under way returns. -/
theorem exec_descriptorFetchReturn_again (hfetch : fetchable (s.ring n.toNat) = true) (hstale : (s.rq n.toNat).stale = true)
    (hissued : (s.rq n.toNat).returns < (s.rq n.toNat).refetches) (host : List Slot) :
    exec (.descriptorFetchReturn n host) s = .next (refetchReturn s n.toNat host) := by
  simp only [exec, execDescriptorFetchReturn, hstale]
  rw [if_neg (by simp [hfetch]), if_pos trivial, if_pos hissued]

/-- The fetch unit ends NOP and reserved operations itself (R346). -/
theorem exec_nop_startable {d : Desc} (hstart : startable s n.toNat (hdOp d.head) = some d)
    (hfront : (s.rq n.toNat).fetched.head? = some d) (hop : hdOp d.head = 0 ∨ 9 ≤ hdOp d.head) : exec (.nop n) s =
      .next (endAtStart s n.toNat d (if descBad (s.ring n.toNat) d.head || decide (body d.head ≠ 0) then 3 else 0)) := by
  obtain ⟨ds, hfetched⟩ := List.head?_eq_some_iff.mp hfront
  simp only [exec, execNop, hfetched, hstart]
  rw [if_pos hop]

end

/-- Settles O33. -/
theorem descriptorsAreFetchedAndWaited : Obligations.DescriptorsAreFetchedAndWaited := by
  rintro n s r q rfl rfl
  refine ⟨?taken, ?stale, ?again, ?refetch, ?waitMet, fun d hstart hfront hop => exec_nop_startable hstart hfront hop⟩
  case taken =>
    intro host d u v cs hfetch hstale hroom hread hlap hleft hcont
    rw [exec_descriptorFetchReturn_fresh hfetch hstale, fetchSlots_taken hleft (by decide) hroom hread hlap hcont, Nat.zero_add]
  case stale =>
    intro host d u hfetch hstale hroom hread hlap
    rw [exec_descriptorFetchReturn_fresh hfetch hstale, fetchSlots_stale (fetchable_left hfetch) (by decide) hroom hread hlap]
  case again =>
    intro host d u hfetch hstale hissued hread hlap
    rw [exec_descriptorFetchReturn_again hfetch hstale hissued, refetchReturn_stale hread hlap]
    refine ⟨fun hfew => ?_, fun hlast => ?_⟩
    · rw [if_pos (by omega)]
    · rw [if_neg (by omega)]
  case refetch =>
    intro hfetch hstale hmore
    exact if_pos (by simp [hfetch, hstale, hmore])
  case waitMet =>
    intro d ds hfetched hst hwait hopen hmet
    simp only [exec, execDescriptorWaitMet, hfetched]
    exact if_pos (by simp [hst, hwait, hopen, hmet])

end Sys2Proof
end

section
/-! Copy engines, movers and Fuller take their descriptors (R167, R205, R225, R350, R351, R354, R356). -/

namespace Sys2Proof

open Sys2Proof.Machine

/-! ### The dispatch's translation -/

section

variable {s : State} {rn va : Nat} {acc : Acc3} (hidle : xlatBusy s (.dispatch (s.ring rn).die.toNat 0) = false)
  (hscope : inScope s (s.ring rn).ctx.toNat va = false)

include hidle hscope

/-- A leaf at hand that gives the right tells where the destination lies (R351). -/
theorem dispatchKind_leaf {l : Leaf} (hleaf : findLeaf s (.dispatch (s.ring rn).die.toNat 0) (s.ring rn).ctx.toNat (va % 2 ^ 55) = some l)
    (hallows : leafAllows l acc = true) : dispatchKind s rn va acc =
      .kind (inboundPlace (s.ring rn).die.toNat (l.pbase + va % 2 ^ 55 % 2 ^ l.bits))
        (fillMicro s (.dispatch (s.ring rn).die.toNat 0) l) := by
  have hxlate : xlate s (.dispatch (s.ring rn).die.toNat 0) (s.ring rn).ctx.toNat va acc =
      (.ok (l.pbase + va % 2 ^ 55 % 2 ^ l.bits), fillMicro s (.dispatch (s.ring rn).die.toNat 0) l) := by
    simp only [xlate, hleaf, hallows]
    rfl
  simp [dispatchKind, hidle, hscope, hxlate]

/-- A context that is not valid refuses it, and the refusal is logged. -/
theorem dispatchKind_refused (hnone : findLeaf s (.dispatch (s.ring rn).die.toNat 0) (s.ring rn).ctx.toNat (va % 2 ^ 55) = none)
    (hctx : (s.ctxE (s.ring rn).ctx.toNat).v = false) : dispatchKind s rn va acc = .refused (s.logE
      { src := agentLogSrc (.dispatch (s.ring rn).die.toNat 0), unit := agentUnit (.dispatch (s.ring rn).die.toNat 0), kind := 0x10
        code := 6, ctx := some (s.ring rn).ctx.toNat, addr := va % 2 ^ 55 }) := by
  have hxlate := show xlate s (.dispatch (s.ring rn).die.toNat 0) (s.ring rn).ctx.toNat va acc = (.refused, _) by
    simp only [xlate, hnone, hctx]
    rfl
  simp [dispatchKind, hidle, hscope, hxlate]

end

/-! ### An operation of a copy engine -/

section

variable {s : State} {rn op : Nat} {d : Desc} {run : State → Nat → Job → State}

/-- A free engine of the ring's die takes the descriptor and the ring's context. -/
theorem startJob_free {kind k : Nat} (hfree : freeEngine s (s.ring rn).die.toNat kind = some k) : startJob s rn d kind run =
    .next (settleAll (run (takeStart s rn d) k { ring := rn, desc := d, ctx := (s.ring rn).ctx.toNat })) := by
  simp only [startJob, hfree]

/-- Where none is free it waits. -/
theorem startJob_none {kind : Nat} (hnone : freeEngine s (s.ring rn).die.toNat kind = none) : startJob s rn d kind run = .next s := by
  simp only [startJob, hnone]

variable (hstart : startable s rn op = some d)

include hstart

/-- A form that breaks its rules ends at its start with invalid status. -/
theorem startCopyOp_bad (hbad : descBad (s.ring rn) d.head = true ∨ copyOpBad s d = true) :
    startCopyOp s rn op run = .next (endAtStart s rn d 3) := by
  simp only [startCopyOp, hstart]
  exact if_pos (Bool.or_eq_true_iff.mpr hbad)

variable (hform : descBad (s.ring rn) d.head = false) (hbody : copyOpBad s d = false)

include hform hbody

/-- A dispatch that the context does not allow ends the descriptor. -/
theorem startCopyOp_refused {u : State} (hkind : dispatchKind s rn (copyOpDest d.head).1 (copyOpDest d.head).2 = .refused u) :
    startCopyOp s rn op run = .next (endAtStart u rn d 0x0E) := by
  simp only [startCopyOp, hstart, hkind]
  exact if_neg (by simp [hform, hbody])

/-- A descriptor whose direction is known goes to an engine of that direction in its ring's turn, and waits otherwise. -/
theorem startCopyOp_kind {u : State} {inbound : Bool} {die kind : Nat} (hdie : die = (s.ring rn).die.toNat)
    (hdir : kind = if inbound then 0 else 1)
    (hkind : dispatchKind s rn (copyOpDest d.head).1 (copyOpDest d.head).2 = .kind inbound u) : startCopyOp s rn op run =
      if copyTurn s die (decide (kind = 0)) = some rn ∧ (freeEngine s die kind).isSome then
        startJob (setServed u die kind rn) rn d kind run
      else .next u := by
  have hinbound : decide (kind = 0) = inbound := by
    subst hdir
    cases inbound <;> rfl
  rw [hinbound]
  subst hdie hdir
  simp only [startCopyOp, hstart, hkind]
  exact if_neg (by simp [hform, hbody])

end

/-- The four operations of a copy engine start alike (R350). -/
theorem exec_copyOp {n : RingNo} {c : Instr} {op : Nat} {run : State → Nat → Job → State}
    (hc : c = .copy n ∧ op = 1 ∧ run = copyRun ∨ c = .inlineOp n ∧ op = 2 ∧ run = inlineRun ∨ c = .reduce n ∧ op = 3 ∧ run = reduceRun ∨
      c = .atomic n ∧ op = 8 ∧ run = atomicRun) (s : State) : exec c s = startCopyOp s n.toNat op run := by
  obtain ⟨rfl, rfl, rfl⟩ | ⟨rfl, rfl, rfl⟩ | ⟨rfl, rfl, rfl⟩ | ⟨rfl, rfl, rfl⟩ := hc <;> rfl

/-! ### TILEMOVE and FULLER -/

section

variable {s : State} {n : RingNo} {d : Desc}

/-- A TILEMOVE that keeps its rules goes to a mover of its die (R167). -/
theorem exec_tilemove_startable (hstart : startable s n.toNat 4 = some d) : exec (.tilemove n) s =
    if descBad (s.ring n.toNat) d.head || tileBad s d then .next (endAtStart s n.toNat d 3) else startJob s n.toNat d 2 tileRun := by
  simp only [exec, execTilemove, hstart]

variable {die k : Nat} {tb : List W32} (hdie : die = (s.ring n.toNat).die.toNat) (hk : k = jobKey die 3 0)
  (htb : tb = copyTable s (fuTable d.head)) (hstart : startable s n.toNat 6 = some d)

include hstart

/-- A FULLER whose header breaks its rules ends at its start. -/
theorem exec_fuller_bad (hbad : descBad (s.ring n.toNat) d.head = true) :
    exec (.fuller n) s = .next (endAtStart s n.toNat d 3) := by
  simp only [exec, execFuller, hstart]
  exact if_pos hbad

variable (hform : descBad (s.ring n.toNat) d.head = false)

include hdie hk hform

/-- While the die's units are busy, or another ring has its turn, it waits (R205). -/
theorem exec_fuller_waits (hbusy : (s.job k).isSome = true ∨ fullerTurn s die ≠ some n.toNat) : exec (.fuller n) s = .next s := by
  subst hdie hk
  simp only [exec, execFuller, hstart]
  rw [if_neg (by simp [hform]), if_pos (by simpa using hbusy)]

include htb

/-- In its turn it is taken; a body that breaks its rules ends with invalid status, and any other is accepted (R225). -/
theorem exec_fuller_taken (hfree : s.job k = none) (hturn : fullerTurn s die = some n.toNat) : exec (.fuller n) s =
    if fullerBad d.head tb (s.ring n.toNat).ctx.toNat then .next (endAtStart (setServed s die 3 n.toNat) n.toNat d 3)
    else .next (settleAll (fullerRun (fulStatAll (takeStart (setServed s die 3 n.toNat) n.toNat d) die
      (fulAccept (fuTable d.head) (s.ring n.toNat).ctx.toNat)) k
      { ring := n.toNat, desc := d, ctx := (s.ring n.toNat).ctx.toNat, table := tb })) := by
  subst hdie hk htb
  simp only [exec, execFuller, hstart]
  rw [if_neg (by simp [hform]), if_neg (by simp [hfree, hturn])]

end

/-- Settles O34. The turn of a ring and the lowest free engine (log 115, log 144) lie in copyTurn, fullerTurn and freeEngine. -/
theorem enginesTakeTheirDescriptors : Obligations.EnginesTakeTheirDescriptors := by
  refine ⟨?copy, ?tilemove, ?fuller⟩
  case copy =>
    rintro n s d r c op run rfl hc hstart
    rw [exec_copyOp hc]
    refine ⟨fun hbad => startCopyOp_bad hstart hbad, ?dispatched⟩
    rintro va acc die hform hbody hdest rfl hidle hscope
    refine ⟨?leaf, ?refused⟩
    case leaf =>
      rintro l kind u hleaf hallows rfl hdir
      have hkind := dispatchKind_leaf (acc := acc) hidle hscope hleaf hallows
      have hstarts := startCopyOp_kind (run := run) hstart hform hbody rfl hdir (by rw [hdest]; exact hkind)
      refine ⟨fun k hturn hfree => ?taken, fun hwaits => ?waits⟩
      case taken =>
        rw [hstarts, if_pos ⟨hturn, by simp [hfree]⟩]
        exact startJob_free hfree
      case waits =>
        rw [hstarts, if_neg (fun h => hwaits.elim (fun hturn => hturn h.1) (fun hnone => by simp [hnone] at h))]
    case refused =>
      rintro hnone hctx u rfl
      exact startCopyOp_refused hstart hform hbody (by rw [hdest]; exact dispatchKind_refused hidle hscope hnone hctx)
  case tilemove =>
    rintro n s d r rfl hstart
    rw [exec_tilemove_startable hstart]
    refine ⟨fun hform hbody => ?good, fun hbad => ?bad⟩
    case good =>
      rw [if_neg (by simp [hform, hbody])]
      exact ⟨fun k hfree => startJob_free hfree, fun hnone => startJob_none hnone⟩
    case bad => exact if_pos (Bool.or_eq_true_iff.mpr hbad)
  case fuller =>
    rintro n s u d r die k tb rfl hdie hk htb rfl hstart
    refine ⟨fun hbad => exec_fuller_bad hstart hbad, fun hform hbusy => exec_fuller_waits hdie hk hstart hform hbusy,
      fun hform hfree hturn => ⟨fun hbad => ?bad, fun hgood => ?good⟩⟩
    case bad =>
      rw [exec_fuller_taken hdie hk htb hstart hform hfree hturn, if_pos hbad]
      rfl
    case good => rw [exec_fuller_taken hdie hk htb hstart hform hfree hturn, if_neg (by simp [hgood])]

end Sys2Proof
end

section
/-! Host links come up, return and are lost (R366, R367, R370, R374, R382, R383, R534). -/

namespace Sys2Proof

open Sys2Proof.Machine

/-! ### A link comes up -/

/-- A link that may train at its rate and width is up: its CXL.cache agent serves again unless its walk is still under way (log 38), the
partners are told, and the generation word is asked for (R366, R383). -/
theorem exec_hostLinkUp_trained {h : HostLinkNo} {speed : BitVec 3} {width : BitVec 5} {flit cxl on : Bool} {s u v : State}
    (hspeed : speed.toNat ≤ 5) (hdown : (s.host h).dlup = false) (htrain : mayTrain s h speed.toNat = true)
    (hwidth : widthOk s h width.toNat = true) (hon : (cxl && decide (h = 0) && (s.port 0).cxl && decide (speed = 5) && flit) = on)
    (hu : u = s.setHost h { s.host h with
      dlup := true, speed := speed, width := width, flit := flit, cxlup := on, lost := false, seen := true })
    (hv : v = if on && !(u.coh.walking.getLsbD 13) then { u with coh := { u.coh with dead := u.coh.dead &&& ~~~(bitMask 13) } } else u) :
    exec (.hostLinkUp h speed width flit cxl) s = .next (settleAll
      (askGen (partnerEvent (setReady v (28 + h.val) true) .hlk (if (s.host h).seen then 3 else 1) h 0) h)) := by
  subst hon hu hv
  simp only [exec, execHostLinkUp]
  rw [if_neg (Nat.not_lt.mpr hspeed), if_neg (by simp [hdown, htrain, hwidth])]

/-! ### The generation word -/

section

variable {h : HostLinkNo} {s u : State} (hreading : (s.host h).genReading = true)
  (hu : u = s.setHost h { s.host h with genReading := false })

include hreading hu

theorem exec_genWordReadDone_none : exec (.genWordReadDone h none) s = .next u := by
  simp only [exec, execGenWordReadDone]
  rw [if_neg (by simp [hreading]), hu]

/-- The word that comes is kept; after a loss it decides whether the host's rings go on (Table 11.14). -/
theorem exec_genWordReadDone_some {t : State} (v : W64) (ht : t = u.setHost h { s.host h with genReading := false, genSeen := v }) :
    exec (.genWordReadDone h (some v)) s = .next (if (s.host h).suspended then
      (if v = (s.host h).genSeen then resumeRings t h else staleHost t h) else t) := by
  have hkept : u.setHost h { u.host h with genSeen := v } = t := by rw [ht, hu, State.setHost_same]
  simp only [exec, execGenWordReadDone]
  rw [if_neg (by simp [hreading]), ← hu, hkept]
  cases (s.host h).suspended <;> simp

end

/-! ### A host is lost -/

/-- A count that has not reached its top is raised by one. -/
theorem satAdd_one_of_lt {w : Nat} {c : BitVec w} {n : Nat} (hc : c.toNat < n) (hn : n < 2 ^ w) : satAdd c 1 = c + 1 := by
  rw [satAdd, satNat, if_pos (by omega), BitVec.ofNat_add, BitVec.ofNat_toNat, BitVec.setWidth_eq]
  rfl

/-- What the loss of a host whose link was up does (R367, R382, Table 11.14). -/
theorem hostLost_up {s t u : State} {h : HostLinkNo} {cause : Nat} (hup : (s.host h).dlup = true) (hcount : (s.host h).downcnt.toNat < 255)
    (ht : t = s.setHost h { s.host h with
      dlup := false, speed := 0, width := 0, flit := false, cxlup := false, ide := .none, ideSel := .none, ideCxl := .none
      lost := true, suspended := true, cause := BitVec.ofNat 3 cause, downcnt := (s.host h).downcnt + 1, timeouts := 0
      genReading := false, heldTlps := [], snoops := [] })
    (hu : u = failHostReads (failHostJobs (holdRings
      (partnerEvent (setReady (dropSessions t h) (28 + h.val) false) .hlk 2 h cause) h) h) h) :
    hostLost s h cause = settleAll (if (s.host h).cxlup then dropHosted (declareDead u 13) else u) := by
  rw [← satAdd_one_of_lt hcount (by decide)] at ht
  subst ht hu
  exact if_neg (by simp [hup])

/-- A secure stream found insecure loses its host with cause 5 (Table 12.7). -/
theorem exec_ideInsecure_secure {h : HostLinkNo} {stream : IdeStream} {s : State} (hup : (s.host h).dlup = true)
    (hsecure : (s.host h).stream stream = .secure) : exec (.ideInsecure ⟨h, stream⟩) s = .next (hostLost s h 5) :=
  if_pos ⟨hup, hsecure⟩

/-- PERST# holds the link; where the pin is that of the link's own port the host is lost as well (R370). -/
theorem exec_perstAssert_eq (h : HostLinkNo) (s : State) : exec (.perstAssert h) s =
    .next (if perstHeeded s h then hostLost (s.setHost h { s.host h with perst := true }) h 1
      else s.setHost h { s.host h with perst := true }) := rfl

theorem perstHeeded_iff (s : State) (h : Nat) : perstHeeded s h = true ↔ h % 2 = 0 ∨ (s.port (h / 2)).bifur = true := by
  simp [perstHeeded]

/-- A request unanswered for 225,000 ticks fails; the third in a row loses the host (R382). -/
theorem exec_hostRequestTimeout_due {id n : Nat} {s u : State} {r : OutReq} (hreq : reqOf s id = some r) (hhost : r.toHost = true)
    (hfree : heldAt s r.target id = false) (hdue : 225000 ≤ s.elapsed - r.since) (hn : n = (s.host r.target).timeouts + 1)
    (hu : u = giveErr (s.setHost r.target { s.host r.target with timeouts := n }) r .hostLost false) :
    exec (.hostRequestTimeout id) s = .next (settleAll (if 3 ≤ n then hostLost u r.target 3 else u)) := by
  subst hn hu
  simp only [exec, execHostRequestTimeout, hreq]
  exact if_neg (by simp [hhost, hfree, Nat.not_lt.mpr hdue])

/-- Settles O44. When the CXL.cache agent serves again is log 38, what becomes of the PAUSED rings is log 39. -/
theorem hostsComeReturnAndAreLost : Obligations.HostsComeReturnAndAreLost := by
  refine ⟨⟨?up, ?word⟩, ?causes, ?snoop, ?request, ?lost⟩
  case up =>
    rintro h speed width flit cxl on s u v l rfl hspeed hdown htrain hwidth hon hu hv
    have hcxl : (cxl && decide (h = 0) && (s.port 0).cxl && decide (speed = 5) && flit) = on :=
      Bool.eq_iff_iff.mpr (by simp [hon, and_assoc])
    have hwalking : u.coh.walking = s.coh.walking := by rw [hu]; rfl
    exact exec_hostLinkUp_trained hspeed hdown htrain hwidth hcxl hu
      (hv.trans (ite_congr (by simp [hwalking]) (fun _ => rfl) (fun _ => rfl)))
  case word =>
    rintro h s u l v rfl hreading hu
    refine ⟨exec_genWordReadDone_none hreading hu, fun hup => ?_, fun hsuspended => ?_⟩
    · rw [exec_genWordReadDone_some hreading hu v rfl, if_neg (by simp [hup])]
    · rw [exec_genWordReadDone_some hreading hu v rfl, if_pos hsuspended]
  case causes =>
    intro h s
    refine ⟨fun hup => if_pos hup, rfl, fun stream hup hsecure => exec_ideInsecure_secure hup hsecure, fun hown => ?own,
      fun hupper hwhole => ?other, fun hperst => if_pos hperst⟩
    case own => rw [exec_perstAssert_eq, if_pos ((perstHeeded_iff s h).mpr hown)]
    case other => rw [exec_perstAssert_eq, if_neg (by simp [perstHeeded_iff, hupper, hwhole])]
  case snoop =>
    intro line s e hfind hlate
    simp only [exec, execHostSnoopTimeout, hfind]
    exact if_pos hlate
  case request =>
    intro id s u r n hreq hhost hfree hdue hn hu
    exact exec_hostRequestTimeout_due hreq hhost hfree hdue hn hu
  case lost =>
    intro h s t u cause hup _ hcount ht hu
    exact hostLost_up hup hcount ht hu

end Sys2Proof
end

section
/-! Hellos and the peers they keep alive (R385 to R389, R430), and the timebase (R431, R433). -/

namespace Sys2Proof

open Sys2Proof.Machine

/-! ### Hellos -/

/-- A hello comes on a trained link with keys, of the known version, with its reserved fields 0, from the module the link attested
(R386, Table 12.10). -/
structure PeerHello (s : State) (f : FlueLinkNo) (p : BitVec 256) : Prop where
  trained : trainedSt (s.fl f).st = true
  keyed : (s.fl f).keyed = true
  version : field p.toNat 0 8 = 1
  afterPosition : field p.toNat 18 14 = 0
  afterPolicy : field p.toNat 48 16 = 0
  afterMaster : field p.toNat 231 25 = 0
  sender : BitVec.ofNat 64 (field p.toNat 160 64) = (s.fl f).idh

/-- A hello is sent to be a member's or a founder's with its position, else without one (R385, R386). -/
theorem exec_helloSend_due {s : State} (hdue : 2250000 ≤ s.elapsed - s.group.lastHello) {pv : Bool}
    (hpv : pv = true ↔ s.group.gst = .member ∨ s.group.gst = .forming) :
    exec .helloSend s = .next (flueSendAll { s with group := { s.group with lastHello := s.elapsed, helloSeq := s.group.helloSeq + 1 } }
      ((trainedLinks s).filter (fun f => (s.fl f).keyed))
      (.hello [1, helloRole s, boolNat pv, if pv then s.group.mypos.toNat else 0, s.kindle.gpv.toNat, s.group.helloSeq.toNat,
        s.tick.toNat, Config.ownIdh.toNat, s.group.mpos.toNat, boolNat s.group.mv])) := by
  obtain rfl : pv = (decide (s.group.gst = .member) || decide (s.group.gst = .forming)) := Bool.eq_iff_iff.mpr (by simp [hpv])
  exact if_neg (Nat.not_lt.mpr hdue)

/-- What a hello that is no goodbye leaves of the link, of its sender, and of a returning module that hears a member, which joins by the
master that it names (R387, R428; log 34). -/
def helloHeard (s : State) (f : Nat) (idh : W64) (p : Nat) : State :=
  let v := helloPeer s f idh (bitAt p 11) (field p 12 6) (decide (field p 8 3 = 2))
  if field p 8 3 = 1 ∧ bitAt p 230 = true then joinGroup v (field p 224 6) else v

theorem helloHeard_of_not_member {p : Nat} (hrole : field p 8 3 ≠ 1) (s : State) (f : Nat) (idh : W64) :
    helloHeard s f idh p = helloPeer s f idh (bitAt p 11) (field p 12 6) (decide (field p 8 3 = 2)) :=
  if_neg (fun h => hrole h.left)

theorem helloHeard_of_member {p : Nat} (hrole : field p 8 3 = 1) (s : State) (f : Nat) (idh : W64) :
    helloHeard s f idh p = if bitAt p 230 then joinGroup (helloPeer s f idh (bitAt p 11) (field p 12 6) false) (field p 224 6)
      else helloPeer s f idh (bitAt p 11) (field p 12 6) false := by
  simp [helloHeard, hrole]

section

variable {f : FlueLinkNo} {p : BitVec 256} {s : State} (hello : PeerHello s f p) (hrole : field p.toNat 8 3 ≤ 3)

include hello hrole

/-- A module not yet a peer, of another policy, is refused (R385). -/
theorem exec_hello_otherPolicy (hnew : peerOf s (s.fl f).idh = none) (hpolicy : field p.toNat 32 16 ≠ s.kindle.gpv.toNat) :
    exec (.hello f p) s = .next (partnerEvent s .flu 0x15 (field p.toNat 12 6) 0) := by
  obtain ⟨htrained, hkeyed, hversion, hpos, hpol, hmaster, hsender⟩ := hello
  simp [exec, execHello, htrained, hkeyed, hversion, hpos, hpol, hmaster, hsender, hrole, hnew, hpolicy]

/-- A goodbye departs the peer; any other hello is heard, and one of a member that names another master than this member's takes an UP
link back (R387, R388, R430). -/
theorem exec_hello_known (hknown : (peerOf s (s.fl f).idh).isSome = true ∨ field p.toNat 32 16 = s.kindle.gpv.toNat) {v : State}
    (hv : v = helloHeard s f (s.fl f).idh p.toNat) :
    exec (.hello f p) s =
      if field p.toNat 8 3 = 3 then .next (settleAll (peerGone s (s.fl f).idh true))
      else if isMember v && decide (field p.toNat 8 3 = 1) && v.group.mv && bitAt p.toNat 230 &&
          decide (field p.toNat 224 6 ≠ v.group.mpos.toNat) then
        .next (State.logTag (if (v.fl f).st = .up then putFl v f { v.fl f with st := .ctrlonly } else v) .flu f 430 (field p.toNat 224 6))
      else .next v := by
  obtain ⟨htrained, hkeyed, hversion, hpos, hpol, hmaster, hsender⟩ := hello
  have hadmitted : ¬ ((peerOf s (s.fl f).idh).isNone = true ∧ field p.toNat 32 16 ≠ s.kindle.gpv.toNat) := by
    rintro ⟨hnew, hother⟩
    exact hknown.elim (by simp [Option.isNone_iff_eq_none.mp hnew]) hother
  subst hv
  simp only [exec, execHello, hsender]
  rw [if_neg (by simp [htrained, hkeyed]), if_neg (by simp [hversion, hpos, hpol, hmaster, hrole]), if_neg hadmitted]
  rfl

end

/-- A peer without a hello for 6,750,001 ticks is dead (R387). -/
theorem exec_peerWatchdogExpiry_due {idh : W64} {s : State} {x : Peer} (hpeer : peerOf s idh = some x)
    (hdue : 6750001 ≤ s.elapsed - x.last) : exec (.peerWatchdogExpiry idh) s = .next (settleAll (peerGone s idh false)) := by
  simp only [exec, execPeerWatchdogExpiry, hpeer]
  exact if_pos hdue

/-! ### The timebase -/

/-- A tick (log 66), after its misses (log 116), its vector work (log 15) and its array errors (log 54): what the count does where the
reference is locked (R431, R433). -/
theorem exec_timebaseTick {upset : Option ArrayUpset} {s w u : State}
    (hw : w = upset.elim (vecRunAll (missesTo s 16383)) (arrayUpset (vecRunAll (missesTo s 16383))))
    (hu : u = offerDue (runBursts { w with elapsed := w.elapsed + 1 })) :
    exec (.timebaseTick upset) s =
      if !u.power.clk.rlock then .next u
      else if u.group.tbHold then
        .next { u with group := { u.group with slew := u.group.slew + 1, tbHold := decide (u.group.slew + 1 < 0) } }
      else if u.group.slew ≠ 0 ∧ 4096 ≤ u.elapsed - u.group.slewFrom then
        .next (if 0 < u.group.slew then
          { u with tick := u.tick + 2, group := { u.group with slew := u.group.slew - 1, slewFrom := u.elapsed } }
          else { u with group := { u.group with slew := u.group.slew + 1, slewFrom := u.elapsed } })
      else .next { u with tick := u.tick + 1 } := by
  subst hw
  cases upset with
  | none | some =>
    simp only [Option.elim] at hu
    simp only [exec, execTimebaseTick, ← hu]
    by_cases hlags : 0 < u.group.slew
    · simp only [hlags, decide_true, if_true]
    · simp only [hlags, decide_false, if_false, Bool.false_eq_true]

/-- Settles O41. What comes before the count in a tick and in what order is logs 15, 54, 66 and 116, what a follower makes of a count is
log 82, that a returning module joins by the hello of a member is log 34. -/
theorem hellosAndTheTimebase : Obligations.HellosAndTheTimebase := by
  refine ⟨⟨?send, ?hears, ?dead⟩, ?tick, ?syncSend, ?sync⟩
  case send => exact fun s pv hdue hpv => exec_helloSend_due hdue hpv
  case hears =>
    rintro f p s l rfl htrained hkeyed hversion hpos hpol hmaster hsender
    have hello : PeerHello s f p := ⟨htrained, hkeyed, hversion, hpos, hpol, hmaster, hsender⟩
    refine ⟨fun hknown => ⟨fun hrole => ?goodbye, fun hrole => ?outside, ?member⟩,
      fun hnew hrole hpolicy => exec_hello_otherPolicy hello hrole hnew hpolicy⟩
    case goodbye => rw [exec_hello_known hello (by omega) hknown rfl, if_pos hrole]
    case outside =>
      have hnot : field p.toNat 8 3 ≠ 1 := by omega
      rw [exec_hello_known hello (by omega) hknown rfl, if_neg (by omega), if_neg (by simp [hnot]), helloHeard_of_not_member hnot]
    case member =>
      intro hrole v hv
      rw [exec_hello_known hello (by omega) hknown (hv.trans (helloHeard_of_member hrole s f _).symm), if_neg (by omega)]
      refine ⟨fun hagrees => if_neg ?_, fun hmember hmv hnames hother => if_pos ?_⟩
      · rcases hagrees with h | h | h | h <;> simp [h]
      · simp [hmember, hrole, hmv, hnames, hother]
  case dead => exact fun idh s x hpeer hdue => exec_peerWatchdogExpiry_due hpeer hdue
  case tick =>
    intro upset s w u hw hu
    rw [exec_timebaseTick hw hu]
    refine ⟨fun hlost => if_pos (by simp [hlost]), fun hlock hrises hsteady => ?rises, fun hlock hheld => ?held,
      fun hlock hrises hlags hdue => ?lags, fun hlock hrises hleads hdue => ?leads⟩
    case rises => rw [if_neg (by simp [hlock]), if_neg (by simp [hrises]), if_neg (by omega)]
    case held => rw [if_neg (by simp [hlock]), if_pos hheld]
    case lags => rw [if_neg (by simp [hlock]), if_neg (by simp [hrises]), if_pos ⟨by omega, hdue⟩, if_pos hlags]
    case leads => rw [if_neg (by simp [hlock]), if_neg (by simp [hrises]), if_pos ⟨by omega, hdue⟩, if_neg (by omega)]
  case syncSend =>
    intro s hmaster hdue
    exact if_neg (by simp [hmaster, Nat.not_lt.mpr hdue])
  case sync =>
    intro f count s u htrained
    refine ⟨fun hnone => ?stays, fun hmaster hgroup hu => ?follows⟩
    case stays =>
      simp only [exec, execSync]
      rw [if_neg (by simp [htrained]), if_pos (by simpa using hnone)]
    case follows =>
      subst hu
      simp only [exec, execSync]
      rw [if_neg (by simp [htrained]), if_neg (by simpa [hmaster] using fun h => hgroup.resolve_left h)]

end Sys2Proof
end

section
/-! What a host says of its link and of the module's requests, and a host's accesses to the module (R246, R371, R375 to R378, R380, R382,
R533 to R535). -/

namespace Sys2Proof

open Sys2Proof.Machine

/-! ### Secure streams and completions -/

/-- A stream that becomes secure lets what was held go out in order (R533, R534); the CXL stream needs CXL on its link (R535, log 151). -/
theorem exec_ideKm_up {h : HostLinkNo} {stream : IdeStream} {s : State} (hup : (s.host h).dlup = true)
    (hcxl : stream = .cxl → (s.host h).cxlup = true) :
    exec (.ideKm ⟨h, stream⟩) s = .next ((s.host h).heldTlps.foldl (fun s t => releaseTlp s h t)
      (s.setHost h { (s.host h).secureStream stream with heldTlps := [] })) := by
  have hno : ¬ (!(s.host h).dlup || (decide (stream = .cxl) && !(s.host h).cxlup)) = true := by simpa [hup] using hcxl
  exact if_neg hno

section

variable {id : Nat} {s : State} {r : OutReq} (hreq : reqOf s id = some r) (hhost : r.toHost = true) (hissued : heldAt s r.target id = false)

include hreq hhost hissued

/-- An unsuccessful completion ends its request as the loss of its host does (log 41). -/
theorem exec_hostCompletion_unsuccessful (data : List Byte) :
    exec (.hostCompletion id false data) s = .next (settleAll (giveErr s r .hostLost false)) := by
  simp [exec, execHostCompletion, hreq, hhost, hissued]

variable {v : State} (hv : v = s.setHost r.target { s.host r.target with timeouts := 0 })

include hv

/-- The data of a read or an atomic goes to its requester, and the run of timeouts ends (R382). -/
theorem exec_hostCompletion_data {data : List Byte} (hlen : data.length = r.len) (hsome : r.len ≠ 0) :
    exec (.hostCompletion id true data) s = .next (settleAll (giveData v r data)) := by
  simp [exec, execHostCompletion, hreq, hhost, hissued, hlen, hsome, hv, modHost]

/-- A zero-length read returns to the job that flushes with it; without such a job it is only dropped (R365, R382). -/
theorem exec_hostCompletion_empty (hempty : r.len = 0) :
    (∀ k j, agentJob r.agent = some k → v.job k = some j →
      exec (.hostCompletion id true []) s = .next (flushReturned v k j r.target id)) ∧
    ((agentJob r.agent).bind v.job = none → exec (.hostCompletion id true []) s = .next (dropReq v id)) := by
  subst hv
  have hpasses : (!r.toHost || heldAt s r.target id) = false := by simp [hhost, hissued]
  simp only [exec, execHostCompletion, hreq, hpasses, hempty, modHost, List.length_nil, ne_eq, not_true_eq_false, Bool.not_true,
    Bool.false_eq_true, if_false, if_true]
  refine ⟨fun k j hagent hjob => ?runs, fun hnone => ?gone⟩
  case runs => simp only [hagent, hjob]
  case gone =>
    cases hagent : agentJob r.agent with
    | none => rfl
    | some k =>
      rw [hagent, Option.bind_some] at hnone
      simp only [hnone]

end

/-! ### The MSI-X table -/

section

variable {h : HostLinkNo} {s : State} (hup : (s.host h).dlup = true)

include hup

/-- The function mask holds every vector of its link back, and clearing it sends what was held back (R380). -/
theorem exec_msiXTableWrite_mask (on : Bool) :
    exec (.msiXTableWrite h (.functionMask on)) s = .next (if on then s.setHost h { s.host h with fmask := on }
      else sendPending (s.setHost h { s.host h with fmask := on }) h ((s.host h).msix.map (·.1))) :=
  if_neg (by simp [hup])

/-- A write of the table is refused while no stream is secure where one is asked for (log 42); the pending bits are read-only; an entry
takes its address or its data and mask, and its vector sends what it holds back no longer (R375, R380, R534). -/
theorem exec_msiXTableWrite_table {off : BitVec 16} (halign : off.toNat % 8 = 0) {value : W64} {x y : MsixVec}
    (hx : x = Tab.get {} (s.host h).msix (off.toNat / 16)) (hy : y = if off.toNat % 16 = 0 then { x with addr := value }
      else { x with data := BitVec.ofNat 32 value.toNat, masked := bitAt value.toNat 32 }) :
    exec (.msiXTableWrite h (.table off value)) s =
      if ideHeld s h then .next (barRefused s h off.toNat)
      else if 0x8000 ≤ off.toNat then .next s
      else .next (sendPending
        (s.setHost h { s.host h with msix := Tab.put {} (s.host h).msix (off.toNat / 16) y }) h [off.toNat / 16]) := by
  subst hx hy
  simp only [exec, execMsiXTableWrite]
  rw [if_neg (by simp [hup]), if_neg (by omega)]

/-! ### Accesses to memory -/

/-- A TLP within its limits on a trained link is taken (R371). -/
theorem tlpRun_up {off len most : Nat} (hlen : 0 < len) (hmost : len ≤ most) (hpage : off % 4096 + len ≤ 4096) (run : Res) :
    tlpRun s h off len most run = run := by
  rw [tlpRun, if_neg (by omega), if_neg (by simp [hup])]

/-- An aligned AtomicOp lies within 4 KiB. -/
theorem tlpRun_aligned {off n : Nat} (hn : n = 4 ∨ n = 8 ∨ n = 16) (halign : off % n = 0) (run : Res) : tlpRun s h off n 16 run = run :=
  tlpRun_up hup (by omega) (by omega) (by obtain rfl | rfl | rfl := hn <;> omega) run

/-- An aligned AtomicOp of 4 or 8 bytes is left to its window (R246, R371). -/
theorem atomicRun_narrow {lg : BitVec 3} {n off : Nat} (hlg : lg = 2 ∨ lg = 3) (hn : n = 2 ^ lg.toNat) (halign : off % n = 0)
    (op : HostOp) (wide run : Res) : (if lg.toNat < 2 ∨ 4 < lg.toNat ∨ off % n ≠ 0 ∨ (lg = 4 ∧ op ≠ .cas) then .fault .illFormed
      else tlpRun s h off n 16 (if lg = 4 then wide else run)) = run := by
  obtain rfl | rfl := hlg
  · rw [if_neg (by simp [halign]), tlpRun_aligned hup (.inl hn) halign, if_neg (by decide)]
  · rw [if_neg (by simp [halign]), tlpRun_aligned hup (.inr (.inl hn)) halign, if_neg (by decide)]

end

/-- Settles O45. That the CXL stream lets go what was held as the others do is log 151, that the table is refused without a secure stream
is log 42, what an unsuccessful completion does is log 41. -/
theorem hostAccessesCompletionsAndVectors : Obligations.HostAccessesCompletionsAndVectors := by
  refine ⟨⟨?streams, ?completions, ?vectors⟩, ?accesses⟩
  case streams =>
    rintro h s l rfl hup
    exact ⟨exec_ideKm_up hup nofun, exec_ideKm_up hup nofun, fun hcxl => exec_ideKm_up hup (fun _ => hcxl)⟩
  case completions =>
    intro id s r hreq hhost hissued
    refine ⟨fun data hlen hsome => exec_hostCompletion_data hreq hhost hissued rfl hlen hsome,
      fun v hv hempty => exec_hostCompletion_empty hreq hhost hissued hv hempty,
      fun data => exec_hostCompletion_unsuccessful hreq hhost hissued data⟩
  case vectors =>
    rintro h s l rfl hup
    refine ⟨exec_msiXTableWrite_mask hup true, exec_msiXTableWrite_mask hup false, fun off v halign hheld => ?refused,
      fun off v halign hfree hpending => ?pendingBits, ?entry⟩
    case refused => rw [exec_msiXTableWrite_table hup halign rfl rfl, if_pos hheld]
    case pendingBits => rw [exec_msiXTableWrite_table hup halign rfl rfl, if_neg (by simp [hfree]), if_pos hpending]
    case entry =>
      rintro off v x hfree htable rfl
      refine ⟨fun haddr => ?_, fun y hy hdata => ?_⟩
      · rw [exec_msiXTableWrite_table hup (by omega) rfl (if_pos haddr).symm, if_neg (by simp [hfree]), if_neg (by omega)]
      · rw [exec_msiXTableWrite_table hup (by omega) rfl (hy.trans (if_neg (by omega)).symm), if_neg (by simp [hfree]), if_neg (by omega)]
  case accesses =>
    intro h off ide s u pa ctx hup
    refine ⟨?write, ?read, ?atomic, ?atomicRefused, ?wideCas, fun o => if_pos hup⟩
    case write =>
      intro data hlen hmost hpage
      refine ⟨fun hadmit hwrite => ?_, fun hnone => ?_⟩
      · simp only [exec, execHostInboundWrite, tlpRun_up hup hlen hmost hpage, hadmit, hwrite]
      · simp only [exec, execHostInboundWrite, tlpRun_up hup hlen hmost hpage, hnone]
    case read =>
      intro len bs hlen hmost hpage
      refine ⟨fun hadmit hread => ?_, fun hnone => ?_⟩
      · simp only [exec, execHostInboundRead, tlpRun_up hup hlen hmost hpage, hadmit, hread]
      · simp only [exec, execHostInboundRead, tlpRun_up hup hlen hmost hpage, hnone]
    case atomic =>
      intro op lg v c old n hlg hn halign hadmit hatomic
      simp only [exec, execHostAtomicop, ← hn, hadmit, hatomic]
      exact atomicRun_narrow hup hlg hn halign op _ _
    case atomicRefused =>
      intro op lg v c n hlg hn halign hnone
      simp only [exec, execHostAtomicop, ← hn, hnone]
      exact atomicRun_narrow hup hlg hn halign op _ _
    case wideCas =>
      intro v c halign
      have hn : 2 ^ (4 : BitVec 3).toNat = 16 := rfl
      simp only [exec, execHostAtomicop, hn]
      rw [if_neg (by simp [halign]), tlpRun_aligned hup (.inr (.inr rfl)) halign, if_true]

end Sys2Proof
end

section
/-! What a step is (log 1), what every command leaves unchanged, and what every step keeps of the fuses and of the anti-rollback
counters (R513, R520 to R522). -/

namespace Sys2Proof

open Sys2Proof.Machine

theorem step_cons {c : Instr} {rest : List Instr} {s : State} (h : s.pending = c :: rest) : step s = exec c { s with pending := rest } := by
  rw [step, h]

theorem step_nil {s : State} (h : s.pending = []) : step s = .next s := by
  rw [step, h]

/-- Settles O1. -/
theorem stepRunsTheFrontCommand : Obligations.StepRunsTheFrontCommand := fun _ _ _ h => step_cons h

/-- Settles O2. That the block idles on an empty queue is the model's choice (log 1). -/
theorem stepIdlesOnAnEmptyQueue : Obligations.StepIdlesOnAnEmptyQueue := fun _ h => step_nil h

/-- A command that answers a next state has kept all that its own parts allow. -/
theorem kept_of_exec_next {c : Instr} {s t : State} (h : exec c s = .next t) : Kept (partsMask c.mayWrite) s t :=
  kept_exec c ⟨Nat.and_self _⟩ (Kept.start s) t h

theorem Part.ctorIdx_injective : Function.Injective Part.ctorIdx :=
  Function.LeftInverse.injective (g := Part.ofNat) Part.ofNat_ctorIdx

/-- The parts have numbers of their own, so the mask of a list names the parts of the list and no other. -/
theorem testBit_partsMask_of_notMem {l : List Part} {p : Part} (h : p ∉ l) : (partsMask l).testBit p.ctorIdx = false := by
  rw [Bool.eq_false_iff, ne_eq, testBit_partsMask]
  rintro ⟨q, hq, hidx⟩
  exact h (Part.ctorIdx_injective hidx ▸ hq)

/-- Settles O6. -/
theorem eachCommandWritesOnlyItsParts : Obligations.EachCommandWritesOnlyItsParts :=
  fun _ _ _ h p hp => (kept_of_exec_next h).frame p (testBit_partsMask_of_notMem hp)

/-- Settles O5: an idle step changes nothing, and a command keeps the fuses and lowers no counter. -/
theorem stepKeepsFusesAndCounters : Obligations.StepKeepsFusesAndCounters := by
  intro s t h
  cases hq : s.pending with
  | nil =>
    cases (step_nil hq).symm.trans h
    exact ⟨rfl, rfl, rfl, fun _ => Nat.le_refl _⟩
  | cons c rest =>
    have hkept := kept_of_exec_next ((step_cons hq).symm.trans h)
    obtain ⟨hcstep, hhsteps, hlock⟩ := hkept.fuses
    exact ⟨hcstep, hhsteps, hlock, hkept.arb⟩

end Sys2Proof
end

section
/-! Lane maps (R394, R396): a map is told by how many good lanes lie below each lane. -/

namespace Sys2Proof

open Sys2Proof.Machine

/-- The good lanes below a lane. -/
abbrev goodBelow (v : BitVec 68) (j : Nat) : Nat := Nat.count (fun i => v.getLsbD i = true) j

theorem popCount_eq_goodBelow (v : BitVec 68) : popCount v = goodBelow v 68 := by
  simp [popCount, goodBelow, Nat.count, List.countP_eq_length_filter]

theorem goodBelow_succ (v : BitVec 68) (j : Nat) : goodBelow v (j + 1) = goodBelow v j + if v.getLsbD j = true then 1 else 0 :=
  Nat.count_succ _ j

theorem lowLanes_succ (f i n : Nat) (v : BitVec 68) : lowLanes (f + 1) i n v =
    if n = 0 then 0 else if v.getLsbD i then 2 ^ i + lowLanes f (i + 1) (n - 1) v else lowLanes f (i + 1) n v := rfl

/-- No lane below the one that a search starts at is taken. -/
theorem two_pow_dvd_lowLanes (f i n : Nat) (v : BitVec 68) : 2 ^ i ∣ lowLanes f i n v := by
  induction f generalizing i n with
  | zero => exact Nat.dvd_zero _
  | succ f ih =>
    have hrest (n : Nat) : 2 ^ i ∣ lowLanes f (i + 1) n v := (Nat.pow_dvd_pow 2 (Nat.le_succ i)).trans (ih _ n)
    rw [lowLanes_succ]
    split
    · exact Nat.dvd_zero _
    split
    · exact (Nat.dvd_refl _).add (hrest _)
    · exact hrest _

theorem testBit_lowLanes_of_lt {f i n j : Nat} {v : BitVec 68} (h : j < i) : (lowLanes f i n v).testBit j = false := by
  obtain ⟨k, hk⟩ := two_pow_dvd_lowLanes f i n v
  rw [hk, Nat.testBit_two_pow_mul, decide_eq_false (by omega), Bool.false_and]

theorem testBit_two_pow_add_of_dvd {i j x : Nat} (hx : 2 ^ (i + 1) ∣ x) (h : i < j) : (2 ^ i + x).testBit j = x.testBit j := by
  obtain ⟨k, rfl⟩ := hx
  rw [Nat.add_comm, Nat.testBit_two_pow_mul_add _ (Nat.pow_lt_pow_right (by decide) (Nat.lt_succ_self i)), if_neg (by omega),
    Nat.testBit_two_pow_mul, decide_eq_true (by omega), Bool.true_and]

/-- A lane is taken where it is good and fewer lanes than are wanted have been found below it. -/
theorem testBit_lowLanes {f i j : Nat} (n : Nat) (v : BitVec 68) (hi : i ≤ j) (hj : j < i + f) :
    (lowLanes f i n v).testBit j = (v.getLsbD j && decide (goodBelow v j < goodBelow v i + n)) := by
  induction f generalizing i n with
  | zero => omega
  | succ f ih =>
    have hmono : goodBelow v i ≤ goodBelow v j := Nat.count_monotone _ hi
    have hnext := goodBelow_succ v i
    rw [lowLanes_succ]
    split
    next hn => rw [Nat.zero_testBit, decide_eq_false (by omega), Bool.and_false]
    next hn =>
      split
      next hgood =>
        rw [if_pos hgood] at hnext
        obtain rfl | hlt := Nat.eq_or_lt_of_le hi
        · rw [Nat.testBit_two_pow_add_eq, testBit_lowLanes_of_lt (Nat.lt_succ_self i), hgood, decide_eq_true (by omega)]
          rfl
        · rw [testBit_two_pow_add_of_dvd (two_pow_dvd_lowLanes ..) hlt, ih _ hlt (by omega)]
          congr 2
          rw [hnext, eq_iff_iff]
          omega
      next hbad =>
        rw [if_neg hbad] at hnext
        obtain rfl | hlt := Nat.eq_or_lt_of_le hi
        · rw [testBit_lowLanes_of_lt (Nat.lt_succ_self i), Bool.eq_false_iff.2 hbad, Bool.false_and]
        · rw [ih _ hlt (by omega), hnext, Nat.add_zero]

theorem getLsbD_laneMap (n : Nat) (v : BitVec 68) (j : Nat) :
    (laneMap n v).getLsbD j = (v.getLsbD j && decide (goodBelow v j < n)) := by
  obtain hj | hj := Nat.lt_or_ge j 68
  · rw [laneMap, BitVec.getLsbD_ofNat, decide_eq_true hj, Bool.true_and, testBit_lowLanes n v (Nat.zero_le j) (by omega)]
    simp only [goodBelow, Nat.count_zero, Nat.zero_add]
  · rw [BitVec.getLsbD_of_ge _ _ hj, BitVec.getLsbD_of_ge _ _ hj, Bool.false_and]

/-- Below any lane a map holds all the good lanes, or as many as are wanted. -/
theorem goodBelow_laneMap (n : Nat) (v : BitVec 68) (m : Nat) : goodBelow (laneMap n v) m = min n (goodBelow v m) := by
  induction m with
  | zero => simp only [goodBelow, Nat.count_zero, Nat.min_zero]
  | succ m ih =>
    rw [goodBelow_succ, ih, goodBelow_succ v, getLsbD_laneMap]
    by_cases hgood : v.getLsbD m = true
    · simp only [hgood, Bool.true_and, decide_eq_true_eq, if_true]
      split <;> omega
    · simp [Bool.eq_false_iff.2 hgood]

/-- Settles O14. -/
theorem laneMapsTakeTheLowestGoodLanes : Obligations.LaneMapsTakeTheLowestGoodLanes := by
  intro n good hn
  refine ⟨?count, ?good, ?lowest⟩
  case count => rw [popCount_eq_goodBelow, goodBelow_laneMap, Nat.min_eq_left (by rwa [← popCount_eq_goodBelow])]
  case good =>
    ext j
    rw [← BitVec.getLsbD_eq_getElem, ← BitVec.getLsbD_eq_getElem, BitVec.getLsbD_and, getLsbD_laneMap, Bool.and_right_comm, Bool.and_self]
  case lowest =>
    intro i j hij hj hi
    rw [getLsbD_laneMap, Bool.and_eq_true, decide_eq_true_eq] at hj ⊢
    exact ⟨hi, Nat.lt_of_le_of_lt (Nat.count_monotone _ hij.le) hj.2⟩

end Sys2Proof
end

section
/-! Readiness bits: what setting one leaves of kindling, the links, the ports and the memory (R494, R495). -/

namespace Sys2Proof

open Sys2Proof.Machine

section

variable (s : State) (bit : Nat) (v : Bool)

theorem kept_kindleEvent_start (code kind cause : Nat) : Kept 281874797304 s (kindleEvent s code bit kind cause) :=
  kept_kindleEvent s code bit kind cause ⟨Nat.and_self _⟩ (Kept.start s)

@[simp] theorem kindleEvent_kindle (code kind cause : Nat) : (kindleEvent s code bit kind cause).kindle = s.kindle :=
  (kept_kindleEvent_start s bit code kind cause).frame .kindle (by decide)

theorem kept_setReady_start : Kept 350594274040 s (setReady s bit v) := kept_setReady s bit v ⟨Nat.and_self _⟩ (Kept.start s)

@[simp] theorem setReady_owners : (setReady s bit v).owners = s.owners := (kept_setReady_start s bit v).frame .owners (by decide)

@[simp] theorem setReady_ports : (setReady s bit v).ports = s.ports := (kept_setReady_start s bit v).frame .ports (by decide)

@[simp] theorem setReady_flue : (setReady s bit v).flue = s.flue := (kept_setReady_start s bit v).frame .flue (by decide)

theorem setReady_kindle : ∃ a b c, (setReady s bit v).kindle = { s.kindle with ready0 := a, ready1 := b, ready2 := c } := by
  unfold setReady
  extract_lets was flip k flipped
  split
  · exact ⟨_, _, _, rfl⟩
  · rw [kindleEvent_kindle]
    unfold flipped
    split_ifs <;> exact ⟨_, _, _, rfl⟩

@[simp] theorem setReady_rtSet : (setReady s bit v).kindle.rtSet = s.kindle.rtSet := by
  obtain ⟨_, _, _, h⟩ := setReady_kindle s bit v
  rw [h]

@[simp] theorem setReady_rtdie : (setReady s bit v).kindle.rtdie = s.kindle.rtdie := by
  obtain ⟨_, _, _, h⟩ := setReady_kindle s bit v
  rw [h]

@[simp] theorem setReady_opened : (setReady s bit v).kindle.opened = s.kindle.opened := by
  obtain ⟨_, _, _, h⟩ := setReady_kindle s bit v
  rw [h]

end

section

variable {s : State} {bit : Nat}

theorem getLsbD_flip (w : W64) {i j : Nat} (hj : j < 64) : (w ^^^ BitVec.ofNat 64 (2 ^ i)).getLsbD j = (w.getLsbD j ^^ decide (i = j)) := by
  rw [BitVec.getLsbD_xor, BitVec.getLsbD_ofNat, Nat.testBit_two_pow]
  simp [hj]

/-- A bit of the first word after it, or another, is set. -/
theorem setReady_true_getLsbD (hbit : bit < 64) {j : Nat} (hj : j < 64) :
    (setReady s bit true).kindle.ready0.getLsbD j = (s.kindle.ready0.getLsbD j || decide (bit = j)) := by
  unfold setReady
  extract_lets was flip k flipped
  have hwas : was = s.kindle.ready0.getLsbD bit := if_pos hbit
  have hflipped : flipped.ready0 = flip s.kindle.ready0 bit := by
    rw [show flipped = { k with ready0 := flip k.ready0 bit } from if_pos hbit]
  split
  next hset =>
    by_cases hji : bit = j
    · rw [← hji, ← hwas, hset]
      rfl
    · simp [hji]
  next hclear =>
    rw [kindleEvent_kindle, hflipped, getLsbD_flip _ hj]
    by_cases hji : bit = j
    · have hzero : s.kindle.ready0.getLsbD j = false := by rw [← hji, ← hwas]; simpa using hclear
      simp [hzero]
    · simp [hji]

/-! ### Memory, where no ring takes fault records -/

theorem fringOf_logE (s : State) (r : LogRec) (ctx : Nat) : fringOf (s.logE r) ctx = fringOf s ctx := by
  obtain ⟨_, h⟩ := State.logE_eq s r
  rw [h]
  rfl

theorem kindleEvent_noRing (h : fringOf s 0 = none) (code kind cause : Nat) : kindleEvent s code bit kind cause =
    s.logE { src := .chm, unit := 0, kind := 0x23, code := code } := by
  simp only [kindleEvent, packageEvent, fringOf_logE, h]

/-- Without a ring for it the event of a readiness bit goes to the log only. -/
theorem setReady_noRing (h : fringOf s 0 = none) (v : Bool) :
    (setReady s bit v).mem = s.mem ∧ fringOf (setReady s bit v) 0 = none := by
  unfold setReady
  extract_lets was flip k flipped
  split
  · exact ⟨rfl, h⟩
  · have hring : fringOf { s with kindle := flipped } 0 = none := h
    rw [kindleEvent_noRing hring, fringOf_logE]
    exact ⟨by simp, hring⟩

end

end Sys2Proof
end

section
/-! What a report leaves of the two parts that it reaches and that hold more than reports: of the fabric all but the messages on their
way, of Stoker all but its log. -/

namespace Sys2Proof

open Sys2Proof.Machine

/-- Two states whose fabric differs in its messages at most, and whose Stoker in its log at most. -/
structure Quiet (r s : State) : Prop where
  fabric : ∃ ms, s.fabric = { r.fabric with msgs := ms }
  stoker : ∃ l n, s.stoker = { r.stoker with log := l, nextSeq := n }

theorem Quiet.refl (s : State) : Quiet s s := ⟨⟨_, rfl⟩, ⟨_, _, rfl⟩⟩

section

variable {r s t : State}

theorem Quiet.trans (h : Quiet r s) (k : Quiet s t) : Quiet r t := by
  obtain ⟨⟨ms, hf⟩, l, n, hs⟩ := k
  obtain ⟨⟨ms', hf'⟩, l', n', hs'⟩ := h
  exact ⟨⟨ms, by rw [hf, hf']⟩, l, n, by rw [hs, hs']⟩

/-- A change of other parts. -/
theorem Quiet.other (h : Quiet r s) (hf : t.fabric = s.fabric) (hs : t.stoker = s.stoker) : Quiet r t :=
  h.trans ⟨⟨_, hf⟩, _, _, hs⟩

theorem Quiet.msgs (h : Quiet r s) {ms : List FabMsg} : Quiet r { s with fabric := { s.fabric with msgs := ms } } :=
  h.trans ⟨⟨ms, rfl⟩, _, _, rfl⟩

/-- What keeps both parts whole. -/
theorem Quiet.of_kept {m : Nat} (h : Quiet r s) (k : Kept m s t) (hf : m.testBit 32 = false) (hs : m.testBit 38 = false) : Quiet r t :=
  h.other (k.frame .fabric hf) (k.frame .stoker hs)

theorem Quiet.foldl {α : Type} {f : State → α → State} (hf : ∀ {s : State} (a : α), Quiet r s → Quiet r (f s a)) (h : Quiet r s)
    (l : List α) : Quiet r (l.foldl f s) := by
  induction l generalizing s with
  | nil => exact h
  | cons a l ih => exact ih (hf a h)

/-- What follows a step that answers with a value. -/
theorem Quiet.of_snd {α : Type} {x : α} {p : α × State} (h : Quiet r p.2) (hp : p = (x, t)) : Quiet r t := by
  rwa [hp] at h

theorem quiet_ite {α : Type} {c : Prop} [Decidable c] {p q : α × State} (hp : Quiet r p.2) (hq : Quiet r q.2) :
    Quiet r (if c then p else q).2 := by
  split
  · exact hp
  · exact hq

theorem Quiet.ite {c : Prop} [Decidable c] (h : Quiet r s) (k : Quiet r t) : Quiet r (if c then s else t) := by
  split
  · exact h
  · exact k

/-! ### Tables of other parts -/

theorem Quiet.setTxn (h : Quiet r s) (line : Nat) (x : Option Txn) : Quiet r (s.setTxn line x) := h.other rfl rfl

theorem Quiet.setPool (h : Quiet r s) (d : Nat) (x : Pool) : Quiet r (s.setPool d x) := h.other rfl rfl

theorem Quiet.setHost (h : Quiet r s) (l : Nat) (x : HostLink) : Quiet r (s.setHost l x) := h.other rfl rfl

theorem Quiet.setRing (h : Quiet r s) (rn : Nat) (x : Ring) : Quiet r (s.setRing rn x) := h.other rfl rfl

theorem Quiet.setRq (h : Quiet r s) (rn : Nat) (x : RingQ) : Quiet r (s.setRq rn x) := h.other rfl rfl

theorem Quiet.emit (h : Quiet r s) (o : Out) : Quiet r (s.emit o) := h.other rfl rfl

theorem Quiet.addWait (h : Quiet r s) (w : WaitReq) : Quiet r (addWait s w) := h.other rfl rfl

theorem Quiet.kindle (h : Quiet r s) (k : KindleSt) : Quiet r { s with kindle := k } := h.other rfl rfl

theorem Quiet.waitRecs (h : Quiet r s) (l : List WaitRec) : Quiet r { s with waitRecs := l } := h.other rfl rfl

/-! ### The log -/

theorem Quiet.logE (h : Quiet r s) (e : LogRec) : Quiet r (s.logE e) := h.trans ⟨⟨_, rfl⟩, _, _, rfl⟩

theorem Quiet.logTag (h : Quiet r s) (src : LogSrc) (unit tag data : Nat) : Quiet r (s.logTag src unit tag data) := h.logE _

/-! ### The fabric's messages -/

theorem quiet_hopAll (done rest : List FabMsg) (h : Quiet r s) : Quiet r (hopAll done rest s) := by
  induction rest generalizing done s with
  | nil => exact h
  | cons m rest ih =>
    simp only [hopAll]
    split
    · exact ih _ h.msgs
    · exact ih _ h

theorem quiet_fabricGo (h : Quiet r s) : Quiet r (fabricGo s) := quiet_hopAll _ _ (quiet_hopAll _ _ h)

theorem quiet_fabSend (c : Chan) (src dst line agent : Nat) (h : Quiet r s) : Quiet r (fabSend s c src dst line agent) := by
  simp only [fabSend]
  split
  · exact h
  · exact quiet_fabricGo h.msgs

/-! ### The homes -/

theorem quiet_sendSnoops (line : Nat) (x : Txn) (b : BitVec 14) (h : Quiet r s) : Quiet r (sendSnoops s line x b).2 := by
  simp only [sendSnoops]
  split
  · exact h
  · exact Quiet.foldl (fun _ hv => quiet_fabSend _ _ _ _ _ hv) (h.setTxn _ _) _

theorem quiet_homeSnoop (line : Nat) (req : HomeReq) (h : Quiet r s) : Quiet r (homeSnoop s line req) := quiet_sendSnoops _ _ _ h

theorem quiet_evictLine (line : Nat) (h : Quiet r s) : Quiet r (evictLine s line) :=
  h.of_kept (kept_evictLine s line ⟨Nat.and_self _⟩ (Kept.start s)) (by decide) (by decide)

theorem quiet_thinSet (fuel line more : Nat) (h : Quiet r s) : Quiet r (thinSet fuel s line more) := by
  induction fuel generalizing s with
  | zero => exact h
  | succ fuel ih =>
    simp only [thinSet]
    split
    · exact h
    split
    · exact h
    split
    · exact ih (quiet_homeSnoop _ _ h)
    split
    · exact h
    · exact ih (quiet_evictLine _ h)

theorem quiet_poolPlace (line : Nat) (h : Quiet r s) : Quiet r (poolPlace s line).2 := by
  simp only [poolPlace]
  split
  · exact h
  split
  · exact h.other rfl rfl
  · split
    · exact h
    split
    · exact quiet_homeSnoop _ _ h
    split
    · exact h
    · exact (quiet_evictLine _ h).setPool _ _
  · exact h

theorem quiet_findPlace (line : Nat) (h : Quiet r s) : Quiet r (findPlace s line).2 := by
  simp only [findPlace]
  split
  · exact h
  split
  · exact quiet_poolPlace _ h
  split
  · exact h
  · exact quiet_thinSet _ _ _ h

theorem quiet_holdUnit (line : Nat) (a : Agent) (ctx : Nat) (k : LineReq) (h : Quiet r s) : Quiet r (holdUnit s line a ctx k) := by
  simp only [holdUnit]
  split
  · exact h
  split
  · exact quiet_fabSend _ _ _ _ _ (h.addWait _)
  · exact h.other rfl rfl

theorem quiet_unitOpen (line : Nat) (a : Agent) (ctx : Nat) (k : LineReq) (h : Quiet r s) : Quiet r (unitOpen s line a ctx k).2 := by
  simp only [unitOpen]
  split
  next hfind => exact ((quiet_findPlace line h).of_snd hfind).setTxn _ _
  next hfind =>
    have hplaced := (quiet_findPlace line h).of_snd hfind
    split
    next hsend => exact (quiet_sendSnoops _ _ _ hplaced).of_snd hsend
    next hsend => exact (quiet_sendSnoops _ _ _ hplaced).of_snd hsend

theorem quiet_logAnswer (line : Nat) (a : Option Resp) (h : Quiet r s) : Quiet r (logAnswer s line a) := by
  simp only [logAnswer]
  split
  · exact h.logE _
  · exact h

theorem quiet_mainCheck (a : Agent) (ctx : Nat) (k : LineReq) (d : Nat) (h : Quiet r s) : Quiet r (mainCheck s a ctx k d).2 := by
  simp only [mainCheck]
  split
  · exact h
  split
  · exact h
  split
  · exact h.logE _
  split
  · split
    · split
      · exact quiet_logAnswer _ _ h
      · exact h
    · exact quiet_holdUnit _ _ _ _ h
  · split
    · exact h
    split
    · exact quiet_holdUnit _ _ _ _ h
    split
    · exact quiet_logAnswer _ _ h
    · exact quiet_unitOpen _ _ _ _ h

theorem quiet_nearCheck (a : Agent) (ctx : Nat) (k : LineReq) (die off : Nat) (h : Quiet r s) :
    Quiet r (nearCheck s a ctx k die off).2 := by
  simp only [nearCheck]
  split
  · exact h
  split
  · exact h
  split
  · exact h
  split
  · exact h.logE _
  split
  · exact h
  · exact h

theorem quiet_beginHalt (g : Nat) (x : HaltInfo) (h : Quiet r s) : Quiet r (beginHalt s g x) :=
  h.of_kept (kept_beginHalt s g x ⟨Nat.and_self _⟩ (Kept.start s)) (by decide) (by decide)

theorem quiet_spadCheck (a : Agent) (ctx : Nat) (acc : Acc3) (g off len : Nat) (h : Quiet r s) :
    Quiet r (spadCheck s a ctx acc g off len).2 := by
  unfold spadCheck
  extract_lets x bad held
  split
  · split
    · exact h
    split
    · exact h
    · exact h
  split
  · exact h
  split
  · exact h
  split
  · exact h
  refine quiet_ite (h.logE _) ?_
  split
  · exact quiet_beginHalt _ _ h
  split
  · exact quiet_beginHalt _ _ h
  · exact h

theorem quiet_chunkCheck (a : Agent) (ctx : Nat) (acc : Acc3) (pa len : Nat) (h : Quiet r s) :
    Quiet r (chunkCheck s a ctx acc pa len).2 := by
  simp only [chunkCheck]
  split
  · exact quiet_mainCheck _ _ _ _ h
  · exact quiet_nearCheck _ _ _ _ _ h
  · exact quiet_spadCheck _ _ _ _ _ _ h
  all_goals exact h

theorem quiet_checkChunks (a : Agent) (ctx : Nat) (acc : Acc3) (cs : List (Nat × Nat)) (h : Quiet r s) :
    Quiet r (checkChunks s a ctx acc cs).2 := by
  induction cs generalizing s with
  | nil => exact h
  | cons c cs ih =>
    have hc := quiet_chunkCheck a ctx acc c.1 c.2 h
    simp only [checkChunks]
    split
    next hok => exact ih (hc.of_snd hok)
    next hno => exact hc.of_snd hno

theorem quiet_checkExtent (a : Agent) (ctx : Nat) (acc : Acc3) (pa len : Nat) (h : Quiet r s) :
    Quiet r (checkExtent s a ctx acc pa len).2 := by
  have hcs := quiet_checkChunks a ctx acc (chunksOf pa len) h
  simp only [checkExtent]
  split
  next hok =>
    exact (hcs.of_snd hok).foldl (fun {v} c hv =>
      hv.of_kept (kept_chunkDone v a ctx acc c.1 c.2 ⟨Nat.and_self _⟩ (Kept.start v)) (by decide) (by decide)) _
  next v _ hno =>
    exact (hcs.of_snd hno).of_kept (kept_unitEnds v a (chunksOf pa len) ⟨Nat.and_self _⟩ (Kept.start v)) (by decide) (by decide)

theorem quiet_physWrite (a : Agent) (ctx pa : Nat) (bs : List Byte) (h : Quiet r s) : Quiet r (physWrite s a ctx pa bs).2 := by
  have hx := quiet_checkExtent a ctx .write pa bs.length h
  simp only [physWrite]
  split
  next v hok =>
    exact (hx.of_snd hok).of_kept (kept_rawWrite v pa bs ⟨Nat.and_self _⟩ (Kept.start v)) (by decide) (by decide)
  next hno => exact hx.of_snd hno

/-! ### Records -/

theorem quiet_raiseMsix (h : Quiet r s) (l vec : Nat) : Quiet r (raiseMsix s l vec) := by
  simp only [raiseMsix]
  split
  · exact h.logTag _ _ _ _
  split
  · exact h.other rfl rfl
  split
  · exact h.other rfl rfl
  · exact h.other rfl rfl

theorem quiet_raiseRing (h : Quiet r s) (x : Ring) : Quiet r (raiseRing s x) := by
  simp only [raiseRing]
  split
  · split
    · exact quiet_raiseMsix h _ _
    · exact h.other rfl rfl
  · exact h

theorem quiet_hostPosted (h : Quiet r s) (l off ctx : Nat) (bs : List Byte) (relaxed : Bool) :
    Quiet r (hostPosted s l off ctx bs relaxed) :=
  h.of_kept (kept_hostPosted s l off ctx bs relaxed ⟨Nat.and_self _⟩ (Kept.start s)) (by decide) (by decide)

/-- A record goes to the memory or to the host where its ring's slots lie. -/
theorem quiet_putRecord (h : Quiet r s) (rn : Nat) (rec : Slot) : Quiet r (putRecord s rn rec).2 := by
  unfold putRecord
  extract_lets x a full bs q res
  have hr : Quiet r res.2 := by
    unfold res
    split
    · split
      · exact (quiet_hostPosted h _ _ _ _ _).setRq _ _
      · exact h
    · exact quiet_physWrite _ _ _ _ h
  clear_value res
  split
  next v => exact quiet_raiseRing (Quiet.setRing (s := v) hr _ _) _
  · exact hr

theorem quiet_dropRecord (h : Quiet r s) (rn : Nat) (rec : Slot) : Quiet r (dropRecord s rn rec) := (h.setRing _ _).logE _

theorem quiet_releaseDesc (h : Quiet r s) (o : Option (Nat × Nat)) : Quiet r (releaseDesc s o) := by
  cases o
  · exact h
  · exact h.setRq _ _

theorem quiet_postF (fuel : Nat) (h : Quiet r s) (q rn : Nat) (rec : Slot) (o : Option (Nat × Nat)) :
    Quiet r (postF fuel s q rn rec o) := by
  induction fuel generalizing s q rn rec o with
  | zero => exact quiet_releaseDesc (quiet_dropRecord h _ _) _
  | succ fuel ih =>
    unfold postF
    extract_lets x event queue
    have hevent {v : State} (hv : Quiet r v) (rn code idx : Nat) : Quiet r (event v rn code idx) := by
      refine Quiet.foldl (fun t hw => ?_) ((hv.setRing _ _).logE _) _
      split
      · split
        · exact quiet_dropRecord hw _ _
        · exact hw
      · exact ih hw _ _ _ _
    have hqueue {v : State} (hv : Quiet r v) : Quiet r (queue v) := by
      unfold queue
      split
      · exact hv.waitRecs _
      extract_lets dropped
      have hdropped : Quiet r dropped := quiet_dropRecord (quiet_releaseDesc hv _) _ _
      split
      · exact hdropped
      · exact hevent hdropped _ _ _
    have hdrop {v : State} (hv : Quiet r v) : Quiet r (dropRecord (releaseDesc v o) rn rec) :=
      quiet_dropRecord (quiet_releaseDesc hv _) _ _
    split
    · exact hdrop h
    split
    · exact hdrop h
    · exact hdrop h
    · exact hqueue h
    · exact hqueue h
    split
    · exact hqueue h
    have hput := quiet_putRecord h rn (atPosting s o rec)
    split
    next hok => exact quiet_releaseDesc (hput.of_snd hok) _
    next hwait => exact hqueue (hput.of_snd hwait)
    next hno => exact hevent (hdrop ((hput.of_snd hno).setRing _ _)) _ _ _

theorem quiet_packageEvent (h : Quiet r s) (src : LogSrc) (unit kind code : Nat) (fields : List (Nat × Nat × Nat)) :
    Quiet r (packageEvent s src unit kind code fields) := by
  simp only [packageEvent]
  split
  · exact quiet_postF _ (h.logE _) _ _ _ _
  · exact h.logE _

theorem quiet_kindleEvent (h : Quiet r s) (code bit kind cause : Nat) : Quiet r (kindleEvent s code bit kind cause) :=
  quiet_packageEvent h _ _ _ _ _

theorem quiet_setReady (h : Quiet r s) (bit : Nat) (v : Bool) : Quiet r (setReady s bit v) := by
  unfold setReady
  extract_lets was flip k flipped
  split
  · exact h
  · exact quiet_kindleEvent (h.kindle _) _ _ _ _

end

end Sys2Proof
end

section
/-! Bundles: bring-up, retraining, routes (R393, R396, R404, R405, R408, R410, R411), and the stand-alone die test (R399, R400). -/

namespace Sys2Proof

open Sys2Proof.Machine

section

variable {r s : State}

/-! ### What events and changes of routes leave of the bundles -/

theorem Quiet.bundle (h : Quiet r s) (d b : Nat) : s.bundle d b = r.bundle d b := by
  obtain ⟨ms, hf⟩ := h.fabric
  rw [State.bundle, hf]
  rfl

theorem quiet_fabricEvent (h : Quiet r s) (die b width code : Nat) : Quiet r (fabricEvent s die b width code) :=
  quiet_packageEvent h _ _ _ _ _

theorem quiet_takeFree (h : Quiet r s) (w : Nat) : Quiet r (takeFree w s).2 := h.other rfl rfl

theorem quiet_routeEvent (h : Quiet r s) (die code : Nat) : Quiet r (routeEvent s die code) :=
  quiet_fabricEvent (quiet_takeFree h 8) _ _ _ _

theorem quiet_refreshHth (h : Quiet r s) (n : Nat) : Quiet r (refreshHth s n) :=
  quiet_setReady (quiet_setReady (quiet_setReady h _ _) _ _) _ _

/-- Markers and unreachable destinations change no bundle. -/
theorem restripe_bundle (old s : State) (d b : Nat) : (restripe old s).bundle d b = s.bundle d b := by
  unfold restripe
  extract_lets marked
  have hmarked : marked.bundle d b = s.bundle d b := by
    refine List.foldlRecOn (motive := fun v : State => v.bundle d b = s.bundle d b) allPairs _ rfl (fun v hv p _ => ?_)
    split
    · split
      · exact hv
      · exact hv
    · exact ((quiet_routeEvent (Quiet.refl _) _ _).bundle d b).trans hv
    · exact hv
  have hgone : Quiet marked (fabricGo ((List.range 4).foldl refreshHth marked)) :=
    quiet_fabricGo (Quiet.foldl (fun n hv => quiet_refreshHth hv n) (Quiet.refl _) _)
  exact (hgone.bundle d b).trans hmarked

theorem setBundleSt_same (s : State) (d b : Nat) (f : Bundle → Bundle) : (setBundleSt s d b f).bundle d b = f (s.bundle d b) :=
  State.setBundle_same _ _ _ _

end

/-! ### Bring-up -/

section

variable {x : Side} {s : State} (hside : sideOk x = true)

include hside

theorem exec_bundleBringUp {d b : Nat} (hfar : (d, b) = farEnd x.die x.b)
    (hnear : (s.bundle x.die x.b).st = .down ∨ (s.bundle x.die x.b).st = .disabled)
    (hthere : (s.bundle d b).st = .down ∨ (s.bundle d b).st = .disabled) : exec (.bundleBringUp x) s =
      .next (if heldOff s x.die x.b then bothSides s x.die x.b toDisabled else beginTraining s x.die x.b) := by
  simp only [exec, execBundleBringUp, ← hfar]
  rw [if_neg (by simp [hside]), if_neg (by grind), apply_ite Host.Outcome.next]

theorem exec_keptMapBringUp {d b : Nat} (hfar : (d, b) = farEnd x.die x.b) (hdown : (s.bundle d b).st = .down)
    (hloop : (s.bundle x.die x.b).st ≠ .loopback) : exec (.keptMapBringUp x) s =
      if (s.bundle x.die x.b).st = .disabled ∨ heldOff s x.die x.b = true then .next (bothSides s x.die x.b toDisabled)
      else .next (restripe s (setBundleSt (bothSides s x.die x.b (fun y => { y with st := .training, width := 0, kept := false }))
        x.die x.b (fun y => { y with kept := true }))) := by
  simp only [exec, execKeptMapBringUp, ← hfar]
  rw [if_neg (by simp [hside]), if_neg (by simp [hdown, hloop])]

theorem exec_bringUpDone (rx tx : BitVec 68) : exec (.bringUpDone x rx tx) s =
    if (s.bundle x.die x.b).st = .training then .next (endTraining s x.die x.b rx tx) else .refused .notPending := by
  simp only [exec, execBringUpDone]
  rw [if_neg (by simp [hside]), ite_not]

end

/-- Without a kept map every lane found good is a candidate (R396). -/
theorem candidates_full {s : State} {die n d b : Nat} (hfar : (d, b) = farEnd die n) (hme : (s.bundle die n).kept = false)
    (hthem : (s.bundle d b).kept = false) (rx tx : BitVec 68) : candidates s die n rx tx = (rx, tx) := by
  simp [candidates, ← hfar, hme, hthem]

/-- One side of a bundle as a bring-up of a WIDTH code leaves it, with the lanes that may be taken of each of its directions (R396). -/
def trainedSide (w : Nat) (rx tx : BitVec 68) (y : Bundle) : Bundle :=
  { y with st := if w = 0 then .disabled else .up, width := BitVec.ofNat 2 w, replays := 0
           rxmap := laneMap (widthLanes w) rx, txmap := laneMap (widthLanes w) tx }

/-- The end of a full bring-up: both sides of that width, the events of it, and the routes that follow. -/
theorem endTraining_full {s : State} {die n d b w : Nat} {rx tx : BitVec 68} (hfar : (d, b) = farEnd die n)
    (hme : (s.bundle die n).kept = false) (hthem : (s.bundle d b).kept = false)
    (hw : w = widthFor (min (popCount rx) (popCount tx))) :
    ∃ u, Quiet (setBundleSt (setBundleSt s die n (trainedSide w rx tx)) d b (trainedSide w tx rx)) u ∧
      endTraining s die n rx tx = restripe s u := by
  simp only [endTraining, ← hfar, candidates_full hfar hme hthem, ← hw, hme, hthem, Bool.or_self, Bool.false_eq_true, if_false]
  have hevent (code : Nat) := quiet_fabricEvent (Quiet.refl (setBundleSt (setBundleSt s die n (trainedSide w rx tx)) d b
    (trainedSide w tx rx))) die n w code
  exact ⟨_, (hevent 3).ite ((hevent 2).ite (hevent 1)), rfl⟩

/-- The far side then: the named side's transmit direction is its receive direction. -/
theorem endTraining_far {s : State} {die n d b w : Nat} {rx tx : BitVec 68} (hfar : (d, b) = farEnd die n)
    (hme : (s.bundle die n).kept = false) (hthem : (s.bundle d b).kept = false)
    (hw : w = widthFor (min (popCount rx) (popCount tx))) : ∃ y, (endTraining s die n rx tx).bundle d b = trainedSide w tx rx y := by
  obtain ⟨u, hu, hend⟩ := endTraining_full hfar hme hthem hw
  exact ⟨_, by rw [hend, restripe_bundle, hu.bundle, setBundleSt_same]⟩

/-! ### Service -/

section

variable {x : Side} {s : State} (hside : sideOk x = true)

include hside

theorem exec_bundleCrcError (hup : (s.bundle x.die x.b).st = .up) {d b : Nat} (hfar : (d, b) = farEnd x.die x.b) {n : BitVec 9} {u : State}
    (hfree : takeFree 9 s = (n, u)) : exec (.bundleCrcError x) s =
      .next (setBundleSt u d b (fun y => { y with replays := satAdd y.replays (n.toNat + 1) })) := by
  simp only [exec, execBundleCrcError, ← hfar, hfree]
  rw [if_neg (by simp [hside]), if_neg (by simp [hup])]

theorem exec_bundleRetrain : exec (.bundleRetrain x) s = .next (retrainBundle s x.die x.b) := if_pos hside

theorem exec_bundleReplayThreshold (hup : (s.bundle x.die x.b).st = .up) (height : 8 ≤ (s.bundle x.die x.b).replays.toNat) :
    exec (.bundleReplayThreshold x) s = .next (retrainBundle s x.die x.b) := by
  simp only [exec, execBundleReplayThreshold]
  rw [if_neg (by simp [hside]), if_pos ⟨hup, height⟩]

theorem exec_sidebandTimeout (htraining : (s.bundle x.die x.b).st = .training) : exec (.sidebandTimeout x) s =
    .next (disableBundle s x.die x.b) := by
  simp only [exec, execSidebandTimeout]
  rw [if_neg (by simp [hside]), if_neg (by simp [htraining])]

theorem exec_bundleOff (off : Bool) : exec (.bundleOff x off) s = .next (offBundle s x.die x.b off) := if_pos hside

end

theorem retrainBundle_begins {s : State} {die b : Nat} (hheld : heldOff s die b = false) (htraining : (s.bundle die b).st ≠ .training)
    (hloop : (s.bundle die b).st ≠ .loopback) : retrainBundle s die b = beginTraining (fabricEvent s die b 0 4) die b := by
  simp [retrainBundle, hheld, htraining, hloop]

theorem retrainBundle_ignored {s : State} {die b : Nat}
    (h : heldOff s die b = true ∨ (s.bundle die b).st = .training ∨ (s.bundle die b).st = .loopback) : retrainBundle s die b = s := by
  simp only [retrainBundle]
  rw [if_pos (by simpa [or_assoc] using h)]

theorem disableBundle_inUse {s : State} {die b : Nat} (h : (s.bundle die b).st ≠ .disabled) :
    disableBundle s die b = restripe s (fabricEvent (bothSides s die b toDisabled) die b 0 3) := if_neg h

theorem exec_routeDrainMarker {s : State} {i j : Fin 5} (h : draining s i j = true) : exec (.routeDrainMarker i j) s =
    .next (fabricGo (routeEvent (setDraining s i j false) i 5)) := if_neg (by simp [h])

/-- Settles O42. That a route event names no bundle is log 36, how many flits are replayed is log 37. -/
theorem bundlesComeUpAndAreRetrained : Obligations.BundlesComeUpAndAreRetrained := by
  refine ⟨?bringUp, ?service⟩
  case bringUp =>
    intro x s d b hside hfar
    refine ⟨fun hnear hthere => ⟨fun hfree => ?_, fun hheld => ?_⟩, fun hdown hloop hout => ?_, fun hdown hloop hin hfree => ?_,
      fun rx tx htraining => ?_, fun rx tx t w hend hme hthem hw => ?ended⟩
    · rw [exec_bundleBringUp hside hfar hnear hthere, if_neg (by simp [hfree])]
      rfl
    · rw [exec_bundleBringUp hside hfar hnear hthere, if_pos hheld]
    · rw [exec_keptMapBringUp hside hfar hdown hloop, if_pos hout]
    · rw [exec_keptMapBringUp hside hfar hdown hloop, if_neg (by simp [hin, hfree])]
    · rw [exec_bringUpDone hside, if_pos htraining]
    case ended =>
      rw [exec_bringUpDone hside] at hend
      split at hend
      · cases hend
        obtain ⟨y, hy⟩ := endTraining_far hfar hme hthem hw
        rw [hy]
        exact ⟨rfl, rfl, rfl, rfl⟩
      · cases hend
  case service =>
    intro x s d b hside hfar
    refine ⟨fun n u hup hfree => exec_bundleCrcError hside hup hfar hfree, fun hheld htraining hloop => ⟨?_, fun hup height => ?_⟩,
      fun hbusy => ?_, fun htraining => ?_, ?_, ?_, ?_, fun i j hdrain => exec_routeDrainMarker hdrain⟩
    · rw [exec_bundleRetrain hside, retrainBundle_begins hheld htraining hloop]
    · rw [exec_bundleReplayThreshold hside hup height, retrainBundle_begins hheld htraining hloop]
    · rw [exec_bundleRetrain hside, retrainBundle_ignored hbusy]
    · rw [exec_sidebandTimeout hside htraining, disableBundle_inUse (by simp [htraining])]
    · rw [exec_bundleOff hside]
      rfl
    · rintro u rfl hloop
      rw [exec_bundleOff hside]
      simp [offBundle, hloop]
    · rintro u rfl hloop
      rw [exec_bundleOff hside]
      simp [offBundle, hloop]

end Sys2Proof
end

section
/-! The stand-alone die test (R399, R400). -/

namespace Sys2Proof

open Sys2Proof.Machine

/-- A device access of Stoker or Thirun is never held up. -/
theorem devCommand_firmware {who : DevAgent} (hwho : who = .stoker ∨ who = .thirun) (s run : State) :
    devCommand who s run = .next (settleAll run) := by
  obtain rfl | rfl := hwho <;> rfl

theorem testRight_firmware {who : DevAgent} (hwho : who = .stoker ∨ who = .thirun) : testRight who = true := by
  obtain rfl | rfl := hwho <;> rfl

section

variable {die : Fin 5} {who : DevAgent} (hwho : who = .stoker ∨ who = .thirun) (s : State)

include hwho

theorem exec_dietestEn (en : Bool) : exec (.dietestEn die who en) s = .next (settleAll (testEn s die en)) := by
  simp only [exec, execDietestEn, devCommand_firmware hwho, testRight_firmware hwho, if_true]

theorem exec_dietestGo : exec (.dietestGo die who) s = .next (settleAll (testGo s die)) := by
  simp only [exec, execDietestGo, devCommand_firmware hwho, testRight_firmware hwho, if_true]

end

section

variable {s : State} {die : Nat}

/-- A write of EN as it stands, which no test that runs and none that does not could refuse. -/
theorem testEn_same : testEn s die (s.test die).en = s := by
  simp only [testEn, if_true, ite_self]

theorem testEn_starts (hidle : (s.test die).busy = false) (hoff : (s.test die).en = false)
    (hfree : ∀ b ∈ bundlesOf die, (s.bundle die b).st = .down ∨ (s.bundle die b).st = .disabled) : testEn s die true =
      settleTest ((bundlesOf die).foldl (fun s b => setBundleSt s die b (fun y => { y with st := .loopback, width := 0 }))
        (s.setTest die { s.test die with en := true })) := by
  have hall : (bundlesOf die).all (fun b => decide ((s.bundle die b).st = .down) || decide ((s.bundle die b).st = .disabled)) = true := by
    simpa using hfree
  simp only [testEn]
  rw [if_neg (by simp [hidle]), if_neg (by simp [hoff]), if_true, if_pos hall]

theorem testEn_refused (hidle : (s.test die).busy = false) (hoff : (s.test die).en = false) {b : Nat} (hb : b ∈ bundlesOf die)
    (hdown : (s.bundle die b).st ≠ .down) (hdisabled : (s.bundle die b).st ≠ .disabled) :
    testEn s die true = s.setTest die { s.test die with err := true } := by
  have hall : ¬ (bundlesOf die).all (fun b => decide ((s.bundle die b).st = .down) || decide ((s.bundle die b).st = .disabled)) = true := by
    simp only [List.all_eq_true, Bool.or_eq_true, decide_eq_true_eq]
    exact fun h => (h b hb).elim hdown hdisabled
  simp only [testEn]
  rw [if_neg (by simp [hidle]), if_neg (by simp [hoff]), if_true, if_neg hall]

theorem testEn_ends (hidle : (s.test die).busy = false) (hon : (s.test die).en = true) : testEn s die false =
    settleTest ((bundlesOf die).foldl (fun s b => setBundleSt s die b (fun y => { y with st := .down, width := 0, rxmap := 0, txmap := 0 }))
      (s.setTest die { s.test die with en := false })) := by
  simp only [testEn]
  rw [if_neg (by simp [hidle]), if_neg (by simp [hon]), if_neg (by decide)]

theorem testGo_permitted (hidle : (s.test die).busy = false) (hon : (s.test die).en = true) (hmin : 20 ≤ (s.test die).log2ui.toNat)
    (hmax : (s.test die).log2ui.toNat ≤ 30) : testGo s die = s.setTest die { s.test die with busy := true } := by
  simp only [testGo]
  rw [if_neg]
  simp [hidle, hon]
  omega

theorem testGo_refused (h : (s.test die).en = false ∨ (s.test die).log2ui.toNat < 20 ∨ 30 < (s.test die).log2ui.toNat) :
    testGo s die = s.setTest die { s.test die with err := true } := by
  simp only [testGo]
  rw [if_pos]
  obtain h | h | h := h <;> simp [h]

end

/-- Settles O43. That the group state is TEST while a test is enabled (settleTest) is log 35. -/
theorem dieTestsRunToTheirEnd : Obligations.DieTestsRunToTheirEnd := by
  rintro die who s x rfl hidle hwho
  refine ⟨fun hoff hfree => ?_, fun hoff b hb hdown hdisabled => ?_, fun hon => ?_, ?_, fun hon hmin hmax => ?_, fun hbad => ?_, ?done⟩
  · rw [exec_dietestEn hwho, testEn_starts hidle hoff hfree]
  · rw [exec_dietestEn hwho, testEn_refused hidle hoff hb hdown hdisabled]
  · rw [exec_dietestEn hwho, testEn_ends hidle hon]
  · rw [exec_dietestEn hwho, testEn_same]
  · rw [exec_dietestGo hwho, testGo_permitted hidle hon hmin hmax]
  · rw [exec_dietestGo hwho, testGo_refused hbad]
  case done =>
    rintro t u good hbusy hlen rfl
    simp only [exec, execDietestDone]
    rw [if_neg (by simp [hlen]), if_neg (by simp [hbusy]), hbusy]

end Sys2Proof
end

section
/-! Flue links: training, attestation, probation, going down, flits, keys and the link control register (R413 to R418, R432, R536 to
R540). -/

namespace Sys2Proof

open Sys2Proof.Machine

section

variable {f : FlueLinkNo} {s : State}

/-! ### A link comes up -/

theorem downIf_met {ok : Bool} (h : ok = true) (cause : Nat) : downIf s f ok cause = .next (linkDown s f cause) := if_pos h

/-- The three widths of R413 in their order. -/
theorem widthOf_all : widthOf 15 = 3 := rfl

theorem widthOf_lower {lanes : BitVec 4} (hall : lanes ≠ 15) (h : lanes.getLsbD 0 = true ∧ lanes.getLsbD 1 = true) : widthOf lanes = 1 := by
  rw [widthOf, if_neg hall, if_pos (by simp [h])]

theorem widthOf_upper {lanes : BitVec 4} (hall : lanes ≠ 15) (hlow : ¬ (lanes.getLsbD 0 = true ∧ lanes.getLsbD 1 = true))
    (h : lanes.getLsbD 2 = true ∧ lanes.getLsbD 3 = true) : widthOf lanes = 2 := by
  rw [widthOf, if_neg hall, if_neg (by simpa using hlow), if_pos (by simp [h])]

theorem widthOf_none {lanes : BitVec 4} (hall : lanes ≠ 15) (hlow : ¬ (lanes.getLsbD 0 = true ∧ lanes.getLsbD 1 = true))
    (hhigh : ¬ (lanes.getLsbD 2 = true ∧ lanes.getLsbD 3 = true)) : widthOf lanes = 0 := by
  rw [widthOf, if_neg hall, if_neg (by simpa using hlow), if_neg (by simpa using hhigh)]

theorem exec_flueTrainingDone_width {lanes : BitVec 4} (htraining : (s.fl f).st = .training) (hw : widthOf lanes ≠ 0) :
    exec (.flueTrainingDone f lanes) s =
      .next (putFl s f { s.fl f with st := .attest, width := widthOf lanes, since := s.elapsed }) := by
  simp only [exec, execFlueTrainingDone]
  rw [if_neg (by simp [htraining]), if_neg hw]

theorem exec_flueTrainingDone_none {lanes : BitVec 4} (htraining : (s.fl f).st = .training) (hw : widthOf lanes = 0) :
    exec (.flueTrainingDone f lanes) s = .next (linkDown s f 0xC) := by
  simp only [exec, execFlueTrainingDone]
  rw [if_neg (by simp [htraining]), if_pos hw]

theorem exec_flueAttestDone (hattest : (s.fl f).st = .attest) (a : AttestIn) : exec (.flueAttestDone f a) s =
    if a.chainOk = true ∧ a.listed = true ∧ a.invasive = false ∧ a.idh ≠ Config.ownIdh then
      .next (putFl s f { s.fl f with
        st := .probation, keyed := true, idh := a.idh, flits := 0, replays := 0, second := 0, secondAt := [], crcRun := 0
        sentFlits := 0, keyGen := (s.fl f).keyGen + 1, keyNext := none, since := s.elapsed })
    else .next (linkDown s f 4) := by
  simp only [exec, execFlueAttestDone]
  rw [if_neg (by simp [hattest])]
  exact if_congr (by simp [and_assoc]) rfl rfl

theorem exec_probationEnd (hst : (s.fl f).st = .probation) (hdue : 225000000 ≤ s.elapsed - (s.fl f).since) :
    exec (.probationEnd f) s = if (s.fl f).second = 0 ∧ (s.fl f).replays.toNat < 4096 then .next (putFl s f { s.fl f with st := .ctrlonly })
      else .next (linkDown s f 8) := by
  simp only [exec, execProbationEnd]
  rw [if_neg (by simp [hst]; omega)]

/-! ### Flits and keys -/

/-- A link as an accepted flit leaves it: the first under new keys where it is the one that KEY named (R539). -/
def flitAccepted (x : FlueLink) : FlueLink :=
  { x with
    flits := x.flits + 1, rxSeq := x.rxSeq + 1, crcRun := 0
    keyGen := if x.keyNext = some (x.rxSeq + 1).toNat then x.keyGen + 1 else x.keyGen
    keyNext := if x.keyNext = some (x.rxSeq + 1).toNat then none else x.keyNext }

/-- What an accepted flit's header asks: what it acknowledges leaves the replay buffer, and the rest is sent again where it says so. -/
def flitHeader (s : State) (f : Nat) (hdr : FlitHdr) : State :=
  if hdr.replay then flueReplay (flueAcked s f hdr.ack) f else flueAcked s f hdr.ack

theorem exec_flueFlitReceive_bad (h : trainedSt (s.fl f).st = true ∨ (s.fl f).st = .loopback) (flit : FlitIn) (tagOk second : Bool) :
    exec (.flueFlitReceive f flit false tagOk second) s = .next ((s.setFl f { s.fl f with
      replays := satAdd (s.fl f).replays 1, crcRun := (s.fl f).crcRun + 1
      second := if second then satAdd (s.fl f).second 1 else (s.fl f).second
      secondAt := if second then ((s.fl f).flits.toNat :: (s.fl f).secondAt).take 2 else (s.fl f).secondAt }).emit
      (.flue f 64 (.replay ((s.fl f).rxSeq + 1).toNat))) := by
  simp only [exec, execFlueFlitReceive]
  rw [if_neg (by obtain h | h := h <;> simp [h]), if_pos (c := (!false) = true) rfl]

theorem exec_flueFlitReceive_loopback (h : (s.fl f).st = .loopback) (flit : FlitIn) (tagOk second : Bool) :
    exec (.flueFlitReceive f flit true tagOk second) s = .next (s.setFl f { s.fl f with flits := (s.fl f).flits + 1 }) := by
  simp only [exec, execFlueFlitReceive]
  rw [if_neg (by simp [h]), if_neg (by decide), if_pos h]

theorem exec_flueFlitReceive_trained (h : trainedSt (s.fl f).st = true) (flit : FlitIn) (tagOk second : Bool) :
    exec (.flueFlitReceive f flit true tagOk second) s =
      if (s.fl f).keyed = false ∧ ((s.fl f).st ≠ .attest ∨ flit.kind ≠ 1) then .next s
      else if (s.fl f).keyed = true ∧ tagOk = false then .next (linkDown s f 6)
      else .next (flitHeader (s.setFl f (flitAccepted (s.fl f))) f flit.hdr) := by
  have hloop : (s.fl f).st ≠ .loopback := fun hl => by rw [hl] at h; cases h
  simp only [exec, execFlueFlitReceive, decide_eq_true_eq]
  rw [if_neg (by simp [h]), if_neg (by decide), if_neg hloop]
  simp only [Bool.not_eq_true']
  rfl

theorem flitAccepted_underOldKeys {x : FlueLink} (h : x.keyNext ≠ some (x.rxSeq + 1).toNat) :
    flitAccepted x = { x with flits := x.flits + 1, rxSeq := x.rxSeq + 1, crcRun := 0 } := by
  rw [flitAccepted, if_neg h, if_neg h]

theorem flitAccepted_underNewKeys {x : FlueLink} (h : x.keyNext = some (x.rxSeq + 1).toNat) : flitAccepted x =
    { x with flits := x.flits + 1, rxSeq := x.rxSeq + 1, crcRun := 0, keyGen := x.keyGen + 1, keyNext := none } := by
  rw [flitAccepted, if_pos h, if_pos h]

/-- A flit is accepted under keys with its tag, or without keys as one of an attestation (R415, R536, R540). -/
theorem exec_flueFlitReceive_accepted (h : trainedSt (s.fl f).st = true) {flit : FlitIn} {tagOk : Bool}
    (hpass : (s.fl f).keyed = true ∧ tagOk = true ∨ (s.fl f).keyed = false ∧ (s.fl f).st = .attest ∧ flit.kind = 1) (second : Bool) :
    exec (.flueFlitReceive f flit true tagOk second) s = .next (flitHeader (s.setFl f (flitAccepted (s.fl f))) f flit.hdr) := by
  rw [exec_flueFlitReceive_trained h, if_neg (by grind), if_neg (by grind)]

theorem exec_flueKeyUpdate (hkeyed : (s.fl f).keyed = true) (hdue : 2 ^ 39 ≤ (s.fl f).sentFlits) : exec (.flueKeyUpdate f) s =
    if 2 ^ 40 ≤ (s.fl f).sentFlits + 1 then .next (linkDown s f 6)
    else if (s.fl f).idh.toNat < Config.ownIdh.toNat then .next s
    else .next (flueSend (s.setFl f { s.fl f with sentFlits := 0, keyGen := (s.fl f).keyGen + 1 }) f
      (.flue f 64 (.key ((s.fl f).txSeq + 2).toNat))) := by
  simp only [exec, execFlueKeyUpdate]
  rw [if_neg (by simp [hkeyed]; omega)]

/-! ### The link control register (Table 14.4) -/

theorem linkEn_disabled (h : (s.fl f).st = .disabled) :
    linkEn s f true = putFl s f { s.fl f with en := true, st := .training, since := s.elapsed } ∧
    linkEn s f false = s.setFl f { s.fl f with en := false } := by
  simp [linkEn, h]

theorem linkEn_inUse (h : (s.fl f).st ≠ .disabled) : linkEn s f true = putFl s f { s.fl f with en := true } ∧
    linkEn s f false = linkDown (s.setFl f { s.fl f with en := false }) f 0xA .disabled := by
  simp [linkEn, h]

theorem linkLoop_idle (h : (s.fl f).st = .down ∨ (s.fl f).st = .disabled) :
    linkLoop s f true = settleTest (putFl s f { s.fl f with loop := true, st := .loopback }) := by
  simp only [linkLoop, if_true]
  rw [if_pos h]

theorem linkLoop_loopback (h : (s.fl f).st = .loopback) : linkLoop s f true = s ∧ linkLoop s f false =
    settleTest (putFl s f { s.fl f with loop := false, st := if (s.fl f).en then .down else .disabled, since := s.elapsed }) := by
  simp [linkLoop, h]

theorem linkLoop_alive (h : (s.fl f).st = .training ∨ trainedSt (s.fl f).st = true) : linkLoop s f true = s.logTag .flu f 418 0 := by
  have hst : ¬ ((s.fl f).st = .down ∨ (s.fl f).st = .disabled) ∧ (s.fl f).st ≠ .loopback := by
    cases hst : (s.fl f).st <;> simp_all [trainedSt]
  simp only [linkLoop, if_true]
  rw [if_neg hst.1, if_neg hst.2]

end

/-- Settles O13. -/
theorem trainingTakesTheLanesThatPass : Obligations.TrainingTakesTheLanesThatPass := by
  intro f lanes s htraining
  split
  next hall =>
    subst hall
    exact exec_flueTrainingDone_width htraining (by decide)
  next hall =>
    split
    next hlow =>
      have hw := widthOf_lower hall hlow
      rw [exec_flueTrainingDone_width htraining (by simp [hw]), hw]
    next hlow =>
      split
      next hhigh =>
        have hw := widthOf_upper hall hlow hhigh
        rw [exec_flueTrainingDone_width htraining (by simp [hw]), hw]
      next hhigh => exact exec_flueTrainingDone_none htraining (widthOf_none hall hlow hhigh)

/-- Settles O38. -/
theorem flueLinksComeUpAndGoDown : Obligations.FlueLinksComeUpAndGoDown := by
  refine ⟨?up, ?down⟩
  case up =>
    rintro f s x rfl
    refine ⟨fun hdown hen hdue => if_pos ⟨hdown, hen, hdue⟩, fun lanes htraining hw => exec_flueTrainingDone_width htraining hw,
      fun a hattest hchain hlisted hdebug hown => ?_, fun hst hdue hsecond hreplays => ?_,
      fun hctrl hadmitted hpv hmember hentry hidh hhold => ?_⟩
    · rw [exec_flueAttestDone hattest, if_pos ⟨hchain, hlisted, hdebug, hown⟩]
    · rw [exec_probationEnd hst hdue, if_pos ⟨hsecond, hreplays⟩]
    · exact if_pos (by simp [hctrl, hadmitted, hpv, hmember, hentry, hidh, hhold])
  case down =>
    rintro f s x rfl
    refine ⟨fun htrained hrun => downIf_met (by simp [htrained, hrun]) 5, fun hst a b rest hat hnear => downIf_met ?_ 7,
      fun hst => ?signal, fun lanes htraining hw => exec_flueTrainingDone_none htraining hw,
      fun htraining hdue => downIf_met (by simp [htraining, hdue]) 3, fun a hattest hbad => ?_, fun hst hdue hbad => ?_,
      fun kind hdr second htrained hkeyed => ?_, fun hkeyed hcount => ?_⟩
    · rw [errRate, hat]
      simpa using And.intro hst hnear
    case signal =>
      have halive : alive (s.fl f).st = true := by
        obtain h | h := hst
        · rw [h]; rfl
        · revert h
          cases (s.fl f).st <;> decide
      exact ⟨downIf_met halive 1, downIf_met halive 2, downIf_met halive 9⟩
    · rw [exec_flueAttestDone hattest, if_neg (by grind)]
    · rw [exec_probationEnd hst hdue, if_neg (by grind)]
    · rw [exec_flueFlitReceive_trained htrained, if_neg (by simp [hkeyed]), if_pos ⟨hkeyed, rfl⟩]
    · rw [exec_flueKeyUpdate hkeyed (by omega), if_pos hcount]

/-- Settles O39. The states in which EN, HOLDCTL and LOOP act are log 33, and settleTest is log 35; that each sent packet counts as one
flit, and that KEY names the flit after its own, are log 153. -/
theorem flueFlitsKeysAndControl : Obligations.FlueFlitsKeysAndControl := by
  refine ⟨?flits, ?control⟩
  case flits =>
    rintro f s x rfl
    refine ⟨fun kind hdr tagOk second hst => exec_flueFlitReceive_bad hst _ _ _,
      fun kind hdr tagOk second hloop => exec_flueFlitReceive_loopback hloop _ _ _,
      fun kind hdr tagOk second htrained hkeys hother => ?_, fun kind hdr tagOk second v htrained hpass => ⟨fun hold hv => ?_, fun hnew hv => ?_⟩,
      fun seq htrained hkeyed => if_pos (by simp [htrained, hkeyed]), fun hkeyed hdue hcount => ?_⟩
    · rw [exec_flueFlitReceive_trained htrained, if_pos ⟨hkeys, hother⟩]
    · rw [exec_flueFlitReceive_accepted htrained hpass, flitAccepted_underOldKeys hold, hv]
      rfl
    · rw [exec_flueFlitReceive_accepted htrained hpass, flitAccepted_underNewKeys hnew, hv]
      rfl
    · rw [exec_flueKeyUpdate hkeyed hdue, if_neg (by omega)]
      split
      next hhigher => rw [if_neg (by omega)]
      next hlower => rw [if_pos (by omega)]
  case control =>
    rintro f s x rfl
    refine ⟨fun hdisabled => ?_, fun hused => ?_, fun hdown hdisabled => ?_, fun hidle => ?_, fun hup => ?_, fun hold hnot => ?_,
      fun hidle => ?_, fun hloop => ?_, fun hother => ?_, fun halive => ?_⟩
    · exact ⟨congrArg _ (linkEn_disabled hdisabled).1, congrArg _ (linkEn_disabled hdisabled).2⟩
    · exact ⟨congrArg _ (linkEn_inUse hused).1, congrArg _ (linkEn_inUse hused).2⟩
    · exact congrArg _ (if_neg (by simp [hdown, hdisabled]))
    · exact congrArg _ (if_pos hidle)
    · simp [exec, execFluLinkHoldctl, linkHold, hup]
    · have hstays : ¬ (hold = true ∧ (s.fl f).st = .up) := by grind
      simp only [exec, execFluLinkHoldctl, linkHold]
      rw [if_neg hstays]
    · exact congrArg _ (linkLoop_idle hidle)
    · exact ⟨congrArg _ (linkLoop_loopback hloop).1, congrArg _ (linkLoop_loopback hloop).2⟩
    · simp [exec, execFluLinkLoop, linkLoop, hother]
    · exact congrArg _ (linkLoop_alive halive)

end Sys2Proof
end

section
/-! Formation of a group and changes of its membership table (R424 to R429, R557, R609). -/

namespace Sys2Proof

open Sys2Proof.Machine

section

variable {s : State}

/-! ### Formation -/

theorem exec_formOffer_collected {m : OfferMsg} (hauth : m.auth = true) (hforming : s.group.gst = .forming) (hgid : m.gid = s.stoker.cfg.gid)
    (hgpv : m.gpv = s.kindle.gpv) (hpos : s.stoker.cfg.pmask.getLsbD m.pos.val = true) : exec (.formOffer m) s =
      .next (setGroup s { s.group with offers := s.group.offers.filter (fun o => decide (o.pos ≠ m.pos.val)) ++
        [{ pos := m.pos.val, idh := m.idh, count := m.count }] }) := by
  simp only [exec, execFormOffer]
  rw [if_neg (by simp [hauth]), if_neg (by simp [hforming, hgid, hgpv, hpos])]

theorem exec_offerWindowEnd_due {t : Nat} (hsent : s.group.offerSent = some t) (hforming : s.group.gst = .forming)
    (hdue : allOffered s = true ∨ 1125000000 ≤ s.elapsed - t) : exec .offerWindowEnd s =
      if s.group.offers.foldl (fun n o => min n o.pos) 64 = s.group.mypos.toNat then .next (foundTable s)
      else .next (setGroup s { s.group with offerSent := none }) := by
  simp only [exec, execOfferWindowEnd, hsent]
  rw [if_pos (by simpa [hforming] using hdue)]

theorem exec_table_founder {epoch : W32} {mpos : Position} {start : W64} {l : List MembIn} (hlen : l.length ≤ 64)
    (hforming : s.group.gst = .forming) (hmine : (Tab.get {} (tableOf l) s.group.mypos.toNat : Memb).st = 1) :
    exec (.table epoch mpos start l true) s = .next (sendCtrl (stepTick (setGroup s { s.group with
      gst := .member, epoch := epoch, mpos := BitVec.ofNat 6 mpos.val, mv := true, memb := tableOf l, tbSync := true, tbLock := true }) start)
      mpos 3 [epoch.toNat, s.group.mypos.toNat]) := by
  simp only [exec, execTable, hforming]
  rw [if_neg (by omega), if_neg (by decide), if_neg (not_not_intro hmine)]

theorem exec_ack_noted {epoch : W32} (hsent : s.group.tableSent.isSome = true) (hepoch : epoch = s.group.epoch) (pos : Position) :
    exec (.ack epoch pos true) s = .next (setGroup s { s.group with acks := s.group.acks ++ [pos.val] }) := by
  simp only [exec, execAck]
  rw [if_neg (by decide), if_pos ⟨hsent, hepoch⟩]

section
variable {t : Nat} {missing : List Nat}
  (hmissing : missing = (members s).filter (fun p => decide (p ≠ s.group.mypos.toNat) && !(s.group.acks.contains p)))
include hmissing

theorem exec_ackWindowEnd_all (hsent : s.group.tableSent = some t) (hnone : missing = []) :
    exec .ackWindowEnd s = .next (setGroup s { s.group with tableSent := none, acks := [] }) := by
  simp only [exec, execAckWindowEnd, hsent, ← hmissing]
  rw [if_pos (by simpa [List.isEmpty_iff] using hnone)]

theorem exec_ackWindowEnd_missing (hsent : s.group.tableSent = some t) (hsome : missing ≠ []) (hdue : 225000000 ≤ s.elapsed - t) :
    exec .ackWindowEnd s = .next (missing.foldl (fun v p => sendMembers v 5 [(s.group.epoch + 1).toNat, p, 0, 0])
      (missing.foldl (fun v p => putMemb v p 0 (s.group.epoch + 1) 0)
        (setGroup s { s.group with tableSent := none, acks := [] }))) := by
  simp only [exec, execAckWindowEnd, hsent, ← hmissing]
  rw [if_neg (by simpa [List.isEmpty_iff] using hsome), if_neg (by omega)]

end

/-! ### Changes by the master -/

theorem exec_group_master {src pos : Position} {epoch : W32} {st : BitVec 2} (hmember : s.group.gst = .member) (hst : st ≠ 3)
    (hmaster : s.group.mpos.toNat = src.val) (idh : W64) : exec (.group src epoch pos st idh true) s =
      if epoch = s.group.epoch + 1 ∨ (epoch = s.group.epoch ∧ (s.memb pos).epoch ≠ epoch) then
        .next (newMaster (applyHeld (s.group.held.length + 1) (putMemb s pos st epoch idh)))
      else if epoch.toNat ≤ s.group.epoch.toNat then .next s
      else .next (sendCtrl (setGroup s { s.group with
        held := s.group.held ++ [{ epoch := epoch, pos := pos.val, st := st, idh := idh }] }) s.group.mpos.toNat 2 [s.group.epoch.toNat]) := by
  simp only [exec, execGroup]
  rw [if_neg (by decide), if_neg (by simp [hmember]), if_neg hst, if_neg (by simp [hmaster])]

theorem exec_joinReq_held {m : OfferMsg} (hauth : m.auth = true) (hmaster : isMaster s = true) (hgid : m.gid = s.stoker.cfg.gid)
    (hgpv : m.gpv = s.kindle.gpv) (hfree : (s.memb m.pos.val).st ≠ 1) : exec (.joinReq m) s =
      .next (setGroup s { s.group with joins := s.group.joins ++ [{ pos := m.pos.val, idh := m.idh, count := m.count }] }) := by
  simp only [exec, execJoinReq]
  rw [if_neg (by simp [hauth]), if_neg (by simp [hmaster, hgid, hgpv]), if_neg hfree]

theorem exec_dead_member {reporter : Position} (hmember : isMember s = true) (hreporter : (s.memb reporter.val).st = 1) (pos : Position) :
    exec (.dead pos reporter true) s = .next (settleAll (positionLost s pos false)) := by
  simp only [exec, execDead]
  rw [if_neg (by decide), if_neg (by simp [hmember, hreporter])]

theorem exec_membAdmit_refused {pos : Position}
    (h : isMaster s = false ∨ (s.memb pos.val).st = 1 ∨ s.group.joins.filter (fun j => decide (j.pos = pos.val)) = []) :
    exec (.membAdmit pos) s = .next (cmdErr s pos 2 true) := by
  simp only [exec, execMembAdmit]
  split
  next hjoins => rw [if_neg (by simp only [hjoins] at h; grind)]
  next => rfl

theorem exec_membAdmit_oldest {pos : Position} {j : Offer} {rest : List Offer} (hmaster : isMaster s = true)
    (hfree : (s.memb pos.val).st ≠ 1) (hjoins : s.group.joins.filter (fun j => decide (j.pos = pos.val)) = j :: rest) :
    exec (.membAdmit pos) s = .next (rest.foldl (fun s x => s.logTag .flu 0 609 x.pos)
      (membChange (cmdErr s pos 2 false) pos 1 j.idh)) := by
  simp only [exec, execMembAdmit, hjoins]
  rw [if_pos (by simpa [hmaster] using hfree)]

end

/-- Settles O40. That the founders without an acknowledgement share the next epoch, and that changes ahead of their turn are held, are log
80; the choice of the master is log 81. -/
theorem groupsFormAndChangeInOrder : Obligations.GroupsFormAndChangeInOrder := by
  refine ⟨⟨?offers, ?window, ?table, ?acks, ?ackWindow⟩, ?changes, ?dead, ?joins, ?commands, ?oldest⟩
  case offers => exact fun m s hauth hforming hgid hgpv hpos => exec_formOffer_collected hauth hforming hgid hgpv hpos
  case window =>
    intro s t hsent hforming hdue
    rw [exec_offerWindowEnd_due hsent hforming hdue]
    exact ⟨fun hlow => if_pos hlow, fun hlow => if_neg hlow⟩
  case table =>
    rintro epoch mpos start l s u hlen hforming hmine rfl
    exact exec_table_founder hlen hforming hmine
  case acks => exact fun epoch pos s hsent hepoch => exec_ack_noted hsent hepoch pos
  case ackWindow =>
    rintro s u t missing hsent hmissing rfl
    exact ⟨exec_ackWindowEnd_all hmissing hsent, exec_ackWindowEnd_missing hmissing hsent⟩
  case changes =>
    intro src epoch pos st idh s hmember hst hmv hmaster
    refine ⟨fun hnext => ?_, fun holder hroom => ?_, rfl⟩
    · rw [exec_group_master hmember hst hmaster, if_pos (.inl hnext)]
    · rw [exec_group_master hmember hst hmaster, if_neg ?_, if_pos (by omega)]
      bv_omega
  case dead => exact fun pos reporter s hmember hreporter => exec_dead_member hmember hreporter pos
  case joins => exact fun m s hauth hmaster hgid hgpv hfree => exec_joinReq_held hauth hmaster hgid hgpv hfree
  case commands =>
    exact fun pos s => ⟨fun hmaster => if_pos hmaster, fun hother => if_neg (by simp [hother]), exec_membAdmit_refused⟩
  case oldest => exact fun pos s j rest hmaster hfree hjoins => exec_membAdmit_oldest hmaster hfree hjoins

end Sys2Proof
end

section
/-! An anti-rollback counter's value: the largest of its valid records (R520). -/

namespace Sys2Proof

open Sys2Proof.Machine

/-- The values of a counter's valid records. -/
def validValues (s : State) (i : Nat) : List Nat :=
  ((List.range 16).filter (fun k => arbValid (arbRecord s i k))).map (fun k => (arbRecord s i k).toNat % 2 ^ 16)

theorem mem_validValues {s : State} {i n : Nat} :
    n ∈ validValues s i ↔ ∃ k, k < 16 ∧ arbValid (arbRecord s i k) = true ∧ (arbRecord s i k).toNat % 2 ^ 16 = n := by
  simp [validValues, and_assoc]

theorem arbValue_eq_foldl (s : State) (i : Nat) : arbValue s i = (validValues s i).foldl max 0 := by
  simp [arbValue, validValues, field, List.foldl_map, List.foldl_filter]

/-- The fold of `arbValue` is the library's maximum of a list that starts with 0. -/
theorem max?_validValues (s : State) (i : Nat) : (0 :: validValues s i).max? = some (arbValue s i) := by
  rw [arbValue_eq_foldl, List.max?_cons']

theorem le_arbValue {s : State} {i n : Nat} (h : n ∈ validValues s i) : n ≤ arbValue s i :=
  (List.max?_eq_some_iff.1 (max?_validValues s i)).2 n (List.mem_cons_of_mem 0 h)

theorem arbValue_eq_zero_or_mem (s : State) (i : Nat) : arbValue s i = 0 ∨ arbValue s i ∈ validValues s i :=
  List.mem_cons.1 (List.max?_eq_some_iff.1 (max?_validValues s i)).1

theorem arbValid_iff (r : BitVec 24) : arbValid r = true ↔
    r.toNat / 2 ^ 16 % 32 = ((List.range 16).filter (fun i => !(r.getLsbD i))).length ∧ r.toNat / 2 ^ 21 = 0 := by
  have htop : r.toNat / 2 ^ 21 % 2 ^ 3 = r.toNat / 2 ^ 21 := Nat.mod_eq_of_lt (by omega)
  simp only [arbValid, field, Nat.shiftRight_eq_div_pow, htop, Bool.and_eq_true, decide_eq_true_eq]
  rfl

/-- Settles O12: the counter's value is the library's maximum of 0 and the values of the valid records. -/
theorem counterValueIsTheLargestValidRecord : Obligations.CounterValueIsTheLargestValidRecord := by
  refine ⟨arbValid_iff, fun s i => ⟨fun k hk hvalid => le_arbValue (mem_validValues.2 ⟨k, hk, hvalid, rfl⟩), ?_⟩⟩
  by_cases hsome : ∃ k, k < 16 ∧ arbValid (arbRecord s i k) = true
  case pos =>
    obtain ⟨k, hk, hvalid⟩ := hsome
    refine .inl (mem_validValues.1 ((arbValue_eq_zero_or_mem s i).elim (fun hzero => ?_) id))
    have hle : (arbRecord s i k).toNat % 2 ^ 16 ≤ arbValue s i := le_arbValue (mem_validValues.2 ⟨k, hk, hvalid, rfl⟩)
    exact mem_validValues.2 ⟨k, hk, hvalid, by omega⟩
  case neg =>
    refine .inr ⟨fun k hk => by simpa using fun hvalid => hsome ⟨k, hk, hvalid⟩, ?_⟩
    refine (arbValue_eq_zero_or_mem s i).resolve_right fun hmem => hsome ?_
    obtain ⟨k, hk, hvalid, -⟩ := mem_validValues.1 hmem
    exact ⟨k, hk, hvalid⟩

end Sys2Proof
end

section
/-! The Damper: its estimate, configuration and fast actions, clocks, the feed and power-downs (R463 to R488, R550, R591, R599). -/

namespace Sys2Proof

open Sys2Proof.Machine

section

variable {s : State}

/-! ### The estimate and the cap -/

theorem exec_damperWindow_on {w : WindowIn} (hlen : w.powers.length = 5) (hpower : s.power.pkgPower = true) :
    exec (.damperWindow w) s = .next (newWindow (setPower s { shareCap s.power w.powers (estimate s w) with
      est := BitVec.ofNat 12 (satNat 12 (estimate s w)), counted := allCounted })) := by
  simp only [exec, execDamperWindow]
  rw [if_neg (not_not_intro hlen), if_neg (by simp [hpower])]

/-- Once every domain is counted, no full-activity watts are added. -/
theorem uncounted_all {p : PowerSt} (h : p.counted = 0x7F) : uncounted p = 0 := by
  simp [uncounted, h, fullWatts]

/-- Before the first window all domains count with their full activity. -/
theorem uncounted_none {p : PowerSt} (h : p.counted = 0) : uncounted p = 3387 := by
  simp [uncounted, h, fullWatts]

theorem estimate_all (h : s.power.counted = 0x7F) (w : WindowIn) :
    estimate s w = cubeWatts s + w.others + w.leakage + s.power.corr.toNat := by
  rw [estimate, if_neg (by rw [h]; decide), uncounted_all h, Nat.add_zero]

theorem estimate_none (h : s.power.counted = 0) (w : WindowIn) : estimate s w = 3387 + s.power.corr.toNat := by
  rw [estimate, if_pos h, uncounted_none h, Nat.zero_add]

theorem shareCap_near {p : PowerSt} {e : Nat} (hle : e ≤ p.cap.toNat) (hnear : p.cap.toNat ≤ e + 64) (powers : List Nat) :
    shareCap p powers e = p := by
  simp only [shareCap]
  rw [if_neg (by omega), if_neg (by omega)]

/-! ### Configuration -/

theorem exec_dmpCapCfgWrite_taken {v : W64} (hlow : 1800 ≤ field v.toNat 0 12) (hhigh : field v.toNat 0 12 ≤ 3200)
    (hranks : ranksClash v.toNat = false) : exec (.dmpCapCfgWrite v) s = .next (setPower s { s.power with
      cap := BitVec.ofNat 12 (field v.toNat 0 12), rlink := BitVec.ofNat 2 (field v.toNat 16 2)
      rmem := BitVec.ofNat 2 (field v.toNat 18 2), rcore := BitVec.ofNat 2 (field v.toNat 20 2)
      rgrate := BitVec.ofNat 2 (field v.toNat 22 2), capErr := s.power.capErr && !(bitAt v.toNat 63) }) := by
  simp only [exec, execDmpCapCfgWrite, writeCap]
  rw [if_neg (by simp [hranks, hlow, hhigh])]

theorem exec_dmpCapCfgWrite_refused {v : W64}
    (hbad : field v.toNat 0 12 < 1800 ∨ 3200 < field v.toNat 0 12 ∨ ranksClash v.toNat = true) :
    exec (.dmpCapCfgWrite v) s =
      .next ((setPower s { s.power with capErr := true }).logTag .dmp 0 470 (field v.toNat 0 12)) := by
  simp only [exec, execDmpCapCfgWrite, writeCap]
  rw [if_pos hbad]

theorem exec_dmpDroopCfgWrite (v : W64) : exec (.dmpDroopCfgWrite v) s =
    if field v.toNat 0 4 < 2 ∨ 8 < field v.toNat 0 4 ∨ field v.toNat 4 6 < 8 then .next (s.logTag .dmp 0 475 v.toNat)
    else .next (setPower s { s.power with
      droopThr := BitVec.ofNat 4 (field v.toNat 0 4), droopLen := BitVec.ofNat 6 (field v.toNat 4 6) }) :=
  apply_ite Host.Outcome.next _ _ _

theorem exec_correctionUpdate_ready (hstk : readyStk s = true) (hpower : s.power.pkgPower = true) (m : BitVec 12) :
    exec (.correctionUpdate m) s = .next (writeCorr s (m.toNat + s.power.corr.toNat - s.power.est.toNat)) := by
  simp only [exec, execCorrectionUpdate]
  rw [if_neg (by simp [hstk, hpower])]

/-! ### Droops, the slew governor, dips and heat -/

theorem exec_droopDetect_ready {g : GrateNo} (hready : readyHth s (g.val / 24) = true) (limited : Bool) :
    exec (.droopDetect g limited) s = .next (setPower s { s.power with
      droops := satAdd s.power.droops 1
      bursts := if limited then s.power.bursts else Tab.put 0 s.power.bursts g.val s.power.droopLen.toNat }) := by
  simp only [exec, execDroopDetect]
  rw [if_neg (by simp [hready])]

/-- The governor's move: one step toward the aim where there is slack. -/
theorem governed_step {slack : Bool} {old aim new : Nat} (hstay : slack = false ∨ aim = old → new = old)
    (hup : slack = true → old < aim → new = old + 1) (hdown : slack = true → aim < old → new + 1 = old) :
    (if (!slack) = true then old else if old < aim then old + 1 else if aim < old then old - 1 else old) = new := by
  cases slack with
  | false => exact (hstay (.inl rfl)).symm
  | true =>
    have := hup rfl
    have := hdown rfl
    rw [if_neg (by decide)]
    split_ifs <;> grind

theorem exec_slewGovernorStep_next {u : GovUnit} {demand : BitVec 7} (hdemand : demand.toNat ≤ 64) (slack : Bool) {new : Nat}
    (hnew : (if (!slack) = true then Tab.get 0 s.power.governed (govUnit u)
      else if Tab.get 0 s.power.governed (govUnit u) < min demand.toNat (unitLevel s.power u) then
        Tab.get 0 s.power.governed (govUnit u) + 1
      else if min demand.toNat (unitLevel s.power u) < Tab.get 0 s.power.governed (govUnit u) then
        Tab.get 0 s.power.governed (govUnit u) - 1
      else Tab.get 0 s.power.governed (govUnit u)) = new) :
    exec (.slewGovernorStep u demand slack) s = .next (endTapers (setPower s { s.power with
      governed := Tab.put 0 s.power.governed (govUnit u) new
      ballast := Tab.put 0 s.power.ballast (govUnit u) (new - min demand.toNat new) })) := by
  simp only [exec, execSlewGovernorStep]
  rw [if_neg (by omega), hnew]

theorem exec_dipDetect_first {x : Supply} (hfeed : s.power.feedOn = true) (hpower : x = .feed ∨ s.power.pkgPower = true)
    (hfirst : supplyCode x ∉ s.power.dipping) (m : W32) : exec (.dipDetect x m) s = .next ((setPower s { s.power with
      clamp := true, hold := false, dips := satAdd s.power.dips 1, dipping := s.power.dipping ++ [supplyCode x] }).logTag
        .dmp (supplyCode x) 483 m.toNat) := by
  simp only [exec, execDipDetect]
  rw [if_neg ?_]
  rcases hpower with rfl | hpower
  · simpa [hfeed] using hfirst
  · simpa [hfeed, hpower] using hfirst

theorem exec_dipRecover_in {x : Supply} (hin : supplyCode x ∈ s.power.dipping) : exec (.dipRecover x) s =
    .next (setPower s { s.power with dipping := s.power.dipping.filter (fun k => decide (k ≠ supplyCode x))
                                     hold := (s.power.dipping.filter (fun k => decide (k ≠ supplyCode x))).isEmpty
                                     holdFrom := s.elapsed }) := by
  simp only [exec, execDipRecover]
  rw [if_pos (by simpa using hin)]

theorem exec_dipHoldEnd_due (hhold : s.power.hold = true) (hdue : 22500 ≤ s.elapsed - s.power.holdFrom) :
    exec .dipHoldEnd s = .next (setPower s { s.power with hold := false, clamp := false }) := by
  simp only [exec, execDipHoldEnd]
  rw [if_pos ⟨hhold, hdue⟩]

/-- The next ceiling by the hottest sensor (Table 16.8). -/
theorem thermal_step {hot : Int} {n c floor new : Nat} (hcool : hot < 92 * 16 → new = min n (c + 1))
    (hwarm : 92 * 16 ≤ hot → hot < 95 * 16 → new = c) (hhot : 95 * 16 ≤ hot → hot < 105 * 16 → new = max floor (c - 1))
    (htop : 105 * 16 ≤ hot → new = n / 4) :
    (if hot < 92 * 16 then min n (c + 1) else if hot < 95 * 16 then c
      else if hot < 105 * 16 then max floor (c - 1) else n / 4) = new := by
  split_ifs <;> omega

theorem domFloor_die (die : Fin 5) : domFloor (if die.val = 4 then 2 else 3) = if die.val = 4 then 4 else 2 := by
  split <;> rfl

theorem exec_thermalStep_on {die : Fin 5} {hot : BitVec 16} (hpower : s.power.pkgPower = true) {new : Nat}
    (hnew : (if hot.toInt < 92 * 16 then min (ceilSteps die) (ceiling s.power die + 1)
      else if hot.toInt < 95 * 16 then ceiling s.power die
      else if hot.toInt < 105 * 16 then max (if die.val = 4 then 4 else 2) (ceiling s.power die - 1)
      else ceilSteps die / 4) = new) :
    exec (.thermalStep die hot) s =
      .next (setPower s { s.power with ceilings := Tab.put (ceilSteps die) s.power.ceilings die new }) := by
  simp only [exec, execThermalStep, domFloor_die]
  rw [if_neg (by simp [hpower]), hnew]

theorem exec_thermalTrip_on (hpower : s.power.pkgPower = true) (die : Fin 5) : exec (.thermalTrip die) s =
    .next (mirrorLog (setPower (removePower (s.logTag .dmp die 486 0))
      { (removePower (s.logTag .dmp die 486 0)).power with tripped := some (removePower (s.logTag .dmp die 486 0)).elapsed })) := by
  simp only [exec, execThermalTrip]
  rw [if_neg (by simp [hpower])]

end

/-- Settles O47. The formula of the correction is log 48, CLAMP ending with the hold log 84, and DROOPS counting the limited droops
log 87. -/
theorem damperEstimatesSharesAndProtects : Obligations.DamperEstimatesSharesAndProtects := by
  refine ⟨⟨?window, ?estimate, ?near, ?cap, ?capErr, ?droopCfg, ?corr, ?update⟩,
    ?droop, ?slew, ?dip, ?recover, ?holdEnd, ?thermal, ?trip⟩
  case window => exact fun w s hlen hpower => exec_damperWindow_on hlen hpower
  case estimate => exact fun s w => ⟨fun h => estimate_all h w, fun h => estimate_none h w⟩
  case near => exact fun p powers e hle hnear => shareCap_near hle hnear powers
  case cap => exact fun v s hlow hhigh hranks => exec_dmpCapCfgWrite_taken hlow hhigh hranks
  case capErr => exact fun v s hbad => exec_dmpCapCfgWrite_refused hbad
  case droopCfg =>
    refine fun v s => ⟨fun hthr hthr' hlen => ?_, fun hbad => ?_⟩
    · exact (exec_dmpDroopCfgWrite v).trans (if_neg (by omega))
    · exact (exec_dmpDroopCfgWrite v).trans (if_pos hbad)
  case corr => exact fun v s => rfl
  case update => exact fun m s hstk hpower => exec_correctionUpdate_ready hstk hpower m
  case droop => exact fun g limited s hready => exec_droopDetect_ready hready limited
  case slew =>
    rintro u demand slack s k old aim new hdemand rfl rfl rfl hstay hup hdown
    exact exec_slewGovernorStep_next hdemand slack (governed_step hstay hup hdown)
  case dip => exact fun x m s hfeed hpower hfirst => exec_dipDetect_first hfeed hpower hfirst m
  case recover => rintro x s rest hin rfl; exact exec_dipRecover_in hin
  case holdEnd => exact fun s hhold hdue => exec_dipHoldEnd_due hhold hdue
  case thermal =>
    rintro die hot s n new hpower rfl hcool hwarm hhot htop
    exact exec_thermalStep_on hpower (thermal_step hcool hwarm hhot htop)
  case trip => rintro die s u hpower rfl; exact exec_thermalTrip_on hpower die

end Sys2Proof
end

section
/-! Clocks, the feed, supply losses and power-downs (R463 to R465, R484, R485, R550, R591, R599). -/

namespace Sys2Proof

open Sys2Proof.Machine

section

variable {s : State}

/-! ### Clocks -/

theorem exec_rootPllLock_fed (hfeed : s.power.feedOn = true) (hsoft : s.power.softStart = false) (hlock : s.power.clk.rlock = false) :
    exec .rootPllLock s =
      .next (entered (setPower s { s.power with clk := { s.power.clk with rlock := true, refok := true } }) 200) := by
  simp only [exec, execRootPllLock]
  rw [if_neg (by simp [hfeed, hsoft, hlock])]

theorem exec_slavePllLockLost_locked {d : DieNo} (hlock : s.power.clk.slock.getLsbD d.val = true) :
    exec (.slavePllLockLost d) s = .next (hearthReset (setPower s { s.power with
      clk := { s.power.clk with slost := s.power.clk.slost ||| BitVec.ofNat 4 (2 ^ d.val) } }) d 0x0B) := by
  simp only [exec, execSlavePllLockLost]
  rw [if_neg (by simp [hlock])]

theorem exec_refclkLost_ok (href : s.power.clk.refok = true) : exec .refclkLost s = .next (startDown
    ((List.range 18).foldl (fun v f => if alive (v.fl f).st then linkDown v f 2 else v)
      ((List.range 4).foldl (fun v h => hostLost v h 1)
        (setPower s { s.power with clk := { s.power.clk with refok := false, reflost := true, hold := true } }))) 3) := by
  simp only [exec, execRefclkLost]
  rw [if_neg (by simp [href])]

theorem exec_refclkReturn_held (hhold : s.power.clk.hold = true) (href : s.power.clk.refok = false) : exec .refclkReturn s =
    .next (setPower s { s.power with clk := { s.power.clk with refok := true, hold := false } }) := by
  simp only [exec, execRefclkReturn]
  rw [if_pos (by simp [hhold, href])]

/-! ### The feed and the supplies -/

theorem exec_feedApplied_enough {mv : W32} (hoff : s.power.feedOn = false) (hmv : 39000 < mv.toNat) :
    exec (.feedApplied mv) s = .next (resetEvent
      { s with power := { s.power with feedOn := true, sense := true, softStart := true, pkgPower := true, lossSeen := false }
               kindle := { s.kindle with lastKind := 0 } } 0 0 (if s.power.lossSeen then 2 else 1)) := by
  simp only [exec, execFeedApplied]
  rw [if_neg (by simpa [hoff] using hmv)]
  rfl

theorem exec_softStartDone_begun (hfeed : s.power.feedOn = true) (hsoft : s.power.softStart = true) :
    exec .softStartDone s = .next (setPower s { s.power with softStart := false }) := by
  simp only [exec, execSoftStartDone]
  rw [if_pos (by simp [hfeed, hsoft])]

theorem exec_supplyLoss_fed (hfeed : s.power.feedOn = true) : exec .supplyLoss s = .next (feedLost s) := if_pos hfeed

theorem exec_senseOpen_fed (hfeed : s.power.feedOn = true) (hsense : s.power.sense = true) :
    exec .senseOpen s = .next (feedLost s) := if_pos (by simp [hfeed, hsense])

theorem exec_supplyResetLevel_feed (hfeed : s.power.feedOn = true) :
    exec (.supplyResetLevel .feed) s = .next (feedLost (s.logTag .dmp 0 484 0)) := if_neg (by simp [hfeed])

section
variable (hfeed : s.power.feedOn = true) (hpower : s.power.pkgPower = true)
include hfeed hpower

theorem exec_supplyResetLevel_hearth (d : DieNo) :
    exec (.supplyResetLevel (.hearth d)) s = .next (hearthReset (s.logTag .dmp (1 + d.val) 484 0) d 0x0C) :=
  if_neg (by simp [hfeed, hpower])

theorem exec_supplyResetLevel_chimney :
    exec (.supplyResetLevel .chimney) s = .next (packageReset (s.logTag .dmp 5 484 0) 6) := if_neg (by simp [hfeed, hpower])

theorem exec_supplyResetLevel_lpddr (d : DieNo) :
    exec (.supplyResetLevel (.lpddr d)) s = .next (packageReset (s.logTag .dmp (6 + d.val) 484 0) 6) :=
  if_neg (by simp [hfeed, hpower])

end

/-! ### The orderly power-down -/

theorem exec_orderlyPowerDown_begun {why : BitVec 3} (hlow : 1 ≤ why.toNat) (hhigh : why.toNat ≤ 4)
    (hpower : s.power.pkgPower = true) (hdown : s.stoker.downFor = why.toNat) : exec (.orderlyPowerDown why) s =
      if (!(drained s)) = true then .next s else if (!(writtenBack s)) = true then .next (writeBackAll s) else .next (removePower s) := by
  simp only [exec, execOrderlyPowerDown]
  rw [if_neg (by omega), if_neg (by simp [hpower, hdown])]

end

/-- Settles O48. That an orderly power-down is taken again by a later command of the same name, once all has drained and been written
back, is log 88. -/
theorem clocksAndTheFeedAreFollowed : Obligations.ClocksAndTheFeedAreFollowed := by
  refine ⟨?feed, ?softStart, ?rootLock, ?slaveLost, ?refLost, ?refReturn, ?supplies, ?powerDown⟩
  case feed => rintro mv s u hoff hmv rfl; exact exec_feedApplied_enough hoff hmv
  case softStart => exact fun s hfeed hsoft => exec_softStartDone_begun hfeed hsoft
  case rootLock => exact fun s hfeed hsoft hlock => exec_rootPllLock_fed hfeed hsoft hlock
  case slaveLost => exact fun d s hlock => exec_slavePllLockLost_locked hlock
  case refLost => rintro s u v href rfl rfl; exact exec_refclkLost_ok href
  case refReturn => exact fun s hhold href => exec_refclkReturn_held hhold href
  case supplies =>
    exact fun s hfeed => ⟨exec_supplyLoss_fed hfeed, exec_senseOpen_fed hfeed, exec_supplyResetLevel_feed hfeed, fun hpower =>
      ⟨exec_supplyResetLevel_hearth hfeed hpower, exec_supplyResetLevel_chimney hfeed hpower,
        exec_supplyResetLevel_lpddr hfeed hpower⟩⟩
  case powerDown =>
    intro why s hlow hhigh hpower hdown
    rw [exec_orderlyPowerDown_begun hlow hhigh hpower hdown]
    exact ⟨fun hdrained hback => by simp [hdrained, hback], fun hdrained hback => by simp [hdrained, hback],
      fun hdrained => by simp [hdrained]⟩

end Sys2Proof
end

section
/-! What a package reset leaves (R504, R582, Table 17.7, Table 21.19). -/

namespace Sys2Proof

open Sys2Proof.Machine

section

variable (s : State) (bit kind cause : Nat)

/-! ### The event of a reset changes neither kindling nor fuses -/

@[simp] theorem resetEvent_kindle : (resetEvent s bit kind cause).kindle = s.kindle := kindleEvent_kindle s bit 3 kind cause

@[simp] theorem resetEvent_tick : (resetEvent s bit kind cause).tick = s.tick :=
  (kept_kindleEvent_start s bit 3 kind cause).frame .tick (by decide)

@[simp] theorem resetEvent_trust : (resetEvent s bit kind cause).trust = s.trust :=
  (kept_kindleEvent_start s bit 3 kind cause).frame .trust (by decide)

@[simp] theorem resetEvent_mirror : (resetEvent s bit kind cause).stoker.mirror = s.stoker.mirror := by
  obtain ⟨_, _, hstoker⟩ := (quiet_kindleEvent (Quiet.refl s) 3 bit kind cause).stoker
  rw [resetEvent, hstoker]

end

/-- What a package reset keeps of kindling, the fuses, the timebase and the mirror. -/
structure ManagementKept (s t : State) : Prop where
  ready : t.kindle.ready0 = (s.kindle.ready0 &&& 3)
  images : t.kindle.images = s.kindle.images
  manifests : t.kindle.manifests = s.kindle.manifests
  tick : t.tick = s.tick
  cstep : t.trust.cstep = s.trust.cstep
  hsteps : t.trust.hsteps = s.trust.hsteps
  arb : t.trust.arb = s.trust.arb
  mirror : t.stoker.mirror = s.stoker.mirror

theorem managementKept_packageWiped (s : State) : ManagementKept s (packageWiped s) := ⟨rfl, rfl, rfl, rfl, rfl, rfl, rfl, rfl⟩

theorem managementKept_packageReset (s : State) (cause : Nat) : ManagementKept s (packageReset s cause) := by
  obtain ⟨hready, himages, hmanifests, htick, hcstep, hhsteps, harb, hmirror⟩ :=
    managementKept_packageWiped (resetEvent s 0 2 cause)
  simp only [resetEvent_kindle, resetEvent_tick, resetEvent_trust, resetEvent_mirror] at *
  exact ⟨hready, himages, hmanifests, htick, hcstep, hhsteps, harb, hmirror⟩

/-- A command that goes on is a package reset, by its cause or by that of the restart after a trip. -/
theorem packageReset_of_exec {s t : State} {cause : BitVec 5} (h : exec (.packageReset cause) s = .next t) :
    ∃ n, t = packageReset s n := by
  simp only [exec, execPackageReset] at h
  split at h
  · cases h
  split at h
  · cases h
  cases htrip : s.power.tripped with
  | some since =>
    simp only [htrip] at h
    split at h
    · exact ⟨7, (Host.Outcome.next.inj h).symm⟩
    · cases h
  | none =>
    simp only [htrip] at h
    split at h
    · cases h
    · exact ⟨cause.toNat, (Host.Outcome.next.inj h).symm⟩

/-- Settles O51. That memory reads zero after the reset is log 14 and log 89. -/
theorem packageResetKeepsTheManagementDomain : Obligations.PackageResetKeepsTheManagementDomain := by
  intro s t cause h
  obtain ⟨n, rfl⟩ := packageReset_of_exec h
  obtain ⟨hready, himages, hmanifests, htick, hcstep, hhsteps, harb, hmirror⟩ := managementKept_packageReset s n
  exact ⟨rfl, hready, rfl, rfl, rfl, rfl, rfl, rfl, rfl, htick, hcstep, hhsteps, harb, himages, hmanifests, hmirror, rfl, rfl⟩

end Sys2Proof
end

section
/-! Resets are taken by the cause that asks for them (R481, R504 to R507, R596, Table 17.7). -/

namespace Sys2Proof

open Sys2Proof.Machine

section

variable {s : State}

/-! ### A hart's request -/

/-- A device access of a hart that is ready and has no store left. -/
theorem devCommand_hart {who : HartNo} (hready : hartReady s who = true) (hdrained : (s.ht who).sb = []) (user : Bool) (run : State) :
    devCommand (.core who user) s run = .next (deliverLost run who) := by
  refine devCommand_next hready ?_ (fun h mode hwho => ?_) (fun p hwho => ?_) (fun hwho => ?_)
  · simp [devDrained, hdrained]
  · cases hwho; rfl
  · cases hwho
  · simp at hwho

theorem resetRequest_badKey {key : Byte} (hkey : key ≠ 0xA5) (h : Nat) (clu : BitVec 12) (hth : BitVec 4) (pkg : Bool) :
    resetRequest s h clu hth pkg key = resetErr s := if_pos (.inl hkey)

theorem resetRequest_own {h : Nat} {clu : BitVec 12} (hown : clu.getLsbD (clusterOf h) = true) (hth : BitVec 4) (pkg : Bool)
    (key : Byte) : resetRequest s h clu hth pkg key = resetErr s := if_pos (.inr hown)

theorem resetRequest_package (h : Nat) : resetRequest s h 0 0 true 0xA5 = packageReset s 8 := by
  simp only [resetRequest]
  rw [if_neg (by simp), if_pos trivial]

theorem resetRequest_home {m : BitVec 4} (hhome : (s.kindle.rtSet && m.getLsbD s.kindle.rtdie.toNat) = true) (h : Nat) :
    resetRequest s h 0 m false 0xA5 = packageReset s 0x0A := by
  simp only [resetRequest]
  rw [if_neg (by simp), if_neg (by simp), if_pos hhome]

/-- A mask without a bit resets nothing. -/
theorem foldl_zero_mask {w : Nat} (f : State → Nat → State) (l : List Nat) :
    l.foldl (fun v n => if (0 : BitVec w).getLsbD n then f v n else v) s = s := by
  induction l with
  | nil => rfl
  | cons n l ih => simp

theorem resetRequest_hearths {m : BitVec 4} (haway : (s.kindle.rtSet && m.getLsbD s.kindle.rtdie.toNat) = false) (h : Nat) :
    resetRequest s h 0 m false 0xA5 =
      (List.range 4).foldl (fun v d => if m.getLsbD d then hearthReset v d 0x0D else v) s := by
  simp only [resetRequest]
  rw [if_neg (by simp), if_neg (by simp), if_neg (by simp [haway]), foldl_zero_mask]

theorem resetRequest_clusters {h : Nat} {m : BitVec 12} (hother : m.getLsbD (clusterOf h) = false) :
    resetRequest s h m 0 false 0xA5 =
      (List.range 12).foldl (fun v c => if m.getLsbD c then clusterReset v c 0x0F else v) s := by
  simp only [resetRequest]
  rw [if_neg (by simp [hother]), if_neg (by simp), if_neg (by simp), foldl_zero_mask]

/-! ### Causes of module, package, die and cluster scope -/

theorem exec_moduleReset_fed {cause : BitVec 5} (hlow : 3 ≤ cause.toNat) (hhigh : cause.toNat ≤ 5) (hfeed : s.power.feedOn = true) :
    exec (.moduleReset cause) s = .next (moduleReset s cause.toNat) := by
  simp only [exec, execModuleReset]
  rw [if_neg (by omega), if_neg (by simp [hfeed])]

theorem exec_packageReset_untripped {cause : BitVec 5} (hlow : 6 ≤ cause.toNat) (hhigh : cause.toNat ≤ 10) (hcause : cause ≠ 7)
    (hfeed : s.power.feedOn = true) (hstage : s.kindle.stage ≠ 0) (htrip : s.power.tripped = none) :
    exec (.packageReset cause) s = .next (packageReset s cause.toNat) := by
  simp only [exec, execPackageReset, htrip]
  rw [if_neg (by omega), if_neg (by simpa [hfeed] using fun h => absurd h hstage), if_neg hcause]

theorem exec_packageReset_tripped {t : Nat} (hfeed : s.power.feedOn = true) (htrip : s.power.tripped = some t)
    (hdue : 2250000000 ≤ s.elapsed - t) (hcool : coolantOk s = true) (hdown : s.stoker.downFor ≠ 1) :
    exec (.packageReset 7) s = .next (packageReset s 7) := by
  simp only [exec, execPackageReset, htrip]
  rw [if_neg (by decide), if_neg (by simp [hfeed]), if_pos ⟨trivial, hdue, hcool, hdown⟩]

theorem exec_hearthDieReset_on {cause : BitVec 5} (hlow : 0x0B ≤ cause.toNat) (hhigh : cause.toNat ≤ 0x0E)
    (hpower : s.power.pkgPower = true) (d : DieNo) : exec (.hearthDieReset d cause) s = .next (hearthReset s d cause.toNat) := by
  simp only [exec, execHearthDieReset]
  rw [if_neg (by omega), if_neg (by simp [hpower])]

section
variable {d : Nat}

theorem hearthReset_home (h : s.kindle.rtSet = true ∧ s.kindle.rtdie.toNat = d) (cause : Nat) :
    hearthReset s d cause = packageReset s 0x0A := if_pos (by simp [h])

variable (haway : ¬ (s.kindle.rtSet = true ∧ s.kindle.rtdie.toNat = d))
include haway

theorem hearthReset_away (cause : Nat) : hearthReset s d cause = if tapered s d then hearthGone s d cause
    else { s with power := { s.power with taper := Tab.put 0 s.power.taper d cause } } := if_neg (by simpa using haway)

end

theorem exec_clusterReset_on {cause : BitVec 5} (hcause : cause = 0x0F ∨ cause = 0x10) (hpower : s.power.pkgPower = true)
    (c : Fin 12) : exec (.clusterReset c cause) s = .next (clusterReset s c cause.toNat) := by
  simp only [exec, execClusterReset]
  rw [if_neg (by grind), if_neg (by simp [hpower])]

/-! ### The pin RST# -/

/-- RST# as a level. -/
def holdReset (s : State) (low : Bool) : State := { s with kindle := { s.kindle with rstLow := low } }

theorem exec_rstAssert (s : State) : exec .rstAssert s =
    .next (if s.power.feedOn && !s.power.softStart then moduleReset (holdReset s true) 4 else holdReset s true) := rfl

theorem exec_rstRelease_low (hlow : s.kindle.rstLow = true) : exec .rstRelease s = .next (holdReset s false) := if_pos hlow

end

/-- Settles O50. That a request whose masks are zero resets nothing is log 106. -/
theorem resetsAreTakenByTheirCause : Obligations.ResetsAreTakenByTheirCause := by
  refine ⟨?requests, ?module, ?package, ?restart, ?hearth, ?cluster, ?pin⟩
  case requests =>
    rintro who s err hready hdrained rfl
    refine ⟨fun m hother => ?clusters, fun m haway => ?hearths, fun m hset hhome => ?home, ?pkg, fun m key hbad => ?own,
      fun m key hkey => ⟨?keyHearth, ?keyPkg⟩⟩ <;> refine (devCommand_hart hready hdrained false _).trans ?_
    case clusters => rw [resetRequest_clusters hother]
    case hearths => rw [resetRequest_hearths haway]
    case home => rw [resetRequest_home (by simp [hset, hhome])]
    case pkg => rw [resetRequest_package]
    case own =>
      rcases hbad with hkey | hown
      · rw [resetRequest_badKey hkey, resetErr]
      · rw [resetRequest_own hown, resetErr]
    case keyHearth => rw [resetRequest_badKey hkey, resetErr]
    case keyPkg => rw [resetRequest_badKey hkey, resetErr]
  case module => exact fun cause s hlow hhigh hfeed => exec_moduleReset_fed hlow hhigh hfeed
  case package =>
    exact fun cause s hlow hhigh hcause hfeed hstage htrip => exec_packageReset_untripped hlow hhigh hcause hfeed hstage htrip
  case restart => exact fun s t hfeed htrip hdue hcool hdown => exec_packageReset_tripped hfeed htrip hdue hcool hdown
  case hearth =>
    intro d cause s hlow hhigh hpower
    rw [exec_hearthDieReset_on hlow hhigh hpower]
    exact ⟨fun hhome => by rw [hearthReset_home hhome], fun haway htaper => by rw [hearthReset_away haway, if_pos htaper],
      fun haway htaper => by rw [hearthReset_away haway, if_neg (by simp [htaper])]⟩
  case cluster =>
    exact fun c s hpower => ⟨exec_clusterReset_on (.inl rfl) hpower c, exec_clusterReset_on (.inr rfl) hpower c⟩
  case pin =>
    rintro s u rfl
    refine ⟨fun hfeed hsoft => ?_, fun hoff => ?_, exec_rstRelease_low rfl⟩
    · rw [exec_rstAssert, if_pos (by simp [hfeed, hsoft]), holdReset]
    · rw [exec_rstAssert, if_neg (by rcases hoff with h | h <;> simp [h]), holdReset]

end Sys2Proof
end

section
/-! Thirun: anti-rollback raises, key generations, SPDM and debug tokens (R514, R515, R520 to R526, R532, R541 to R543, R563, R581). -/

namespace Sys2Proof

open Sys2Proof.Machine

section

variable {s u : State}

/-! ### Raises of a counter -/

section
variable {idx : BitVec 6} {val : BitVec 16}

theorem raiseBad_of_busy (hbusy : s.trust.arbBusy = true) (i v : Nat) : raiseBad s i v = true := by
  simp [raiseBad, hbusy]

theorem exec_arbRaise_idle (hidle : s.trust.arbBusy = false)
    (hu : u = { s with trust := { s.trust with arbIdx := idx, arbVal := val } }) : exec (.arbRaise idx val) s =
      .next (if raiseBad s idx.toNat val.toNat = true then setTrust u { u.trust with arbErr := true }
        else setTrust u { u.trust with arbBusy := true }) := by
  subst hu
  simp only [exec, execArbRaise, raiseStart]
  rw [if_neg (c := s.trust.arbBusy = true) (by simp [hidle])]
  rfl

/-- While a raise runs, its own fields stay, and other ones are logged (R581). -/
theorem exec_arbRaise_busy (hbusy : s.trust.arbBusy = true) (hsame : idx = s.trust.arbIdx ∧ val = s.trust.arbVal → u = s)
    (hother : ¬ (idx = s.trust.arbIdx ∧ val = s.trust.arbVal) → u = s.logTag .thn 0 581 idx.toNat) :
    exec (.arbRaise idx val) s = .next (setTrust u { u.trust with arbErr := true }) := by
  simp only [exec, execArbRaise, raiseStart]
  rw [if_pos (raiseBad_of_busy hbusy _ _), if_pos hbusy]
  split
  next h => rw [hsame h]
  next h => rw [hother h]

end

theorem exec_arbRaiseDone_free {read : BitVec 24} {k : Nat} (hbusy : s.trust.arbBusy = true)
    (hread : read &&& ~~~(arbIntended s.trust.arbVal) = 0) (hfree : arbFree s.trust s.trust.arbIdx.toNat = some k) :
    exec (.arbRaiseDone read) s = .next (Machine.measure (setTrust s { s.trust with
      arb := Tab.put 0 s.trust.arb (16 * s.trust.arbIdx.toNat + k) read, arbBusy := false
      arbErr := s.trust.arbErr || !(arbValid read) }) [9]) := by
  simp only [exec, execArbRaiseDone, hfree]
  rw [if_neg (by simp [hbusy]), if_neg (not_not_intro hread)]

/-! ### Key generations and key tables -/

section
variable {ctx : Ctx}

theorem keyBad_of_busy (hbusy : s.trust.keyBusy = true) (c op : Nat) : keyBad s c op = true := by
  simp [keyBad, hbusy]

theorem exec_keyGenerate_idle (hidle : s.trust.keyBusy = false)
    (hu : u = { s with trust := { s.trust with keyCtx := ctx, keyOp := 1 } }) : exec (.keyGenerate ctx) s =
      .next (if keyBad s ctx.toNat 1 = true then setTrust u { u.trust with keyErr := true }
        else setTrust u { u.trust with keyBusy := true }) := by
  subst hu
  simp only [exec, execKeyGenerate, keyStart]
  rw [if_neg (c := s.trust.keyBusy = true) (by simp [hidle])]
  rfl

theorem exec_keyGenerate_busy (hbusy : s.trust.keyBusy = true) (hsame : ctx = s.trust.keyCtx ∧ s.trust.keyOp = 1 → u = s)
    (hother : ¬ (ctx = s.trust.keyCtx ∧ s.trust.keyOp = 1) → u = s.logTag .thn 0 581 ctx.toNat) :
    exec (.keyGenerate ctx) s = .next (setTrust u { u.trust with keyErr := true }) := by
  simp only [exec, execKeyGenerate, keyStart, eq_comm (a := (1 : BitVec 3))]
  rw [if_pos (keyBad_of_busy hbusy _ _), if_pos hbusy]
  split
  next h => rw [hsame h]
  next h => rw [hother h]

end

theorem exec_keyGenerateDone_busy (hbusy : s.trust.keyBusy = true) : exec .keyGenerateDone s = .next (setTrust s { s.trust with
    keyBusy := false, keyGen := Tab.put 0 s.trust.keyGen s.trust.keyCtx.toNat (Tab.get 0 s.trust.keyGen s.trust.keyCtx.toNat + 1) }) := by
  simp only [exec, execKeyGenerateDone]
  rw [if_neg (by simp [hbusy])]

theorem exec_keyTableReinstallDone_waiting {c : Fin 32} (hwait : Tab.get false s.trust.tableWait c.val = true) :
    exec (.keyTableReinstallDone c) s = .next (settleAll (ringsGo (wakeHomes
      (setTrust s { s.trust with tableWait := Tab.put false s.trust.tableWait c.val false })))) := if_pos hwait

/-! ### SPDM -/

section
variable {path : SpdmPath}

theorem spdmAnswer_signed {salt : BitVec 512} (hfree : takeFree 512 s = (salt, u)) (hcert : s.trust.certOk = true) (what : Nat)
    (fields : List Nat) : spdmAnswer s path what fields =
      u.emit (.mgmt what (pathKey path :: fields ++ [Config.identitySign (what :: fields) salt])) := by
  simp only [spdmAnswer, hfree]
  exact if_pos hcert

theorem spdmAnswer_unsigned (hcert : s.trust.certOk = false) (what : Nat) (fields : List Nat) :
    spdmAnswer s path what fields = s.emit (.mgmt 0x2F [pathKey path]) := if_neg (by simp [hcert])

variable (hopen : pathOpen s path = true)
include hopen

theorem exec_getMeasurements_open (nonce : BitVec 256) : exec (.getMeasurements path nonce) s = .next (spdmAnswer s path 0x20
    (nonce.toNat :: (measuredIndices s).flatMap (fun i => [i, (measurement s i).toNat]))) := if_pos hopen

theorem exec_challenge_open (nonce : BitVec 256) : exec (.challenge path nonce) s = .next (spdmAnswer s path 0x21 [nonce.toNat]) :=
  if_pos hopen

theorem exec_keyExchange_refused (h : s.trust.certOk = false ∨ pathLimit path ≤ Tab.get 0 s.trust.sessions (pathKey path)) :
    exec (.keyExchange path) s = .next (s.emit (.mgmt 0x2F [pathKey path])) := by
  simp only [exec, execKeyExchange]
  rw [if_neg (by simp [hopen]), if_pos (by simpa using h)]

theorem exec_keyExchange_free (hcert : s.trust.certOk = true) (hfree : Tab.get 0 s.trust.sessions (pathKey path) < pathLimit path) :
    exec (.keyExchange path) s = .next (spdmAnswer (setTrust s { s.trust with
      sessions := Tab.put 0 s.trust.sessions (pathKey path) (Tab.get 0 s.trust.sessions (pathKey path) + 1) }) path 0x22
        [Tab.get 0 s.trust.sessions (pathKey path)]) := by
  simp only [exec, execKeyExchange]
  rw [if_neg (by simp [hopen]), if_neg (by simpa [hcert] using hfree)]

end

/-! ### Debug tokens -/

/-- What a token leaves in Thirun: in any case a new challenge. -/
def afterToken (t : TrustSt) (ok : Bool) (level : Nat) : TrustSt :=
  if !ok then { t with challenge := t.challenge + 1 }
  else if level = 1 then { t with challenge := t.challenge + 1, level := if t.level = 0 then 1 else t.level }
  else { t with challenge := t.challenge + 1, dbgPend := 2 }

section
variable {body : BitVec 1024} {cert sig : Bool} (hstk : readyStk s = true) (hthn : readyThn s = true)
include hstk hthn

theorem exec_debugToken_vdm : exec (.debugToken .vdm body cert sig) s = .next (refuseMsg s 0x14) := by
  simp only [exec, execDebugToken]
  rw [if_neg (by simp [hstk, hthn]), if_pos (by decide)]

theorem exec_debugToken_i3c {ok : Bool} (hok : tokenOk s.trust body cert sig = ok) : exec (.debugToken .i3c body cert sig) s =
    .next ((setTrust s (afterToken s.trust ok (field body.toNat 16 2))).emit (.mgmt 0x23 [boolNat ok])) := by
  simp only [exec, execDebugToken, hok]
  rw [if_neg (by simp [hstk, hthn]), if_neg (not_not_intro rfl)]
  rfl

end

end

/-- Settles O52. That the operands of a refused start are written is log 95, the format of a token log 96, the fields that a signature
covers log 97, and its salt log 150. -/
theorem thirunCountersKeysAndAttestation : Obligations.ThirunCountersKeysAndAttestation := by
  refine ⟨⟨?raise, ?raiseBusy, ?raiseDone, ?key, ?keyBusy, ?keyDone, ?table⟩, ?spdm, ?token⟩
  case raise =>
    intro idx val s u hidle hu
    rw [exec_arbRaise_idle hidle hu]
    exact ⟨fun hgood => by rw [if_neg (by simp [hgood]), setTrust], fun hbad => by rw [if_pos hbad, setTrust]⟩
  case raiseBusy => exact fun idx val s u hbusy hsame hother => exec_arbRaise_busy hbusy hsame hother
  case raiseDone => exact fun read s k hbusy hread hfree => exec_arbRaiseDone_free hbusy hread hfree
  case key =>
    intro ctx s u hidle hu
    rw [exec_keyGenerate_idle hidle hu]
    exact ⟨fun hgood => by rw [if_neg (by simp [hgood]), setTrust], fun hbad => by rw [if_pos hbad, setTrust]⟩
  case keyBusy => exact fun ctx s u hbusy hsame hother => exec_keyGenerate_busy hbusy hsame hother
  case keyDone => exact fun s hbusy => exec_keyGenerateDone_busy hbusy
  case table => exact fun c s hwait => exec_keyTableReinstallDone_waiting hwait
  case spdm =>
    rintro path nonce s u v salt n fields hopen rfl
    refine ⟨fun hcert hfree => ⟨?_, ?_⟩, fun hcert hroom hfree => ?_, exec_keyExchange_refused hopen, fun hcert => ⟨?_, ?_⟩⟩
    · rintro rfl
      rw [exec_getMeasurements_open hopen, spdmAnswer_signed hfree hcert, measuredIndices]
    · rw [exec_challenge_open hopen, spdmAnswer_signed hfree hcert]
      rfl
    · exact (exec_keyExchange_free hopen hcert hroom).trans (congrArg _ (spdmAnswer_signed hfree hcert _ _))
    · rw [exec_getMeasurements_open hopen, spdmAnswer_unsigned hcert]
    · rw [exec_challenge_open hopen, spdmAnswer_unsigned hcert]
  case token =>
    intro body cert sig s hstk hthn
    refine ⟨exec_debugToken_vdm hstk hthn, fun hok hlevel => ?_, fun hok hlevel => ?_, fun hok => ?_⟩ <;>
      rw [exec_debugToken_i3c hstk hthn hok]
    · rw [hlevel]
      rfl
    · rw [hlevel]
      rfl
    · rfl

end Sys2Proof
end

section
/-! The patrol scrub (R531, R561, R562). -/

namespace Sys2Proof

open Sys2Proof.Machine

/-- A line as the scrub leaves it: one whose tag does not match its keys is logged. -/
def tagChecked (s : State) (line : Nat) : State := if tagMatches s line then s else logTagFail s line

/-- An uncorrectable error counted at its controller and logged. -/
def uncorrected (s : State) (line : Nat) : State :=
  (s.setMctl (controllerOf (line * 128)) { s.mctl (controllerOf (line * 128)) with
    uncorr := satAdd (s.mctl (controllerOf (line * 128))).uncorr 1, addr := BitVec.ofNat 64 (line * 128) }).logE
      { src := .mem, unit := controllerOf (line * 128), kind := 0x17, code := 1, addr := line * 128 }

section

variable {s : State} {n : Nat}

theorem tagChecked_match (h : tagMatches s n = true) : tagChecked s n = s := if_pos h

theorem tagChecked_fail (h : tagMatches s n = false) : tagChecked s n = logTagFail s n := if_neg (by simp [h])

theorem uncorrected_mctl : (uncorrected s n).mctl (controllerOf (n * 128)) = { s.mctl (controllerOf (n * 128)) with
    uncorr := satAdd (s.mctl (controllerOf (n * 128))).uncorr 1, addr := BitVec.ofNat 64 (n * 128) } := by
  simp [uncorrected, State.mctl, State.setMctl]

theorem fromMemory_uncorrected : fromMemory (uncorrected s n) n = fromMemory s n := rfl

end

section

variable {s : State} {line : BitVec 45} (hmain : line.toNat * 128 < mainSize) (hready : channelReady s (line.toNat * 128) = true)
include hmain hready

theorem exec_patrolScrub_clean : exec (.patrolScrub line .clean) s = .next (tagChecked s line.toNat) := by
  simp only [exec, execPatrolScrub]
  rw [if_neg (by omega), if_neg (by simp [hready]), tagChecked]

theorem exec_patrolScrub_corrected : exec (.patrolScrub line .corrected) s =
    .next (tagChecked (s.setMctl (controllerOf (line.toNat * 128)) { s.mctl (controllerOf (line.toNat * 128)) with
      corr := satAdd (s.mctl (controllerOf (line.toNat * 128))).corr 1 }) line.toNat) := by
  simp only [exec, execPatrolScrub]
  rw [if_neg (by omega), if_neg (by simp [hready]), tagChecked]

theorem exec_patrolScrub_altered (cipher : LineData) (tag : BitVec 32) :
    exec (.patrolScrub line (.altered cipher tag)) s = .next (tagChecked (alterLine s line.toNat cipher tag) line.toNat) := by
  simp only [exec, execPatrolScrub]
  rw [if_neg (by omega), if_neg (by simp [hready]), tagChecked]

theorem exec_patrolScrub_uncorrectable : exec (.patrolScrub line .uncorrectable) s =
    if (!(fromMemory (uncorrected s line.toNat) line.toNat)) = true then .next (uncorrected s line.toNat)
    else .next { uncorrected s line.toNat with badLines := Tab.put 0 s.badLines line.toNat 1 } := by
  simp only [exec, execPatrolScrub]
  rw [if_neg (by omega), if_neg (by simp [hready])]
  rfl

end

/-- Settles O53. That a line is left failing its reads only where memory has its newest data is log 99, and that a tag that fails counts
as no memory error log 149. -/
theorem patrolScrubCountsWhatItFinds : Obligations.PatrolScrubCountsWhatItFinds := by
  rintro line s c m hmain hready rfl rfl
  refine ⟨?counted, ?altered, ?uncorrectable⟩
  case counted =>
    rintro u rfl
    rw [exec_patrolScrub_clean hmain hready, exec_patrolScrub_corrected hmain hready]
    exact ⟨fun h => by rw [tagChecked_match h], fun h => by rw [tagChecked_match h], fun h => by rw [tagChecked_fail h],
      fun h => by rw [tagChecked_fail h]⟩
  case altered =>
    rintro cipher tag u rfl
    rw [exec_patrolScrub_altered hmain hready]
    exact ⟨fun h => by rw [tagChecked_match h], fun h => by rw [tagChecked_fail h]⟩
  case uncorrectable =>
    rw [exec_patrolScrub_uncorrectable hmain hready, fromMemory_uncorrected]
    cases fromMemory s line.toNat with
    | false => exact ⟨_, rfl, uncorrected_mctl, rfl, nofun, fun _ => rfl⟩
    | true => exact ⟨_, rfl, uncorrected_mctl, rfl, fun _ => rfl, nofun⟩

end Sys2Proof
end

section
/-! Stoker's sensors, heartbeat and messages (R546 to R552, R557, R558, R601). -/

namespace Sys2Proof

open Sys2Proof.Machine

section

variable {s u : State}

/-! ### Sensors -/

/-- Only sensors of the package's domains can be without power. -/
theorem sensorUp_low {i : Nat} (hdown : sensorUp s i = false) : i < 212 := by
  by_contra hi
  rw [sensorUp, if_neg (by omega), if_neg hi] at hdown
  cases hdown

section
variable {i : Fin 220} {v : W32} (hstk : readyStk s = true)
include hstk

theorem exec_sensorSample_taken (hleak : ¬ (i.val = 219 ∧ 1 < v.toNat)) : exec (.sensorSample i v) s = .next (takeSample s i v) := by
  simp only [exec, execSensorSample]
  rw [if_neg (by simp [hstk]), if_neg hleak]

theorem exec_getSensorReading_ready :
    exec (.getSensorReading i) s = .next (s.emit (.mgmt 0x31 [i, (sensorOf s i).value.toNat, (sensorOf s i).stat.toNat])) :=
  if_neg (by simp [hstk])

end

/-- The sample of a sensor with power kept, and its crossing reported. -/
def sampleKept (s : State) (i : Nat) (v : W32) : State :=
  crossing (setStk s { s.stoker with sensors := Tab.put {} s.stoker.sensors i { value := v, stat := sensorStat i v.toInt } })
    i (sensorOf s i).stat (sensorStat i v.toInt) v

section
variable {i : Nat} {v : W32}

theorem takeSample_down (hup : sensorUp s i = false) : takeSample s i v =
    setStk s { s.stoker with sensors := Tab.put {} s.stoker.sensors i { sensorOf s i with stat := 3 } } := if_pos (by simp [hup])

variable (hup : sensorUp s i = true)
include hup

theorem takeSample_other (hi : i ≠ 219) : takeSample s i v =
    if (coolantBeyond i v.toInt && (sampleKept s i v).power.pkgPower) = true then startDown (sampleKept s i v) 2
    else sampleKept s i v := by
  simp only [takeSample]
  rw [if_neg (by simp [hup]), if_neg hi]
  rfl

theorem takeSample_leak (hi : i = 219) : takeSample s i v =
    if v = 0 then setStk (sampleKept s i v) { (sampleKept s i v).stoker with leak := false } else leakWet (sampleKept s i v) := by
  simp only [takeSample]
  rw [if_neg (by simp [hup]), if_pos hi]
  rfl

end

theorem exec_leakDetected_fed (hfeed : s.power.feedOn = true) : exec .leakDetected s = .next (leakWet s) := if_neg (by simp [hfeed])

/-- The limits of a junction's temperature (Table 16.8). -/
theorem sensorStat_junction {i : Nat} (hi : i < 144) (v : Int) :
    sensorStat i v = if 105 * 16 ≤ v then 2 else if 95 * 16 ≤ v then 1 else 0 := if_pos hi

/-! ### The heartbeat -/

theorem exec_heartbeatExpired_overdue (harmed : s.stoker.armed = true) (hdue : s.stoker.period.toNat * 225000 ≤ s.elapsed - s.stoker.kicked) :
    exec .heartbeatExpired s =
      .next (packageReset (s.logE { src := .stk, sev := 3, kind := 0x30, code := 5, data := s.stoker.period.toNat }) 9) :=
  if_pos ⟨harmed, hdue⟩

theorem heartbeatBy_runtime (h : HartNo) (v : Nat) : heartbeatBy s (.core h false) v = writeHeartbeat s v := rfl

theorem field_word (ms : BitVec 16) : field ms.toNat 0 16 = ms.toNat := Nat.mod_eq_of_lt ms.isLt

/-- A period alone carries no kick. -/
theorem bitAt_kick_word (ms : BitVec 16) : bitAt ms.toNat 17 = false :=
  Nat.testBit_lt_two_pow (ms.isLt.trans (by decide))

theorem writeHeartbeat_period {ms : BitVec 16} (hlow : 100 ≤ ms.toNat) (hhigh : ms.toNat ≤ 60000) :
    writeHeartbeat s ms.toNat = setStk s { s.stoker with period := ms } := by
  simp only [writeHeartbeat, field_word, bitAt_kick_word]
  rw [if_neg (by decide), if_pos ⟨hlow, hhigh⟩, BitVec.ofNat_toNat, BitVec.setWidth_eq]

theorem writeHeartbeat_outside {ms : BitVec 16} (h : ms.toNat < 100 ∨ 60000 < ms.toNat) : writeHeartbeat s ms.toNat = s := by
  simp only [writeHeartbeat, field_word, bitAt_kick_word]
  rw [if_neg (by decide), if_neg (by omega)]
  rfl

/-! ### Messages -/

theorem messageArrives_ready (hstk : readyStk s = true) {via : Mctp} (hvia : via = .i3c ∨ ∃ h : HostLinkNo, (s.host h).dlup = true) :
    messageArrives s via = true := by
  cases via with
  | i3c => exact hstk
  | vdm =>
    obtain ⟨h, hup⟩ := hvia.resolve_left (by simp)
    simp only [messageArrives, hstk, Bool.true_and, List.any_eq_true]
    exact ⟨h, List.mem_range.2 h.isLt, hup⟩

section
variable {via : Mctp} (harrives : messageArrives s via = true)
include harrives

theorem exec_logRead_few {n : BitVec 16} (hfew : n.toNat ≤ 64) (seq : W32) : exec (.logRead via seq n) s = .next (s.emit (.mgmt 0x10
    (((allRecords s.stoker).filter (fun r => decide (seq.toNat ≤ r.seq) && decide (r.seq < seq.toNat + n.toNat))).map logBits))) := by
  simp only [exec, execLogRead]
  rw [if_neg (by simp [harrives]), if_neg (by omega)]

theorem exec_logRead_many {n : BitVec 16} (hmany : 64 < n.toNat) (seq : W32) :
    exec (.logRead via seq n) s = .next (refuseMsg s 0x10) := by
  simp only [exec, execLogRead]
  rw [if_neg (by simp [harrives]), if_pos hmany]

theorem exec_configWrite (body : BitVec 416) (ok : Bool) : exec (.configWrite via body ok) s =
    if via ≠ .i3c then .next (refuseMsg s 0x11) else .next ((setStk s (if newerA s.stoker = true
      then { s.stoker with cfgB := cfgOf body ok } else { s.stoker with cfgA := cfgOf body ok })).emit (.mgmt 0x11 [])) :=
  if_neg (by simp [harrives])

theorem exec_moduleResetMessage : exec (.moduleResetMessage via) s =
    if via ≠ .i3c then .next (refuseMsg s 0x12) else .next (moduleReset s 3) := if_neg (by simp [harrives])

theorem exec_powerDown : exec (.powerDown via) s =
    if via ≠ .i3c then .next (refuseMsg s 0x13) else .next (if s.power.pkgPower = true then startDown s 4 else s) :=
  if_neg (by simp [harrives])

end

end

/-- Settles O54. The bound of 64 records and the two copies that a read joins are log 100, a copy with a wrong CRC that is written all the
same log 101, and the status of the leak sensor log 103. -/
theorem stokerSensorsAndMessages : Obligations.StokerSensorsAndMessages := by
  refine ⟨⟨?sensors, ?leak, ?limits, ?overdue, ?runtime, ?others⟩, ?messages⟩
  case sensors =>
    rintro i v s u st hstk
    refine ⟨fun hdown => ?_, ?_, exec_getSensorReading_ready hstk⟩
    · rw [exec_sensorSample_taken hstk (fun hleak => by have := sensorUp_low hdown; omega), takeSample_down hdown, setStk]
    · rintro hup rfl hu
      obtain rfl : u = sampleKept s i v := hu
      refine ⟨fun hi hcool => ?_, fun hi hcool hpower => ?_, fun hi hdry => ?_, fun hi hwet => ?_⟩
      · rw [exec_sensorSample_taken hstk (by simp [hi]), takeSample_other hup hi, if_neg]
        rw [← Bool.and_eq_false_iff] at hcool
        simp [hcool]
      · rw [exec_sensorSample_taken hstk (by simp [hi]), takeSample_other hup hi, if_pos (by simp [hcool, hpower])]
      · rw [exec_sensorSample_taken hstk (by simp [hdry]), takeSample_leak hup hi, if_pos hdry, setStk]
      · rw [exec_sensorSample_taken hstk (by simp [hwet]), takeSample_leak hup hi, if_neg (by simp [hwet])]
  case leak => exact fun s hfeed => exec_leakDetected_fed hfeed
  case limits =>
    intro i v hi
    rw [sensorStat_junction hi]
    split_ifs <;> simp <;> omega
  case overdue => exact fun s harmed hdue => exec_heartbeatExpired_overdue harmed hdue
  case runtime =>
    intro h s hready hdrained
    refine ⟨?kick, fun ms hlow hhigh => ?inside, fun ms hout => ?outside, ?kickUser, fun ms => ?periodUser⟩ <;>
      refine (devCommand_hart hready hdrained _ _).trans ?_
    case kick => rfl
    case inside => rw [heartbeatBy_runtime, writeHeartbeat_period hlow hhigh, setStk]
    case outside => rw [heartbeatBy_runtime, writeHeartbeat_outside hout]
    case kickUser => rfl
    case periodUser => rfl
  case others => exact fun s => ⟨rfl, fun ms => rfl, rfl, fun ms => rfl⟩
  case messages =>
    intro s hstk
    have hi3c : messageArrives s .i3c = true := messageArrives_ready hstk (.inl rfl)
    refine ⟨if_pos hstk, ?read, fun body ok hnewer => ?copyB, fun body ok hnewer => ?copyA, ?reset, fun hpower => ?down,
      fun hpower => ?off, fun h hup => ?host⟩
    case read =>
      exact fun via hvia => have harrives := messageArrives_ready hstk hvia
        ⟨fun seq n hfew => exec_logRead_few harrives hfew seq, fun seq n hmany => exec_logRead_many harrives hmany seq⟩
    case copyB => rw [exec_configWrite hi3c, if_neg (not_not_intro rfl), if_pos hnewer, setStk]
    case copyA => rw [exec_configWrite hi3c, if_neg (not_not_intro rfl), if_neg (by simp [hnewer]), setStk]
    case reset => rw [exec_moduleResetMessage hi3c, if_neg (not_not_intro rfl)]
    case down => rw [exec_powerDown hi3c, if_neg (not_not_intro rfl), if_pos hpower]
    case off => rw [exec_powerDown hi3c, if_neg (not_not_intro rfl), if_neg (by simp [hpower])]
    case host =>
      have hvdm : messageArrives s .vdm = true := messageArrives_ready hstk (.inr ⟨h, hup⟩)
      exact ⟨(exec_moduleResetMessage hvdm).trans (if_pos (by decide)), (exec_powerDown hvdm).trans (if_pos (by decide)),
        fun body ok => (exec_configWrite hvdm body ok).trans (if_pos (by decide))⟩

end Sys2Proof
end

section
/-! A firmware update (R502, R555, R556, Table 17.10). -/

namespace Sys2Proof

open Sys2Proof.Machine

section

variable {s : State} {im : Image}

/-- The transfer of an image into its unused slot. -/
def transferOf (s : State) (im : Image) (ver : W32) (arb : BitVec 6) (entries : List ManEnt) (good : Bool) : Writing :=
  { im := imageNo im, slot := unusedSlot s (imageNo im), ver := ver, arb := arb, entries := entries, good := good }

/-- Only a manifest has a version of 32 bits and entries. -/
theorem transfer_wellFormed {ver : W32} {entries : List ManEnt} (h : im = .manifest ∨ ver.toNat < 65536 ∧ entries = []) :
    ¬ (imageNo im ≠ 4 ∧ (65536 ≤ ver.toNat ∨ entries ≠ [])) := by
  rcases h with rfl | ⟨hver, rfl⟩
  · simp [imageNo]
  · simp [hver]

section
variable {ver : W32} {arb : BitVec 6} {entries : List ManEnt} {good : Bool}
  (hform : im = .manifest ∨ ver.toNat < 65536 ∧ entries = [])
include hform

theorem exec_pldmComponentWrite_arrived {via : Mctp} (harrives : messageArrives s via = true) :
    exec (.pldmComponentWrite via im ver arb entries good) s =
      if via ≠ .i3c then .next (refuseMsg (takeFree 8 s).2 (takeFree 8 s).1.toNat)
      else if s.kindle.writing.isSome = true then .next (s.emit (.mgmt 0x32 [0]))
      else
        let w := transferOf s im ver arb entries good
        let u := putSlot s w false
        .next (State.emit { u with kindle := { u.kindle with
          writing := some w, verified := Tab.put 0 u.kindle.verified (imageNo im) 0 } } (.mgmt 0x32 [1, w.slot])) := by
  simp only [exec, execPldmComponentWrite]
  rw [if_neg (transfer_wellFormed hform), if_neg (by simp [harrives])]
  rfl

end

theorem exec_pldmVerify_ended {w : Writing} (hwriting : s.kindle.writing = some w) (him : w.im = imageNo im)
    (hthn : readyThn s = true) (hstk : readyStk s = true) {u : State}
    (hu : u = (putSlot s w w.good).logStk 8 (imageKind w.im + 0x10000 * w.slot)) :
    exec (.pldmVerify im) s = .next (State.emit { u with kindle := { u.kindle with
      writing := none, verified := Tab.put 0 u.kindle.verified w.im (if w.good then w.slot + 1 else 0) } }
        (.mgmt 0x33 [boolNat w.good])) := by
  simp only [exec, execPldmVerify, hwriting, ← hu]
  rw [if_neg (by simp [him, hthn, hstk])]

theorem exec_pldmApply_verified (hverified : Tab.get 0 s.kindle.verified (imageNo im) ≠ 0) (hstk : readyStk s = true) {u : State}
    (hu : u = { s with kindle := { s.kindle with verified := Tab.put 0 s.kindle.verified (imageNo im) 0 } }) :
    exec (.pldmApply im) s = .next (State.emit (if imageNo im = 4 then u else writeSel u { s.kindle.sel with
      pref := setBit4 s.kindle.sel.pref (imageNo im) (decide (Tab.get 0 s.kindle.verified (imageNo im) = 2))
      trial := setBit4 s.kindle.sel.trial (imageNo im) true }) (.mgmt 0x34 [imageNo im])) := by
  simp only [exec, execPldmApply, ← hu]
  rw [if_neg (by simp [hverified, hstk])]

end

/-- Settles O55. That one transfer runs at a time, and the free code of a refusal, are log 102. -/
theorem firmwareIsWrittenVerifiedAndApplied : Obligations.FirmwareIsWrittenVerifiedAndApplied := by
  refine ⟨?write, ?verify, ?apply⟩
  case write =>
    rintro im ver arb entries good s u w hstk hform rfl
    have hi3c : messageArrives s .i3c = true := messageArrives_ready hstk (.inl rfl)
    refine ⟨?_, fun hrunning => ?_, fun h code v hup hfree => ?_⟩
    · rintro hidle rfl
      rw [exec_pldmComponentWrite_arrived hform hi3c, if_neg (not_not_intro rfl), if_neg (by simp [hidle])]
      rfl
    · rw [exec_pldmComponentWrite_arrived hform hi3c, if_neg (not_not_intro rfl), if_pos (Option.isSome_iff_ne_none.2 hrunning)]
    · rw [exec_pldmComponentWrite_arrived hform (messageArrives_ready hstk (.inr ⟨h, hup⟩)), if_pos (by decide), hfree]
  case verify => exact fun im s u w hwriting him hthn hstk hu => exec_pldmVerify_ended hwriting him hthn hstk hu
  case apply => rintro im s u n v rfl rfl hverified hstk hu; exact exec_pldmApply_verified hverified hstk hu

end Sys2Proof
end

section
/-! The account of checkpoints, recovery and restore (R442 to R461). -/

namespace Sys2Proof

open Sys2Proof.Machine

section

variable {s u : State} {pos : Position}

/-! ### Checkpoints -/

/-- Whether a snapshot of a step exists. -/
def snapshotOf (t : TrainSt) (step : W64) : Bool := t.slots.any (fun e => e.2.onBoard && decide (e.2.step = step))

/-- The account before a position's checkpoint, with what the command says of the group. -/
def groupAccount (t : TrainSt) (c : CkptIn) : TrainSt :=
  { t with members := c.members, lbound := c.lbound.toNat, bytes := c.bytes, dies := c.dies, accum := c.accum }

/-- The account after it: the first position of a step brings its pause and begins the losses anew. -/
def pauseCounted (t : TrainSt) (c : CkptIn) : TrainSt :=
  if snapshotOf t c.step then { t with pauses := t.pauses.drop (t.pauses.length - 8), nfail := t.nfail + c.reruns, due := false }
  else { t with pauses := (t.pauses ++ [c.pauseUs.toNat]).drop (t.pauses.length + 1 - 8), nfail := t.nfail + c.reruns, due := false
                losses := [], widths := [] }

theorem pauseCounted_again {t : TrainSt} {c : CkptIn} (h : snapshotOf t c.step = true) : pauseCounted t c =
    { t with pauses := t.pauses.drop (t.pauses.length - 8), nfail := t.nfail + c.reruns, due := false } := if_pos h

theorem pauseCounted_first {t : TrainSt} {c : CkptIn} (h : snapshotOf t c.step = false) : pauseCounted t c =
    { t with pauses := (t.pauses ++ [c.pauseUs.toNat]).drop (t.pauses.length + 1 - 8), nfail := t.nfail + c.reruns, due := false
             losses := [], widths := [] } := if_neg (by simp [h])

/-- The manifest that goes with a snapshot. -/
def manifestOf (u : State) (t : TrainSt) (c : CkptIn) : Ckpt :=
  { step := c.step, onBoard := true, widths := u.train.widths, idh := c.idh, vers := c.vers, tmod := BitVec.ofNat 64 (memberSeconds t)
    nfail := BitVec.ofNat 32 t.nfail, lbound := c.lbound, dsec := BitVec.ofNat 32 (defaultMtbf u), clog := t.pauses, dir := c.dir }

section
variable {c : CkptIn} (hmember : c.members.getLsbD pos.val = true) (hlow : 1 ≤ c.dies) (hhigh : c.dies ≤ 4)
  (hrun : s.train.stopped = false) (hrestore : s.train.restoreStep = none) (hkeeps : keepsTraining s = true)
  (hu : u = recordSteps (countMembers s) c.steps)
include hmember hlow hhigh hrun hrestore hkeeps hu

theorem exec_checkpoint_refused (hempty : (groupAccount u.train c).slots = [])
    (hbound : (groupAccount u.train c).lbound < 3 + buddySteps (groupAccount u.train c)) : exec (.checkpoint pos c) s =
      .next (u.emit (.mgmt 0x40 [(groupAccount u.train c).lbound, buddySteps (groupAccount u.train c)])) := by
  subst hu
  simp only [exec, execCheckpoint]
  rw [if_neg (by simp [hmember]; omega), if_neg (by simp [hrun, hrestore, hkeeps]), if_pos]
  · rfl
  · exact ⟨List.isEmpty_iff.2 hempty, hbound⟩

theorem exec_checkpoint_taken (hfit : (groupAccount u.train c).slots ≠ [] ∨
    3 + buddySteps (groupAccount u.train c) ≤ (groupAccount u.train c).lbound) {t : TrainSt}
    (ht : t = pauseCounted (groupAccount u.train c) c) : exec (.checkpoint pos c) s =
      .next (recompute (setTrain u (putCkpt t pos (nextSlot t pos) (manifestOf u t c)))) := by
  subst hu ht
  simp only [exec, execCheckpoint]
  rw [if_neg (by simp [hmember]; omega), if_neg (by simp [hrun, hrestore, hkeeps]), if_neg]
  · cases hsnap : (recordSteps (countMembers s) c.steps).train.slots.any (fun e => e.2.onBoard && decide (e.2.step = c.step)) with
    | false =>
      rw [pauseCounted_first (t := groupAccount _ c) hsnap]
      simp only [Bool.not_false, if_true, List.length_append]
      rfl
    | true =>
      rw [pauseCounted_again (t := groupAccount _ c) hsnap]
      rfl
  · rintro ⟨hempty, hbound⟩
    exact hfit.elim (fun h => h (List.isEmpty_iff.1 hempty)) (fun h => absurd hbound (Nat.not_lt.2 h))

end

section
variable {steps : List StepIn} {i : Nat} (hu : u = recordSteps (countMembers s) steps) (hrun : u.train.stopped = false)
include hu hrun

theorem exec_buddyCopyDone (hslot : newestSlot u.train pos (fun c => !c.buddy) = some i)
    (halive : positionDead u (buddyOf u.train pos) = false) (us : W32) : exec (.buddyCopyDone pos us steps) s =
      .next (recompute (setTrain u
        { putCkpt u.train pos i { ckpt u.train pos i with buddy := true } with buddyUs := some us.toNat })) := by
  simp only [exec, execBuddyCopyDone, ← hu, hslot]
  rw [if_neg (by simp [hrun, halive])]

theorem exec_stagingDone (hslot : newestSlot u.train pos (fun c => !c.staged && held u.train c.step) = some i) :
    exec (.stagingDone pos steps) s =
      .next (setTrain u (putCkpt u.train pos i { ckpt u.train pos i with staged := true })) := by
  simp only [exec, execStagingDone, ← hu, hslot]
  rw [if_neg (by simp [hrun])]

end

/-! ### Recovery -/

section
variable {spare vers : W64} (hkeeps : keepsTraining s = true) (hrun : s.train.stopped = false)
  (hgone : (s.memb pos.val).st ≠ 1) (hmember : s.train.members.getLsbD pos.val = true) (hu : u = countMembers s) {v : State}
  (hv : v = recompute (setTrain u { dropUnsealed u.train with nfail := u.train.nfail + 1 }))
include hkeeps hrun hgone hmember hu hv

/-- A spare is eligible when it offers itself and has the versions of the restore point's manifest (R456). -/
theorem exec_recovery_eligible {step : W64} {i : Nat} {p : Peer} (hpoint : restorePoint u pos = some step)
    (hslot : slotOf u.train pos step = some i) (hvers : (ckpt u.train pos i).vers = vers) (hp : p ∈ u.group.peers)
    (hidh : p.idh = spare) (hspare : p.spare = true) : exec (.recovery pos spare vers) s = .next (setTrain v { v.train with
      recovering := some pos.val, restoreStep := restorePoint u pos, source := 0, due := true }) := by
  subst hu hv
  simp only [exec, execRecovery, hpoint, hslot]
  rw [if_neg (by simp [hkeeps, hrun]), if_neg (by simpa [hmember] using fun h => absurd h hgone), if_pos]
  simp only [Bool.and_eq_true, List.any_eq_true, decide_eq_true_eq, Option.map_some]
  exact ⟨⟨p, hp, hidh, hspare⟩, congrArg some hvers⟩

theorem exec_recovery_passedOver (h : restorePoint u pos = none ∨ ∀ p ∈ u.group.peers, p.idh = spare → p.spare = false) :
    exec (.recovery pos spare vers) s = .next (v.logTag .chm pos 456 vers.toNat) := by
  subst hu hv
  simp only [exec, execRecovery]
  rw [if_neg (by simp [hkeeps, hrun]), if_neg (by simpa [hmember] using fun h => absurd h hgone), if_neg]
  simp only [Bool.and_eq_true, List.any_eq_true, decide_eq_true_eq, not_and]
  rintro ⟨p, hp, hidh, hspare⟩
  rcases h with hnone | hspares
  · simp [hnone]
  · simp [hspares p hp hidh] at hspare

end

/-! ### Replays -/

theorem replayValid_iff (t : TrainSt) (c : Ckpt) (r : ReplayIn) (same : Bool) : replayValid t c r same = true ↔
    t.accum = .exact ∨ (same = true ∧ c.widths1 = some r.widths1 ∧ c.widths2 = some r.widths2) := by
  simp [replayValid, and_assoc]

/-- The account as a replay finds it: without a recovery it is a restore from the latest held checkpoint, which is counted. -/
def replayAccount (s : State) : State :=
  setTrain (countMembers s) (if s.train.restoreStep.isNone then { (countMembers s).train with
    restoreStep := latest (heldSteps (countMembers s).train), source := 0, nfail := (countMembers s).train.nfail + 1 }
  else (countMembers s).train)

theorem replayAccount_open (h : s.train.restoreStep ≠ none) : replayAccount s = countMembers s := by
  rw [replayAccount, if_neg (by simpa [Option.isNone_iff_eq_none] using h)]
  rfl

theorem replayAccount_fresh (h : s.train.restoreStep = none) : replayAccount s = setTrain (countMembers s)
    { (countMembers s).train with
      restoreStep := latest (heldSteps (countMembers s).train), source := 0, nfail := s.train.nfail + 1 } := by
  rw [replayAccount, if_pos (by simp [h])]
  rfl

theorem exec_restoreReplay {step : W64} {c : Ckpt} (hrun : s.train.stopped = false) (hkeeps : keepsTraining s = true)
    (hstep : (replayAccount s).train.restoreStep = some step) (hckpt : ckptAt (replayAccount s).train step = some c)
    (hu : u = recompute (replayAccount s)) (r : ReplayIn) (same : Bool) : exec (.restoreReplay r same) s =
      if (!(replayValid u.train c r same)) = true then .next u
      else if c.loss1 = some r.loss1 ∧ c.loss2 = some r.loss2 then
        .next (setTrain u { u.train with recovering := none, restoreStep := none, source := 0 })
      else match nextSource u.train step with
        | some (src, x) => .next (setTrain u { u.train with source := src, restoreStep := some x })
        | none => .next (logMismatch (setTrain u { u.train with stopped := true, restoreStep := none, recovering := none })
          c r.loss1 r.loss2) := by
  subst hu
  simp only [replayAccount, setTrain] at hstep hckpt
  simp only [exec, execRestoreReplay]
  rw [if_neg (by simp [hrun, hkeeps])]
  simp only [hstep, hckpt]
  rfl

end

/-- Settles O56. That the master keeps the account, and that a restore without a recovery counts as a failure, are log 104; that a replay
which decides nothing leaves the restore open is log 148. -/
theorem checkpointsAndRestores : Obligations.CheckpointsAndRestores := by
  refine ⟨⟨?checkpoint, ?buddy, ?staging⟩, ?recovery, ?replay, replayValid_iff⟩
  case checkpoint =>
    rintro pos c s u t t2 x hmember hlow hhigh hrun hrestore hkeeps hu rfl
    refine ⟨exec_checkpoint_refused hmember hlow hhigh hrun hrestore hkeeps hu, fun hfit hagain hfirst hx => ?_⟩
    have ht2 : t2 = pauseCounted (groupAccount u.train c) c := by
      cases hsnap : snapshotOf (groupAccount u.train c) c.step with
      | true => exact (hagain hsnap).trans (pauseCounted_again hsnap).symm
      | false => exact (hfirst hsnap).trans (pauseCounted_first hsnap).symm
    subst hx
    exact exec_checkpoint_taken hmember hlow hhigh hrun hrestore hkeeps hu hfit ht2
  case buddy =>
    exact fun pos us steps s u i hu hslot hrun halive => exec_buddyCopyDone hu hrun hslot halive us
  case staging => exact fun pos steps s u i hu hslot hrun => exec_stagingDone hu hrun hslot
  case recovery =>
    rintro pos spare vers s u v point hkeeps hrun hgone hmember hu rfl hv
    exact ⟨fun step i p => exec_recovery_eligible hkeeps hrun hgone hmember hu hv,
      exec_recovery_passedOver hkeeps hrun hgone hmember hu hv⟩
  case replay =>
    intro r same s v u step c hrun hkeeps hopen hfresh hstep hckpt hu
    have hv : v = replayAccount s := by
      by_cases hnone : s.train.restoreStep = none
      · exact (hfresh hnone).trans (replayAccount_fresh hnone).symm
      · exact (hopen hnone).trans (replayAccount_open hnone).symm
    subst hv
    rw [exec_restoreReplay hrun hkeeps hstep hckpt hu]
    refine ⟨fun hinvalid => if_pos (by simp [hinvalid]), fun hvalid => ?_⟩
    rw [if_neg (by simp [hvalid])]
    refine ⟨fun h1 h2 => if_pos ⟨h1, h2⟩, fun hdiffer src x hnext => ?_, fun hdiffer hnext => ?_⟩
    · rw [if_neg hdiffer, hnext]
      rfl
    · rw [if_neg hdiffer, hnext]
      rfl

end Sys2Proof
end

section
/-! The stages of kindling before the dies, and the limits of all stages (R489 to R502, R512, Table 17.1). -/

namespace Sys2Proof

open Sys2Proof.Machine

section

variable {s : State}

/-! ### K0 and K1 -/

section
variable (hstage : inStage s 0 = true) (hlock : s.power.clk.rlock = true) (hsoft : s.power.softStart = false)
  (hrst : s.kindle.rstLow = false) (hthn : readyThn s = false)
include hstage hlock hsoft hrst hthn

theorem exec_kindleK0_passed {u : State} (hu : u = Machine.measure (setReady s 0 true) [1, 2, 9, 10]) : exec (.kindleK0 true) s =
    .next (toStage { u with trust := { u.trust with challenge := u.trust.challenge + 1 } } 1) := by
  subst hu
  simp only [exec, execKindleK0]
  rw [if_neg (by simp [hstage, hlock, hsoft, hrst, hthn]), if_pos trivial]

theorem exec_kindleK0_failed : exec (.kindleK0 false) s = .next (holdAt s 1) := by
  simp only [exec, execKindleK0]
  rw [if_neg (by simp [hstage, hlock, hsoft, hrst, hthn]), if_neg (by decide)]

end

section
variable {ok : Bool} {u v : State} {p used : Nat} (hstage : inStage s 1 = true) (hthn : readyThn s = true)
  (hu : u = { s with trust := { s.trust with certOk := ok } })
include hstage hthn hu

/-- After a package reset the slot in use is verified again. -/
theorem exec_kindleK1_again (hused : used = boolNat (s.kindle.slots.getLsbD 0)) (hstk : readyStk s = true) : exec (.kindleK1 ok) s =
    .next (if imgOk u 0 used then toStage (loadConfig u) 2 else moduleReset u 5) := by
  subst hu hused
  simp only [exec, execKindleK1]
  rw [if_neg (by simp [hstage, hthn]), if_pos (by exact hstk)]
  exact (apply_ite Host.Outcome.next _ _ _).symm

variable (hstk : readyStk s = false)
include hstk

theorem exec_kindleK1_alternate (hused : used = boolNat (s.kindle.slots.getLsbD 0)) (halt : s.kindle.altTried = true) : exec (.kindleK1 ok) s =
    .next (if imgOk u 0 used then startStoker u used else holdAt u 2) := by
  subst hu hused
  simp only [exec, execKindleK1]
  rw [if_neg (by simp [hstage, hthn]), if_neg (by exact Bool.eq_false_iff.1 hstk), if_pos halt]
  exact (apply_ite Host.Outcome.next _ _ _).symm

theorem exec_kindleK1_preferred (hv : v = writeSel u (trialStep s.kindle.sel 0)) (hp : p = boolNat (v.kindle.sel.pref.getLsbD 0))
    (halt : s.kindle.altTried = false) : exec (.kindleK1 ok) s = .next (if imgOk v 0 p then startStoker v p
      else if imgOk v 0 (1 - p) then startStoker v (1 - p) else holdAt v 2) := by
  subst hu hv hp
  simp only [exec, execKindleK1]
  rw [if_neg (by simp [hstage, hthn]), if_neg (by exact Bool.eq_false_iff.1 hstk), if_neg (by simp [halt])]
  rw [apply_ite Host.Outcome.next, apply_ite Host.Outcome.next]

end

/-! ### K2 -/

section
variable {u v : State} {m : Nat} (hstage : inStage s 2 = true) (hstk : readyStk s = true) (hcombo : s.kindle.combo = false)
  (hu : u = writeSel s ([1, 2, 3].foldl trialStep s.kindle.sel))
include hstage hstk hcombo hu

theorem exec_kindleK2_noManifest (hman : manSlot u = none) : exec .kindleK2 s = .next (holdAt u 3) := by
  simp only [exec, execKindleK2, ← hu, hman]
  rw [if_neg (by simp [hstage, hstk, hcombo])]

theorem exec_kindleK2_mixed (hman : manSlot u = some m)
    (hmixed : hstep u 1 ≠ hstep u 0 ∨ hstep u 2 ≠ hstep u 0 ∨ hstep u 3 ≠ hstep u 0) : exec .kindleK2 s = .next (holdAt u 4) := by
  simp only [exec, execKindleK2, ← hu, hman]
  rw [if_neg (by simp [hstage, hstk, hcombo]), if_pos (by simpa using hmixed)]

variable (hman : manSlot u = some m) (hsame : hstep u 1 = hstep u 0 ∧ hstep u 2 = hstep u 0 ∧ hstep u 3 = hstep u 0)
include hman hsame

theorem exec_kindleK2_unlisted (hpair : selectPairing u (Tab.get {} u.kindle.manifests m)
    (imgOf u 0 (boolNat (u.kindle.slots.getLsbD 0))).ver = none) : exec .kindleK2 s = .next (noPairing u) := by
  simp only [exec, execKindleK2, ← hu, hman, hpair]
  rw [if_neg (by simp [hstage, hstk, hcombo]), if_neg (by simp [hsame])]

theorem exec_kindleK2_listed {sl : List Nat} {gpv : BitVec 16} {slots : BitVec 4}
    (hpair : selectPairing u (Tab.get {} u.kindle.manifests m) (imgOf u 0 (boolNat (u.kindle.slots.getLsbD 0))).ver = some (sl, gpv))
    (hslots : slots = (List.range 3).foldl (fun w i => setBit4 w (i + 1) (decide (nth 0 sl i = 1))) u.kindle.slots)
    (hv : v = { u with kindle := { u.kindle with combo := true, manUsed := some m, gpv := gpv, slots := slots } }) :
    exec .kindleK2 s = .next ([16, 17, 18, 19].foldl entered (toStage (Machine.measure v [4, 5, 6, 7, 8]) 3)) := by
  simp only [exec, execKindleK2, ← hu, hman, hpair, ← hslots, ← hv]
  rw [if_neg (by simp [hstage, hstk, hcombo]), if_neg (by simp [hsame])]

end

/-! ### Confirmation -/

/-- Without a pending trial a confirmation changes nothing. -/
theorem confirmSel_settled (h : s.kindle.sel.pend = 0) : confirmSel s = s := by
  have hfold : (List.range 4).foldl (fun (x : SlotSel) im => if x.pend.getLsbD im then
      { x with pref := setBit4 x.pref im (s.kindle.slots.getLsbD im), pend := setBit4 x.pend im false } else x) s.kindle.sel =
      s.kindle.sel := List.foldl_fixed' (fun im => by simp [h]) _
  rw [confirmSel, hfold, writeSel, if_pos rfl]

/-! ### Limits -/

theorem exec_timeout_k0 (hstage : inStage s 0 = true) (hlock : s.power.clk.rlock = true) (hthn : readyThn s = false)
    (hlate : overdue s 200 1125000 = true) : exec (.kindleStageTimeout .k0) s = .next (holdAt s 1) :=
  if_pos (by simp [hstage, hlock, hthn, hlate])

theorem exec_timeout_k1 (hstage : inStage s 1 = true) (hlate : overdue s 201 45000000 = true) :
    exec (.kindleStageTimeout .k1) s = .next (holdAt s 2) := if_pos (by simp [hstage, hlate])

theorem exec_timeout_k2 (hstage : inStage s 2 = true) (hcombo : s.kindle.combo = false) (hlate : overdue s 202 450000000 = true) :
    exec (.kindleStageTimeout .k2) s = .next (holdAt s (k2Reason s)) := if_pos (by simp [hstage, hcombo, hlate])

theorem exec_timeout_k3 {d : DieNo} (hcombo : s.kindle.combo = true) (hload : Tab.get false s.kindle.loaded d.val = false)
    (hlate : overdue s (16 + d.val) 11250000 = true) : exec (.kindleStageTimeout (.k3 d)) s =
      if Tab.get false s.kindle.dieRetry d.val then .next (s.logTag .chm (16 + d.val) 489 0)
      else .next (hearthReset { s with kindle := { s.kindle with dieRetry := Tab.put false s.kindle.dieRetry d.val true } } d 0x0E) :=
  if_neg (by simp [hcombo, hload, hlate])

theorem exec_timeout_k4 {ch : Fin 128} (hhth : readyHth s (ch.val / 32) = true) (hch : readyCh s ch.val = false)
    (hlate : overdue s (20 + ch.val / 32) 112500000 = true) : exec (.kindleStageTimeout (.k4 ch)) s =
      .next { s.logTag .chm (64 + ch.val) 489 0 with
        kindle := { s.kindle with chTries := Tab.put 0 s.kindle.chTries ch.val 3 } } := if_pos (by simp [hhth, hch, hlate])

theorem exec_timeout_k5 {c : Fin 12} (hset : s.kindle.rtSet = true) (hclu : readyClu s c.val = false)
    (hlate : overdue s (4 + c.val) 22500000 = true) :
    exec (.kindleStageTimeout (.k5 c)) s = .next (s.logTag .chm (4 + c.val) 489 0) := if_pos (by simp [hset, hclu, hlate])

end

end Sys2Proof
end

section
/-! The stages of kindling at the dies: channels, the runtime's home, the clusters and the links (R368, R490 to R494, R558). -/

namespace Sys2Proof

open Sys2Proof.Machine

section

variable {s u : State}

/-! ### K3 and K4 -/

theorem exec_kindleK3_reached {d : DieNo} (hcombo : s.kindle.combo = true) (hload : Tab.get false s.kindle.loaded d.val = false)
    (hreach : reachable s 4 d = true) (hpower : s.power.pkgPower = true)
    (hu : u = { s with
      kindle := { s.kindle with loaded := Tab.put false s.kindle.loaded d.val true, dieWait := Tab.put false s.kindle.dieWait d.val false }
      power := { s.power with clk := { s.power.clk with slock := s.power.clk.slock ||| BitVec.ofNat 4 (2 ^ d.val) } } }) :
    exec (.kindleK3 d) s = .next (entered (toStage (refreshHth (setReady u 2 true) d) 4) (20 + d.val)) := by
  subst hu
  simp only [exec, execKindleK3]
  rw [if_neg (by simp [hcombo, hload, hreach, hpower])]

theorem exec_kindleK4_ready {d : DieNo} {trained : W32} (hready : readyHth s d = true)
    (hu : u = refreshHth ((List.range 32).foldl (fun v c => tryChannel v (32 * d.val + c) (trained.getLsbD c)) s) d) :
    exec (.kindleK4 d trained) s = .next (if dieWhole u d then toStage u 5 else u) := by
  subst hu
  simp only [exec, execKindleK4]
  rw [if_neg (by simp [hready])]

section
variable {ch : Nat}

theorem tryChannel_over (h : readyCh s ch = true ∨ 3 ≤ Tab.get 0 s.kindle.chTries ch) (ok : Bool) : tryChannel s ch ok = s :=
  if_pos (by simpa using h)

variable (hch : readyCh s ch = false) (htries : Tab.get 0 s.kindle.chTries ch < 3)
include hch htries

theorem tryChannel_passed : tryChannel s ch true = setReady s (64 + ch) true := by
  simp only [tryChannel]
  rw [if_neg (by simpa [hch] using htries), if_pos trivial]

theorem tryChannel_failed : tryChannel s ch false =
    { s with kindle := { s.kindle with chTries := Tab.put 0 s.kindle.chTries ch (Tab.get 0 s.kindle.chTries ch + 1) } } := by
  simp only [tryChannel]
  rw [if_neg (by simpa [hch] using htries), if_neg (by decide)]

end

/-! ### K5: what the start of clusters leaves -/

/-- What starting clusters leaves of Stoker, the regions, the runtime's home and, where no ring takes its events, the memory. -/
structure ClustersStarted (r s : State) : Prop where
  quiet : Quiet r s
  owners : s.owners = r.owners
  rtSet : s.kindle.rtSet = r.kindle.rtSet
  rtdie : s.kindle.rtdie = r.kindle.rtdie
  mem : fringOf r 0 = none → s.mem = r.mem ∧ fringOf s 0 = none

theorem ClustersStarted.refl (s : State) : ClustersStarted s s := ⟨Quiet.refl s, rfl, rfl, rfl, fun h => ⟨rfl, h⟩⟩

theorem ClustersStarted.trans {r s t : State} (h : ClustersStarted r s) (k : ClustersStarted s t) : ClustersStarted r t :=
  ⟨h.quiet.trans k.quiet, k.owners.trans h.owners, k.rtSet.trans h.rtSet, k.rtdie.trans h.rtdie, fun hring =>
    have hs := h.mem hring
    ⟨(k.mem hs.2).1.trans hs.1, (k.mem hs.2).2⟩⟩

theorem ClustersStarted.armed {r s : State} (h : ClustersStarted r s) : s.stoker.armed = r.stoker.armed := by
  obtain ⟨_, _, hstoker⟩ := h.quiet.stoker
  rw [hstoker]

theorem ClustersStarted.foldl {α : Type} {f : State → α → State} (hf : ∀ s a, ClustersStarted s (f s a)) (l : List α) (s : State) :
    ClustersStarted s (l.foldl f s) := by
  induction l generalizing s with
  | nil => exact .refl s
  | cons a l ih => exact (hf s a).trans (ih (f s a))

/-- A change of other parts. -/
theorem ClustersStarted.other {s t : State} (hfabric : t.fabric = s.fabric) (hstoker : t.stoker = s.stoker) (howners : t.owners = s.owners)
    (hset : t.kindle.rtSet = s.kindle.rtSet) (hdie : t.kindle.rtdie = s.kindle.rtdie) (hmem : t.mem = s.mem)
    (hring : fringOf t 0 = fringOf s 0) : ClustersStarted s t :=
  ⟨(Quiet.refl s).other hfabric hstoker, howners, hset, hdie, fun h => ⟨hmem, hring.trans h⟩⟩

theorem clustersStarted_entered (s : State) (key : Nat) : ClustersStarted s (entered s key) :=
  .other rfl rfl rfl rfl rfl rfl rfl

theorem clustersStarted_setReady (s : State) (bit : Nat) (v : Bool) : ClustersStarted s (setReady s bit v) :=
  ⟨quiet_setReady (.refl s) bit v, setReady_owners s bit v, setReady_rtSet s bit v, setReady_rtdie s bit v, fun h => setReady_noRing h v⟩

theorem clustersStarted_toStage (s : State) (n : Nat) : ClustersStarted s (toStage s n) := by
  unfold toStage
  split
  · refine .trans ?_ (clustersStarted_entered _ _)
    exact .other rfl rfl rfl rfl rfl rfl rfl
  · exact .refl s

/-- A cluster that has passed and does not run yet starts. -/
def startCluster (passed : BitVec 12) (s : State) (c : Nat) : State :=
  if passed.getLsbD c && !(readyClu s c) then
    setReady { s with kindle := { s.kindle with cluWait := Tab.put false s.kindle.cluWait c false }
                      coh := { s.coh with dead := s.coh.dead &&& ~~~(bitMask c) } } (4 + c) true
  else s

def startClusters (passed : BitVec 12) (s : State) : State := (List.range 12).foldl (startCluster passed) s

theorem clustersStarted_startCluster (passed : BitVec 12) (s : State) (c : Nat) : ClustersStarted s (startCluster passed s c) := by
  unfold startCluster
  split
  · refine .trans ?_ (clustersStarted_setReady _ _ _)
    exact .other rfl rfl rfl rfl rfl rfl rfl
  · exact .refl s

theorem clustersStarted_startClusters (passed : BitVec 12) (s : State) : ClustersStarted s (startClusters passed s) :=
  .foldl (clustersStarted_startCluster passed) _ s

/-- No cluster passed: none starts. -/
theorem startClusters_zero (s : State) : startClusters 0 s = s :=
  List.foldl_fixed' (fun c => by simp [startCluster]) _

theorem readyClu_startCluster {passed : BitVec 12} {c j : Nat} (hc : c < 12) (hj : j < 12) (s : State) :
    readyClu (startCluster passed s c) j = (readyClu s j || (decide (c = j) && passed.getLsbD j)) := by
  unfold startCluster
  split
  next hstart =>
    refine (setReady_true_getLsbD (by omega) (by omega)).trans ?_
    by_cases hcj : c = j
    · subst hcj
      have hpassed : passed.getLsbD c = true := by
        rw [Bool.and_eq_true] at hstart
        exact hstart.1
      simp [hpassed]
    · simp [hcj, readyClu]
  next hstay =>
    by_cases hcj : c = j
    · subst hcj
      rw [Bool.and_eq_true, not_and, Bool.not_eq_true', Bool.not_eq_false] at hstay
      cases hpassed : passed.getLsbD c with
      | false => simp
      | true => simp [hstay hpassed]
    · simp [hcj]

theorem readyClu_foldl_startCluster {passed : BitVec 12} {j : Nat} (hj : j < 12) {l : List Nat} (hl : ∀ c ∈ l, c < 12) (s : State) :
    readyClu (l.foldl (startCluster passed) s) j = (readyClu s j || (decide (j ∈ l) && passed.getLsbD j)) := by
  induction l generalizing s with
  | nil => simp
  | cons c l ih =>
    rw [List.foldl_cons, ih (fun c hc => hl c (List.mem_cons_of_mem _ hc)), readyClu_startCluster (hl c List.mem_cons_self) hj]
    by_cases hcj : c = j
    · subst hcj
      cases passed.getLsbD c <;> simp
    · simp [hcj, Ne.symm hcj]

theorem readyClu_startClusters (passed : BitVec 12) (s : State) (c : Fin 12) :
    readyClu (startClusters passed s) c = (readyClu s c || passed.getLsbD c) := by
  rw [startClusters, readyClu_foldl_startCluster c.isLt (fun c => List.mem_range.1)]
  simp [c.isLt]

theorem readyClu_toStage (s : State) (n c : Nat) : readyClu (toStage s n) c = readyClu s c := by
  unfold toStage
  split <;> rfl

/-! ### K5: the runtime's home -/

/-- The runtime's home chosen, its regions installed and the image at their start. -/
def homeInstalled (s : State) (image : List Byte) (n : Nat) : State :=
  (installRuntime { s with kindle := { s.kindle with rtSet := true, rtdie := BitVec.ofNat 2 n } } n).putBytes
    (n * dieSize) (image.take 0x3FFF000)

/-- The home as K5 leaves it: a second K5 keeps the first one's. -/
def homeChosen (s : State) (image : List Byte) (n : Nat) : State :=
  if (!s.kindle.rtSet) = true then [4, 5, 6, 7, 8, 9, 10, 11, 12, 13, 14, 15].foldl entered (homeInstalled s image n) else s

/-- The heartbeat armed where the first clusters start. -/
def clustersUp (u : State) (passed : BitVec 12) : State :=
  if passed ≠ 0 ∧ (!(startClusters passed u).stoker.armed) = true ∧ (!((List.range 12).any (readyClu u))) = true then
    armHeartbeat (startClusters passed u)
  else startClusters passed u

theorem homeInstalled_kindle (image : List Byte) (n : Nat) :
    (homeInstalled s image n).kindle = { s.kindle with rtSet := true, rtdie := BitVec.ofNat 2 n } := by
  simp [homeInstalled, installRuntime]

theorem clustersStarted_homeChosen (hset : s.kindle.rtSet = false) (image : List Byte) (n : Nat) :
    ClustersStarted (homeInstalled s image n) (homeChosen s image n) := by
  rw [homeChosen, if_pos (by simp [hset])]
  exact .foldl clustersStarted_entered _ _

section
variable {image : List Byte} {n : Nat} (hfind : (List.range 4).find? (dieWhole s) = some n)
include hfind

theorem exec_kindleK5_badImage (passed : BitVec 12) : exec (.kindleK5 ⟨image, false⟩ passed) s = .next (homeChosen s image n) := by
  simp only [exec, execKindleK5, hfind]
  rw [if_pos (by decide)]
  rfl

theorem exec_kindleK5_goodImage (passed : BitVec 12) : exec (.kindleK5 ⟨image, true⟩ passed) s =
    .next (if passed = 0 then clustersUp (homeChosen s image n) passed
      else toStage (clustersUp (homeChosen s image n) passed) 6) := by
  simp only [exec, execKindleK5, hfind]
  rw [if_neg (by decide)]
  rfl

end

/-! ### K6: the links opened -/

theorem setReady_fl (s : State) (bit : Nat) (v : Bool) (f : Nat) : (setReady s bit v).fl f = s.fl f := by
  rw [State.fl, setReady_flue, State.fl]

theorem linkEn_true_fl (s : State) (f : Nat) : ((linkEn s f true).fl f).en = true ∧
    ∀ {j : Nat}, j ≠ f → (linkEn s f true).fl j = s.fl j := by
  obtain ⟨x, hx, hlink⟩ : ∃ x : FlueLink, x.en = true ∧ linkEn s f true = putFl s f x := ⟨_, rfl, rfl⟩
  rw [hlink, putFl]
  refine ⟨?_, fun hj => ?_⟩
  · rw [setReady_fl, State.setFl_same, hx]
  · rw [setReady_fl, State.setFl_other s f x hj]

theorem linkEn_true_opened (s : State) (f : Nat) : (linkEn s f true).kindle.opened = s.kindle.opened := setReady_opened _ _ _

theorem linkEn_true_ports (s : State) (f : Nat) : (linkEn s f true).ports = s.ports := setReady_ports _ _ _

/-- The links of a mask enabled. -/
def enableLinks (mask : BitVec 18) (l : List Nat) (s : State) : State :=
  l.foldl (fun v f => if mask.getLsbD f then linkEn v f true else v) s

theorem enableLinks_cons (mask : BitVec 18) (f : Nat) (l : List Nat) (s : State) :
    enableLinks mask (f :: l) s = enableLinks mask l (if mask.getLsbD f then linkEn s f true else s) := rfl

theorem enableLinks_kept (mask : BitVec 18) (l : List Nat) (s : State) :
    (enableLinks mask l s).kindle.opened = s.kindle.opened ∧ (enableLinks mask l s).ports = s.ports := by
  induction l generalizing s with
  | nil => exact ⟨rfl, rfl⟩
  | cons f l ih =>
    obtain ⟨hopened, hports⟩ := ih (if mask.getLsbD f then linkEn s f true else s)
    rw [enableLinks_cons, hopened, hports]
    split
    · exact ⟨linkEn_true_opened s f, linkEn_true_ports s f⟩
    · exact ⟨rfl, rfl⟩

/-- A link of the mask is enabled by its turn, and another's turn leaves it so. -/
theorem enableLinks_en {mask : BitVec 18} {f : Nat} (hf : mask.getLsbD f = true) {l : List Nat} {s : State}
    (h : f ∈ l ∨ (s.fl f).en = true) : ((enableLinks mask l s).fl f).en = true := by
  induction l generalizing s with
  | nil => exact h.resolve_left List.not_mem_nil
  | cons g l ih =>
    rw [enableLinks_cons]
    refine ih ?_
    by_cases hgf : f = g
    · subst hgf
      rw [if_pos hf]
      exact .inr (linkEn_true_fl s f).1
    · refine (h.imp_left fun hmem => (List.mem_cons.1 hmem).resolve_left hgf).imp_right fun hen => ?_
      split
      · rwa [(linkEn_true_fl s g).2 hgf]
      · exact hen

theorem kept_offerDue_start (s : State) : Kept 17179869200 s (offerDue s) := kept_offerDue s ⟨Nat.and_self _⟩ (Kept.start s)

/-- An offer leaves kindling, the ports and the links. -/
theorem offerDue_kept (s : State) : (offerDue s).kindle = s.kindle ∧ (offerDue s).ports = s.ports ∧ (offerDue s).flue = s.flue :=
  ⟨(kept_offerDue_start s).frame .kindle (by decide), (kept_offerDue_start s).frame .ports (by decide),
    (kept_offerDue_start s).frame .flue (by decide)⟩

theorem exec_kindleK6_first (hstage : s.kindle.stage = 6) (hclosed : s.kindle.opened = false) : exec .kindleK6 s =
    .next (offerDue (enableLinks s.stoker.cfg.fluen (List.range 18) { s with
      ports := Tab.put {} (Tab.put {} s.ports 0 (portOf 0 s.stoker.cfg.port0.toNat)) 1 (portOf 1 s.stoker.cfg.port1.toNat)
      kindle := { s.kindle with opened := true } })) := by
  simp only [exec, execKindleK6]
  rw [if_neg (by simpa [hclosed] using hstage)]
  rfl

end

end Sys2Proof
end

section
/-! Kindling goes through its stages (Table 17.1). -/

namespace Sys2Proof

open Sys2Proof.Machine

section

variable {s : State}

/-! ### K5 from the state that chooses the home -/

theorem clustersUp_zero (u : State) : clustersUp u 0 = u := by
  rw [clustersUp, startClusters_zero, if_neg (by simp)]

theorem any_readyClu_iff (u : State) : (List.range 12).any (readyClu u) = true ↔ ∃ c : Fin 12, readyClu u c.val = true := by
  simp only [List.any_eq_true, List.mem_range]
  exact ⟨fun ⟨c, hc, hready⟩ => ⟨⟨c, hc⟩, hready⟩, fun ⟨c, hready⟩ => ⟨c.val, c.isLt, hready⟩⟩

theorem clustersUp_later {u : State} (h : u.stoker.armed = true ∨ ∃ c : Fin 12, readyClu u c.val = true) (passed : BitVec 12) :
    clustersUp u passed = startClusters passed u := by
  rw [clustersUp, if_neg]
  rintro ⟨-, hidle, hnone⟩
  rcases h with harmed | hsome
  · simp [(clustersStarted_startClusters passed u).armed, harmed] at hidle
  · simp [(any_readyClu_iff u).2 hsome] at hnone

section
variable {u : State} {passed : BitVec 12} (hpassed : passed ≠ 0)
include hpassed

/-- The first clusters arm the heartbeat (R558). -/
theorem clustersUp_first (harmed : u.stoker.armed = false) (hnone : ∀ c : Fin 12, readyClu u c.val = false) :
    clustersUp u passed = armHeartbeat (startClusters passed u) := by
  have hany : ¬ (List.range 12).any (readyClu u) = true := by
    rw [any_readyClu_iff]
    simp [hnone]
  rw [clustersUp, if_pos]
  exact ⟨hpassed, by simp [(clustersStarted_startClusters passed u).armed, harmed], by simpa using hany⟩

theorem clustersUp_armed (hnone : ∀ c : Fin 12, readyClu u c.val = false) : (clustersUp u passed).stoker.armed = true := by
  cases harmed : u.stoker.armed with
  | false => rw [clustersUp_first hpassed harmed hnone, armHeartbeat]
  | true => rw [clustersUp_later (.inl harmed), (clustersStarted_startClusters passed u).armed, harmed]

end

/-- What the start of clusters leaves besides Stoker, with the heartbeat armed or not. -/
theorem clustersUp_cases (u : State) (passed : BitVec 12) :
    clustersUp u passed = armHeartbeat (startClusters passed u) ∨ clustersUp u passed = startClusters passed u :=
  (ite_eq_or_eq _ _ _)

theorem readyClu_clustersUp (u : State) (passed : BitVec 12) (c : Fin 12) :
    readyClu (clustersUp u passed) c = (readyClu u c || passed.getLsbD c) := by
  rw [← readyClu_startClusters]
  rcases clustersUp_cases u passed with h | h <;> rw [h]
  rfl

theorem clustersUp_rest (u : State) (passed : BitVec 12) : (clustersUp u passed).owners = (startClusters passed u).owners ∧
    (clustersUp u passed).kindle = (startClusters passed u).kindle ∧ (clustersUp u passed).mem = (startClusters passed u).mem := by
  rcases clustersUp_cases u passed with h | h <;> rw [h]
  · exact ⟨rfl, rfl, rfl⟩
  · exact ⟨rfl, rfl, rfl⟩

theorem toStage_rest (s : State) (n : Nat) : (toStage s n).owners = s.owners ∧ (toStage s n).mem = s.mem ∧
    (toStage s n).stoker = s.stoker ∧ (toStage s n).kindle.rtSet = s.kindle.rtSet ∧ (toStage s n).kindle.rtdie = s.kindle.rtdie := by
  unfold toStage
  split
  · exact ⟨rfl, rfl, rfl, rfl, rfl⟩
  · exact ⟨rfl, rfl, rfl, rfl, rfl⟩

theorem readyClu_foldl_entered (l : List Nat) (s : State) (c : Nat) : readyClu (l.foldl entered s) c = readyClu s c := by
  induction l generalizing s with
  | nil => rfl
  | cons key l ih => exact ih (entered s key)

theorem readyClu_homeChosen (image : List Byte) (n c : Nat) : readyClu (homeChosen s image n) c = readyClu s c := by
  rw [homeChosen]
  split
  · rw [readyClu_foldl_entered, readyClu, homeInstalled_kindle, readyClu]
  · rfl

section
variable {image : List Byte} {n : Nat} {passed : BitVec 12}

theorem exec_kindleK5_clusters (hfind : (List.range 4).find? (dieWhole s) = some n) (hpassed : passed ≠ 0) :
    exec (.kindleK5 ⟨image, true⟩ passed) s = .next (toStage (clustersUp (homeChosen s image n) passed) 6) := by
  rw [exec_kindleK5_goodImage hfind, if_neg hpassed]

theorem exec_kindleK5_none (hfind : (List.range 4).find? (dieWhole s) = some n) :
    exec (.kindleK5 ⟨image, true⟩ 0) s = .next (homeChosen s image n) := by
  rw [exec_kindleK5_goodImage hfind, if_pos rfl, clustersUp_zero]

/-- The first K5 with clusters that passed: these run, the heartbeat is armed, and the home and its regions stand as installed. -/
theorem kindleK5_first (hfind : (List.range 4).find? (dieWhole s) = some n) (hset : s.kindle.rtSet = false) (hpassed : passed ≠ 0)
    (hnone : ∀ c : Fin 12, readyClu s c.val = false) {t : State} (ht : t = toStage (clustersUp (homeChosen s image n) passed) 6) :
    (∀ c : Fin 12, readyClu t c.val = passed.getLsbD c.val) ∧
      (fringOf (homeInstalled s image n) 0 = none → t.mem = (homeInstalled s image n).mem) ∧
      t.owners = (homeInstalled s image n).owners ∧ t.stoker.armed = true ∧ t.kindle.rtSet = true ∧ t.kindle.rtdie.toNat = n := by
  have hhome : ∀ c : Fin 12, readyClu (homeChosen s image n) c.val = false := fun c => (readyClu_homeChosen image n c).trans (hnone c)
  have hstarted := (clustersStarted_homeChosen hset image n).trans (clustersStarted_startClusters passed _)
  obtain ⟨howners, hmem, hstoker, hrtSet, hrtdie⟩ := toStage_rest (clustersUp (homeChosen s image n) passed) 6
  obtain ⟨howners', hkindle', hmem'⟩ := clustersUp_rest (homeChosen s image n) passed
  have hlt : n < 4 := List.mem_range.1 (List.mem_of_find?_eq_some hfind)
  subst ht
  rw [howners, hmem, hstoker, hrtSet, hrtdie, howners', hkindle', hmem', hstarted.owners, hstarted.rtSet, hstarted.rtdie,
    homeInstalled_kindle]
  refine ⟨fun c => ?_, fun hring => (hstarted.mem hring).1, rfl, clustersUp_armed hpassed hhome, rfl, ?_⟩
  · rw [readyClu_toStage, readyClu_clustersUp, hhome, Bool.false_or]
  · simpa using hlt

end

end

/-- Settles O49. That the K commands are the ends of their stages is log 90; that the image stands at the first byte of the home die is
log 154. -/
theorem kindlingGoesThroughItsStages : Obligations.KindlingGoesThroughItsStages := by
  refine ⟨⟨?k0, ?k1, ?k2, ?confirm⟩, ?k3, ?k4, ?channels, ?k5, ?k5First, ?k6, ?limits⟩
  case k0 =>
    exact fun s u hstage hlock hsoft hrst hthn hu =>
      ⟨exec_kindleK0_passed hstage hlock hsoft hrst hthn hu, exec_kindleK0_failed hstage hlock hsoft hrst hthn⟩
  case k1 =>
    exact fun ok s u v p used hstage hthn hu hv hp hused =>
      ⟨exec_kindleK1_again hstage hthn hu hused, fun hstk halt => exec_kindleK1_alternate hstage hthn hu hstk hused halt,
        fun hstk halt => exec_kindleK1_preferred hstage hthn hu hstk hv hp halt⟩
  case k2 =>
    intro s u v m hstage hstk hcombo hu
    exact ⟨exec_kindleK2_noManifest hstage hstk hcombo hu, exec_kindleK2_mixed hstage hstk hcombo hu, fun hman hsame =>
      ⟨exec_kindleK2_unlisted hstage hstk hcombo hu hman hsame, fun sl gpv slots hpair hslots hv =>
        exec_kindleK2_listed hstage hstk hcombo hu hman hsame hpair hslots hv⟩⟩
  case confirm => exact fun s => ⟨rfl, confirmSel_settled⟩
  case k3 => exact fun d s u hcombo hload hreach hpower hu => exec_kindleK3_reached hcombo hload hreach hpower hu
  case k4 => exact fun d trained s u hready hu => exec_kindleK4_ready hready hu
  case channels =>
    exact fun s u ch => ⟨tryChannel_passed, tryChannel_over, fun hch htries hu => hu.trans (tryChannel_failed hch htries)⟩
  case k5 =>
    intro image s u w n hfind hkept hfirst
    have hu : u = homeChosen s image n := by
      cases hset : s.kindle.rtSet with
      | true => rw [homeChosen, if_neg (by simp [hset]), hkept hset]
      | false => rw [homeChosen, if_pos (by simp [hset]), hfirst hset, homeInstalled]
    subst hu
    refine ⟨exec_kindleK5_badImage hfind, exec_kindleK5_none hfind, fun passed hpassed hw => ?_⟩
    obtain rfl : w = startClusters passed (homeChosen s image n) := hw
    rw [exec_kindleK5_clusters hfind hpassed]
    exact ⟨fun harmed hnone => by rw [clustersUp_first hpassed harmed hnone], fun hlater => by rw [clustersUp_later hlater]⟩
  case k5First =>
    rintro image s u n hfind hset hu passed hpassed hnone
    obtain rfl : u = homeInstalled s image n := hu
    exact ⟨_, exec_kindleK5_clusters hfind hpassed, kindleK5_first hfind hset hpassed hnone rfl⟩
  case k6 =>
    intro s hstage hclosed
    refine ⟨_, exec_kindleK6_first hstage hclosed, rfl, ?_, ?_, fun f hf => ?_⟩
    · rw [(offerDue_kept _).1, (enableLinks_kept _ _ _).1]
    · rw [(offerDue_kept _).2.1, (enableLinks_kept _ _ _).2]
    · rw [State.fl, (offerDue_kept _).2.2]
      exact enableLinks_en hf (.inl (List.mem_range.2 f.isLt))
  case limits =>
    intro s
    refine ⟨fun hstage hlock hthn hlate => exec_timeout_k0 hstage hlock hthn hlate, exec_timeout_k1, exec_timeout_k2,
      fun d hcombo hload hlate => ?k3, fun ch u hhth hch hlate hu => ?k4, fun c => exec_timeout_k5⟩
    case k3 =>
      rw [exec_timeout_k3 hcombo hload hlate]
      exact ⟨fun hfirst => if_neg (by simp [hfirst]), fun hagain => if_pos hagain⟩
    case k4 => rw [hu, exec_timeout_k4 hhth hch hlate]

end Sys2Proof
end
